-- ==== Sys2Proof/Word.lean ====
section
/-! DEFINITION. The bit-level types of the Draid: lane words, register images, masks, lane sets, the prefix word's
fields and the packets of Yarrow links. Only types and their plainest arithmetic stand here. -/

namespace Sys2Proof

/-- A lane's 64 bits, a scalar, a system register or a virtual address (R39, R44). -/
abbrev Word := BitVec 64
/-- One byte of a memory. -/
abbrev Byte := BitVec 8
/-- A register image: 32 lanes of 64 bits, 256 bytes, lane l in bits [64 l + 63 : 64 l] (R5, R22). -/
abbrev Img := BitVec 2048
/-- A mask register: one bit per byte of a register image (R20). -/
abbrev Mask := BitVec 256
/-- A set of lanes of one group: bit l is lane l. -/
abbrev Lanes := BitVec 32

/-- The fields of a prefix word (R47). -/
structure Pfx where
  /-- Write mask k0 to k7. -/
  k : BitVec 3
  /-- Rounding mode: 0 to 4, 6 dynamic. -/
  rm : BitVec 3
  /-- Masked-off elements: 0 merge, 1 zero. -/
  mz : BitVec 1
  /-- 1: D is a consumer mask (R49). -/
  rt : BitVec 1
  /-- Fourth operand or register consumer. -/
  c : BitVec 6
  /-- Extension value. -/
  x : BitVec 7
deriving DecidableEq, Repr

/-- An exact value on the way to a rounding (R62, R70, R74): a NaN, an infinity, or ±m·2^e. Zero keeps a sign. -/
inductive FVal where
  | nan
  | inf (neg : Bool)
  | fin (neg : Bool) (m : Nat) (e : Int)
deriving DecidableEq, Repr

/-- What a packet on a Yarrow link carries (R286, R290, R294, R295). -/
inductive PacketKind where
  /-- A packet of `rred` or `rcat`. -/
  | collective
  /-- One sector of an `lput`. -/
  | lput
  /-- The acknowledgement of an `lput` sector. -/
  | lputAck
  /-- The refusal of an `lput` sector, with the remote cause and sub-cause. -/
  | lputRefusal
  /-- A member package has reached its count in a pod barrier. -/
  | barrier
  /-- The acknowledgement of a packet that this package has sent: `seq` is the packet's number (R286). -/
  | linkAck
deriving DecidableEq, Repr

/-- A Yarrow packet with its header (R286). Fields a kind does not use are 0. -/
structure Packet where
  kind : PacketKind
  /-- Sequence number. -/
  seq : Nat
  /-- False: the packet failed its CRC at the receiver. -/
  crcOk : Bool
  /-- An uncorrectable error of the link has marked the payload (R193). -/
  poison : Bool
  /-- Sending and destination package numbers. -/
  src : Nat
  dst : Nat
  /-- Ring entry, and the number of the command on the ring in matching order (R290). -/
  ring : Nat
  nth : Nat
  /-- Opcode, FORM, RM, EF and chunk length, which matched commands share (R290). -/
  opcode : Nat
  form : Nat
  rm : Nat
  ef : Bool
  chunk : Nat
  /-- Hop number of the collective, or command number of an `lput`. -/
  hop : Nat
  /-- Crew and timeline of the sender, so that an acknowledgement finds its command. -/
  crew : Nat
  tl : Nat
  /-- Remote context, remote virtual address (R294). -/
  ctx : BitVec 16
  addr : Nat
  /-- Cause and sub-cause of a refusal. -/
  cause : BitVec 8
  sub : BitVec 8
  payload : List Byte
deriving DecidableEq, Repr

end Sys2Proof
end

