-- ==== Sys2Proof/Syntax.lean ====
section
/-! DEFINITION. The syntax of the Draid: one constructor per row of the opcode table. The first rows are the instructions of the
lane and uniform sets (R58, R59), each with its stall count `sc` and the fields of its word; a lane instruction that defines a
meaning for the prefix carries `pf`, the fields of the prefix word before it (R47). The last rows are the events of the
machine: acts of memory, engines, Bracken, links, firmware and host that no word encodes; they carry what they name. -/

namespace Sys2Proof

/-- What an access from outside does to device memory (R343) (log entry 33). -/
inductive HostOp where
  | write | fetchAdd | swap | cas
deriving DecidableEq, Repr

/-- What an access from outside reaches: device memory of a partition by physical address, the host's own memory, BAR 2 and BAR 4 of the
endpoint, its MSI-X table, or, for a device behind a root port, the memory of a context by virtual address (R176, R187, R343 to R346) (log entry 33). -/
inductive Outer where
  | memory (part : Nat) (op : HostOp)
  | host
  | bar2
  | bar4
  | msix
  | device (part : Nat) (ctxid : BitVec 16)
deriving DecidableEq, Repr

/-- Where a 32-byte sector is kept that carries a poison mark (R193): the home of a partition's memory (4: host memory), the SI copy of a
quad, the DT copy of a quad, the partial line of a region in a quad, a halo replica of a context in a quad (by virtual sector), a crew's
scratchpad window, a quad's constant store. -/
inductive Spot where
  | home (part sector : Nat)
  | si (quad part sector : Nat)
  | copy (quad part sector : Nat)
  | accum (ctx region quad sector : Nat)
  | replica (ctx quad vsector : Nat)
  | scratch (crew sector : Nat)
  | const (quad sector : Nat)
deriving DecidableEq, Repr

/-- One row of the opcode table, with its operands. -/
inductive Instr where
  /-- NOP (R90). -/
  | nop (sc : BitVec 3)
  /-- BRL (R91). -/
  | brl (sc k : BitVec 3) (p : BitVec 15)
  /-- JMPL (R92). -/
  | jmpl (sc : BitVec 3) (a : BitVec 6)
  /-- CALLV (R92). -/
  | callv (sc : BitVec 3) (d a : BitVec 6)
  /-- RET (R106). -/
  | ret (sc : BitVec 3) (a : BitVec 6)
  /-- FCALL (R100). -/
  | fcall (sc : BitVec 3) (d a b : BitVec 6)
  /-- FSYNC (R104). -/
  | fsync (sc : BitVec 3)
  /-- FSYNC_SQ (R108). -/
  | fsyncSq (sc : BitVec 3)
  /-- FHINT (R102). -/
  | fhint (sc : BitVec 3) (a b : BitVec 6)
  /-- VOTE_ANY (R95). -/
  | voteAny (sc : BitVec 3) (d : BitVec 6) (k j : BitVec 3)
  /-- VOTE_ALL (R95). -/
  | voteAll (sc : BitVec 3) (d : BitVec 6) (k j : BitVec 3)
  /-- VOTE_BALLOT (R95). -/
  | voteBallot (sc : BitVec 3) (d : BitVec 6) (k j : BitVec 3)
  /-- BRK (R96). -/
  | brk (sc : BitVec 3) (c : BitVec 8)
  /-- EXIT (R97). -/
  | exit (sc : BitVec 3)
  /-- MOV (R118). -/
  | mov (pf : Option Pfx) (sc : BitVec 3) (d a : BitVec 6)
  /-- MOVI (R118). -/
  | movi (pf : Option Pfx) (sc : BitVec 3) (d : BitVec 6) (i : BitVec 12)
  /-- IADD (R118). -/
  | iadd (pf : Option Pfx) (sc : BitVec 3) (d a b : BitVec 6)
  /-- IADDC (R119). -/
  | iaddc (pf : Option Pfx) (sc : BitVec 3) (d a b : BitVec 6)
  /-- ISUB (R118). -/
  | isub (pf : Option Pfx) (sc : BitVec 3) (d a b : BitVec 6)
  /-- IMUL (R118). -/
  | imul (pf : Option Pfx) (sc : BitVec 3) (d a b : BitVec 6)
  /-- IMULH (R118). -/
  | imulh (pf : Option Pfx) (sc : BitVec 3) (d a b : BitVec 6)
  /-- IMAD (R118). -/
  | imad (pf : Option Pfx) (sc : BitVec 3) (d a b : BitVec 6)
  /-- IDOT (R120). -/
  | idot (pf : Option Pfx) (sc : BitVec 3) (d a b : BitVec 6)
  /-- IAND (R121). -/
  | iand (pf : Option Pfx) (sc : BitVec 3) (d a b : BitVec 6)
  /-- IOR (R121). -/
  | ior (pf : Option Pfx) (sc : BitVec 3) (d a b : BitVec 6)
  /-- IXOR (R121). -/
  | ixor (pf : Option Pfx) (sc : BitVec 3) (d a b : BitVec 6)
  /-- SHL (R121). -/
  | shl (pf : Option Pfx) (sc : BitVec 3) (d a b : BitVec 6)
  /-- SHR (R121). -/
  | shr (pf : Option Pfx) (sc : BitVec 3) (d a b : BitVec 6)
  /-- SAR (R121). -/
  | sar (pf : Option Pfx) (sc : BitVec 3) (d a b : BitVec 6)
  /-- IMIN (R118). -/
  | imin (pf : Option Pfx) (sc : BitVec 3) (d a b : BitVec 6)
  /-- IMAX (R118). -/
  | imax (pf : Option Pfx) (sc : BitVec 3) (d a b : BitVec 6)
  /-- IABS (R118). -/
  | iabs (pf : Option Pfx) (sc : BitVec 3) (d a : BitVec 6)
  /-- ICMP (R122). -/
  | icmp (pf : Option Pfx) (sc k : BitVec 3) (a b : BitVec 6)
  /-- ISEL (R123). -/
  | isel (pf : Option Pfx) (sc : BitVec 3) (d a b : BitVec 6)
  /-- BFX (R124). -/
  | bfx (pf : Option Pfx) (sc : BitVec 3) (d a b : BitVec 6)
  /-- BFI (R124). -/
  | bfi (pf : Option Pfx) (sc : BitVec 3) (d a b : BitVec 6)
  /-- POPC (R125). -/
  | popc (pf : Option Pfx) (sc : BitVec 3) (d a : BitVec 6)
  /-- CLZ (R125). -/
  | clz (pf : Option Pfx) (sc : BitVec 3) (d a : BitVec 6)
  /-- BREV (R125). -/
  | brev (pf : Option Pfx) (sc : BitVec 3) (d a : BitVec 6)
  /-- LEA (R127). -/
  | lea (pf : Option Pfx) (sc : BitVec 3) (d a b : BitVec 6)
  /-- PACK (R126). -/
  | pack (pf : Option Pfx) (sc : BitVec 3) (d a b : BitVec 6)
  /-- UNPK (R126). -/
  | unpk (pf : Option Pfx) (sc : BitVec 3) (d a : BitVec 6)
  /-- FADD (R134). -/
  | fadd (pf : Option Pfx) (sc : BitVec 3) (d a b : BitVec 6)
  /-- FSUB (R134). -/
  | fsub (pf : Option Pfx) (sc : BitVec 3) (d a b : BitVec 6)
  /-- FMUL (R134). -/
  | fmul (pf : Option Pfx) (sc : BitVec 3) (d a b : BitVec 6)
  /-- FFMA (R134). -/
  | ffma (pf : Option Pfx) (sc : BitVec 3) (d a b : BitVec 6)
  /-- FMIN (R134). -/
  | fmin (pf : Option Pfx) (sc : BitVec 3) (d a b : BitVec 6)
  /-- FMAX (R134). -/
  | fmax (pf : Option Pfx) (sc : BitVec 3) (d a b : BitVec 6)
  /-- FCMP (R135). -/
  | fcmp (pf : Option Pfx) (sc k : BitVec 3) (a b : BitVec 6)
  /-- FCVT (R139). -/
  | fcvt (pf : Option Pfx) (sc : BitVec 3) (d a : BitVec 6) (l q : BitVec 1) (r : BitVec 4)
  /-- FRCP (R140). -/
  | frcp (pf : Option Pfx) (sc : BitVec 3) (d a : BitVec 6)
  /-- FRSQ (R140). -/
  | frsq (pf : Option Pfx) (sc : BitVec 3) (d a : BitVec 6)
  /-- FSQT (R140). -/
  | fsqt (pf : Option Pfx) (sc : BitVec 3) (d a : BitVec 6)
  /-- FEXP2 (R140). -/
  | fexp2 (pf : Option Pfx) (sc : BitVec 3) (d a : BitVec 6)
  /-- FLOG2 (R140). -/
  | flog2 (pf : Option Pfx) (sc : BitVec 3) (d a : BitVec 6)
  /-- FSIN (R140). -/
  | fsin (pf : Option Pfx) (sc : BitVec 3) (d a : BitVec 6)
  /-- FCOS (R140). -/
  | fcos (pf : Option Pfx) (sc : BitVec 3) (d a : BitVec 6)
  /-- FTANH (R140). -/
  | ftanh (pf : Option Pfx) (sc : BitVec 3) (d a : BitVec 6)
  /-- FCLASS (R136). -/
  | fclass (pf : Option Pfx) (sc : BitVec 3) (d a : BitVec 6)
  /-- FDOT (R137). -/
  | fdot (pf : Option Pfx) (sc : BitVec 3) (d a b : BitVec 6)
  /-- FSCL (R134). -/
  | fscl (pf : Option Pfx) (sc : BitVec 3) (d a b : BitVec 6)
  /-- TMV (R143). -/
  | tmv (pf : Option Pfx) (sc : BitVec 3) (d a b : BitVec 6)
  /-- SHFL (R151). -/
  | shfl (pf : Option Pfx) (sc : BitVec 3) (d a b : BitVec 6)
  /-- RIX_G (R152). -/
  | rixG (pf : Option Pfx) (sc : BitVec 3) (d a b : BitVec 6)
  /-- RIX_S (R152). -/
  | rixS (pf : Pfx) (sc : BitVec 3) (d a b : BitVec 6)
  /-- REDL (R153). -/
  | redl (pf : Option Pfx) (sc : BitVec 3) (d a : BitVec 6)
  /-- REDMI (R154). -/
  | redmi (pf : Option Pfx) (sc : BitVec 3) (d a b : BitVec 6)
  /-- SCAN (R153). -/
  | scan (pf : Option Pfx) (sc : BitVec 3) (d a : BitVec 6) (e : BitVec 1)
  /-- CFD (R155). -/
  | cfd (pf : Option Pfx) (sc : BitVec 3) (d a : BitVec 6)
  /-- COMB (R156). -/
  | comb (pf : Option Pfx) (sc : BitVec 3) (d a b : BitVec 6)
  /-- BCAST (R151). -/
  | bcast (pf : Option Pfx) (sc : BitVec 3) (d a b : BitVec 6)
  /-- LD (R164). -/
  | ld (pf : Option Pfx) (sc : BitVec 3) (d a : BitVec 6) (n : BitVec 4) (z : BitVec 2)
  /-- ST (R164). -/
  | st (pf : Option Pfx) (sc : BitVec 3) (d a : BitVec 6) (n : BitVec 4) (z : BitVec 2)
  /-- LDL (R164). -/
  | ldl (pf : Option Pfx) (sc : BitVec 3) (d a : BitVec 6) (n : BitVec 4) (z : BitVec 2)
  /-- LDS (R164). -/
  | lds (pf : Option Pfx) (sc : BitVec 3) (d a : BitVec 6) (z : BitVec 2)
  /-- STS (R164). -/
  | sts (pf : Option Pfx) (sc : BitVec 3) (d a : BitVec 6) (z : BitVec 2)
  /-- LDC (R164). -/
  | ldc (pf : Option Pfx) (sc : BitVec 3) (d a : BitVec 6) (z : BitVec 2)
  /-- PRF (R166). -/
  | prf (pf : Option Pfx) (sc : BitVec 3) (a : BitVec 6) (n : BitVec 4) (z : BitVec 2)
  /-- PIN (R175). -/
  | pin (pf : Option Pfx) (sc : BitVec 3) (d a : BitVec 6) (z : BitVec 2)
  /-- UNPIN (R175). -/
  | unpin (pf : Option Pfx) (sc : BitVec 3) (d a : BitVec 6) (z : BitVec 2)
  /-- SINV (R189). -/
  | sinv (pf : Option Pfx) (sc : BitVec 3) (d a : BitVec 6)
  /-- SWB (R189). -/
  | swb (pf : Option Pfx) (sc : BitVec 3) (d a : BitVec 6)
  /-- SWB_INV (R189). -/
  | swbInv (pf : Option Pfx) (sc : BitVec 3) (d a : BitVec 6)
  /-- ATOM (R213). -/
  | atom (pf : Option Pfx) (sc : BitVec 3) (d a : BitVec 6) (n : BitVec 4) (z : BitVec 1)
  /-- ACAS (R213). -/
  | acas (pf : Option Pfx) (sc : BitVec 3) (d a : BitVec 6) (n : BitVec 4) (z : BitVec 1)
  /-- ABINC (R213). -/
  | abinc (pf : Option Pfx) (sc : BitVec 3) (d a : BitVec 6) (n : BitVec 4) (z : BitVec 1)
  /-- ENTER (R202). -/
  | enter (sc : BitVec 3) (d a : BitVec 6) (m : BitVec 3)
  /-- ENTER_TRY (R202). -/
  | enterTry (sc : BitVec 3) (d a : BitVec 6) (m : BitVec 3)
  /-- LEAVE (R203). -/
  | leave (sc : BitVec 3) (a : BitVec 6)
  /-- RSTAT (R204). -/
  | rstat (sc : BitVec 3) (d a : BitVec 6)
  /-- TRAP (R331). -/
  | trap (sc : BitVec 3) (c : BitVec 8)
  /-- RETT (R322). -/
  | rett (sc : BitVec 3)
  /-- TMASK_SET (R332). -/
  | tmaskSet (sc : BitVec 3) (d a : BitVec 6)
  /-- TMASK_CLR (R332). -/
  | tmaskClr (sc : BitVec 3) (d a : BitVec 6)
  /-- TMASK_WR (R332). -/
  | tmaskWr (sc : BitVec 3) (d a : BitVec 6)
  /-- SNOP (R90). -/
  | snop (sc : BitVec 3)
  /-- BRA (R93). -/
  | bra (sc : BitVec 3) (p : BitVec 18)
  /-- BRX (R94). -/
  | brx (sc : BitVec 3) (a : BitVec 6)
  /-- CALL (R93). -/
  | call (sc : BitVec 3) (p : BitVec 18)
  /-- YIELD (R98). -/
  | yield (sc : BitVec 3) (a : BitVec 6)
  /-- YIELD_X (R98). -/
  | yieldX (sc : BitVec 3) (a : BitVec 6)
  /-- SMOV (R128). -/
  | smov (sc : BitVec 3) (d : BitVec 6) (i : BitVec 12)
  /-- SADD (R128). -/
  | sadd (sc : BitVec 3) (d a b : BitVec 6)
  /-- SSUB (R128). -/
  | ssub (sc : BitVec 3) (d a b : BitVec 6)
  /-- SMUL (R128). -/
  | smul (sc : BitVec 3) (d a b : BitVec 6)
  /-- SMAD (R128). -/
  | smad (sc : BitVec 3) (d a b : BitVec 6)
  /-- SAND (R128). -/
  | sand (sc : BitVec 3) (d a b : BitVec 6)
  /-- SOR (R128). -/
  | sor (sc : BitVec 3) (d a b : BitVec 6)
  /-- SXOR (R128). -/
  | sxor (sc : BitVec 3) (d a b : BitVec 6)
  /-- SSHL (R128). -/
  | sshl (sc : BitVec 3) (d a b : BitVec 6)
  /-- SSHR (R128). -/
  | sshr (sc : BitVec 3) (d a b : BitVec 6)
  /-- SMIN (R128). -/
  | smin (sc : BitVec 3) (d a b : BitVec 6)
  /-- SMAX (R128). -/
  | smax (sc : BitVec 3) (d a b : BitVec 6)
  /-- SCMP (R129). -/
  | scmp (sc : BitVec 3) (d a b : BitVec 6)
  /-- SSEL (R129). -/
  | ssel (sc : BitVec 3) (d a b : BitVec 6)
  /-- SLEA (R128). -/
  | slea (sc : BitVec 3) (d a b : BitVec 6)
  /-- SLD (R165). -/
  | sld (sc : BitVec 3) (d a : BitVec 6) (n : BitVec 4) (z : BitVec 2)
  /-- SST (R165). -/
  | sst (sc : BitVec 3) (d a : BitVec 6) (n : BitVec 4) (z : BitVec 2)
  /-- HDEF (R191). -/
  | hdef (sc : BitVec 3) (d a b : BitVec 6)
  /-- RDECL (R198). -/
  | rdecl (sc : BitVec 3) (d a b : BitVec 6)
  /-- FENCE (R228). -/
  | fence (sc c : BitVec 3) (m : BitVec 2)
  /-- BAR_SYNC (R229). -/
  | barSync (sc : BitVec 3) (d a : BitVec 6) (c : BitVec 3)
  /-- BAR_ARRIVE (R229). -/
  | barArrive (sc : BitVec 3) (d a : BitVec 6) (c : BitVec 3)
  /-- BAR_WAIT (R229). -/
  | barWait (sc : BitVec 3) (d a : BitVec 6) (c : BitVec 3)
  /-- PBAR_INIT (R230). -/
  | pbarInit (sc : BitVec 3) (a b : BitVec 6)
  /-- PBAR_ARRIVE (R230). -/
  | pbarArrive (sc : BitVec 3) (a : BitVec 6)
  /-- PBAR_WAIT (R230). -/
  | pbarWait (sc : BitVec 3) (a b : BitVec 6)
  /-- TLWAIT (R232). -/
  | tlwait (sc : BitVec 3) (d a : BitVec 6)
  /-- SWARM (R233). -/
  | swarm (sc : BitVec 3) (d a : BitVec 6)
  /-- SWWAIT (R233). -/
  | swwait (sc : BitVec 3) (d a : BitVec 6)
  /-- CBDEF (R243). -/
  | cbdef (sc : BitVec 3) (d a b : BitVec 6)
  /-- CBADV_WROOM (R245). -/
  | cbadvWroom (sc : BitVec 3) (d a : BitVec 6)
  /-- CBADV_PUT (R245). -/
  | cbadvPut (sc : BitVec 3) (d a : BitVec 6)
  /-- CBADV_WDATA (R245). -/
  | cbadvWdata (sc : BitVec 3) (d a : BitVec 6)
  /-- CBADV_GET (R245). -/
  | cbadvGet (sc : BitVec 3) (d a : BitVec 6)
  /-- CPY (R249). -/
  | cpy (sc : BitVec 3) (d a b : BitVec 6)
  /-- CPYX (R250). -/
  | cpyx (sc : BitVec 3) (d a b : BitVec 6)
  /-- TDEF (R247). -/
  | tdef (sc : BitVec 3) (d a : BitVec 6)
  /-- MLD (R265). -/
  | mld (sc : BitVec 3) (d a : BitVec 6) (f : BitVec 4)
  /-- MMA (R266). -/
  | mma (sc : BitVec 3) (d a : BitVec 6) (f : BitVec 4) (r : BitVec 1)
  /-- MMAS (R267). -/
  | mmas (sc : BitVec 3) (d a : BitVec 6) (f : BitVec 4)
  /-- MWB (R268). -/
  | mwb (sc : BitVec 3) (d a : BitVec 6) (f : BitVec 4)
  /-- MCLR (R269). -/
  | mclr (sc : BitVec 3) (d : BitVec 6) (t : BitVec 1) (m : BitVec 4)
  /-- IXG (R279). -/
  | ixg (sc : BitVec 3) (d a : BitVec 6) (f : BitVec 4)
  /-- IXS (R280). -/
  | ixs (sc : BitVec 3) (d a : BitVec 6) (f : BitVec 4)
  /-- ECTX_BIND (R254). -/
  | ectxBind (sc : BitVec 3) (d : BitVec 6) (e : BitVec 2)
  /-- ECTX_UNBIND (R254). -/
  | ectxUnbind (sc : BitVec 3) (d : BitVec 6)
  /-- ECTX_DRAIN (R254). -/
  | ectxDrain (sc : BitVec 3) (d : BitVec 6)
  /-- ECTX_PIN (R254). -/
  | ectxPin (sc : BitVec 3) (d : BitVec 6)
  /-- ECTX_UNPIN (R254). -/
  | ectxUnpin (sc : BitVec 3) (d : BitVec 6)
  /-- ECTX_RESUME (R240). -/
  | ectxResume (sc : BitVec 3) (d : BitVec 6)
  /-- ECTX_ABORT (R240). -/
  | ectxAbort (sc : BitVec 3) (d : BitVec 6)
  /-- ESTAT (R255). -/
  | estat (sc : BitVec 3) (d a : BitVec 6) (i : BitVec 3)
  /-- RRED_RS (R291). -/
  | rredRs (sc : BitVec 3) (d a : BitVec 6) (e r : BitVec 1)
  /-- RRED_AR (R291). -/
  | rredAr (sc : BitVec 3) (d a : BitVec 6) (e r : BitVec 1)
  /-- RCAT (R293). -/
  | rcat (sc : BitVec 3) (d a : BitVec 6)
  /-- LPUT (R294). -/
  | lput (sc : BitVec 3) (d a : BitVec 6)
  /-- LAUNCH (R310). -/
  | launch (sc : BitVec 3) (d a b : BitVec 6)
  /-- GNODE (R311). -/
  | gnode (sc : BitVec 3) (d a b : BitVec 6)
  /-- TAPE_PUSH (R312). -/
  | tapePush (sc : BitVec 3) (a : BitVec 6)
  /-- TAPE_RUN (R312). -/
  | tapeRun (sc : BitVec 3) (d a : BitVec 6)
  /-- TAPE_DEPTH (R312). -/
  | tapeDepth (sc : BitVec 3) (a : BitVec 6)
  /-- TCUT (R312). -/
  | tcut (sc : BitVec 3) (a : BitVec 6)
  /-- PRIO (R313). -/
  | prio (sc : BitVec 3) (a : BitVec 6)
  /-- RDSR (R333). -/
  | rdsr (sc : BitVec 3) (d : BitVec 6) (i : BitVec 12)
  /-- WRSR (R333). -/
  | wrsr (sc : BitVec 3) (d : BitVec 6) (i : BitVec 12)
  /-- WDOG_WRITE (R87). -/
  | wdogWrite (g : Nat) (v : Word)
  /-- DTLD (R334). -/
  | dtld (sc : BitVec 3) (d a : BitVec 6)
  /-- SYSC_SHOOT (R182). -/
  | syscShoot (sc : BitVec 3) (d : BitVec 6)
  /-- SYSC_TERM (R325). -/
  | syscTerm (sc : BitVec 3) (d : BitVec 6)
  /-- SYSC_QDESC (R298). -/
  | syscQdesc (sc : BitVec 3) (d : BitVec 6)
  /-- SYSC_LEVEL (R302). -/
  | syscLevel (sc : BitVec 3) (d : BitVec 6)
  /-- SYSC_RING (R287). -/
  | syscRing (sc : BitVec 3) (d : BitVec 6)
  /-- SYSC_PODWIN (R288). -/
  | syscPodwin (sc : BitVec 3) (d : BitVec 6)
  /-- SYSC_FPDEF (R335). -/
  | syscFpdef (sc : BitVec 3) (d : BitVec 6)
  /-- SYSC_WHERE (R335). -/
  | syscWhere (sc : BitVec 3) (d : BitVec 6)
  /-- CONSUMER_ACCEPT (R49). -/
  | consumerAccept (g : Nat)
  /-- VARIABLE_RESULT_WRITE (R52). -/
  | variableResultWrite (g : Nat)
  /-- WRITE_ACK (R16). -/
  | writeAck (g : Nat)
  /-- WAIT_RELEASE (R226). -/
  | waitRelease (g : Nat)
  /-- WATCHDOG_EXPIRY (R87). -/
  | watchdogExpiry (g : Nat)
  /-- TRAP_ENTRY (R317). -/
  | trapEntry (g : Nat) (lanes : Lanes) (cause sub : BitVec 8) (faddr : Word)
  /-- HELD_TRAP_TAKE (R86). -/
  | heldTrapTake (g : Nat)
  /-- PREEMPT_REQUEST (R324). -/
  | preemptRequest (g : Nat)
  /-- PREBOUND_EXPIRY (R324). -/
  | preboundExpiry (g : Nat)
  /-- DOORBELL (R300). -/
  | doorbell (part q : Nat) (v : Word)
  /-- QUEUE_MAP (R303). -/
  | queueMap (part q : Nat)
  /-- SLICE_EXPIRY (R303). -/
  | sliceExpiry (part q : Nat)
  /-- DISPATCH (R302). -/
  | dispatch (part : Nat)
  /-- EVICTION (R309). -/
  | eviction (part : Nat)
  /-- GROUP_RESUME (R309). -/
  | groupResume (g : Nat)
  /-- CREW_RETIRE (R18). -/
  | crewRetire (c : Nat)
  /-- TASK_COMPLETE (R307). -/
  | taskComplete (t : Nat)
  /-- DEMAND_ADMIT (R206). -/
  | demandAdmit (ctx region : Nat)
  /-- ADMIT_WINDOW_EXPIRY (R205). -/
  | admitWindowExpiry (ctx region : Nat)
  /-- DRAIN_COMPLETE (R205). -/
  | drainComplete (ctx region : Nat)
  /-- ROOMWAIT_TIMEOUT (R208). -/
  | roomwaitTimeout (g lane : Nat)
  /-- PARTIAL_FLUSH (R200). -/
  | partialFlush (ctx region quad line : Nat)
  /-- REUSE_EPOCH_TICK (R169). -/
  | reuseEpochTick
  /-- CREWPACE_RECOMPUTE (R169). -/
  | crewpaceRecompute (c : Nat)
  /-- REUSEF_ADJUST (R173). -/
  | reusefAdjust (ctx : Nat)
  /-- STAMP_SWEEP (R171). -/
  | stampSweep (l2 : Bool) (cache set : Nat)
  /-- DT_READ_MISS (R183). -/
  | dtReadMiss (quad part line : Nat)
  /-- DT_WRITE_OWNERSHIP (R183). -/
  | dtWriteOwnership (quad part line : Nat)
  /-- DT_EVICTION (R183). -/
  | dtEviction (quad part line : Nat)
  /-- ATOMIC_EXECUTE (R214). -/
  | atomicExecute (g : Nat)
  /-- PAGE_WALK_COMPLETE (R179). -/
  | pageWalkComplete (quad ctx : Nat) (va : Word)
  /-- SHOOTDOWN_COMPLETE (R182). -/
  | shootdownComplete (ctx start len : Nat)
  /-- ECC_UNCORRECTABLE (R193), with the source and, for a sector outside DRAM, the address field of its log entry (R353). -/
  | eccUncorrectable (spot : Spot) (source : BitVec 16) (addr : Word)
  /-- DIE_FAILURE (R194). -/
  | dieFailure (die : Nat)
  /-- HOST_MEMORY_WRITE (R220). -/
  | hostMemoryWrite (dst : Outer) (addr : Nat) (bytes : List Byte)
  /-- ENGINE_COMMAND_START (R238). -/
  | engineCommandStart (c tl : Nat)
  /-- ENGINE_STEP (R242). -/
  | engineStep (c tl n : Nat)
  /-- MATRIX_KSTEP (R266). -/
  | matrixKstep (c tl n : Nat)
  /-- IXS_SECTOR_ADD (R280). -/
  | ixsSectorAdd (c tl n : Nat)
  /-- COMMAND_FINISH (R238). -/
  | commandFinish (c tl n : Nat)
  /-- CONTEXT_DRAIN (R239). -/
  | contextDrain (c tl : Nat)
  /-- HYPNUM_IMAGE_ACCEPT (R244). -/
  | hypnumImageAccept (quad : Nat) (dir : BitVec 2)
  /-- YARROW_PACKET_RECEIVE (R286). -/
  | yarrowPacketReceive (port : Nat) (pkt : Packet)
  /-- YARROW_REPLAY (R286). -/
  | yarrowReplay (port : Nat)
  /-- LPUT_SECTOR_RECEIVE (R294). -/
  | lputSectorReceive (port : Nat) (pkt : Packet)
  /-- PEER_SILENT_TIMEOUT (R296). -/
  | peerSilentTimeout (c tl : Nat)
  /-- PARTITION_RECONFIG (R341): the die masks asked for, each with its partition's queue table (R299). -/
  | partitionReconfig (config : List (BitVec 4 × Word))
  /-- QUIESCE_TIMEOUT (R341). -/
  | quiesceTimeout
  /-- PARTITION_SWAP (R342): the partition, and the image that is restored. -/
  | partitionSwap (swap : Nat × Nat)
  /-- CLOCK_STEP_CHANGE (R351). -/
  | clockStepChange (stepNo : BitVec 2) (pcap tcap : Bool)
  /-- BOOT (R347), with the queue table of the first partition of a firmware that runs (R299). -/
  | boot (qtbase : Word)
  /-- RECOVERY_FETCH_HOST (R349), and whether the transfer ends in an error. -/
  | recoveryFetchHost (failed : Bool)
  /-- RECOVERY_FETCH_NVME (R349): what the drive gives; none: a transfer error. -/
  | recoveryFetchNvme (image : Option (List Byte))
  /-- ATTESTATION_REPORT (R350). -/
  | attestationReport (nonce : List Byte)
  /-- CONTEXT_CREATE (R25). -/
  | contextCreate (part : Nat) (ctxid : BitVec 16) (sys : Bool) (root savebase : Word)
  /-- CONTEXT_DESTROY (R175). -/
  | contextDestroy (ctx : Nat)
  /-- YARROW_PORT_RETRAIN (R286). -/
  | yarrowPortRetrain (port : Nat)
  /-- CORRECTED_ECC_ERROR (R353). -/
  | correctedEccError (source : BitVec 16) (loc : Word)
  /-- MSIX_VECTOR_UNMASK (R344). -/
  | msixVectorUnmask (vec : Nat)
  /-- POD_FORMATION (R287). -/
  | podFormation (pkg size : BitVec 8)
  /-- INSTRUCTION_BUFFER_FILL (R81). -/
  | instructionBufferFill (core : Nat) (line : Word)
deriving DecidableEq, Repr

end Sys2Proof
end

