-- ==== Sys2Proof/Machine/Forms.lean ====
section
/-! DEFINITION. What the words of the opcode table have in common: set and opcode, fields, which operands a row reads and
writes, what it allows in a prefix, its latency class and its pipe; and the checks of R60 that depend on the word alone. -/

namespace Sys2Proof

/-- The set (true: uniform) and the shipping opcode of an instruction row (R58, R59); an event row has none. -/
def Instr.key : Instr → Option (Bool × Nat)
  | .nop _ => some (false, 0x000)
  | .brl _ _ _ => some (false, 0x001)
  | .jmpl _ _ => some (false, 0x002)
  | .callv _ _ _ => some (false, 0x003)
  | .ret _ _ => some (false, 0x004)
  | .fcall _ _ _ _ => some (false, 0x005)
  | .fsync _ | .fsyncSq _ => some (false, 0x006)
  | .fhint _ _ _ => some (false, 0x007)
  | .voteAny _ _ _ _ | .voteAll _ _ _ _ | .voteBallot _ _ _ _ => some (false, 0x008)
  | .brk _ _ => some (false, 0x009)
  | .exit _ => some (false, 0x00A)
  | .mov _ _ _ _ => some (false, 0x020)
  | .movi _ _ _ _ => some (false, 0x021)
  | .iadd _ _ _ _ _ => some (false, 0x022)
  | .iaddc _ _ _ _ _ => some (false, 0x023)
  | .isub _ _ _ _ _ => some (false, 0x024)
  | .imul _ _ _ _ _ => some (false, 0x025)
  | .imulh _ _ _ _ _ => some (false, 0x026)
  | .imad _ _ _ _ _ => some (false, 0x027)
  | .idot _ _ _ _ _ => some (false, 0x028)
  | .iand _ _ _ _ _ => some (false, 0x029)
  | .ior _ _ _ _ _ => some (false, 0x02A)
  | .ixor _ _ _ _ _ => some (false, 0x02B)
  | .shl _ _ _ _ _ => some (false, 0x02C)
  | .shr _ _ _ _ _ => some (false, 0x02D)
  | .sar _ _ _ _ _ => some (false, 0x02E)
  | .imin _ _ _ _ _ => some (false, 0x02F)
  | .imax _ _ _ _ _ => some (false, 0x030)
  | .iabs _ _ _ _ => some (false, 0x031)
  | .icmp _ _ _ _ _ => some (false, 0x032)
  | .isel _ _ _ _ _ => some (false, 0x033)
  | .bfx _ _ _ _ _ => some (false, 0x034)
  | .bfi _ _ _ _ _ => some (false, 0x035)
  | .popc _ _ _ _ => some (false, 0x036)
  | .clz _ _ _ _ => some (false, 0x037)
  | .brev _ _ _ _ => some (false, 0x038)
  | .lea _ _ _ _ _ => some (false, 0x039)
  | .pack _ _ _ _ _ => some (false, 0x03A)
  | .unpk _ _ _ _ => some (false, 0x03B)
  | .fadd _ _ _ _ _ => some (false, 0x060)
  | .fsub _ _ _ _ _ => some (false, 0x061)
  | .fmul _ _ _ _ _ => some (false, 0x062)
  | .ffma _ _ _ _ _ => some (false, 0x063)
  | .fmin _ _ _ _ _ => some (false, 0x064)
  | .fmax _ _ _ _ _ => some (false, 0x065)
  | .fcmp _ _ _ _ _ => some (false, 0x066)
  | .fcvt _ _ _ _ _ _ _ => some (false, 0x067)
  | .frcp _ _ _ _ => some (false, 0x068)
  | .frsq _ _ _ _ => some (false, 0x069)
  | .fsqt _ _ _ _ => some (false, 0x06A)
  | .fexp2 _ _ _ _ => some (false, 0x06B)
  | .flog2 _ _ _ _ => some (false, 0x06C)
  | .fsin _ _ _ _ => some (false, 0x06D)
  | .fcos _ _ _ _ => some (false, 0x06E)
  | .ftanh _ _ _ _ => some (false, 0x06F)
  | .fclass _ _ _ _ => some (false, 0x070)
  | .fdot _ _ _ _ _ => some (false, 0x071)
  | .fscl _ _ _ _ _ => some (false, 0x072)
  | .tmv _ _ _ _ _ => some (false, 0x073)
  | .shfl _ _ _ _ _ => some (false, 0x0A0)
  | .rixG _ _ _ _ _ | .rixS _ _ _ _ _ => some (false, 0x0A1)
  | .redl _ _ _ _ => some (false, 0x0A2)
  | .redmi _ _ _ _ _ => some (false, 0x0A3)
  | .scan _ _ _ _ _ => some (false, 0x0A4)
  | .cfd _ _ _ _ => some (false, 0x0A5)
  | .comb _ _ _ _ _ => some (false, 0x0A6)
  | .bcast _ _ _ _ _ => some (false, 0x0A7)
  | .ld _ _ _ _ _ _ => some (false, 0x0C0)
  | .st _ _ _ _ _ _ => some (false, 0x0C1)
  | .ldl _ _ _ _ _ _ => some (false, 0x0C2)
  | .lds _ _ _ _ _ => some (false, 0x0C3)
  | .sts _ _ _ _ _ => some (false, 0x0C4)
  | .ldc _ _ _ _ _ => some (false, 0x0C5)
  | .prf _ _ _ _ _ => some (false, 0x0C6)
  | .pin _ _ _ _ _ => some (false, 0x0C7)
  | .unpin _ _ _ _ _ => some (false, 0x0C8)
  | .sinv _ _ _ _ => some (false, 0x0C9)
  | .swb _ _ _ _ | .swbInv _ _ _ _ => some (false, 0x0CA)
  | .atom _ _ _ _ _ _ => some (false, 0x0E0)
  | .acas _ _ _ _ _ _ => some (false, 0x0E1)
  | .abinc _ _ _ _ _ _ => some (false, 0x0E2)
  | .enter _ _ _ _ | .enterTry _ _ _ _ => some (false, 0x0E3)
  | .leave _ _ => some (false, 0x0E4)
  | .rstat _ _ _ => some (false, 0x0E5)
  | .trap _ _ => some (false, 0x140)
  | .rett _ => some (false, 0x141)
  | .tmaskSet _ _ _ | .tmaskClr _ _ _ | .tmaskWr _ _ _ => some (false, 0x142)
  | .snop _ => some (true, 0x000)
  | .bra _ _ => some (true, 0x001)
  | .brx _ _ => some (true, 0x002)
  | .call _ _ => some (true, 0x003)
  | .yield _ _ | .yieldX _ _ => some (true, 0x004)
  | .smov _ _ _ => some (true, 0x020)
  | .sadd _ _ _ _ => some (true, 0x021)
  | .ssub _ _ _ _ => some (true, 0x022)
  | .smul _ _ _ _ => some (true, 0x023)
  | .smad _ _ _ _ => some (true, 0x024)
  | .sand _ _ _ _ => some (true, 0x025)
  | .sor _ _ _ _ => some (true, 0x026)
  | .sxor _ _ _ _ => some (true, 0x027)
  | .sshl _ _ _ _ => some (true, 0x028)
  | .sshr _ _ _ _ => some (true, 0x029)
  | .smin _ _ _ _ => some (true, 0x02A)
  | .smax _ _ _ _ => some (true, 0x02B)
  | .scmp _ _ _ _ => some (true, 0x02C)
  | .ssel _ _ _ _ => some (true, 0x02D)
  | .slea _ _ _ _ => some (true, 0x02E)
  | .sld _ _ _ _ _ => some (true, 0x0C0)
  | .sst _ _ _ _ _ => some (true, 0x0C1)
  | .hdef _ _ _ _ => some (true, 0x0C2)
  | .rdecl _ _ _ _ => some (true, 0x0E0)
  | .fence _ _ _ => some (true, 0x0F0)
  | .barSync _ _ _ _ | .barArrive _ _ _ _ | .barWait _ _ _ _ => some (true, 0x0F1)
  | .pbarInit _ _ _ | .pbarArrive _ _ | .pbarWait _ _ _ => some (true, 0x0F2)
  | .tlwait _ _ _ => some (true, 0x0F3)
  | .swarm _ _ _ => some (true, 0x0F4)
  | .swwait _ _ _ => some (true, 0x0F5)
  | .cbdef _ _ _ _ => some (true, 0x100)
  | .cbadvWroom _ _ _ | .cbadvPut _ _ _ | .cbadvWdata _ _ _ | .cbadvGet _ _ _ => some (true, 0x101)
  | .cpy _ _ _ _ => some (true, 0x102)
  | .cpyx _ _ _ _ => some (true, 0x103)
  | .tdef _ _ _ => some (true, 0x104)
  | .mld _ _ _ _ => some (true, 0x105)
  | .mma _ _ _ _ _ => some (true, 0x106)
  | .mmas _ _ _ _ => some (true, 0x107)
  | .mwb _ _ _ _ => some (true, 0x108)
  | .mclr _ _ _ _ => some (true, 0x109)
  | .ixg _ _ _ _ => some (true, 0x10A)
  | .ixs _ _ _ _ => some (true, 0x10B)
  | .ectxBind _ _ _ | .ectxUnbind _ _ | .ectxDrain _ _ | .ectxPin _ _ | .ectxUnpin _ _ | .ectxResume _ _ | .ectxAbort _ _ => some (true, 0x10C)
  | .estat _ _ _ _ => some (true, 0x10D)
  | .rredRs _ _ _ _ _ | .rredAr _ _ _ _ _ => some (true, 0x120)
  | .rcat _ _ _ => some (true, 0x121)
  | .lput _ _ _ => some (true, 0x122)
  | .launch _ _ _ _ => some (true, 0x130)
  | .gnode _ _ _ _ => some (true, 0x131)
  | .tapePush _ _ | .tapeRun _ _ _ | .tapeDepth _ _ => some (true, 0x132)
  | .tcut _ _ => some (true, 0x133)
  | .prio _ _ => some (true, 0x134)
  | .rdsr _ _ _ => some (true, 0x140)
  | .wrsr _ _ _ => some (true, 0x141)
  | .dtld _ _ _ => some (true, 0x142)
  | .syscShoot _ _ | .syscTerm _ _ | .syscQdesc _ _ | .syscLevel _ _ | .syscRing _ _ | .syscPodwin _ _ | .syscFpdef _ _
  | .syscWhere _ _ => some (true, 0x143)
  | _ => none

/-- The stall count of the word (R39). -/
def Instr.stall : Instr → BitVec 3
  | .nop sc | .brl sc _ _ | .jmpl sc _ | .callv sc _ _ | .ret sc _ | .fcall sc _ _ _ | .fsync sc | .fsyncSq sc
  | .fhint sc _ _ | .voteAny sc _ _ _ | .voteAll sc _ _ _ | .voteBallot sc _ _ _ | .brk sc _ | .exit sc | .mov _ sc _ _
  | .movi _ sc _ _ | .iadd _ sc _ _ _ | .iaddc _ sc _ _ _ | .isub _ sc _ _ _ | .imul _ sc _ _ _ | .imulh _ sc _ _ _
  | .imad _ sc _ _ _ | .idot _ sc _ _ _ | .iand _ sc _ _ _ | .ior _ sc _ _ _ | .ixor _ sc _ _ _ | .shl _ sc _ _ _
  | .shr _ sc _ _ _ | .sar _ sc _ _ _ | .imin _ sc _ _ _ | .imax _ sc _ _ _ | .iabs _ sc _ _ | .icmp _ sc _ _ _
  | .isel _ sc _ _ _ | .bfx _ sc _ _ _ | .bfi _ sc _ _ _ | .popc _ sc _ _ | .clz _ sc _ _ | .brev _ sc _ _ | .lea _ sc _ _ _
  | .pack _ sc _ _ _ | .unpk _ sc _ _ | .fadd _ sc _ _ _ | .fsub _ sc _ _ _ | .fmul _ sc _ _ _ | .ffma _ sc _ _ _
  | .fmin _ sc _ _ _ | .fmax _ sc _ _ _ | .fcmp _ sc _ _ _ | .fcvt _ sc _ _ _ _ _ | .frcp _ sc _ _ | .frsq _ sc _ _
  | .fsqt _ sc _ _ | .fexp2 _ sc _ _ | .flog2 _ sc _ _ | .fsin _ sc _ _ | .fcos _ sc _ _ | .ftanh _ sc _ _
  | .fclass _ sc _ _ | .fdot _ sc _ _ _ | .fscl _ sc _ _ _ | .tmv _ sc _ _ _ | .shfl _ sc _ _ _ | .rixG _ sc _ _ _
  | .rixS _ sc _ _ _ | .redl _ sc _ _ | .redmi _ sc _ _ _ | .scan _ sc _ _ _ | .cfd _ sc _ _ | .comb _ sc _ _ _
  | .bcast _ sc _ _ _ | .ld _ sc _ _ _ _ | .st _ sc _ _ _ _ | .ldl _ sc _ _ _ _ | .lds _ sc _ _ _ | .sts _ sc _ _ _
  | .ldc _ sc _ _ _ | .prf _ sc _ _ _ | .pin _ sc _ _ _ | .unpin _ sc _ _ _ | .sinv _ sc _ _ | .swb _ sc _ _
  | .swbInv _ sc _ _ | .atom _ sc _ _ _ _ | .acas _ sc _ _ _ _ | .abinc _ sc _ _ _ _ | .enter sc _ _ _ | .enterTry sc _ _ _
  | .leave sc _ | .rstat sc _ _ | .trap sc _ | .rett sc | .tmaskSet sc _ _ | .tmaskClr sc _ _ | .tmaskWr sc _ _ | .snop sc
  | .bra sc _ | .brx sc _ | .call sc _ | .yield sc _ | .yieldX sc _ | .smov sc _ _ | .sadd sc _ _ _ | .ssub sc _ _ _
  | .smul sc _ _ _ | .smad sc _ _ _ | .sand sc _ _ _ | .sor sc _ _ _ | .sxor sc _ _ _ | .sshl sc _ _ _ | .sshr sc _ _ _
  | .smin sc _ _ _ | .smax sc _ _ _ | .scmp sc _ _ _ | .ssel sc _ _ _ | .slea sc _ _ _ | .sld sc _ _ _ _ | .sst sc _ _ _ _
  | .hdef sc _ _ _ | .rdecl sc _ _ _ | .fence sc _ _ | .barSync sc _ _ _ | .barArrive sc _ _ _ | .barWait sc _ _ _
  | .pbarInit sc _ _ | .pbarArrive sc _ | .pbarWait sc _ _ | .tlwait sc _ _ | .swarm sc _ _ | .swwait sc _ _
  | .cbdef sc _ _ _ | .cbadvWroom sc _ _ | .cbadvPut sc _ _ | .cbadvWdata sc _ _ | .cbadvGet sc _ _ | .cpy sc _ _ _
  | .cpyx sc _ _ _ | .tdef sc _ _ | .mld sc _ _ _ | .mma sc _ _ _ _ | .mmas sc _ _ _ | .mwb sc _ _ _ | .mclr sc _ _ _
  | .ixg sc _ _ _ | .ixs sc _ _ _ | .ectxBind sc _ _ | .ectxUnbind sc _ | .ectxDrain sc _ | .ectxPin sc _ | .ectxUnpin sc _
  | .ectxResume sc _ | .ectxAbort sc _ | .estat sc _ _ _ | .rredRs sc _ _ _ _ | .rredAr sc _ _ _ _ | .rcat sc _ _
  | .lput sc _ _ | .launch sc _ _ _ | .gnode sc _ _ _ | .tapePush sc _ | .tapeRun sc _ _ | .tapeDepth sc _ | .tcut sc _
  | .prio sc _ | .rdsr sc _ _ | .wrsr sc _ _ | .dtld sc _ _ | .syscShoot sc _ | .syscTerm sc _ | .syscQdesc sc _
  | .syscLevel sc _ | .syscRing sc _ | .syscPodwin sc _ | .syscFpdef sc _ | .syscWhere sc _ => sc
  | _ => 0

/-- The prefix word before a lane instruction, where there is one (R47). -/
def Instr.pf? : Instr → Option Pfx
  | .mov pf _ _ _ | .movi pf _ _ _ | .iadd pf _ _ _ _ | .iaddc pf _ _ _ _ | .isub pf _ _ _ _ | .imul pf _ _ _ _
  | .imulh pf _ _ _ _ | .imad pf _ _ _ _ | .idot pf _ _ _ _ | .iand pf _ _ _ _ | .ior pf _ _ _ _ | .ixor pf _ _ _ _
  | .shl pf _ _ _ _ | .shr pf _ _ _ _ | .sar pf _ _ _ _ | .imin pf _ _ _ _ | .imax pf _ _ _ _ | .iabs pf _ _ _
  | .icmp pf _ _ _ _ | .isel pf _ _ _ _ | .bfx pf _ _ _ _ | .bfi pf _ _ _ _ | .popc pf _ _ _ | .clz pf _ _ _
  | .brev pf _ _ _ | .lea pf _ _ _ _ | .pack pf _ _ _ _ | .unpk pf _ _ _ | .fadd pf _ _ _ _ | .fsub pf _ _ _ _
  | .fmul pf _ _ _ _ | .ffma pf _ _ _ _ | .fmin pf _ _ _ _ | .fmax pf _ _ _ _ | .fcmp pf _ _ _ _ | .fcvt pf _ _ _ _ _ _
  | .frcp pf _ _ _ | .frsq pf _ _ _ | .fsqt pf _ _ _ | .fexp2 pf _ _ _ | .flog2 pf _ _ _ | .fsin pf _ _ _ | .fcos pf _ _ _
  | .ftanh pf _ _ _ | .fclass pf _ _ _ | .fdot pf _ _ _ _ | .fscl pf _ _ _ _ | .tmv pf _ _ _ _ | .shfl pf _ _ _ _
  | .rixG pf _ _ _ _ | .redl pf _ _ _ | .redmi pf _ _ _ _ | .scan pf _ _ _ _ | .cfd pf _ _ _ | .comb pf _ _ _ _
  | .bcast pf _ _ _ _ | .ld pf _ _ _ _ _ | .st pf _ _ _ _ _ | .ldl pf _ _ _ _ _ | .lds pf _ _ _ _ | .sts pf _ _ _ _
  | .ldc pf _ _ _ _ | .prf pf _ _ _ _ | .pin pf _ _ _ _ | .unpin pf _ _ _ _ | .sinv pf _ _ _ | .swb pf _ _ _
  | .swbInv pf _ _ _ | .atom pf _ _ _ _ _ | .acas pf _ _ _ _ _ | .abinc pf _ _ _ _ _ => pf
  | .rixS pf _ _ _ _ => some pf
  | _ => none

/-- The D field, where the row has one of six bits (R40, R43). -/
def Instr.d? : Instr → Option (BitVec 6)
  | .callv _ d _ | .fcall _ d _ _ | .voteAny _ d _ _ | .voteAll _ d _ _ | .voteBallot _ d _ _ | .mov _ _ d _ | .movi _ _ d _
  | .iadd _ _ d _ _ | .iaddc _ _ d _ _ | .isub _ _ d _ _ | .imul _ _ d _ _ | .imulh _ _ d _ _ | .imad _ _ d _ _
  | .idot _ _ d _ _ | .iand _ _ d _ _ | .ior _ _ d _ _ | .ixor _ _ d _ _ | .shl _ _ d _ _ | .shr _ _ d _ _ | .sar _ _ d _ _
  | .imin _ _ d _ _ | .imax _ _ d _ _ | .iabs _ _ d _ | .isel _ _ d _ _ | .bfx _ _ d _ _ | .bfi _ _ d _ _ | .popc _ _ d _
  | .clz _ _ d _ | .brev _ _ d _ | .lea _ _ d _ _ | .pack _ _ d _ _ | .unpk _ _ d _ | .fadd _ _ d _ _ | .fsub _ _ d _ _
  | .fmul _ _ d _ _ | .ffma _ _ d _ _ | .fmin _ _ d _ _ | .fmax _ _ d _ _ | .fcvt _ _ d _ _ _ _ | .frcp _ _ d _
  | .frsq _ _ d _ | .fsqt _ _ d _ | .fexp2 _ _ d _ | .flog2 _ _ d _ | .fsin _ _ d _ | .fcos _ _ d _ | .ftanh _ _ d _
  | .fclass _ _ d _ | .fdot _ _ d _ _ | .fscl _ _ d _ _ | .tmv _ _ d _ _ | .shfl _ _ d _ _ | .rixG _ _ d _ _
  | .rixS _ _ d _ _ | .redl _ _ d _ | .redmi _ _ d _ _ | .scan _ _ d _ _ | .cfd _ _ d _ | .comb _ _ d _ _ | .bcast _ _ d _ _
  | .ld _ _ d _ _ _ | .st _ _ d _ _ _ | .ldl _ _ d _ _ _ | .lds _ _ d _ _ | .sts _ _ d _ _ | .ldc _ _ d _ _ | .pin _ _ d _ _
  | .unpin _ _ d _ _ | .sinv _ _ d _ | .swb _ _ d _ | .swbInv _ _ d _ | .atom _ _ d _ _ _ | .acas _ _ d _ _ _
  | .abinc _ _ d _ _ _ | .enter _ d _ _ | .enterTry _ d _ _ | .rstat _ d _ | .tmaskSet _ d _ | .tmaskClr _ d _
  | .tmaskWr _ d _ | .smov _ d _ | .sadd _ d _ _ | .ssub _ d _ _ | .smul _ d _ _ | .smad _ d _ _ | .sand _ d _ _
  | .sor _ d _ _ | .sxor _ d _ _ | .sshl _ d _ _ | .sshr _ d _ _ | .smin _ d _ _ | .smax _ d _ _ | .scmp _ d _ _
  | .ssel _ d _ _ | .slea _ d _ _ | .sld _ d _ _ _ | .sst _ d _ _ _ | .hdef _ d _ _ | .rdecl _ d _ _ | .barSync _ d _ _
  | .barArrive _ d _ _ | .barWait _ d _ _ | .tlwait _ d _ | .swarm _ d _ | .swwait _ d _ | .cbdef _ d _ _
  | .cbadvWroom _ d _ | .cbadvPut _ d _ | .cbadvWdata _ d _ | .cbadvGet _ d _ | .cpy _ d _ _ | .cpyx _ d _ _ | .tdef _ d _
  | .mld _ d _ _ | .mma _ d _ _ _ | .mmas _ d _ _ | .mwb _ d _ _ | .mclr _ d _ _ | .ixg _ d _ _ | .ixs _ d _ _
  | .ectxBind _ d _ | .ectxUnbind _ d | .ectxDrain _ d | .ectxPin _ d | .ectxUnpin _ d | .ectxResume _ d | .ectxAbort _ d
  | .estat _ d _ _ | .rredRs _ d _ _ _ | .rredAr _ d _ _ _ | .rcat _ d _ | .lput _ d _ | .launch _ d _ _ | .gnode _ d _ _
  | .tapeRun _ d _ | .rdsr _ d _ | .wrsr _ d _ | .dtld _ d _ | .syscShoot _ d | .syscTerm _ d | .syscQdesc _ d
  | .syscLevel _ d | .syscRing _ d | .syscPodwin _ d | .syscFpdef _ d | .syscWhere _ d => some d
  | _ => none

/-- The A field, where the row has one (R40). -/
def Instr.a? : Instr → Option (BitVec 6)
  | .jmpl _ a | .callv _ _ a | .ret _ a | .fcall _ _ a _ | .fhint _ a _ | .mov _ _ _ a | .iadd _ _ _ a _ | .iaddc _ _ _ a _
  | .isub _ _ _ a _ | .imul _ _ _ a _ | .imulh _ _ _ a _ | .imad _ _ _ a _ | .idot _ _ _ a _ | .iand _ _ _ a _
  | .ior _ _ _ a _ | .ixor _ _ _ a _ | .shl _ _ _ a _ | .shr _ _ _ a _ | .sar _ _ _ a _ | .imin _ _ _ a _ | .imax _ _ _ a _
  | .iabs _ _ _ a | .icmp _ _ _ a _ | .isel _ _ _ a _ | .bfx _ _ _ a _ | .bfi _ _ _ a _ | .popc _ _ _ a | .clz _ _ _ a
  | .brev _ _ _ a | .lea _ _ _ a _ | .pack _ _ _ a _ | .unpk _ _ _ a | .fadd _ _ _ a _ | .fsub _ _ _ a _ | .fmul _ _ _ a _
  | .ffma _ _ _ a _ | .fmin _ _ _ a _ | .fmax _ _ _ a _ | .fcmp _ _ _ a _ | .fcvt _ _ _ a _ _ _ | .frcp _ _ _ a
  | .frsq _ _ _ a | .fsqt _ _ _ a | .fexp2 _ _ _ a | .flog2 _ _ _ a | .fsin _ _ _ a | .fcos _ _ _ a | .ftanh _ _ _ a
  | .fclass _ _ _ a | .fdot _ _ _ a _ | .fscl _ _ _ a _ | .tmv _ _ _ a _ | .shfl _ _ _ a _ | .rixG _ _ _ a _
  | .rixS _ _ _ a _ | .redl _ _ _ a | .redmi _ _ _ a _ | .scan _ _ _ a _ | .cfd _ _ _ a | .comb _ _ _ a _ | .bcast _ _ _ a _
  | .ld _ _ _ a _ _ | .st _ _ _ a _ _ | .ldl _ _ _ a _ _ | .lds _ _ _ a _ | .sts _ _ _ a _ | .ldc _ _ _ a _ | .prf _ _ a _ _
  | .pin _ _ _ a _ | .unpin _ _ _ a _ | .sinv _ _ _ a | .swb _ _ _ a | .swbInv _ _ _ a | .atom _ _ _ a _ _
  | .acas _ _ _ a _ _ | .abinc _ _ _ a _ _ | .enter _ _ a _ | .enterTry _ _ a _ | .leave _ a | .rstat _ _ a
  | .tmaskSet _ _ a | .tmaskClr _ _ a | .tmaskWr _ _ a | .brx _ a | .yield _ a | .yieldX _ a | .sadd _ _ a _ | .ssub _ _ a _
  | .smul _ _ a _ | .smad _ _ a _ | .sand _ _ a _ | .sor _ _ a _ | .sxor _ _ a _ | .sshl _ _ a _ | .sshr _ _ a _
  | .smin _ _ a _ | .smax _ _ a _ | .scmp _ _ a _ | .ssel _ _ a _ | .slea _ _ a _ | .sld _ _ a _ _ | .sst _ _ a _ _
  | .hdef _ _ a _ | .rdecl _ _ a _ | .barSync _ _ a _ | .barArrive _ _ a _ | .barWait _ _ a _ | .pbarInit _ a _
  | .pbarArrive _ a | .pbarWait _ a _ | .tlwait _ _ a | .swarm _ _ a | .swwait _ _ a | .cbdef _ _ a _ | .cbadvWroom _ _ a
  | .cbadvPut _ _ a | .cbadvWdata _ _ a | .cbadvGet _ _ a | .cpy _ _ a _ | .cpyx _ _ a _ | .tdef _ _ a | .mld _ _ a _
  | .mma _ _ a _ _ | .mmas _ _ a _ | .mwb _ _ a _ | .ixg _ _ a _ | .ixs _ _ a _ | .estat _ _ a _ | .rredRs _ _ a _ _
  | .rredAr _ _ a _ _ | .rcat _ _ a | .lput _ _ a | .launch _ _ a _ | .gnode _ _ a _ | .tapePush _ a | .tapeRun _ _ a
  | .tapeDepth _ a | .tcut _ a | .prio _ a | .dtld _ _ a => some a
  | _ => none

/-- The B field, where the row reads it as a specifier (R40). -/
def Instr.b? : Instr → Option (BitVec 6)
  | .fcall _ _ _ b | .fhint _ _ b | .iadd _ _ _ _ b | .iaddc _ _ _ _ b | .isub _ _ _ _ b | .imul _ _ _ _ b
  | .imulh _ _ _ _ b | .imad _ _ _ _ b | .idot _ _ _ _ b | .iand _ _ _ _ b | .ior _ _ _ _ b | .ixor _ _ _ _ b
  | .shl _ _ _ _ b | .shr _ _ _ _ b | .sar _ _ _ _ b | .imin _ _ _ _ b | .imax _ _ _ _ b | .icmp _ _ _ _ b | .isel _ _ _ _ b
  | .bfx _ _ _ _ b | .bfi _ _ _ _ b | .lea _ _ _ _ b | .pack _ _ _ _ b | .fadd _ _ _ _ b | .fsub _ _ _ _ b | .fmul _ _ _ _ b
  | .ffma _ _ _ _ b | .fmin _ _ _ _ b | .fmax _ _ _ _ b | .fcmp _ _ _ _ b | .fdot _ _ _ _ b | .fscl _ _ _ _ b
  | .tmv _ _ _ _ b | .shfl _ _ _ _ b | .rixG _ _ _ _ b | .rixS _ _ _ _ b | .redmi _ _ _ _ b | .comb _ _ _ _ b
  | .bcast _ _ _ _ b | .sadd _ _ _ b | .ssub _ _ _ b | .smul _ _ _ b | .smad _ _ _ b | .sand _ _ _ b | .sor _ _ _ b
  | .sxor _ _ _ b | .sshl _ _ _ b | .sshr _ _ _ b | .smin _ _ _ b | .smax _ _ _ b | .scmp _ _ _ b | .ssel _ _ _ b
  | .slea _ _ _ b | .hdef _ _ _ b | .rdecl _ _ _ b | .pbarInit _ _ b | .pbarWait _ _ b | .cbdef _ _ _ b | .cpy _ _ _ b
  | .cpyx _ _ _ b | .launch _ _ _ b | .gnode _ _ _ b => some b
  | _ => none

/-- The row is an event of the machine: no word encodes it (log entry 37). -/
def Instr.isEvent (i : Instr) : Bool := i.key == none

/-- The opcode of a lane row (S = 0), 0x400 otherwise, so that a range test fails for every other row. -/
def Instr.laneOp (i : Instr) : Nat :=
  match i.key with
  | some (false, op) => op
  | _ => 0x400

/-- The opcode of a uniform row (S = 1), 0x400 otherwise. -/
def Instr.uniOp (i : Instr) : Nat :=
  match i.key with
  | some (true, op) => op
  | _ => 0x400

/-- A lane row that defines a meaning for the prefix (R115, R131, R148, R158, R189, and the atomics of chapter 14). -/
def Instr.takesPfx (i : Instr) : Bool :=
  let op := i.laneOp
  (0x020 ≤ op && op ≤ 0x03B) || (0x060 ≤ op && op ≤ 0x073) || (0x0A0 ≤ op && op ≤ 0x0A7) ||
  (0x0C0 ≤ op && op ≤ 0x0CA) || (0x0E0 ≤ op && op ≤ 0x0E2)

/-! ## The prefix fields as the instruction sees them -/

/-- The row has a prefix whose RT bit makes D a consumer mask (R49). -/
def Instr.rt (i : Instr) : Bool := match i.pf? with | some p => p.rt == 1 | none => false

/-- D, read as a consumer mask (R49). -/
def Instr.consumers (i : Instr) : BitVec 6 := if i.rt then i.d?.getD 0 else 0

/-- A consumer mask that names a circular buffer (D bit 1). -/
def Instr.namesBuffer (i : Instr) : Bool := i.consumers.getLsbD 1

/-- The prefix's X as it stands; 0 without a prefix. -/
def Instr.rawX (i : Instr) : Nat := match i.pf? with | some p => p.x.toNat | none => 0

/-- The extension value the instruction executes with: 0 where X carries a buffer number (R49). -/
def Instr.x (i : Instr) : Nat := if i.namesBuffer then 0 else i.rawX

/-- The write mask number (R47). -/
def Instr.kNum (i : Instr) : Nat := match i.pf? with | some p => p.k.toNat | none => 0

/-- Zero fill of masked-off elements (R47). -/
def Instr.zeroFill (i : Instr) : Bool := match i.pf? with | some p => p.mz == 1 | none => false

/-- The prefix's rounding field; rne without a prefix (R69). -/
def Instr.rmField (i : Instr) : Nat := match i.pf? with | some p => p.rm.toNat | none => 0

/-- The prefix's C field; z without a prefix, which reads as zero (R115, R131). -/
def Instr.c (i : Instr) : BitVec 6 := match i.pf? with | some p => p.c | none => 58

/-- Element width coded in X[2:0] by the integer class (R116) and, with code 4, the width layout of R149. -/
def wOf (code : Nat) : Nat :=
  match code with
  | 0 => 32 | 1 => 8 | 2 => 16 | 3 => 64 | 4 => 4 | _ => 32

/-- Width of the element format of a format code (R61). -/
def fmtWidth (code : Nat) : Nat :=
  match code with
  | 0x0 => 32 | 0x1 => 16 | 0x2 => 16 | 0x3 => 8 | 0x4 => 8 | 0x5 => 4 | 0x6 => 8
  | 0x7 => 8 | 0x8 => 16 | 0x9 => 32 | 0xA => 64 | 0xB => 8 | 0xC => 16 | 0xD => 32 | 0xE => 64
  | _ => 32

/-- Code of a floating format (R61). -/
def fmtIsFloat (code : Nat) : Bool := code ≤ 5

/-- Code of an integer format (R61). -/
def fmtIsInt (code : Nat) : Bool := 7 ≤ code && code ≤ 0xE

/-! ## Classes -/

/-- Result latency L of the fixed-latency instructions (R51); `none` for those of variable latency. -/
def Instr.latency (i : Instr) : Option Nat :=
  let l := i.laneOp
  let u := i.uniOp
  if (0x020 ≤ l && l ≤ 0x03B) || (0x020 ≤ u && u ≤ 0x02E) then some 2
  else if (0x060 ≤ l && l ≤ 0x067) || l == 0x070 || l == 0x072 then some 4
  else if l == 0x0A0 || l == 0x0A7 || l == 0x0A2 || l == 0x0A4 then some 6
  else none

/-- The pipe a unit occupies in its issue cycle (R356). -/
inductive Pipe where
  | uniform | vector | special | crossLane | memory | control
deriving DecidableEq, Repr

/-- The pipe of a row (R356). -/
def Instr.pipe (i : Instr) : Pipe :=
  let l := i.laneOp
  if i.uniOp < 0x400 then .uniform
  else if 0x068 ≤ l && l ≤ 0x06F then .special
  else if (0x020 ≤ l && l ≤ 0x03B) || (0x060 ≤ l && l ≤ 0x073) then .vector
  else if (0x0A0 ≤ l && l ≤ 0x0A7) || l == 0x008 then .crossLane
  else if (0x0C0 ≤ l && l ≤ 0x0CA) || (0x0E0 ≤ l && l ≤ 0x0E5) then .memory
  else .control

/-- The fork boundaries that are boundaries by their opcode alone (R104). The accesses of the last row of R103, a `ret` that
would resolve an inherited record, and `fsync` are judged where they are performed. -/
def Instr.isBoundary (i : Instr) : Bool :=
  let l := i.laneOp
  let u := i.uniOp
  (0x0E0 ≤ l && l ≤ 0x0E5) || (0x0A0 ≤ l && l ≤ 0x0A7) || l == 0x008 || l == 0x00A || (0x140 ≤ l && l ≤ 0x142) ||
  l == 0x0C7 || l == 0x0C8 || l == 0x0C9 || l == 0x0CA || l == 0x006 ||
  u == 0x0C2 || u == 0x0E0 || (0x0F0 ≤ u && u ≤ 0x0F5) || (0x100 ≤ u && u ≤ 0x10D) || (0x120 ≤ u && u ≤ 0x122) ||
  (0x130 ≤ u && u ≤ 0x134) || (0x140 ≤ u && u ≤ 0x143) ||
  (i.rt && i.consumers &&& 0b111110 != 0)

/-- The engine commands that carry NUD, which count toward CREWCLK (R169, R248, R262, R278, R289). -/
def Instr.countsReuse (i : Instr) : Bool :=
  let l := i.laneOp
  let u := i.uniOp
  (0x0C0 ≤ l && l ≤ 0x0CA) || (0x0E0 ≤ l && l ≤ 0x0E2) || u == 0x0C0 || u == 0x0C1 || u == 0x102 || u == 0x103 ||
  u == 0x105 || u == 0x106 || u == 0x107 || u == 0x108 || u == 0x10A || u == 0x10B || (0x120 ≤ u && u ≤ 0x122)

/-! ## Registers read and written -/

/-- A named operand: the first specifier and how many consecutive main registers from it. -/
structure Operand where
  spec : BitVec 6
  run : Nat
deriving DecidableEq, Repr

/-- Rows of `tmv`: M outputs and N inputs (R142). -/
def tmvM (x : Nat) : Nat := 2 * (x % 4 + 1)
def tmvN (x : Nat) : Nat := 2 * (x / 4 % 4 + 1)

/-- Registers in the run of `rix` (R149). -/
def rixRun (x : Nat) : Nat := 2 ^ (x / 8 % 4)

/-- The part number of `fcvt`, P = B[4] X[6:4] (R138). -/
def fcvtPart (x : Nat) (q : BitVec 1) : Nat := x / 16 % 8 + 8 * q.toNat

/-- `fcvt` narrows: it reads D for the elements outside its part (R139). -/
def fcvtNarrows (x : Nat) (r : BitVec 4) : Bool := fmtWidth (x % 16) < fmtWidth r.toNat

/-- An MXINT8 side makes `fcvt` read the exponents in C (R139). -/
def fcvtMx (x : Nat) (r : BitVec 4) : Bool := x % 16 == 6 || r.toNat == 6

/-- The row takes a fourth operand in C (R115, R131, R138, and `acas` in chapter 14). -/
def Instr.fourth : Instr → Bool
  | .iaddc _ _ _ _ _ | .imad _ _ _ _ _ | .idot _ _ _ _ _ | .bfi _ _ _ _ _ | .ffma _ _ _ _ _ | .fdot _ _ _ _ _ => true
  | .acas _ _ _ _ _ _ => true
  | i@(.fcvt _ _ _ _ _ _ r) => fcvtMx i.x r
  | _ => false

/-- Runs of A longer than one register: engine command blocks (R248, R249, R250, R264, R267, R268, R278, R291, R293, R294),
the inputs of `tmv` (R142) and the table of `rix.g` (R152). -/
def Instr.aRun (i : Instr) : Nat :=
  match i with
  | .tmv _ _ _ _ _ => tmvN i.x / 2
  | .rixG _ _ _ _ _ => rixRun i.x
  | .cpy _ _ _ _ | .cpyx _ _ _ _ | .mld _ _ _ _ | .mma _ _ _ _ _ | .mwb _ _ _ _ | .ixg _ _ _ _ => 2
  | .mmas _ _ _ _ | .ixs _ _ _ _ | .rcat _ _ _ | .lput _ _ _ => 3
  | .rredRs _ _ _ _ _ | .rredAr _ _ _ _ _ => 4
  | _ => 1

/-- D is read as a source: store data, accumulating uniform forms, narrowing `fcvt`, atomics, and the D specifiers of
commands (R43, R128, R129, R139, R164, R165, R189, R213, R333, R335). -/
def Instr.readsD : Instr → Bool
  | .smad _ _ _ _ | .ssel _ _ _ _ | .st _ _ _ _ _ _ | .sts _ _ _ _ _ | .sst _ _ _ _ _ | .sinv _ _ _ _ | .swb _ _ _ _ => true
  | .swbInv _ _ _ _ | .atom _ _ _ _ _ _ | .acas _ _ _ _ _ _ | .abinc _ _ _ _ _ _ | .rdecl _ _ _ _ | .tdef _ _ _ => true
  | .launch _ _ _ _ | .gnode _ _ _ _ | .tapeRun _ _ _ | .wrsr _ _ _ => true
  | .syscShoot _ _ | .syscTerm _ _ | .syscQdesc _ _ | .syscLevel _ _ | .syscRing _ _ | .syscPodwin _ _ | .syscFpdef _ _ => true
  | i@(.fcvt _ _ _ _ _ _ r) => fcvtNarrows i.x r && (!i.rt || i.consumers.getLsbD 0)
  | _ => false

/-- D names the register the row writes, and how many from it. -/
def Instr.dRun (i : Instr) : Nat :=
  match i with
  | .tmv _ _ _ _ _ => tmvM i.x / 2
  | .rixS _ _ _ _ _ => rixRun i.x
  | .redmi _ _ _ _ _ => 2
  | _ => 1

/-- The row writes the register or run that D names: every lane row of R3 or M form with a destination, and the uniform rows
with one. -/
def Instr.writesD (i : Instr) : Bool :=
  let l := i.laneOp
  let u := i.uniOp
  if i.rt then false else
  l == 0x003 || l == 0x005 || l == 0x008 ||
  (0x020 ≤ l && l ≤ 0x03B && l != 0x032) || (0x060 ≤ l && l ≤ 0x073 && l != 0x066) || (0x0A0 ≤ l && l ≤ 0x0A7) ||
  l == 0x0C0 || l == 0x0C2 || l == 0x0C3 || l == 0x0C5 || l == 0x0C7 || l == 0x0C8 || (0x0E0 ≤ l && l ≤ 0x0E3) || l == 0x0E5 ||
  l == 0x142 || (0x020 ≤ u && u ≤ 0x02E) || u == 0x0C0 || u == 0x140 || u == 0x142 || u == 0x143

/-- A is read as a register. -/
def Instr.readsA : Instr → Bool
  | .estat _ _ _ _ | .tapeDepth _ _ => false
  | i => i.a?.isSome

/-- B is read as a register. -/
def Instr.readsB : Instr → Bool
  | .launch _ _ _ _ | .gnode _ _ _ _ | .fcall _ _ _ _ => false
  | i => i.b?.isSome

/-- The operand a field names, if the row has the field. -/
def operandOf (present : Bool) (spec : Option (BitVec 6)) (run : Nat) : List Operand :=
  match present, spec with
  | true, some s => [⟨s, run⟩]
  | _, _ => []

/-- The D specifier as a source: under a consumer mask it is the register consumer in C. -/
def Instr.dSpec (i : Instr) : Option (BitVec 6) := if i.rt then (if i.consumers.getLsbD 0 then some i.c else none) else i.d?

/-- The registers a row reads, in the field order of a replay entry: D (only where it is read), A, B, C (R318). -/
def Instr.sources (i : Instr) : List Operand :=
  operandOf i.readsD i.dSpec 1 ++ operandOf i.readsA i.a? i.aRun ++
  operandOf i.readsB i.b? (match i with | .cpyx _ _ _ _ => 2 | _ => 1) ++
  operandOf (i.fourth && i.pf?.isSome) (some i.c) 1

/-- The registers a row writes. The register consumer of a consumer mask stands in C (R29, R49); `call` and `fcall` also
write o7 (R93, R100), which no check concerns. -/
def Instr.dests (i : Instr) : List Operand :=
  operandOf i.writesD i.d? i.dRun ++
  (if i.rt && i.consumers.getLsbD 0 then [⟨i.c, 1⟩] else []) ++
  (match i with
   | .launch _ _ _ b | .gnode _ _ _ b | .fcall _ _ _ b => [⟨b, 1⟩]
   | .estat _ _ a _ | .tapeDepth _ a => [⟨a, 1⟩]
   | _ => [])

/-! ## Mask registers read and written -/

/-- The mask registers a row reads at issue: the write mask, and the masks of `brl`, `vote` and `isel` (R52, R91, R95, R123). -/
def Instr.maskSources (i : Instr) : List Nat :=
  (if i.pf?.isSome then [i.kNum] else []) ++
  (match i with
   | .brl _ k _ => [k.toNat]
   | .voteAny _ _ k _ | .voteAll _ _ k _ | .voteBallot _ _ k _ => [k.toNat]
   | .isel _ _ _ _ _ => [i.x / 16]
   | _ => [])

/-- The mask register a row writes; 0 means none (R95, R122, R135, R155, R156). -/
def Instr.maskDest (i : Instr) : Nat :=
  match i with
  | .voteAny _ _ _ j | .voteAll _ _ _ j | .voteBallot _ _ _ j => j.toNat
  | .icmp _ _ k _ _ | .fcmp _ _ k _ _ => k.toNat
  | .cfd _ _ _ _ | .comb _ _ _ _ _ => i.x / 16
  | _ => 0

/-! ## Checks on the prefix (R60, check 3) -/

/-- How a class treats a consumer list (R115, R131, R148). -/
inductive RtRule where
  /-- RT = 1 raises ILLEGAL. -/
  | no
  /-- A consumer list is defined. -/
  | yes
  /-- Bit 0 of D must be 0, because C carries a source. -/
  | noRegister
deriving DecidableEq, Repr

/-- What a row allows in the fields of its prefix. -/
structure PfxRule where
  mask : Bool
  fill : Bool
  rounds : Bool
  rt : RtRule
  /-- X as the class defines it. -/
  xOk : Bool
deriving DecidableEq, Repr

/-- Format codes that `redl`, `scan`, `redmi` and `comb` accept (R149). -/
def tyOk (t : Nat) : Bool := t ≤ 2 || (7 ≤ t && t ≤ 0xE)

/-- The prefix rule of a row, from the class tables (R115, R116, R131, R132, R138, R142, R148, R149, R158, R189, R213). -/
def Instr.pfxRule (i : Instr) : PfxRule :=
  let x := i.x
  let w := x % 8
  let mode := x / 16
  let int (ok : Bool) : PfxRule := ⟨true, true, false, .yes, w ≤ 3 && ok⟩
  let int4 (ok : Bool) : PfxRule := ⟨true, true, false, .noRegister, w ≤ 3 && ok⟩
  let fmode := x / 8
  let fl (rounds : Bool) (rt : RtRule) (ok : Bool) : PfxRule := ⟨true, true, rounds, rt, ok⟩
  let wide := mode ≤ 3 && (mode ≤ 1 || w != 3)
  let ty := x % 16
  let memX (k m : Bool) : PfxRule := ⟨k, m, false, .no, true⟩
  match i with
  | .mov _ _ _ _ | .movi _ _ _ _ => int (mode == 0)
  | .iadd _ _ _ _ _ | .isub _ _ _ _ _ | .imul _ _ _ _ _ => int wide
  | .imad _ _ _ _ _ => int4 wide
  | .iaddc _ _ _ _ _ => int4 (mode ≤ 2)
  | .imulh _ _ _ _ _ => int (mode == 0)
  | .idot _ _ _ _ _ => int4 ((w == 1 || w == 2) && mode ≤ 1)
  | .iand _ _ _ _ _ | .ior _ _ _ _ _ | .ixor _ _ _ _ _ => int (mode == 0)
  | .shl _ _ _ _ _ => int (mode ≤ 1)
  | .shr _ _ _ _ _ | .sar _ _ _ _ _ | .imin _ _ _ _ _ | .imax _ _ _ _ _ => int (mode == 0)
  | .iabs _ _ _ _ => int (mode ≤ 1 && x / 8 % 2 == 0)
  | .icmp _ _ _ _ _ => { int (mode ≤ 5) with rt := .no }
  | .isel _ _ _ _ _ => int true
  | .bfx _ _ _ _ _ => int (mode == 0)
  | .bfi _ _ _ _ _ => int4 (mode == 0)
  | .popc _ _ _ _ | .clz _ _ _ _ | .brev _ _ _ _ => int (mode == 0)
  | .lea _ _ _ _ _ => ⟨true, true, false, .yes, x < 8⟩
  | .pack _ _ _ _ _ | .unpk _ _ _ _ => int (mode ≤ 1)
  | .fadd _ _ _ _ _ | .fsub _ _ _ _ _ | .fmul _ _ _ _ _ | .fscl _ _ _ _ _ => fl true .yes (w ≤ 2 && fmode ≤ 1)
  | .ffma _ _ _ _ _ => fl true .noRegister (w ≤ 2 && fmode ≤ 1)
  | .fmin _ _ _ _ _ | .fmax _ _ _ _ _ => fl false .yes (w ≤ 2 && fmode == 0)
  | .fcmp _ _ _ _ _ => fl false .no (w ≤ 2 && fmode ≤ 7)
  | .fclass _ _ _ _ => fl false .yes (w ≤ 5 && fmode == 0)
  | .fcvt _ _ _ _ _ _ r => fl true (if fcvtMx x r then .noRegister else .yes) (x % 16 != 0xF)
  | .fdot _ _ _ _ _ => fl true .noRegister (w ≤ 5 && fmode ≤ 1)
  | .frcp _ _ _ _ | .frsq _ _ _ _ | .fexp2 _ _ _ _ | .flog2 _ _ _ _ | .fsin _ _ _ _ | .fcos _ _ _ _ | .ftanh _ _ _ _ =>
    fl false .yes (w ≤ 2 && fmode == 0)
  | .fsqt _ _ _ _ => fl true .yes (w ≤ 2 && fmode == 0)
  | .tmv _ _ _ _ _ => fl true .no (x / 16 % 4 != 3)
  | .shfl _ _ _ _ _ | .bcast _ _ _ _ _ => fl false .yes (w ≤ 4 && fmode == 0)
  | .rixG _ _ _ _ _ => fl false .no (w ≤ 4 && x / 32 == 0)
  | .rixS _ _ _ _ _ => ⟨true, false, false, .no, w ≤ 4 && x / 32 == 1⟩
  | .redl _ _ _ _ | .scan _ _ _ _ _ => fl (fmtIsFloat ty && mode == 0) .yes (tyOk ty && (if fmtIsFloat ty then mode ≤ 2 else mode ≤ 5))
  | .redmi _ _ _ _ _ => fl false .no (tyOk ty && mode == 0)
  | .cfd _ _ _ _ => fl false .no (w ≤ 3 && x / 8 % 2 == 0)
  | .comb _ _ _ _ _ => fl (fmtIsFloat ty) .no (tyOk ty)
  | .ld _ _ _ _ _ _ | .ldl _ _ _ _ _ _ | .lds _ _ _ _ _ | .ldc _ _ _ _ _ => memX true true
  | .st _ _ _ _ _ _ | .sts _ _ _ _ _ => memX true false
  | .prf _ _ _ _ _ | .pin _ _ _ _ _ | .unpin _ _ _ _ _ | .sinv _ _ _ _ | .swb _ _ _ _ | .swbInv _ _ _ _ => memX false false
  | .atom _ _ _ _ _ _ => ⟨true, true, false, .no, x % 16 ≤ 11 && x / 16 ≤ 4⟩
  | .acas _ _ _ _ _ _ | .abinc _ _ _ _ _ _ => ⟨true, true, false, .no, x % 16 == 0 && x / 16 ≤ 4⟩
  | _ => ⟨false, false, false, .no, x == 0⟩

/-- The prefix before the row is misused (R47): the first bad field makes both words have no effect. Where X names a buffer, it is checked as
that alone (R49). -/
def Instr.pfxMisuse (i : Instr) : Bool :=
  match i.pf? with
  | none => false
  | some p =>
    let r := i.pfxRule
    let d := i.consumers
    p.rm == 5 || p.rm == 7 || (p.rm != 0 && !r.rounds) || (p.mz == 1 && !r.fill) || (p.k != 0 && !r.mask) ||
    (p.c != 0 && !i.fourth && !(p.rt == 1 && d.getLsbD 0)) ||
    (p.rt == 1 && (r.rt == .no || d == 0 || (r.rt == .noRegister && d.getLsbD 0))) ||
    (if i.namesBuffer then 16 ≤ p.x.toNat else !r.xOk)

/-! ## Checks on field values (R60, check 4) -/

/-- A system register number of R329. -/
def sysRegOk (n : Nat) : Bool :=
  n ≤ 0x005 || (0x100 ≤ n && n ≤ 0x102) || (0x200 ≤ n && n ≤ 0x20C) || (0x300 ≤ n && n ≤ 0x305)

/-- The format of `fcvt` holds integers or MXINT8 codes, which always saturate (R138). -/
def fcvtSaturates (x : Nat) : Bool := fmtIsInt (x % 16) || x % 16 == 6

/-- The part number of `fcvt` lies in the range of R139. -/
def fcvtPartOk (x : Nat) (q : BitVec 1) (r : BitVec 4) : Bool :=
  let ws := fmtWidth r.toNat
  let wd := fmtWidth (x % 16)
  let p := fcvtPart x q
  if wd < ws then p < ws / wd else if ws < wd then p < wd / ws else p == 0

/-- A field holds a value the row's entry does not define, or an object number at or above its kind's count (R42, R43). Without a prefix,
or where X names a buffer, `idot` has X = 0, the width 32, which R120 makes illegal (R1, R49; log entry 22). -/
def Instr.badField (i : Instr) : Bool :=
  match i with
  | .idot pf _ _ _ _ => pf.isNone || i.namesBuffer
  | .enter _ _ _ m | .enterTry _ _ _ m => 4 < m.toNat
  | .fence _ c m => 4 < c.toNat || m == 0
  | .barSync _ d _ c | .barArrive _ d _ c | .barWait _ d _ c => 4 < c.toNat || 16 ≤ d.toNat
  | .tlwait _ d _ => 8 ≤ d.toNat
  | .swarm _ d _ | .swwait _ d _ => 16 ≤ d.toNat
  | .cbdef _ d _ _ => 16 ≤ d.toNat
  | .cbadvWroom _ d _ | .cbadvPut _ d _ | .cbadvWdata _ d _ | .cbadvGet _ d _ => 16 ≤ d.toNat
  | .cpy _ d _ _ | .cpyx _ d _ _ => 8 ≤ d.toNat
  | .mld _ d _ _ | .mma _ d _ _ _ | .mmas _ d _ _ | .mwb _ d _ _ | .mclr _ d _ _ => 8 ≤ d.toNat
  | .ixg _ d _ _ | .ixs _ d _ _ => 8 ≤ d.toNat
  | .ectxBind _ d e => 8 ≤ d.toNat || e == 3
  | .ectxUnbind _ d | .ectxDrain _ d | .ectxPin _ d | .ectxUnpin _ d | .ectxResume _ d | .ectxAbort _ d => 8 ≤ d.toNat
  | .estat _ d _ n => 8 ≤ d.toNat || 4 < n.toNat
  | .rredRs _ d _ _ _ | .rredAr _ d _ _ _ => 8 ≤ d.toNat
  | .rcat _ d _ | .lput _ d _ => 8 ≤ d.toNat
  | .rdsr _ _ n | .wrsr _ _ n => !sysRegOk n.toNat
  | .pin _ _ _ _ z | .unpin _ _ _ _ z => z == 3
  | .atom _ _ _ _ _ z => 9 ≤ i.x % 16 && z == 1
  | .fcvt _ _ _ _ l q r => r == 0xF || !fcvtPartOk i.x q r || (l == 1 && fcvtSaturates i.x)
  | .fcall _ d _ b => d == 55 || b == 55 || (d == b && d != 58) || (d == 58 && b != 58)
  | _ => false

/-! ## Checks on specifiers (R60, check 5) -/

/-- A specifier that may be read (R44); a run names main registers only (R142, R152, R248). -/
def srcSpecOk (o : Operand) : Bool := if o.run ≤ 1 then o.spec.toNat < 62 else o.spec.toNat + o.run ≤ 48
/-- A specifier that may be written (R44). -/
def dstSpecOk (o : Operand) : Bool :=
  if o.run ≤ 1 then o.spec.toNat < 56 || o.spec.toNat == 58 else o.spec.toNat + o.run ≤ 48

/-- `tmv`, `rix` and engine blocks take main registers even where the run is one register long (R142, R152, R248). -/
def Instr.mainOnlyOk (i : Instr) : Bool :=
  match i with
  | .tmv _ _ d a _ => d.toNat < 48 && a.toNat < 48
  | .rixG _ _ _ a _ => a.toNat < 48
  | .rixS _ _ d _ _ => d.toNat < 48
  | .cpy _ _ a b => a.toNat < 48 && b.toNat < 48
  | .cpyx _ _ a b => a.toNat < 48 && b.toNat < 48
  | _ => true

/-- The specifiers are legal for any declared register count (R44). -/
def Instr.specsOk (i : Instr) : Bool :=
  i.sources.all srcSpecOk && i.dests.all dstSpecOk && i.mainOnlyOk

/-- Every main register named lies below the declared count (R21, R44). -/
def Instr.countOk (i : Instr) (nregs : Nat) : Bool :=
  (i.sources ++ i.dests).all fun o => !(decide (o.spec.toNat < 48)) || decide (o.spec.toNat + o.run ≤ nregs)

/-- The check of R60 that the word fails whatever the state, by its number, if it fails one. -/
def Instr.staticCheck (i : Instr) : Option Nat :=
  if i.pfxMisuse then some 3 else if i.badField then some 4 else if !i.specsOk then some 5 else none

end Sys2Proof
end

