-- ==== Sys2Proof/WellFormed.lean ====
section
/-! DEFINITION. Which instructions are well formed: those no state-independent check of R60 refuses. The checks themselves are
`Instr.pfxMisuse` (check 3), `Instr.badField` (check 4) and `Instr.specsOk` (check 5). -/

namespace Sys2Proof

/-- The word, with its prefix, is a legal instruction by every check of R60 that does not depend on the state. -/
def Instr.WellFormed (i : Instr) : Bool := i.staticCheck == none

end Sys2Proof
end

