-- ==== Sys2Proof/Decode.lean ====
section
/-! DEFINITION. The decoder, from the words of memory to instructions, and after it the encoder, both from the opcode table and
the formats of R39, R40 and R47. The decoder is total: what it refuses, it refuses by name. -/

namespace Sys2Proof

/-- Why a word is no instruction, in the order of R60. -/
inductive DecodeErr where
  /-- Fewer bytes than the word, or the pair, needs. -/
  | short
  /-- The opcode is unmapped (check 2). -/
  | unmapped
  /-- The prefix stands before a word that takes none (check 3, R47). -/
  | prefixMisuse
  /-- A reserved bit is non-zero or a mode code is undefined (check 4, R42). -/
  | field
deriving DecidableEq, Repr

/-- Bits [lo + n - 1 : lo] of a word, as a number. -/
def bitsAt (w lo n : Nat) : Nat := w / 2 ^ lo % 2 ^ n

/-- Bits [lo + n - 1 : lo] of a word, as a field. -/
def fld (w lo n : Nat) : BitVec n := BitVec.ofNat n (w / 2 ^ lo)

/-- The fields of a prefix word (R47). -/
def pfxOf (w : Nat) : Pfx :=
  ⟨fld w 18 3, fld w 15 3, fld w 14 1, fld w 13 1, fld w 7 6, fld w 0 7⟩

/-- A lane row without a meaning for the prefix refuses one (R47). -/
def noPfx (pf : Option Pfx) (k : Except DecodeErr Instr) : Except DecodeErr Instr :=
  match pf with
  | none => k
  | some _ => .error .prefixMisuse

/-- The lane set's words, by shipping opcode (R58), with the prefix before the word, if there is one. -/
def decodeLane (op w : Nat) (pf : Option Pfx) : Except DecodeErr Instr :=
  match op with
  | 0x000 => noPfx pf <|
    if bitsAt w 0 18 == 0 then .ok (.nop (fld w 18 3))
    else .error .field
  | 0x001 => noPfx pf <| .ok (.brl (fld w 18 3) (fld w 15 3) (fld w 0 15))
  | 0x002 => noPfx pf <|
    if bitsAt w 0 6 == 0 && bitsAt w 12 6 == 0 then .ok (.jmpl (fld w 18 3) (fld w 6 6))
    else .error .field
  | 0x003 => noPfx pf <|
    if bitsAt w 0 6 == 0 then .ok (.callv (fld w 18 3) (fld w 12 6) (fld w 6 6))
    else .error .field
  | 0x004 => noPfx pf <|
    if bitsAt w 0 6 == 0 && bitsAt w 12 6 == 0 then .ok (.ret (fld w 18 3) (fld w 6 6))
    else .error .field
  | 0x005 => noPfx pf <| .ok (.fcall (fld w 18 3) (fld w 12 6) (fld w 6 6) (fld w 0 6))
  | 0x006 => noPfx pf <|
    if bitsAt w 0 18 == 0 then .ok (.fsync (fld w 18 3))
    else if bitsAt w 0 18 == 1 then .ok (.fsyncSq (fld w 18 3))
    else .error .field
  | 0x007 => noPfx pf <|
    if bitsAt w 12 6 == 0 then .ok (.fhint (fld w 18 3) (fld w 6 6) (fld w 0 6))
    else .error .field
  | 0x008 => noPfx pf <|
    if bitsAt w 3 6 == 0 then .ok (.voteAny (fld w 18 3) (fld w 12 6) (fld w 9 3) (fld w 0 3))
    else if bitsAt w 3 6 == 16 then .ok (.voteAll (fld w 18 3) (fld w 12 6) (fld w 9 3) (fld w 0 3))
    else if bitsAt w 3 6 == 32 then .ok (.voteBallot (fld w 18 3) (fld w 12 6) (fld w 9 3) (fld w 0 3))
    else .error .field
  | 0x009 => noPfx pf <|
    if bitsAt w 8 10 == 0 then .ok (.brk (fld w 18 3) (fld w 0 8))
    else .error .field
  | 0x00A => noPfx pf <|
    if bitsAt w 0 18 == 0 then .ok (.exit (fld w 18 3))
    else .error .field
  | 0x020 =>
    if bitsAt w 0 6 == 0 then .ok (.mov pf (fld w 18 3) (fld w 12 6) (fld w 6 6))
    else .error .field
  | 0x021 => .ok (.movi pf (fld w 18 3) (fld w 12 6) (fld w 0 12))
  | 0x022 => .ok (.iadd pf (fld w 18 3) (fld w 12 6) (fld w 6 6) (fld w 0 6))
  | 0x023 => .ok (.iaddc pf (fld w 18 3) (fld w 12 6) (fld w 6 6) (fld w 0 6))
  | 0x024 => .ok (.isub pf (fld w 18 3) (fld w 12 6) (fld w 6 6) (fld w 0 6))
  | 0x025 => .ok (.imul pf (fld w 18 3) (fld w 12 6) (fld w 6 6) (fld w 0 6))
  | 0x026 => .ok (.imulh pf (fld w 18 3) (fld w 12 6) (fld w 6 6) (fld w 0 6))
  | 0x027 => .ok (.imad pf (fld w 18 3) (fld w 12 6) (fld w 6 6) (fld w 0 6))
  | 0x028 => .ok (.idot pf (fld w 18 3) (fld w 12 6) (fld w 6 6) (fld w 0 6))
  | 0x029 => .ok (.iand pf (fld w 18 3) (fld w 12 6) (fld w 6 6) (fld w 0 6))
  | 0x02A => .ok (.ior pf (fld w 18 3) (fld w 12 6) (fld w 6 6) (fld w 0 6))
  | 0x02B => .ok (.ixor pf (fld w 18 3) (fld w 12 6) (fld w 6 6) (fld w 0 6))
  | 0x02C => .ok (.shl pf (fld w 18 3) (fld w 12 6) (fld w 6 6) (fld w 0 6))
  | 0x02D => .ok (.shr pf (fld w 18 3) (fld w 12 6) (fld w 6 6) (fld w 0 6))
  | 0x02E => .ok (.sar pf (fld w 18 3) (fld w 12 6) (fld w 6 6) (fld w 0 6))
  | 0x02F => .ok (.imin pf (fld w 18 3) (fld w 12 6) (fld w 6 6) (fld w 0 6))
  | 0x030 => .ok (.imax pf (fld w 18 3) (fld w 12 6) (fld w 6 6) (fld w 0 6))
  | 0x031 =>
    if bitsAt w 0 6 == 0 then .ok (.iabs pf (fld w 18 3) (fld w 12 6) (fld w 6 6))
    else .error .field
  | 0x032 =>
    if bitsAt w 15 3 == 0 then .ok (.icmp pf (fld w 18 3) (fld w 12 3) (fld w 6 6) (fld w 0 6))
    else .error .field
  | 0x033 => .ok (.isel pf (fld w 18 3) (fld w 12 6) (fld w 6 6) (fld w 0 6))
  | 0x034 => .ok (.bfx pf (fld w 18 3) (fld w 12 6) (fld w 6 6) (fld w 0 6))
  | 0x035 => .ok (.bfi pf (fld w 18 3) (fld w 12 6) (fld w 6 6) (fld w 0 6))
  | 0x036 =>
    if bitsAt w 0 6 == 0 then .ok (.popc pf (fld w 18 3) (fld w 12 6) (fld w 6 6))
    else .error .field
  | 0x037 =>
    if bitsAt w 0 6 == 0 then .ok (.clz pf (fld w 18 3) (fld w 12 6) (fld w 6 6))
    else .error .field
  | 0x038 =>
    if bitsAt w 0 6 == 0 then .ok (.brev pf (fld w 18 3) (fld w 12 6) (fld w 6 6))
    else .error .field
  | 0x039 => .ok (.lea pf (fld w 18 3) (fld w 12 6) (fld w 6 6) (fld w 0 6))
  | 0x03A => .ok (.pack pf (fld w 18 3) (fld w 12 6) (fld w 6 6) (fld w 0 6))
  | 0x03B =>
    if bitsAt w 0 6 == 0 then .ok (.unpk pf (fld w 18 3) (fld w 12 6) (fld w 6 6))
    else .error .field
  | 0x060 => .ok (.fadd pf (fld w 18 3) (fld w 12 6) (fld w 6 6) (fld w 0 6))
  | 0x061 => .ok (.fsub pf (fld w 18 3) (fld w 12 6) (fld w 6 6) (fld w 0 6))
  | 0x062 => .ok (.fmul pf (fld w 18 3) (fld w 12 6) (fld w 6 6) (fld w 0 6))
  | 0x063 => .ok (.ffma pf (fld w 18 3) (fld w 12 6) (fld w 6 6) (fld w 0 6))
  | 0x064 => .ok (.fmin pf (fld w 18 3) (fld w 12 6) (fld w 6 6) (fld w 0 6))
  | 0x065 => .ok (.fmax pf (fld w 18 3) (fld w 12 6) (fld w 6 6) (fld w 0 6))
  | 0x066 =>
    if bitsAt w 15 3 == 0 then .ok (.fcmp pf (fld w 18 3) (fld w 12 3) (fld w 6 6) (fld w 0 6))
    else .error .field
  | 0x067 => .ok (.fcvt pf (fld w 18 3) (fld w 12 6) (fld w 6 6) (fld w 5 1) (fld w 4 1) (fld w 0 4))
  | 0x068 =>
    if bitsAt w 0 6 == 0 then .ok (.frcp pf (fld w 18 3) (fld w 12 6) (fld w 6 6))
    else .error .field
  | 0x069 =>
    if bitsAt w 0 6 == 0 then .ok (.frsq pf (fld w 18 3) (fld w 12 6) (fld w 6 6))
    else .error .field
  | 0x06A =>
    if bitsAt w 0 6 == 0 then .ok (.fsqt pf (fld w 18 3) (fld w 12 6) (fld w 6 6))
    else .error .field
  | 0x06B =>
    if bitsAt w 0 6 == 0 then .ok (.fexp2 pf (fld w 18 3) (fld w 12 6) (fld w 6 6))
    else .error .field
  | 0x06C =>
    if bitsAt w 0 6 == 0 then .ok (.flog2 pf (fld w 18 3) (fld w 12 6) (fld w 6 6))
    else .error .field
  | 0x06D =>
    if bitsAt w 0 6 == 0 then .ok (.fsin pf (fld w 18 3) (fld w 12 6) (fld w 6 6))
    else .error .field
  | 0x06E =>
    if bitsAt w 0 6 == 0 then .ok (.fcos pf (fld w 18 3) (fld w 12 6) (fld w 6 6))
    else .error .field
  | 0x06F =>
    if bitsAt w 0 6 == 0 then .ok (.ftanh pf (fld w 18 3) (fld w 12 6) (fld w 6 6))
    else .error .field
  | 0x070 =>
    if bitsAt w 0 6 == 0 then .ok (.fclass pf (fld w 18 3) (fld w 12 6) (fld w 6 6))
    else .error .field
  | 0x071 => .ok (.fdot pf (fld w 18 3) (fld w 12 6) (fld w 6 6) (fld w 0 6))
  | 0x072 => .ok (.fscl pf (fld w 18 3) (fld w 12 6) (fld w 6 6) (fld w 0 6))
  | 0x073 => .ok (.tmv pf (fld w 18 3) (fld w 12 6) (fld w 6 6) (fld w 0 6))
  | 0x0A0 => .ok (.shfl pf (fld w 18 3) (fld w 12 6) (fld w 6 6) (fld w 0 6))
  | 0x0A1 => match pf with
    | some p => if p.x.getLsbD 5 then .ok (.rixS p (fld w 18 3) (fld w 12 6) (fld w 6 6) (fld w 0 6))
      else .ok (.rixG pf (fld w 18 3) (fld w 12 6) (fld w 6 6) (fld w 0 6))
    | none => .ok (.rixG pf (fld w 18 3) (fld w 12 6) (fld w 6 6) (fld w 0 6))
  | 0x0A2 =>
    if bitsAt w 0 6 == 0 then .ok (.redl pf (fld w 18 3) (fld w 12 6) (fld w 6 6))
    else .error .field
  | 0x0A3 => .ok (.redmi pf (fld w 18 3) (fld w 12 6) (fld w 6 6) (fld w 0 6))
  | 0x0A4 =>
    if bitsAt w 1 5 == 0 then .ok (.scan pf (fld w 18 3) (fld w 12 6) (fld w 6 6) (fld w 0 1))
    else .error .field
  | 0x0A5 =>
    if bitsAt w 0 6 == 0 then .ok (.cfd pf (fld w 18 3) (fld w 12 6) (fld w 6 6))
    else .error .field
  | 0x0A6 => .ok (.comb pf (fld w 18 3) (fld w 12 6) (fld w 6 6) (fld w 0 6))
  | 0x0A7 => .ok (.bcast pf (fld w 18 3) (fld w 12 6) (fld w 6 6) (fld w 0 6))
  | 0x0C0 => .ok (.ld pf (fld w 18 3) (fld w 12 6) (fld w 6 6) (fld w 2 4) (fld w 0 2))
  | 0x0C1 => .ok (.st pf (fld w 18 3) (fld w 12 6) (fld w 6 6) (fld w 2 4) (fld w 0 2))
  | 0x0C2 => .ok (.ldl pf (fld w 18 3) (fld w 12 6) (fld w 6 6) (fld w 2 4) (fld w 0 2))
  | 0x0C3 =>
    if bitsAt w 2 4 == 0 then .ok (.lds pf (fld w 18 3) (fld w 12 6) (fld w 6 6) (fld w 0 2))
    else .error .field
  | 0x0C4 =>
    if bitsAt w 2 4 == 0 then .ok (.sts pf (fld w 18 3) (fld w 12 6) (fld w 6 6) (fld w 0 2))
    else .error .field
  | 0x0C5 =>
    if bitsAt w 2 4 == 0 then .ok (.ldc pf (fld w 18 3) (fld w 12 6) (fld w 6 6) (fld w 0 2))
    else .error .field
  | 0x0C6 =>
    if bitsAt w 12 6 == 0 then .ok (.prf pf (fld w 18 3) (fld w 6 6) (fld w 2 4) (fld w 0 2))
    else .error .field
  | 0x0C7 =>
    if bitsAt w 2 4 == 0 then .ok (.pin pf (fld w 18 3) (fld w 12 6) (fld w 6 6) (fld w 0 2))
    else .error .field
  | 0x0C8 =>
    if bitsAt w 2 4 == 0 then .ok (.unpin pf (fld w 18 3) (fld w 12 6) (fld w 6 6) (fld w 0 2))
    else .error .field
  | 0x0C9 =>
    if bitsAt w 0 6 == 0 then .ok (.sinv pf (fld w 18 3) (fld w 12 6) (fld w 6 6))
    else .error .field
  | 0x0CA =>
    if bitsAt w 0 6 == 0 then .ok (.swb pf (fld w 18 3) (fld w 12 6) (fld w 6 6))
    else if bitsAt w 0 6 == 1 then .ok (.swbInv pf (fld w 18 3) (fld w 12 6) (fld w 6 6))
    else .error .field
  | 0x0E0 =>
    if bitsAt w 1 1 == 1 then .ok (.atom pf (fld w 18 3) (fld w 12 6) (fld w 6 6) (fld w 2 4) (fld w 0 1))
    else .error .field
  | 0x0E1 =>
    if bitsAt w 1 1 == 1 then .ok (.acas pf (fld w 18 3) (fld w 12 6) (fld w 6 6) (fld w 2 4) (fld w 0 1))
    else .error .field
  | 0x0E2 =>
    if bitsAt w 1 1 == 1 then .ok (.abinc pf (fld w 18 3) (fld w 12 6) (fld w 6 6) (fld w 2 4) (fld w 0 1))
    else .error .field
  | 0x0E3 => noPfx pf <|
    if bitsAt w 3 3 == 0 then .ok (.enter (fld w 18 3) (fld w 12 6) (fld w 6 6) (fld w 0 3))
    else if bitsAt w 3 3 == 1 then .ok (.enterTry (fld w 18 3) (fld w 12 6) (fld w 6 6) (fld w 0 3))
    else .error .field
  | 0x0E4 => noPfx pf <|
    if bitsAt w 0 6 == 0 && bitsAt w 12 6 == 0 then .ok (.leave (fld w 18 3) (fld w 6 6))
    else .error .field
  | 0x0E5 => noPfx pf <|
    if bitsAt w 0 6 == 0 then .ok (.rstat (fld w 18 3) (fld w 12 6) (fld w 6 6))
    else .error .field
  | 0x140 => noPfx pf <|
    if bitsAt w 8 10 == 0 then .ok (.trap (fld w 18 3) (fld w 0 8))
    else .error .field
  | 0x141 => noPfx pf <|
    if bitsAt w 0 18 == 0 then .ok (.rett (fld w 18 3))
    else .error .field
  | 0x142 => noPfx pf <|
    if bitsAt w 0 6 == 0 then .ok (.tmaskSet (fld w 18 3) (fld w 12 6) (fld w 6 6))
    else if bitsAt w 0 6 == 1 then .ok (.tmaskClr (fld w 18 3) (fld w 12 6) (fld w 6 6))
    else if bitsAt w 0 6 == 2 then .ok (.tmaskWr (fld w 18 3) (fld w 12 6) (fld w 6 6))
    else .error .field
  | _ => .error .unmapped

/-- The uniform set's words, by shipping opcode (R59). -/
def decodeUniform (op w : Nat) : Except DecodeErr Instr :=
  match op with
  | 0x000 =>
    if bitsAt w 0 18 == 0 then .ok (.snop (fld w 18 3))
    else .error .field
  | 0x001 => .ok (.bra (fld w 18 3) (fld w 0 18))
  | 0x002 =>
    if bitsAt w 0 6 == 0 && bitsAt w 12 6 == 0 then .ok (.brx (fld w 18 3) (fld w 6 6))
    else .error .field
  | 0x003 => .ok (.call (fld w 18 3) (fld w 0 18))
  | 0x004 =>
    if bitsAt w 0 6 == 0 && bitsAt w 12 6 == 0 then .ok (.yield (fld w 18 3) (fld w 6 6))
    else if bitsAt w 0 6 == 1 && bitsAt w 12 6 == 0 then .ok (.yieldX (fld w 18 3) (fld w 6 6))
    else .error .field
  | 0x020 => .ok (.smov (fld w 18 3) (fld w 12 6) (fld w 0 12))
  | 0x021 => .ok (.sadd (fld w 18 3) (fld w 12 6) (fld w 6 6) (fld w 0 6))
  | 0x022 => .ok (.ssub (fld w 18 3) (fld w 12 6) (fld w 6 6) (fld w 0 6))
  | 0x023 => .ok (.smul (fld w 18 3) (fld w 12 6) (fld w 6 6) (fld w 0 6))
  | 0x024 => .ok (.smad (fld w 18 3) (fld w 12 6) (fld w 6 6) (fld w 0 6))
  | 0x025 => .ok (.sand (fld w 18 3) (fld w 12 6) (fld w 6 6) (fld w 0 6))
  | 0x026 => .ok (.sor (fld w 18 3) (fld w 12 6) (fld w 6 6) (fld w 0 6))
  | 0x027 => .ok (.sxor (fld w 18 3) (fld w 12 6) (fld w 6 6) (fld w 0 6))
  | 0x028 => .ok (.sshl (fld w 18 3) (fld w 12 6) (fld w 6 6) (fld w 0 6))
  | 0x029 => .ok (.sshr (fld w 18 3) (fld w 12 6) (fld w 6 6) (fld w 0 6))
  | 0x02A => .ok (.smin (fld w 18 3) (fld w 12 6) (fld w 6 6) (fld w 0 6))
  | 0x02B => .ok (.smax (fld w 18 3) (fld w 12 6) (fld w 6 6) (fld w 0 6))
  | 0x02C => .ok (.scmp (fld w 18 3) (fld w 12 6) (fld w 6 6) (fld w 0 6))
  | 0x02D => .ok (.ssel (fld w 18 3) (fld w 12 6) (fld w 6 6) (fld w 0 6))
  | 0x02E => .ok (.slea (fld w 18 3) (fld w 12 6) (fld w 6 6) (fld w 0 6))
  | 0x0C0 => .ok (.sld (fld w 18 3) (fld w 12 6) (fld w 6 6) (fld w 2 4) (fld w 0 2))
  | 0x0C1 => .ok (.sst (fld w 18 3) (fld w 12 6) (fld w 6 6) (fld w 2 4) (fld w 0 2))
  | 0x0C2 => .ok (.hdef (fld w 18 3) (fld w 12 6) (fld w 6 6) (fld w 0 6))
  | 0x0E0 => .ok (.rdecl (fld w 18 3) (fld w 12 6) (fld w 6 6) (fld w 0 6))
  | 0x0F0 =>
    if bitsAt w 5 13 == 0 then .ok (.fence (fld w 18 3) (fld w 2 3) (fld w 0 2))
    else .error .field
  | 0x0F1 =>
    if bitsAt w 0 2 == 0 && bitsAt w 5 1 == 0 then .ok (.barSync (fld w 18 3) (fld w 12 6) (fld w 6 6) (fld w 2 3))
    else if bitsAt w 0 2 == 1 && bitsAt w 5 1 == 0 then .ok (.barArrive (fld w 18 3) (fld w 12 6) (fld w 6 6) (fld w 2 3))
    else if bitsAt w 0 2 == 2 && bitsAt w 5 1 == 0 then .ok (.barWait (fld w 18 3) (fld w 12 6) (fld w 6 6) (fld w 2 3))
    else .error .field
  | 0x0F2 =>
    if bitsAt w 12 6 == 0 then .ok (.pbarInit (fld w 18 3) (fld w 6 6) (fld w 0 6))
    else if bitsAt w 0 6 == 0 && bitsAt w 12 6 == 1 then .ok (.pbarArrive (fld w 18 3) (fld w 6 6))
    else if bitsAt w 12 6 == 2 then .ok (.pbarWait (fld w 18 3) (fld w 6 6) (fld w 0 6))
    else .error .field
  | 0x0F3 =>
    if bitsAt w 0 6 == 0 then .ok (.tlwait (fld w 18 3) (fld w 12 6) (fld w 6 6))
    else .error .field
  | 0x0F4 =>
    if bitsAt w 0 6 == 0 then .ok (.swarm (fld w 18 3) (fld w 12 6) (fld w 6 6))
    else .error .field
  | 0x0F5 =>
    if bitsAt w 0 6 == 0 then .ok (.swwait (fld w 18 3) (fld w 12 6) (fld w 6 6))
    else .error .field
  | 0x100 => .ok (.cbdef (fld w 18 3) (fld w 12 6) (fld w 6 6) (fld w 0 6))
  | 0x101 =>
    if bitsAt w 0 6 == 0 then .ok (.cbadvWroom (fld w 18 3) (fld w 12 6) (fld w 6 6))
    else if bitsAt w 0 6 == 1 then .ok (.cbadvPut (fld w 18 3) (fld w 12 6) (fld w 6 6))
    else if bitsAt w 0 6 == 2 then .ok (.cbadvWdata (fld w 18 3) (fld w 12 6) (fld w 6 6))
    else if bitsAt w 0 6 == 3 then .ok (.cbadvGet (fld w 18 3) (fld w 12 6) (fld w 6 6))
    else .error .field
  | 0x102 => .ok (.cpy (fld w 18 3) (fld w 12 6) (fld w 6 6) (fld w 0 6))
  | 0x103 => .ok (.cpyx (fld w 18 3) (fld w 12 6) (fld w 6 6) (fld w 0 6))
  | 0x104 =>
    if bitsAt w 0 6 == 0 then .ok (.tdef (fld w 18 3) (fld w 12 6) (fld w 6 6))
    else .error .field
  | 0x105 =>
    if bitsAt w 0 2 == 0 then .ok (.mld (fld w 18 3) (fld w 12 6) (fld w 6 6) (fld w 2 4))
    else .error .field
  | 0x106 =>
    if bitsAt w 1 1 == 0 then .ok (.mma (fld w 18 3) (fld w 12 6) (fld w 6 6) (fld w 2 4) (fld w 0 1))
    else .error .field
  | 0x107 =>
    if bitsAt w 0 2 == 0 then .ok (.mmas (fld w 18 3) (fld w 12 6) (fld w 6 6) (fld w 2 4))
    else .error .field
  | 0x108 =>
    if bitsAt w 0 2 == 0 then .ok (.mwb (fld w 18 3) (fld w 12 6) (fld w 6 6) (fld w 2 4))
    else .error .field
  | 0x109 =>
    if bitsAt w 5 7 == 0 then .ok (.mclr (fld w 18 3) (fld w 12 6) (fld w 4 1) (fld w 0 4))
    else .error .field
  | 0x10A =>
    if bitsAt w 0 2 == 0 then .ok (.ixg (fld w 18 3) (fld w 12 6) (fld w 6 6) (fld w 2 4))
    else .error .field
  | 0x10B =>
    if bitsAt w 0 2 == 0 then .ok (.ixs (fld w 18 3) (fld w 12 6) (fld w 6 6) (fld w 2 4))
    else .error .field
  | 0x10C =>
    if bitsAt w 0 3 == 0 && bitsAt w 5 7 == 0 then .ok (.ectxBind (fld w 18 3) (fld w 12 6) (fld w 3 2))
    else if bitsAt w 0 12 == 1 then .ok (.ectxUnbind (fld w 18 3) (fld w 12 6))
    else if bitsAt w 0 12 == 2 then .ok (.ectxDrain (fld w 18 3) (fld w 12 6))
    else if bitsAt w 0 12 == 3 then .ok (.ectxPin (fld w 18 3) (fld w 12 6))
    else if bitsAt w 0 12 == 4 then .ok (.ectxUnpin (fld w 18 3) (fld w 12 6))
    else if bitsAt w 0 12 == 5 then .ok (.ectxResume (fld w 18 3) (fld w 12 6))
    else if bitsAt w 0 12 == 6 then .ok (.ectxAbort (fld w 18 3) (fld w 12 6))
    else .error .field
  | 0x10D =>
    if bitsAt w 3 3 == 0 then .ok (.estat (fld w 18 3) (fld w 12 6) (fld w 6 6) (fld w 0 3))
    else .error .field
  | 0x120 =>
    if bitsAt w 0 2 == 0 && bitsAt w 4 2 == 0 then .ok (.rredRs (fld w 18 3) (fld w 12 6) (fld w 6 6) (fld w 3 1) (fld w 2 1))
    else if bitsAt w 0 2 == 1 && bitsAt w 4 2 == 0 then .ok (.rredAr (fld w 18 3) (fld w 12 6) (fld w 6 6) (fld w 3 1) (fld w 2 1))
    else .error .field
  | 0x121 =>
    if bitsAt w 0 6 == 0 then .ok (.rcat (fld w 18 3) (fld w 12 6) (fld w 6 6))
    else .error .field
  | 0x122 =>
    if bitsAt w 0 6 == 0 then .ok (.lput (fld w 18 3) (fld w 12 6) (fld w 6 6))
    else .error .field
  | 0x130 => .ok (.launch (fld w 18 3) (fld w 12 6) (fld w 6 6) (fld w 0 6))
  | 0x131 => .ok (.gnode (fld w 18 3) (fld w 12 6) (fld w 6 6) (fld w 0 6))
  | 0x132 =>
    if bitsAt w 0 6 == 0 && bitsAt w 12 6 == 0 then .ok (.tapePush (fld w 18 3) (fld w 6 6))
    else if bitsAt w 0 6 == 1 then .ok (.tapeRun (fld w 18 3) (fld w 12 6) (fld w 6 6))
    else if bitsAt w 0 6 == 2 && bitsAt w 12 6 == 0 then .ok (.tapeDepth (fld w 18 3) (fld w 6 6))
    else .error .field
  | 0x133 =>
    if bitsAt w 0 6 == 0 && bitsAt w 12 6 == 0 then .ok (.tcut (fld w 18 3) (fld w 6 6))
    else .error .field
  | 0x134 =>
    if bitsAt w 0 6 == 0 && bitsAt w 12 6 == 0 then .ok (.prio (fld w 18 3) (fld w 6 6))
    else .error .field
  | 0x140 => .ok (.rdsr (fld w 18 3) (fld w 12 6) (fld w 0 12))
  | 0x141 => .ok (.wrsr (fld w 18 3) (fld w 12 6) (fld w 0 12))
  | 0x142 =>
    if bitsAt w 0 6 == 0 then .ok (.dtld (fld w 18 3) (fld w 12 6) (fld w 6 6))
    else .error .field
  | 0x143 =>
    if bitsAt w 0 12 == 1 then .ok (.syscShoot (fld w 18 3) (fld w 12 6))
    else if bitsAt w 0 12 == 2 then .ok (.syscTerm (fld w 18 3) (fld w 12 6))
    else if bitsAt w 0 12 == 3 then .ok (.syscQdesc (fld w 18 3) (fld w 12 6))
    else if bitsAt w 0 12 == 4 then .ok (.syscLevel (fld w 18 3) (fld w 12 6))
    else if bitsAt w 0 12 == 5 then .ok (.syscRing (fld w 18 3) (fld w 12 6))
    else if bitsAt w 0 12 == 6 then .ok (.syscPodwin (fld w 18 3) (fld w 12 6))
    else if bitsAt w 0 12 == 7 then .ok (.syscFpdef (fld w 18 3) (fld w 12 6))
    else if bitsAt w 0 12 == 256 then .ok (.syscWhere (fld w 18 3) (fld w 12 6))
    else .error .field
  | _ => .error .unmapped

/-- A decode table: for a set (true: uniform) and an opcode, the shipping opcode whose operation it performs (R56). -/
abbrev OpMap := Bool → Nat → Option Nat

/-- The shipping map: every opcode stands for itself; the decoder knows which of them are mapped (R58, R59). -/
def shippingMap : OpMap := fun _ op => some op

/-- The word is a prefix word: S = 0 and OP = 0x3FF, which no table remaps (R47, R56). -/
def isPfxWord (w : Nat) : Bool := bitsAt w 31 1 == 0 && bitsAt w 21 10 == 0x3FF

/-- One word after its prefix, if any, by a decode table. -/
def decodeWord (m : OpMap) (w : Nat) (pf : Option Pfx) : Except DecodeErr Instr :=
  match m (bitsAt w 31 1 == 1) (bitsAt w 21 10) with
  | none => .error .unmapped
  | some op =>
    if bitsAt w 31 1 == 1 then
      match decodeUniform op w with
      | .error .unmapped => .error .unmapped
      | r => noPfx pf r
    else decodeLane op w pf

/-- The little-endian word at the front of a list of bytes (R39). -/
def takeWord : List Byte → Option (Nat × List Byte)
  | b0 :: b1 :: b2 :: b3 :: rest =>
    some (b0.toNat + b1.toNat * 2 ^ 8 + b2.toNat * 2 ^ 16 + b3.toNat * 2 ^ 24, rest)
  | _ => none

/-- A prefix word and the word after it, or one word alone (R47, R48). -/
def decodeWords (m : OpMap) (w : Nat) (next : Option Nat) : Except DecodeErr Instr :=
  if isPfxWord w then
    match next with
    | none => .error .short
    | some w2 => if isPfxWord w2 then .error .prefixMisuse else decodeWord m w2 (some (pfxOf w))
  else decodeWord m w none

/-- The instruction at the front of a list of bytes, and the bytes after it. -/
def decode (m : OpMap) (bs : List Byte) : Except DecodeErr (Instr × List Byte) :=
  match takeWord bs with
  | none => .error .short
  | some (w, rest) =>
    if isPfxWord w then
      match takeWord rest with
      | none => .error .short
      | some (w2, rest2) =>
        match decodeWords m w (some w2) with
        | .ok i => .ok (i, rest2)
        | .error e => .error e
    else
      match decodeWords m w none with
      | .ok i => .ok (i, rest)
      | .error e => .error e

/-! ## The encoder -/

/-- S and OP in their places (R39). -/
def opBits (s : Bool) (op : Nat) : Nat := (if s then 2 ^ 31 else 0) + op * 2 ^ 21

/-- A word from its opcode, its fixed low bits and its fields, each with the place of its lowest bit (R39, R40). -/
def encWord (s : Bool) (op fixed : Nat) (fs : List (Nat × Nat)) : Nat :=
  opBits s op + fixed + (fs.map fun f => f.1 * 2 ^ f.2).sum

/-- The instruction word, without its prefix; an event has none. -/
def encodeNat : Instr → Option Nat
  | .nop sc => some (encWord false 0x000 0 [(sc.toNat, 18)])
  | .brl sc k p => some (encWord false 0x001 0 [(sc.toNat, 18), (k.toNat, 15), (p.toNat, 0)])
  | .jmpl sc a => some (encWord false 0x002 0 [(sc.toNat, 18), (a.toNat, 6)])
  | .callv sc d a => some (encWord false 0x003 0 [(sc.toNat, 18), (d.toNat, 12), (a.toNat, 6)])
  | .ret sc a => some (encWord false 0x004 0 [(sc.toNat, 18), (a.toNat, 6)])
  | .fcall sc d a b => some (encWord false 0x005 0 [(sc.toNat, 18), (d.toNat, 12), (a.toNat, 6), (b.toNat, 0)])
  | .fsync sc => some (encWord false 0x006 0 [(sc.toNat, 18)])
  | .fsyncSq sc => some (encWord false 0x006 0x1 [(sc.toNat, 18)])
  | .fhint sc a b => some (encWord false 0x007 0 [(sc.toNat, 18), (a.toNat, 6), (b.toNat, 0)])
  | .voteAny sc d k j => some (encWord false 0x008 0 [(sc.toNat, 18), (d.toNat, 12), (k.toNat, 9), (j.toNat, 0)])
  | .voteAll sc d k j => some (encWord false 0x008 0x80 [(sc.toNat, 18), (d.toNat, 12), (k.toNat, 9), (j.toNat, 0)])
  | .voteBallot sc d k j => some (encWord false 0x008 0x100 [(sc.toNat, 18), (d.toNat, 12), (k.toNat, 9), (j.toNat, 0)])
  | .brk sc c => some (encWord false 0x009 0 [(sc.toNat, 18), (c.toNat, 0)])
  | .exit sc => some (encWord false 0x00A 0 [(sc.toNat, 18)])
  | .mov _ sc d a => some (encWord false 0x020 0 [(sc.toNat, 18), (d.toNat, 12), (a.toNat, 6)])
  | .movi _ sc d i => some (encWord false 0x021 0 [(sc.toNat, 18), (d.toNat, 12), (i.toNat, 0)])
  | .iadd _ sc d a b => some (encWord false 0x022 0 [(sc.toNat, 18), (d.toNat, 12), (a.toNat, 6), (b.toNat, 0)])
  | .iaddc _ sc d a b => some (encWord false 0x023 0 [(sc.toNat, 18), (d.toNat, 12), (a.toNat, 6), (b.toNat, 0)])
  | .isub _ sc d a b => some (encWord false 0x024 0 [(sc.toNat, 18), (d.toNat, 12), (a.toNat, 6), (b.toNat, 0)])
  | .imul _ sc d a b => some (encWord false 0x025 0 [(sc.toNat, 18), (d.toNat, 12), (a.toNat, 6), (b.toNat, 0)])
  | .imulh _ sc d a b => some (encWord false 0x026 0 [(sc.toNat, 18), (d.toNat, 12), (a.toNat, 6), (b.toNat, 0)])
  | .imad _ sc d a b => some (encWord false 0x027 0 [(sc.toNat, 18), (d.toNat, 12), (a.toNat, 6), (b.toNat, 0)])
  | .idot _ sc d a b => some (encWord false 0x028 0 [(sc.toNat, 18), (d.toNat, 12), (a.toNat, 6), (b.toNat, 0)])
  | .iand _ sc d a b => some (encWord false 0x029 0 [(sc.toNat, 18), (d.toNat, 12), (a.toNat, 6), (b.toNat, 0)])
  | .ior _ sc d a b => some (encWord false 0x02A 0 [(sc.toNat, 18), (d.toNat, 12), (a.toNat, 6), (b.toNat, 0)])
  | .ixor _ sc d a b => some (encWord false 0x02B 0 [(sc.toNat, 18), (d.toNat, 12), (a.toNat, 6), (b.toNat, 0)])
  | .shl _ sc d a b => some (encWord false 0x02C 0 [(sc.toNat, 18), (d.toNat, 12), (a.toNat, 6), (b.toNat, 0)])
  | .shr _ sc d a b => some (encWord false 0x02D 0 [(sc.toNat, 18), (d.toNat, 12), (a.toNat, 6), (b.toNat, 0)])
  | .sar _ sc d a b => some (encWord false 0x02E 0 [(sc.toNat, 18), (d.toNat, 12), (a.toNat, 6), (b.toNat, 0)])
  | .imin _ sc d a b => some (encWord false 0x02F 0 [(sc.toNat, 18), (d.toNat, 12), (a.toNat, 6), (b.toNat, 0)])
  | .imax _ sc d a b => some (encWord false 0x030 0 [(sc.toNat, 18), (d.toNat, 12), (a.toNat, 6), (b.toNat, 0)])
  | .iabs _ sc d a => some (encWord false 0x031 0 [(sc.toNat, 18), (d.toNat, 12), (a.toNat, 6)])
  | .icmp _ sc k a b => some (encWord false 0x032 0 [(sc.toNat, 18), (k.toNat, 12), (a.toNat, 6), (b.toNat, 0)])
  | .isel _ sc d a b => some (encWord false 0x033 0 [(sc.toNat, 18), (d.toNat, 12), (a.toNat, 6), (b.toNat, 0)])
  | .bfx _ sc d a b => some (encWord false 0x034 0 [(sc.toNat, 18), (d.toNat, 12), (a.toNat, 6), (b.toNat, 0)])
  | .bfi _ sc d a b => some (encWord false 0x035 0 [(sc.toNat, 18), (d.toNat, 12), (a.toNat, 6), (b.toNat, 0)])
  | .popc _ sc d a => some (encWord false 0x036 0 [(sc.toNat, 18), (d.toNat, 12), (a.toNat, 6)])
  | .clz _ sc d a => some (encWord false 0x037 0 [(sc.toNat, 18), (d.toNat, 12), (a.toNat, 6)])
  | .brev _ sc d a => some (encWord false 0x038 0 [(sc.toNat, 18), (d.toNat, 12), (a.toNat, 6)])
  | .lea _ sc d a b => some (encWord false 0x039 0 [(sc.toNat, 18), (d.toNat, 12), (a.toNat, 6), (b.toNat, 0)])
  | .pack _ sc d a b => some (encWord false 0x03A 0 [(sc.toNat, 18), (d.toNat, 12), (a.toNat, 6), (b.toNat, 0)])
  | .unpk _ sc d a => some (encWord false 0x03B 0 [(sc.toNat, 18), (d.toNat, 12), (a.toNat, 6)])
  | .fadd _ sc d a b => some (encWord false 0x060 0 [(sc.toNat, 18), (d.toNat, 12), (a.toNat, 6), (b.toNat, 0)])
  | .fsub _ sc d a b => some (encWord false 0x061 0 [(sc.toNat, 18), (d.toNat, 12), (a.toNat, 6), (b.toNat, 0)])
  | .fmul _ sc d a b => some (encWord false 0x062 0 [(sc.toNat, 18), (d.toNat, 12), (a.toNat, 6), (b.toNat, 0)])
  | .ffma _ sc d a b => some (encWord false 0x063 0 [(sc.toNat, 18), (d.toNat, 12), (a.toNat, 6), (b.toNat, 0)])
  | .fmin _ sc d a b => some (encWord false 0x064 0 [(sc.toNat, 18), (d.toNat, 12), (a.toNat, 6), (b.toNat, 0)])
  | .fmax _ sc d a b => some (encWord false 0x065 0 [(sc.toNat, 18), (d.toNat, 12), (a.toNat, 6), (b.toNat, 0)])
  | .fcmp _ sc k a b => some (encWord false 0x066 0 [(sc.toNat, 18), (k.toNat, 12), (a.toNat, 6), (b.toNat, 0)])
  | .fcvt _ sc d a l q r => some (encWord false 0x067 0 [(sc.toNat, 18), (d.toNat, 12), (a.toNat, 6), (l.toNat, 5), (q.toNat, 4), (r.toNat, 0)])
  | .frcp _ sc d a => some (encWord false 0x068 0 [(sc.toNat, 18), (d.toNat, 12), (a.toNat, 6)])
  | .frsq _ sc d a => some (encWord false 0x069 0 [(sc.toNat, 18), (d.toNat, 12), (a.toNat, 6)])
  | .fsqt _ sc d a => some (encWord false 0x06A 0 [(sc.toNat, 18), (d.toNat, 12), (a.toNat, 6)])
  | .fexp2 _ sc d a => some (encWord false 0x06B 0 [(sc.toNat, 18), (d.toNat, 12), (a.toNat, 6)])
  | .flog2 _ sc d a => some (encWord false 0x06C 0 [(sc.toNat, 18), (d.toNat, 12), (a.toNat, 6)])
  | .fsin _ sc d a => some (encWord false 0x06D 0 [(sc.toNat, 18), (d.toNat, 12), (a.toNat, 6)])
  | .fcos _ sc d a => some (encWord false 0x06E 0 [(sc.toNat, 18), (d.toNat, 12), (a.toNat, 6)])
  | .ftanh _ sc d a => some (encWord false 0x06F 0 [(sc.toNat, 18), (d.toNat, 12), (a.toNat, 6)])
  | .fclass _ sc d a => some (encWord false 0x070 0 [(sc.toNat, 18), (d.toNat, 12), (a.toNat, 6)])
  | .fdot _ sc d a b => some (encWord false 0x071 0 [(sc.toNat, 18), (d.toNat, 12), (a.toNat, 6), (b.toNat, 0)])
  | .fscl _ sc d a b => some (encWord false 0x072 0 [(sc.toNat, 18), (d.toNat, 12), (a.toNat, 6), (b.toNat, 0)])
  | .tmv _ sc d a b => some (encWord false 0x073 0 [(sc.toNat, 18), (d.toNat, 12), (a.toNat, 6), (b.toNat, 0)])
  | .shfl _ sc d a b => some (encWord false 0x0A0 0 [(sc.toNat, 18), (d.toNat, 12), (a.toNat, 6), (b.toNat, 0)])
  | .rixG _ sc d a b => some (encWord false 0x0A1 0 [(sc.toNat, 18), (d.toNat, 12), (a.toNat, 6), (b.toNat, 0)])
  | .rixS _ sc d a b => some (encWord false 0x0A1 0 [(sc.toNat, 18), (d.toNat, 12), (a.toNat, 6), (b.toNat, 0)])
  | .redl _ sc d a => some (encWord false 0x0A2 0 [(sc.toNat, 18), (d.toNat, 12), (a.toNat, 6)])
  | .redmi _ sc d a b => some (encWord false 0x0A3 0 [(sc.toNat, 18), (d.toNat, 12), (a.toNat, 6), (b.toNat, 0)])
  | .scan _ sc d a e => some (encWord false 0x0A4 0 [(sc.toNat, 18), (d.toNat, 12), (a.toNat, 6), (e.toNat, 0)])
  | .cfd _ sc d a => some (encWord false 0x0A5 0 [(sc.toNat, 18), (d.toNat, 12), (a.toNat, 6)])
  | .comb _ sc d a b => some (encWord false 0x0A6 0 [(sc.toNat, 18), (d.toNat, 12), (a.toNat, 6), (b.toNat, 0)])
  | .bcast _ sc d a b => some (encWord false 0x0A7 0 [(sc.toNat, 18), (d.toNat, 12), (a.toNat, 6), (b.toNat, 0)])
  | .ld _ sc d a n z => some (encWord false 0x0C0 0 [(sc.toNat, 18), (d.toNat, 12), (a.toNat, 6), (n.toNat, 2), (z.toNat, 0)])
  | .st _ sc d a n z => some (encWord false 0x0C1 0 [(sc.toNat, 18), (d.toNat, 12), (a.toNat, 6), (n.toNat, 2), (z.toNat, 0)])
  | .ldl _ sc d a n z => some (encWord false 0x0C2 0 [(sc.toNat, 18), (d.toNat, 12), (a.toNat, 6), (n.toNat, 2), (z.toNat, 0)])
  | .lds _ sc d a z => some (encWord false 0x0C3 0 [(sc.toNat, 18), (d.toNat, 12), (a.toNat, 6), (z.toNat, 0)])
  | .sts _ sc d a z => some (encWord false 0x0C4 0 [(sc.toNat, 18), (d.toNat, 12), (a.toNat, 6), (z.toNat, 0)])
  | .ldc _ sc d a z => some (encWord false 0x0C5 0 [(sc.toNat, 18), (d.toNat, 12), (a.toNat, 6), (z.toNat, 0)])
  | .prf _ sc a n z => some (encWord false 0x0C6 0 [(sc.toNat, 18), (a.toNat, 6), (n.toNat, 2), (z.toNat, 0)])
  | .pin _ sc d a z => some (encWord false 0x0C7 0 [(sc.toNat, 18), (d.toNat, 12), (a.toNat, 6), (z.toNat, 0)])
  | .unpin _ sc d a z => some (encWord false 0x0C8 0 [(sc.toNat, 18), (d.toNat, 12), (a.toNat, 6), (z.toNat, 0)])
  | .sinv _ sc d a => some (encWord false 0x0C9 0 [(sc.toNat, 18), (d.toNat, 12), (a.toNat, 6)])
  | .swb _ sc d a => some (encWord false 0x0CA 0 [(sc.toNat, 18), (d.toNat, 12), (a.toNat, 6)])
  | .swbInv _ sc d a => some (encWord false 0x0CA 0x1 [(sc.toNat, 18), (d.toNat, 12), (a.toNat, 6)])
  | .atom _ sc d a n z => some (encWord false 0x0E0 0x2 [(sc.toNat, 18), (d.toNat, 12), (a.toNat, 6), (n.toNat, 2), (z.toNat, 0)])
  | .acas _ sc d a n z => some (encWord false 0x0E1 0x2 [(sc.toNat, 18), (d.toNat, 12), (a.toNat, 6), (n.toNat, 2), (z.toNat, 0)])
  | .abinc _ sc d a n z => some (encWord false 0x0E2 0x2 [(sc.toNat, 18), (d.toNat, 12), (a.toNat, 6), (n.toNat, 2), (z.toNat, 0)])
  | .enter sc d a m => some (encWord false 0x0E3 0 [(sc.toNat, 18), (d.toNat, 12), (a.toNat, 6), (m.toNat, 0)])
  | .enterTry sc d a m => some (encWord false 0x0E3 0x8 [(sc.toNat, 18), (d.toNat, 12), (a.toNat, 6), (m.toNat, 0)])
  | .leave sc a => some (encWord false 0x0E4 0 [(sc.toNat, 18), (a.toNat, 6)])
  | .rstat sc d a => some (encWord false 0x0E5 0 [(sc.toNat, 18), (d.toNat, 12), (a.toNat, 6)])
  | .trap sc c => some (encWord false 0x140 0 [(sc.toNat, 18), (c.toNat, 0)])
  | .rett sc => some (encWord false 0x141 0 [(sc.toNat, 18)])
  | .tmaskSet sc d a => some (encWord false 0x142 0 [(sc.toNat, 18), (d.toNat, 12), (a.toNat, 6)])
  | .tmaskClr sc d a => some (encWord false 0x142 0x1 [(sc.toNat, 18), (d.toNat, 12), (a.toNat, 6)])
  | .tmaskWr sc d a => some (encWord false 0x142 0x2 [(sc.toNat, 18), (d.toNat, 12), (a.toNat, 6)])
  | .snop sc => some (encWord true 0x000 0 [(sc.toNat, 18)])
  | .bra sc p => some (encWord true 0x001 0 [(sc.toNat, 18), (p.toNat, 0)])
  | .brx sc a => some (encWord true 0x002 0 [(sc.toNat, 18), (a.toNat, 6)])
  | .call sc p => some (encWord true 0x003 0 [(sc.toNat, 18), (p.toNat, 0)])
  | .yield sc a => some (encWord true 0x004 0 [(sc.toNat, 18), (a.toNat, 6)])
  | .yieldX sc a => some (encWord true 0x004 0x1 [(sc.toNat, 18), (a.toNat, 6)])
  | .smov sc d i => some (encWord true 0x020 0 [(sc.toNat, 18), (d.toNat, 12), (i.toNat, 0)])
  | .sadd sc d a b => some (encWord true 0x021 0 [(sc.toNat, 18), (d.toNat, 12), (a.toNat, 6), (b.toNat, 0)])
  | .ssub sc d a b => some (encWord true 0x022 0 [(sc.toNat, 18), (d.toNat, 12), (a.toNat, 6), (b.toNat, 0)])
  | .smul sc d a b => some (encWord true 0x023 0 [(sc.toNat, 18), (d.toNat, 12), (a.toNat, 6), (b.toNat, 0)])
  | .smad sc d a b => some (encWord true 0x024 0 [(sc.toNat, 18), (d.toNat, 12), (a.toNat, 6), (b.toNat, 0)])
  | .sand sc d a b => some (encWord true 0x025 0 [(sc.toNat, 18), (d.toNat, 12), (a.toNat, 6), (b.toNat, 0)])
  | .sor sc d a b => some (encWord true 0x026 0 [(sc.toNat, 18), (d.toNat, 12), (a.toNat, 6), (b.toNat, 0)])
  | .sxor sc d a b => some (encWord true 0x027 0 [(sc.toNat, 18), (d.toNat, 12), (a.toNat, 6), (b.toNat, 0)])
  | .sshl sc d a b => some (encWord true 0x028 0 [(sc.toNat, 18), (d.toNat, 12), (a.toNat, 6), (b.toNat, 0)])
  | .sshr sc d a b => some (encWord true 0x029 0 [(sc.toNat, 18), (d.toNat, 12), (a.toNat, 6), (b.toNat, 0)])
  | .smin sc d a b => some (encWord true 0x02A 0 [(sc.toNat, 18), (d.toNat, 12), (a.toNat, 6), (b.toNat, 0)])
  | .smax sc d a b => some (encWord true 0x02B 0 [(sc.toNat, 18), (d.toNat, 12), (a.toNat, 6), (b.toNat, 0)])
  | .scmp sc d a b => some (encWord true 0x02C 0 [(sc.toNat, 18), (d.toNat, 12), (a.toNat, 6), (b.toNat, 0)])
  | .ssel sc d a b => some (encWord true 0x02D 0 [(sc.toNat, 18), (d.toNat, 12), (a.toNat, 6), (b.toNat, 0)])
  | .slea sc d a b => some (encWord true 0x02E 0 [(sc.toNat, 18), (d.toNat, 12), (a.toNat, 6), (b.toNat, 0)])
  | .sld sc d a n z => some (encWord true 0x0C0 0 [(sc.toNat, 18), (d.toNat, 12), (a.toNat, 6), (n.toNat, 2), (z.toNat, 0)])
  | .sst sc d a n z => some (encWord true 0x0C1 0 [(sc.toNat, 18), (d.toNat, 12), (a.toNat, 6), (n.toNat, 2), (z.toNat, 0)])
  | .hdef sc d a b => some (encWord true 0x0C2 0 [(sc.toNat, 18), (d.toNat, 12), (a.toNat, 6), (b.toNat, 0)])
  | .rdecl sc d a b => some (encWord true 0x0E0 0 [(sc.toNat, 18), (d.toNat, 12), (a.toNat, 6), (b.toNat, 0)])
  | .fence sc c m => some (encWord true 0x0F0 0 [(sc.toNat, 18), (c.toNat, 2), (m.toNat, 0)])
  | .barSync sc d a c => some (encWord true 0x0F1 0 [(sc.toNat, 18), (d.toNat, 12), (a.toNat, 6), (c.toNat, 2)])
  | .barArrive sc d a c => some (encWord true 0x0F1 0x1 [(sc.toNat, 18), (d.toNat, 12), (a.toNat, 6), (c.toNat, 2)])
  | .barWait sc d a c => some (encWord true 0x0F1 0x2 [(sc.toNat, 18), (d.toNat, 12), (a.toNat, 6), (c.toNat, 2)])
  | .pbarInit sc a b => some (encWord true 0x0F2 0 [(sc.toNat, 18), (a.toNat, 6), (b.toNat, 0)])
  | .pbarArrive sc a => some (encWord true 0x0F2 0x1000 [(sc.toNat, 18), (a.toNat, 6)])
  | .pbarWait sc a b => some (encWord true 0x0F2 0x2000 [(sc.toNat, 18), (a.toNat, 6), (b.toNat, 0)])
  | .tlwait sc d a => some (encWord true 0x0F3 0 [(sc.toNat, 18), (d.toNat, 12), (a.toNat, 6)])
  | .swarm sc d a => some (encWord true 0x0F4 0 [(sc.toNat, 18), (d.toNat, 12), (a.toNat, 6)])
  | .swwait sc d a => some (encWord true 0x0F5 0 [(sc.toNat, 18), (d.toNat, 12), (a.toNat, 6)])
  | .cbdef sc d a b => some (encWord true 0x100 0 [(sc.toNat, 18), (d.toNat, 12), (a.toNat, 6), (b.toNat, 0)])
  | .cbadvWroom sc d a => some (encWord true 0x101 0 [(sc.toNat, 18), (d.toNat, 12), (a.toNat, 6)])
  | .cbadvPut sc d a => some (encWord true 0x101 0x1 [(sc.toNat, 18), (d.toNat, 12), (a.toNat, 6)])
  | .cbadvWdata sc d a => some (encWord true 0x101 0x2 [(sc.toNat, 18), (d.toNat, 12), (a.toNat, 6)])
  | .cbadvGet sc d a => some (encWord true 0x101 0x3 [(sc.toNat, 18), (d.toNat, 12), (a.toNat, 6)])
  | .cpy sc d a b => some (encWord true 0x102 0 [(sc.toNat, 18), (d.toNat, 12), (a.toNat, 6), (b.toNat, 0)])
  | .cpyx sc d a b => some (encWord true 0x103 0 [(sc.toNat, 18), (d.toNat, 12), (a.toNat, 6), (b.toNat, 0)])
  | .tdef sc d a => some (encWord true 0x104 0 [(sc.toNat, 18), (d.toNat, 12), (a.toNat, 6)])
  | .mld sc d a f => some (encWord true 0x105 0 [(sc.toNat, 18), (d.toNat, 12), (a.toNat, 6), (f.toNat, 2)])
  | .mma sc d a f r => some (encWord true 0x106 0 [(sc.toNat, 18), (d.toNat, 12), (a.toNat, 6), (f.toNat, 2), (r.toNat, 0)])
  | .mmas sc d a f => some (encWord true 0x107 0 [(sc.toNat, 18), (d.toNat, 12), (a.toNat, 6), (f.toNat, 2)])
  | .mwb sc d a f => some (encWord true 0x108 0 [(sc.toNat, 18), (d.toNat, 12), (a.toNat, 6), (f.toNat, 2)])
  | .mclr sc d t m => some (encWord true 0x109 0 [(sc.toNat, 18), (d.toNat, 12), (t.toNat, 4), (m.toNat, 0)])
  | .ixg sc d a f => some (encWord true 0x10A 0 [(sc.toNat, 18), (d.toNat, 12), (a.toNat, 6), (f.toNat, 2)])
  | .ixs sc d a f => some (encWord true 0x10B 0 [(sc.toNat, 18), (d.toNat, 12), (a.toNat, 6), (f.toNat, 2)])
  | .ectxBind sc d e => some (encWord true 0x10C 0 [(sc.toNat, 18), (d.toNat, 12), (e.toNat, 3)])
  | .ectxUnbind sc d => some (encWord true 0x10C 0x1 [(sc.toNat, 18), (d.toNat, 12)])
  | .ectxDrain sc d => some (encWord true 0x10C 0x2 [(sc.toNat, 18), (d.toNat, 12)])
  | .ectxPin sc d => some (encWord true 0x10C 0x3 [(sc.toNat, 18), (d.toNat, 12)])
  | .ectxUnpin sc d => some (encWord true 0x10C 0x4 [(sc.toNat, 18), (d.toNat, 12)])
  | .ectxResume sc d => some (encWord true 0x10C 0x5 [(sc.toNat, 18), (d.toNat, 12)])
  | .ectxAbort sc d => some (encWord true 0x10C 0x6 [(sc.toNat, 18), (d.toNat, 12)])
  | .estat sc d a i => some (encWord true 0x10D 0 [(sc.toNat, 18), (d.toNat, 12), (a.toNat, 6), (i.toNat, 0)])
  | .rredRs sc d a e r => some (encWord true 0x120 0 [(sc.toNat, 18), (d.toNat, 12), (a.toNat, 6), (e.toNat, 3), (r.toNat, 2)])
  | .rredAr sc d a e r => some (encWord true 0x120 0x1 [(sc.toNat, 18), (d.toNat, 12), (a.toNat, 6), (e.toNat, 3), (r.toNat, 2)])
  | .rcat sc d a => some (encWord true 0x121 0 [(sc.toNat, 18), (d.toNat, 12), (a.toNat, 6)])
  | .lput sc d a => some (encWord true 0x122 0 [(sc.toNat, 18), (d.toNat, 12), (a.toNat, 6)])
  | .launch sc d a b => some (encWord true 0x130 0 [(sc.toNat, 18), (d.toNat, 12), (a.toNat, 6), (b.toNat, 0)])
  | .gnode sc d a b => some (encWord true 0x131 0 [(sc.toNat, 18), (d.toNat, 12), (a.toNat, 6), (b.toNat, 0)])
  | .tapePush sc a => some (encWord true 0x132 0 [(sc.toNat, 18), (a.toNat, 6)])
  | .tapeRun sc d a => some (encWord true 0x132 0x1 [(sc.toNat, 18), (d.toNat, 12), (a.toNat, 6)])
  | .tapeDepth sc a => some (encWord true 0x132 0x2 [(sc.toNat, 18), (a.toNat, 6)])
  | .tcut sc a => some (encWord true 0x133 0 [(sc.toNat, 18), (a.toNat, 6)])
  | .prio sc a => some (encWord true 0x134 0 [(sc.toNat, 18), (a.toNat, 6)])
  | .rdsr sc d i => some (encWord true 0x140 0 [(sc.toNat, 18), (d.toNat, 12), (i.toNat, 0)])
  | .wrsr sc d i => some (encWord true 0x141 0 [(sc.toNat, 18), (d.toNat, 12), (i.toNat, 0)])
  | .dtld sc d a => some (encWord true 0x142 0 [(sc.toNat, 18), (d.toNat, 12), (a.toNat, 6)])
  | .syscShoot sc d => some (encWord true 0x143 0x1 [(sc.toNat, 18), (d.toNat, 12)])
  | .syscTerm sc d => some (encWord true 0x143 0x2 [(sc.toNat, 18), (d.toNat, 12)])
  | .syscQdesc sc d => some (encWord true 0x143 0x3 [(sc.toNat, 18), (d.toNat, 12)])
  | .syscLevel sc d => some (encWord true 0x143 0x4 [(sc.toNat, 18), (d.toNat, 12)])
  | .syscRing sc d => some (encWord true 0x143 0x5 [(sc.toNat, 18), (d.toNat, 12)])
  | .syscPodwin sc d => some (encWord true 0x143 0x6 [(sc.toNat, 18), (d.toNat, 12)])
  | .syscFpdef sc d => some (encWord true 0x143 0x7 [(sc.toNat, 18), (d.toNat, 12)])
  | .syscWhere sc d => some (encWord true 0x143 0x100 [(sc.toNat, 18), (d.toNat, 12)])
  | _ => none

/-- The prefix word (R47). -/
def encodePfx (p : Pfx) : Nat :=
  0x3FF * 2 ^ 21 + p.k.toNat * 2 ^ 18 + p.rm.toNat * 2 ^ 15 + p.mz.toNat * 2 ^ 14 + p.rt.toNat * 2 ^ 13 + p.c.toNat * 2 ^ 7 + p.x.toNat

/-- The words of an instruction, the prefix first. -/
def encode (i : Instr) : List (BitVec 32) :=
  match encodeNat i with
  | none => []
  | some w =>
    (match i.pf? with | none => [] | some p => [BitVec.ofNat 32 (encodePfx p)]) ++ [BitVec.ofNat 32 w]

/-- The bytes of a word, lowest address first (R5, R39). -/
def wordBytes (w : BitVec 32) : List Byte :=
  [w.extractLsb' 0 8, w.extractLsb' 8 8, w.extractLsb' 16 8, w.extractLsb' 24 8]

/-- The bytes of an instruction as memory holds them. -/
def encodeBytes (i : Instr) : List Byte := (encode i).flatMap wordBytes

/-- The bytes of a word of `nbits` bits followed by zero bytes, up to the longest instruction, a prefix pair of eight bytes. -/
def tableBytes (nbits w : Nat) : List Byte :=
  (List.range 8).map fun k => if k * 8 < nbits then BitVec.ofNat 8 (w / 2 ^ (8 * k)) else 0

/-- The instruction the decoder reads from an instruction whose bits are w, as the opcode table numbers them (log entry 37). -/
def decodeTableWord (nbits w : Nat) : Option Instr :=
  match decode shippingMap (tableBytes nbits w) with
  | .ok (i, _) => some i
  | .error _ => none

end Sys2Proof
end

