-- ==== Sys2Proof/Config.lean ====
section
/-! DEFINITION. What the spec leaves to the device: free values without a body, so that nothing can be proved of them. A meaning
keeps each of them within the bound the spec sets. -/

namespace Sys2Proof

/-- Where the special-function unit's answer lies among the results that R140 allows: an offset in units in the last place from
the nearest result, for an opcode, a format code, FPMODE.LOWACC and an operand code. Log entry 6. -/
opaque Config.specialUlps : Nat → Nat → Bool → Nat → Int

/-- The firmware image that the package is shipped with in flash; of any image, its SHA3-512 hash, its version, and whether its ML-DSA-87
signature verifies against the vendor key; and the fused minimum version (R347, R350). Log entry 8. -/
opaque Config.firmwareImage : List Byte
opaque Config.imageHash : List Byte → List Byte
opaque Config.imageVersion : List Byte → Nat
opaque Config.imageSigned : List Byte → Bool
opaque Config.firmwareMinVersion : Nat

/-- Entries of the RAS ring beyond its first (R353 gives no size). Log entry 17. -/
opaque Config.rasRing : Nat

/-- Sedum's signature over the bytes of an attestation report (R350). Log entry 8. -/
opaque Config.signature : List Byte → List Byte

/-- The constant-store image that a tag stands for, as the runtime built it from a kernel's source (R31, R196). Log entry 51. -/
opaque Config.constImage : Nat → List Byte

end Sys2Proof
end

