-- ==== Sys2Proof/Machine/State.lean ====
section
/-! DEFINITION. Everything the spec gives the machine, as plain data, the reasons a step can stop, and the state after reset. Sparse
tables are lists of (number, value); numbers of groups, crews, contexts, tasks and partitions are positions in the state's lists. -/

namespace Sys2Proof.Machine

/-! ## Lanes (R80, R86, R100 to R114, R202 to R208) -/

/-- The state of a lane (R80). `held` lanes are parked at a faulting word until the handler is free (R86); `boundary` lanes belong to
a continuation and wait at a fork boundary or at a deferred fault (R104, R105); `absent` lanes of a shadow slot did not fork (R100). -/
inductive LaneMode where
  | running | handler | parked | held | boundary | exited | absent
deriving DecidableEq, Repr

/-- A room that a lane holds: region number and mode code (R202). -/
structure Hold where
  region : Nat
  mode : Nat
deriving DecidableEq, Repr

/-- A fork record of a callee lane (R100, R106, R108). -/
structure ForkRec where
  link : Word
  r1 : BitVec 6
  r2 : BitVec 6
  pred1 : Word
  pred2 : Word
  nest : Nat
  inst : Nat
  acq : Bool
  squashed : Bool
deriving DecidableEq, Repr

/-- A 32-byte sector of a space: 0 device memory (by virtual address), 1 the crew's scratchpad window, 2 the quad's constant
store (R103). -/
structure Sector where
  space : Nat
  no : Nat
deriving DecidableEq, Repr

/-- What the stamps of an access are computed with (R170): the reuse epoch, CREWPACE and REUSEF.LOG of a moment. -/
structure ReuseClock where
  epoch : BitVec 16
  pace : BitVec 16
  log : Nat
deriving DecidableEq, Repr

/-- One byte that a continuation's store buffer holds back (R103). -/
structure HeldByte where
  space : Nat
  addr : Nat
  val : Byte
  /-- The store's NUD, and the clocks of its stamp at its issue (R170). -/
  nud : Nat
  clk : ReuseClock
deriving DecidableEq, Repr

/-- The engine fields of a trap frame (R320, R240, R270). -/
structure EngFrame where
  ocause : BitVec 8
  osub : BitVec 8
  tl : Nat
  engn : Nat
  cmdno : Nat
  step : Nat
  row : Nat
  col : Nat
  kstep : Nat
  /-- Tensor and format code of A, of the weights and of the destination, each 12 bits: format in [11:8] (R320, offset 0x048). -/
  tida : BitVec 12
  tidb : BitVec 12
  tidd : BitVec 12
deriving DecidableEq, Repr

/-- What a trap reports (R320, R327). -/
structure TrapInfo where
  cause : BitVec 8
  sub : BitVec 8
  faddr : Word
  eng : Option EngFrame
deriving DecidableEq, Repr

/-- A tensor-table entry: the eight words of its descriptor (R247). -/
abbrev Tensor := Vector Word 8

/-- A translated byte address. -/
structure Xl where
  pa : Nat
  /-- 0 DT, 1 SI, 2 UC (R177). -/
  attr : Nat
  host : Bool
  w : Bool
  x : Bool
  u : Bool
  /-- Base and logarithm of the size of the page, and the leaf. -/
  base : Nat
  log : Nat
  leaf : Word
deriving DecidableEq, Repr

/-- The outcome of a walk: a page, a fault with its sub-cause of PAGE, a table whose home is lost (R194), or a table at an address without
memory. -/
inductive Walk where
  | page (x : Xl)
  | fault (sub : BitVec 8)
  | lost
  | void (pa : Nat)
deriving DecidableEq, Repr

/-- One unit of issue: who issues it, and, when it is performed again (R322, R316), what was captured at its first issue. -/
structure Issue where
  g : Nat
  lanes : Lanes
  addr : Word
  word : BitVec 32
  pword : BitVec 32
  /-- The unit has issued before: its operands are `imgs`, and its counters have moved. -/
  replay : Bool
  /-- Its issue still goes on: a unit that waits, or that is performed later than it issued (R316). An entry that `rett` performs is
  issued anew (R322). -/
  late : Bool
  /-- Images of the registers read, one for each of `Instr.reads` (R318). -/
  imgs : List Img
  /-- The result image of a consumer-mask unit (R318). -/
  res : Option Img
  kimg : Mask
  simg : Mask
  /-- The lowest active lane at its issue, from which a scalar operand is read (R160), whatever lanes are left of it. -/
  low : Option Nat
  rdone : Bool
  dlv : BitVec 6
  /-- Only the register writes of a unit that moves counters remain (R318). -/
  regOnly : Bool
  /-- Bytes of the scratchpad that the unit read at its issue (R310 to R312), and the tensor entries that it names (R246). -/
  data : List Byte
  ents : List (Nat × Option Tensor)
  /-- Order of issue within the model, and the cycle of issue. -/
  seq : Nat
  cycle : Nat
  /-- The second unit of a uniform-lane pair: it counts as if it had issued a cycle later (R54). -/
  second : Bool
  /-- FPMODE at issue: RM, NFT and LOWACC are read from it (R69, R71, R141). -/
  fp : Word
  clk : ReuseClock
  /-- Every fault of the unit has been decided: the sectors it has still to access, and the values it has read (R162, R316). -/
  left : Option (List Nat)
  got : List (Nat × Nat)
  /-- A death of a peer has found the condition of its wait met: it passes (R326). -/
  met : Bool
  /-- The translations of the lines of an access that is performed later than it issued, taken at its issue (R182). -/
  walks : List (Nat × Walk)
deriving DecidableEq, Repr

/-- A unit held in decoded form (R57, R316, R318). `bad` is a trap that the unit raises when it is performed; `illegal` says that its
word is no instruction. -/
structure UnitRec where
  instr : Instr
  iss : Issue
  bad : Option TrapInfo
  illegal : Bool
deriving DecidableEq, Repr

/-- A trap that waits for the handler (R86): what it reports, the units withdrawn for the lane, the counter the lane resumes at,
and the faulting unit's words and address. -/
structure HeldRec where
  trap : TrapInfo
  ents : List UnitRec
  resume : Word
  word : BitVec 32
  pword : BitVec 32
  addr : Word
deriving DecidableEq, Repr

/-- A lane's wait at a room entry (R202, R208); `handler` says that the lane parked in its group's handler. -/
structure ParkRec where
  region : Nat
  mode : Nat
  dest : BitVec 6
  unit : UnitRec
  count : Nat
  limit : Nat
  handler : Bool
deriving DecidableEq, Repr

/-- The state of one lane. -/
structure Lane where
  mode : LaneMode
  pc : Word
  ready : Nat
  holds : List Hold
  park : Option ParkRec
  held : Option HeldRec
  fd : Nat
  /-- Fork records, the innermost first; `base` of them, at the end, were inherited from the caller (R100, R101). -/
  recs : List ForkRec
  base : Nat
  hintValid : Bool
  hint0 : Word
  hint1 : Word
  loadSet : List Sector
  storeBuf : List HeldByte
  /-- Continuation lane only: flags NV to NX, UNIST.DIS and UNIST.FIRST (R100). -/
  flags : BitVec 5
  dis : Bool
  first : Word
deriving DecidableEq, Repr

/-- A lane at a counter, running. -/
def Lane.start (pc : Word) : Lane :=
  { mode := .running, pc := pc, ready := 0, holds := [], park := none, held := none, fd := 0, recs := [], base := 0,
    hintValid := false, hint0 := 0, hint1 := 0, loadSet := [], storeBuf := [], flags := 0, dis := false, first := 0 }

/-! ## Groups -/

/-- The destination of a pending write of a fixed-latency pipe: a register specifier, or a mask register. -/
inductive Dest where
  | reg (spec : BitVec 6)
  | mask (k : Nat)
deriving DecidableEq, Repr

/-- A fixed-latency write that has issued and is not yet readable (R50 to R53). Bits outside `en` keep their value; a mask uses the
low 256 bits. `last` holds the lanes whose la it enters (R45), `seq` its place in the order of issue, `issued` the cycle of its
issue, and `uni` says that a uniform instruction wrote it (R130). `full` is the value that enters la where a younger write has been
performed first (R52), `flags` the flags that each lane raises when the write is performed (R72). -/
structure Pending where
  dest : Dest
  en : Img
  val : Img
  last : Lanes
  seq : Nat
  avail : Nat
  issued : Nat
  uni : Bool
  full : Option Img
  flags : List (Nat × BitVec 5)
deriving DecidableEq, Repr

/-- A group's barrier record (R229): id, scope and the generation it arrived in. -/
structure BarRec where
  id : Nat
  scope : Nat
  gen : Nat
deriving DecidableEq, Repr

/-- Where a group stands. -/
inductive Place where
  | resident | evicted | retired | dead
deriving DecidableEq, Repr

/-- The save slot of a group: the frame recorded at the last trap (R86, R319, R322). -/
structure SaveSlot where
  fa : Word
  lanes : Lanes
  units : List UnitRec
deriving DecidableEq, Repr

/-- A deferred pre-emption request and the cycle in which it arrived (R324). -/
structure Preempt where
  arrived : Nat
deriving DecidableEq, Repr

/-- The state of one group. -/
structure Group where
  crew : Nat
  cid : Nat
  nregs : Nat
  v : Vector Img 48
  o : Vector Img 8
  la : Img
  lb : Img
  /-- Which results stand in la and lb of each lane, in the order of issue (R45). -/
  laSeq : Vector Nat 32
  lbSeq : Vector Nat 32
  /-- k1 to k7 stand in entries 1 to 7; entry 0 is not used, since k0 reads as all ones. -/
  k : Vector Mask 8
  lanes : Vector Lane 32
  fix : List Pending
  units : List UnitRec
  waits : List UnitRec
  /-- Writes not yet acknowledged, each by the cycle of its issue (R16, R225). -/
  acks : List Nat
  fpmode : Word
  unist : Word
  wdog : Word
  wdM : Word
  wdN : Nat
  forkst : Word
  prio : Word
  trapmask : Word
  save : Option SaveSlot
  savedUnits : List UnitRec
  preempt : Option Preempt
  gtag : Nat
  bars : List BarRec
  /-- Package core number (R14) and slot on it (R355). -/
  core : Nat
  slot : Nat
  place : Place
  /-- Order of eviction and of dispatch (R309). -/
  evictNo : Nat
  dispatchNo : Nat
  lastSel : Nat
  yielded : Bool
  /-- The fork instance whose continuation this group is (R99). -/
  shadow : Option Nat
deriving DecidableEq, Repr

/-- A group at its first instruction, without registers set up (R195, R306). -/
def Group.fresh (crew cid nregs core slot gtag : Nat) (pc fpmode prio : Word) : Group :=
  { crew := crew, cid := cid, nregs := nregs, v := Vector.replicate 48 0, o := Vector.replicate 8 0, la := 0, lb := 0, laSeq := Vector.replicate 32 0, lbSeq := Vector.replicate 32 0,
    k := Vector.replicate 8 0, lanes := Vector.replicate 32 (Lane.start pc), fix := [], units := [], waits := [], acks := [],
    fpmode := fpmode, unist := 0, wdog := 0, wdM := 0, wdN := 0, forkst := 0, prio := prio, trapmask := 0, save := none,
    savedUnits := [], preempt := none, gtag := gtag, bars := [], core := core, slot := slot, place := .resident, evictNo := 0,
    dispatchNo := 0, lastSel := 0, yielded := false, shadow := none }

/-- A fork instance (R99, R102, R106): calling group, shadow group, forking lanes, call site, return registers, write set. -/
structure ForkInst where
  caller : Nat
  shadow : Nat
  lanes : Lanes
  site : Word
  r1 : BitVec 6
  r2 : BitVec 6
  writes : List Sector
  overflow : Bool
  /-- The predictor is still to be updated by the lowest forking lane (R102). -/
  first : Nat
  live : Bool
deriving DecidableEq, Repr

/-- An entry of a core's return-value predictor (R102). -/
structure PredEnt where
  tag : BitVec 42
  last0 : Word
  last1 : Word
  stride0 : Word
  stride1 : Word
  conf0 : Nat
  conf1 : Nat
deriving DecidableEq, Repr

/-! ## Crews -/

/-- A sync word (R233). -/
structure SyncWord where
  target : BitVec 32
  count : BitVec 32
  gen : BitVec 64
deriving DecidableEq, Repr

/-- The side of a circular buffer (R241). -/
inductive Side where
  | groups | copy | matrix | index
deriving DecidableEq, Repr

/-- A circular buffer (R241, R243). `cap` 0 means undeclared. -/
structure CircBuf where
  base : Nat
  cap : Nat
  elog : Nat
  pside : Side
  cside : Side
  hin : BitVec 4
  pp : BitVec 32
  cp : BitVec 32
deriving DecidableEq, Repr

/-- The engines of a quad. -/
inductive Engine where
  | copy | matrix | index
deriving DecidableEq, Repr

/-- An accumulator tile: type (true: i32) and the elements that are not zero, by 128·row + column (R257). -/
structure Tile where
  isInt : Bool
  elems : List (Nat × BitVec 32)
deriving DecidableEq, Repr

/-- An update of `ixs` in flight (R280 to R282): its number, its source row, and, once it has been translated, the pieces of its table
row, each with its address, its length and its physical address, the number of pieces added, and the cycle of its translation (R182). -/
structure Upd where
  k : Nat
  src : List Byte
  row : Option (List (Nat × Nat × Nat))
  next : Nat
  begun : Nat
deriving DecidableEq, Repr

/-- An engine command on a timeline (R237, R238, R251): its instruction and word, the block words read at issue, the tensor entries it
names, its group's FPMODE.NFT at issue, the cycle of its issue, and how far it has come. -/
structure Cmd where
  n : Nat
  g : Nat
  instr : Instr
  word : BitVec 32
  blk : List Word
  ent : Option Tensor
  ent2 : Option Tensor
  nft : Bool
  issuedAt : Nat
  /-- The cycle in which it was queued and numbered (R237). -/
  queued : Nat
  started : Bool
  /-- Every step has been made; the command has still to finish. -/
  done : Bool
  /-- The step counter (R249, R250, R271, R279, R282, R291). -/
  step : Nat
  /-- Place within the work of the step counter: the next destination sector, image byte or sector of a row. -/
  pos : Nat
  /-- The check of R78 or R280 is not made for the step it resumes at (R270, R280). -/
  noCheck : Bool
  /-- Copies that a follow-on matrix command waits for: timeline and number (R251). -/
  links : List (Nat × Nat)
  /-- A copy whose follow-on command has been issued (R251). -/
  linked : Bool
  /-- Bytes read and not yet used up: bitmaps, a source row, an operand image, results to be sent. -/
  held : List Byte
  /-- A K-step that has begun (R258). -/
  opened : Bool
  /-- The tile that `mwb` has read (R259, R268). -/
  tile : Option Tile
  /-- The source sectors that the command has read: by sector of device memory, 2^100 + sector of the scratchpad window, or 2^101 + sector
  of the stream through its input buffer (R238, R263, R275). -/
  got : List (Nat × BitVec 256)
  /-- A fault has stopped the command while its context was parked on another (R240). -/
  stopped : Bool
  /-- The updates of `ixs` in flight, the least first, and the fault of one: its number, cause, sub-cause and value (R280 to R282). -/
  ups : List Upd
  fail : Option (Nat × BitVec 8 × BitVec 8 × Nat)
  /-- The journal sectors that `ixs` has read, by offset, with the bits set since (R281). -/
  journal : List (Nat × BitVec 256)
  /-- Lines that the command requested last, by partition and line (log entry 15). -/
  lines : List (Nat × Nat)
  /-- Lines that the tile fetch unit has pinned for the command (R262). -/
  pins : List (Nat × Nat)
  /-- Number on the ring in matching order, and the last cycle in which something was heard of the command (R290, R296). -/
  nth : Nat
  heard : Nat
deriving DecidableEq, Repr

/-- A parked engine context (R240); for a NONFINITE of the matrix engine the frame names the command word (R78). -/
structure ParkedCmd where
  n : Nat
  g : Nat
  trap : TrapInfo
  word : Option (BitVec 32)
  /-- The issuing group has taken the trap. -/
  taken : Bool
deriving DecidableEq, Repr

/-- A weight slot (R257, R265): codes by 128·k + column, those that are not 0, and the exponent bytes of an MXINT8 tile; `rows` and `cols`
count the k and the columns that lie inside the tensor's extents (R262). -/
structure WSlot where
  loaded : Bool
  rows : Nat
  cols : Nat
  fmt : Nat
  xv : BitVec 32
  tid : Nat
  sb : BitVec 32
  codes : List (Nat × Nat)
  exps : List (Nat × Byte)
deriving DecidableEq, Repr

/-- A matrix context (R257). -/
structure MatCtx where
  acc : Vector Tile 4
  w : Vector WSlot 2
  /-- Exact partial sums of a K-step in progress, row by row, each with the worst of its operands: NaN, infinite or finite (R270). -/
  part : List (List (FVal × FVal))
deriving DecidableEq, Repr

def Tile.zero (isInt : Bool) : Tile := ⟨isInt, []⟩
def WSlot.empty : WSlot := ⟨false, 0, 0, 0, 0, 0, 0, [], []⟩
def MatCtx.empty : MatCtx := ⟨Vector.replicate 4 (Tile.zero false), Vector.replicate 2 WSlot.empty, []⟩

/-- A timeline and the engine context bound to it (R236, R239, R240, R254). -/
structure Timeline where
  count : Nat
  issued : Nat
  engine : Option Engine
  resident : Bool
  pinned : Bool
  parked : Option ParkedCmd
  aborted : Bool
  draining : Bool
  /-- Order of the last command started, and whether a command has completed since the context became resident (R239). -/
  lastStart : Nat
  served : Bool
  /-- Order of the last K-step (R258). -/
  kturn : Nat
  cmds : List Cmd
  mat : MatCtx
deriving DecidableEq, Repr

def Timeline.unbound : Timeline :=
  { count := 0, issued := 0, engine := none, resident := false, pinned := false, parked := none, aborted := false,
    draining := false, lastStart := 0, served := false, kturn := 0, cmds := [], mat := MatCtx.empty }

def CircBuf.undeclared : CircBuf := ⟨0, 0, 0, .groups, .groups, 0, 0, 0⟩

/-- A barrier instance (R229): named by task, id and the instance of the scope; at core and quad scope, by the crew as well. -/
structure BarInst where
  task : Nat
  crew : Option Nat
  id : Nat
  scope : Nat
  inst : Nat
  gen : Nat
  cnt : Nat
  limit : Nat
  /-- Pod scope: this package's count is reached (R295). -/
  reached : Bool
  /-- Cycle since which the instance waits for a peer (R296). -/
  since : Nat
deriving DecidableEq, Repr

/-- What the waits of a crew's peers are judged by after a group of it has died: the windows, buffers and barriers as they stood
when the lanes of the dead group entered the exited state (R326) (log entry 32). -/
structure DeathSnap where
  scratch : List Host.Cell
  cb : Vector CircBuf 16
  bars : List BarInst
deriving DecidableEq, Repr

/-- The state of one crew. -/
structure Crew where
  ctx : Nat
  task : Nat
  quad : Nat
  crewNo : Nat
  groups : List Nat
  window : Nat
  /-- Scratchpad granules: core of the quad and granule of that core (R357). -/
  granules : List (Nat × Nat)
  cimg : Nat
  scratch : List Host.Cell
  clk : Word
  clkIssues : Nat
  pace : BitVec 16
  /-- Epochs with a resident group since the last recomputation of CREWPACE (R169). -/
  paceEpochs : Nat
  /-- A group that was resident in the current epoch has left its core since. -/
  paceSeen : Bool
  /-- A 256th tick has passed and CREWPACE is to be recomputed (R169). -/
  paceDue : Bool
  sw : Vector SyncWord 16
  cb : Vector CircBuf 16
  tl : Vector Timeline 8
  retired : Bool
  failed : Bool
  atDeath : Option DeathSnap
deriving DecidableEq, Repr

/-! ## Contexts -/

/-- A demand for a room (R202, R205). -/
structure Demand where
  g : Nat
  lane : Nat
  mode : Nat
deriving DecidableEq, Repr

/-- An entry of the region table (R197 to R210). -/
structure Region where
  base : Word
  lines : Nat
  modes : BitVec 5
  etype : Nat
  aop : Nat
  sent : BitVec 32
  w : Nat
  tmo : Nat
  open_ : Option Nat
  admitting : Bool
  /-- Cycle in which the admission window closes, while it runs (R205). -/
  window : Option Nat
  demands : List Demand
  head : Nat
  tail : Nat
  incomplete : Bool
  broken : Bool
  drain : Bool
deriving DecidableEq, Repr

/-- A partial line of an ACCUM region in one quad (R200). -/
structure Partial where
  region : Nat
  quad : Nat
  line : Nat
  data : Img
deriving DecidableEq, Repr

/-- A replica sector in a neighbour's L1 (R190, R192): quad, virtual sector number, contents. -/
structure Replica where
  quad : Nat
  sector : Nat
  data : BitVec 256
deriving DecidableEq, Repr

/-- A halo tile (R190). -/
structure Halo where
  base : Word
  rows : Nat
  rlen : Nat
  pitch : Nat
  dr : Nat
  dc : Nat
  dirs : BitVec 4
  owner : Nat
  replicas : List Replica
  /-- Strip sectors written since the last push. -/
  stale : List Nat
deriving DecidableEq, Repr

/-- A run of the tape (R312). -/
structure TapeRun where
  mark : Nat
  level : Nat
  task : Option Nat
deriving DecidableEq, Repr

/-- The state of one context (R328, R329). -/
structure Context where
  part : Nat
  /-- The image of the partition that the context belongs to (R342). -/
  image : Nat
  live : Bool
  ctxid : Word
  /-- Entries of the decode table that differ from the shipping map: set (true: uniform), opcode, meaning (R56). -/
  decode : List (Bool × Nat × Option Nat)
  regions : List (Nat × Region)
  partials : List Partial
  tensors : List (Nat × Tensor)
  halos : List (Nat × Halo)
  sbchk : Word
  unichk : Word
  forkcfg : Word
  roomtmo : Word
  reusef : Word
  reusest : Word
  wayq : Word
  pinq : Word
  xlbase : Word
  trapbase : Word
  savebase : Word
  tapebase : Word
  tapeDepth : Nat
  tapeRun : Option TapeRun
  fpdef : Word
  podwins : Vector (Word × Word × Word) 64
deriving DecidableEq, Repr

/-- The registers of a context before the runtime writes any of them (R53, R85, R113, R174, R178, R209, R312, R319). -/
def Context.fresh (part : Nat) (ctxid : Word) : Context :=
  { part := part, image := 0, live := true, ctxid := ctxid, decode := [], regions := [], partials := [], tensors := [], halos := [],
    sbchk := 0x0, unichk := 0x0, forkcfg := 0x9, roomtmo := 0x0, reusef := 0x0, reusest := 0x0, wayq := 0x0, pinq := 0x0,
    xlbase := 0x0, trapbase := 0x0, savebase := 0x0, tapebase := 0x0, tapeDepth := 0, tapeRun := none, fpdef := 0x0,
    podwins := Vector.replicate 64 (0, 0, 0) }

/-! ## Memory, caches, marks -/

/-- The L1 state of a directory-tracked copy (R183). -/
inductive Moesi where
  | M | O | E | S | I
deriving DecidableEq, Repr

/-- What a line of an L1 holds. -/
inductive LineKind where
  /-- A copy of a DT line, in a MOESI state; I: the data is invalidated and a pin keeps the way (R175). -/
  | dt (st : Moesi)
  /-- A copy of an SI line, with its dirty sectors (R185); `valid` false: a pinned way without data. -/
  | si (data : Img) (dirty : BitVec 8) (valid : Bool)
  /-- The partial line of a region line (R200). -/
  | accum (region : Nat)
  /-- A halo replica line (R191). -/
  | halo
deriving DecidableEq, Repr

/-- One occupied way of a cache (R170 to R175). Partition 4 stands for host memory. An L1 is named by its quad, an L2 slice by 256 + 32·die + slice. -/
structure CLine where
  cache : Nat
  set : Nat
  way : Nat
  part : Nat
  line : Nat
  kind : LineKind
  due : BitVec 16
  /-- The stamp is sampled and has not resolved (R172). -/
  sample : Bool
  ctx : Nat
  pins : Nat
  pinCtx : Nat
deriving DecidableEq, Repr

/-- A translation-cache entry (R179): the quad's cache (0 to 255) or the die's (256 + die). -/
structure TlbEnt where
  cache : Nat
  ctx : Nat
  base : Nat
  log : Nat
  leaf : Word
deriving DecidableEq, Repr

/-- The publication mark of a sector (R220): writer crew, published level (0 none, 1 core, 2 quad, 3 die, 4 pkg), anchor core;
and, while the level is below die, the contents last published at die or wider, which new halo replicas take (R191). -/
structure Mark where
  crew : Nat
  level : Nat
  anchor : Nat
  old : BitVec 256
deriving DecidableEq, Repr

/-- A line of code in a core's instruction buffer (R81): core and virtual line number, in a context. -/
structure BufLine where
  core : Nat
  ctx : Nat
  line : Nat
deriving DecidableEq, Repr

/-! ## Scheduling -/

/-- Where a task came from (R24). -/
inductive Source where
  | queue (part q : Nat)
  | node (part idx : Nat)
  | tape (ctx : Nat)
deriving DecidableEq, Repr

/-- The kernel descriptor a task was dispatched with (R301): entry offset and register count of each group. -/
structure Kernel where
  scr : Nat
  cimg : Nat
  base : Word
  entries : List (Nat × Nat)
deriving DecidableEq, Repr

/-- A launch packet: its eight words (R301). -/
abbrev Launch := Vector Word 8

/-- A task (R19, R307). -/
structure Task where
  ctx : Nat
  level : Nat
  source : Source
  pkt : Launch
  kernel : Kernel
  ncrews : Nat
  placed : Nat
  retired : Nat
  failed : Bool
  complete : Bool
deriving DecidableEq, Repr

/-- A queue descriptor (R298): words 0 to 4, and words 5 to 7 as one number. -/
structure QDesc where
  w0 : Nat
  w1 : Nat
  rptr : Nat
  wptr : Nat
  lastBad : Nat
  rest : Nat
deriving DecidableEq, Repr

/-- A hardware queue slot (R303): queue number, the cached copy of its descriptor (R298), order of mapping, cycle of mapping, and whether
its slice has expired. -/
structure QSlot where
  q : Nat
  desc : QDesc
  order : Nat
  since : Nat
  expired : Bool
deriving DecidableEq, Repr

/-- A graph node in the ready pool (R311). -/
structure Node where
  idx : Nat
  gen : Nat
  ctx : Nat
  level : Nat
  order : Nat
  pkt : Launch
  ops : List Word
  /-- The nodes it waits on: pool index and generation. -/
  waits : List (Nat × Nat)
  cancelled : Bool
  task : Option Nat
deriving DecidableEq, Repr

/-- The state of one partition. -/
structure Partition where
  live : Bool
  dies : BitVec 4
  num : BitVec 2
  prebound : Word
  qosc : Word
  qtbase : Word
  rings : Vector (Word × Word) 16
  ringNth : Vector Nat 16
  levels : Vector Word 24
  slots : List QSlot
  mapCount : Nat
  /-- Queue and the task of its last dispatched packet (ORDQ, R301). -/
  lastTask : List (Nat × Nat)
  /-- The task of a queue whose crews are being placed (R305). -/
  placing : List (Nat × Nat)
  nodes : List Node
  nodeGen : List (Nat × Nat)
  nodeCount : Nat
  /-- Round-robin position of each level (R302). -/
  served : List (Nat × Nat)
  /-- Dispatch is stopped by a quiesce handshake (R341); the cycle at which QTMO runs out. -/
  quiesce : Option Nat
  /-- The partition's cores are halted by a swap, and its state lies in shadow storage (R342). -/
  swapped : Bool
  /-- The image that the partition holds: contexts of any other lie in a reserved DRAM area (R342). -/
  image : Nat
deriving DecidableEq, Repr

/-- A partition as Lupin firmware forms it (R298, R302, R324, R330, R352): no level floors (log entry 7). -/
def Partition.fresh (num : BitVec 2) (dies : BitVec 4) (qtbase : Word) : Partition :=
  { live := true, dies := dies, num := num, prebound := 0x7530, qosc := 0x1366, qtbase := qtbase &&& 0xFFFFFFC00000#64,
    rings := Vector.replicate 16 (0, 0), ringNth := Vector.replicate 16 0, levels := Vector.replicate 24 0, slots := [],
    mapCount := 0, lastTask := [], placing := [], nodes := [], nodeGen := [], nodeCount := 0, served := [], quiesce := none, swapped := false,
    image := 0 }

/-- The registers of a partition that Lupin firmware has not formed (R299, R324, R330, R352). -/
def Partition.reset : Partition := { Partition.fresh 0 0 0x0 with live := false }

/-! ## The package -/

/-- A Yarrow port (R286): up or down, replays of the packet at the head of its replay buffer that brought no acknowledgement, the buffer,
sequence numbers, and the packets received that it has acknowledged, newest first. -/
structure Port where
  up : Bool
  replays : Nat
  buffer : List Packet
  txSeq : Nat
  rxSeq : Nat
  acked : List Nat
deriving DecidableEq, Repr

/-- An entry of the RAS log, a ring of which the package keeps the newest (R353). -/
structure RasEnt where
  kind : Nat
  source : BitVec 16
  addr : Word
  cycle : Nat
  repeats : Nat
deriving DecidableEq, Repr

/-- The recovery mailbox (R349); `fetch` and `from_` are LEN and SRC as the command under way found them. -/
structure Mailbox where
  cmd : BitVec 2
  src : Word
  len : BitVec 32
  state : BitVec 3
  fetch : BitVec 32
  from_ : Word
deriving DecidableEq, Repr

/-- An attestation report that was asked for (R350): nonce, partition configuration, signature. -/
structure Report where
  hash : List Byte
  version : Nat
  minVersion : Nat
  config : List (BitVec 4)
  nonce : List Byte
  signature : List Byte
deriving DecidableEq, Repr

/-- A partition request under way (R341): the die masks asked for, the queue tables of the partitions to be formed (R299), the cycle at
which it began. -/
structure Reconfig where
  masks : List (BitVec 4)
  bases : List Word
  since : Nat
deriving DecidableEq, Repr

/-- The package's state outside the dies (R287, R343 to R354). -/
structure Package where
  podid : Word
  pwrst : Word
  boot : Nat
  dropq : BitVec 16
  rasn : Nat
  orphn : Nat
  mailbox : Mailbox
  ras : List RasEnt
  /-- The partition and the address of each orphaned line, the oldest first (R354). -/
  orphanLog : List (Nat × Word)
  /-- MSI-X vectors that the host has unmasked (R344; all are masked at reset, as PCI Express has it: log entry 7). -/
  unmasked : List Nat
  msiPending : List Nat
  /-- MSI-X vectors raised, newest first. -/
  msiSent : List Nat
  ports : Vector Port 16
  /-- Packets of collectives and pod barriers received and not yet used, each with the port it came in on (R290, R295). -/
  inbox : List (Nat × Packet)
  reports : List Report
  reconfig : Option Reconfig
  /-- The firmware image that a recovery has written to flash; none: the image that the package was shipped with (R347 to R350). -/
  flash : Option (List Byte)
  /-- The old values that atomics from outside have returned, newest first (R343). -/
  replies : List Word
deriving DecidableEq, Repr

/-- Who moves next (log entry 1): the events to come, whether an event the machine could perform is passed over, which
variable-latency units complete later than they issue, which of those in flight completes next and in how many parts, and whether a
uniform-lane pair issues in one cycle. -/
structure Sched where
  agenda : List Instr
  turns : List Bool
  defers : List Bool
  picks : List Nat
  splits : List Nat
  pairs : List Bool
deriving DecidableEq, Repr

/-- Every choice left to the machine's own order. -/
def Sched.idle : Sched := ⟨[], [], [], [], [], []⟩

/-- A unit that has issued and may be followed in its cycle by the unit after it (R54). -/
structure PairRec where
  g : Nat
  lanes : Lanes
  addr : Word
  first : Instr
deriving DecidableEq, Repr

/-- A pipe of a lane set that is occupied until a cycle: the cross-lane network (R147), or the vector pipe by a `tmv` of a group
(R145). -/
structure Busy where
  laneSet : Nat
  vector : Bool
  g : Nat
  till : Nat
deriving DecidableEq, Repr

/-- The whole machine. -/
structure State where
  /-- Cycles of the arithmetic clock (R4). -/
  now : Nat
  /-- Reuse epochs (R169). -/
  epoch : Nat
  groups : List Group
  crews : List Crew
  ctxs : List Context
  parts : List Partition
  tasks : List Task
  forks : List ForkInst
  bars : List BarInst
  /-- DRAM by partition and physical address: 2^48·partition + address. -/
  dram : List Host.Cell
  /-- Constant stores by quad and offset: 131,072·quad + offset. -/
  const : List Host.Cell
  /-- The host window by offset (R343). -/
  hostMem : List Host.Cell
  cache : List CLine
  tlb : List TlbEnt
  /-- Marks by sector of DRAM: 2^43·partition + sector; poisoned sectors by where they are kept. -/
  marks : List (Nat × Mark)
  poison : List Spot
  deadDies : List Nat
  /-- Lines orphaned in a surviving L1: 2^40·partition + line, and the quad that keeps the copy, with its data (R194). -/
  orphans : List (Nat × Nat × Img)
  /-- Predictors by core and index: 256·core + index (R102). -/
  pred : List (Nat × PredEnt)
  ibuf : List BufLine
  pkg : Package
  sched : Sched
  cur : Issue
  /-- Units to be performed before anything else: entries of `rett`, deferred units, saved entries (R316, R322, R324). -/
  issueQ : List UnitRec
  /-- The second set of a selection that may issue in the same cycle (R81): group and lanes. -/
  co : Option (Nat × Lanes)
  /-- The unit that issued last, while its partner may issue in the same cycle (R54). -/
  pair : Option PairRec
  /-- The pipes that the group selected last has used in this cycle (R81, R356). -/
  pipes : List Pipe
  busy : List Busy
  seq : Nat
deriving DecidableEq, Repr

/-- The reasons the machine stops where the spec gives no effect. -/
inductive Fault where
  /-- Raised by an access, a walk or Bracken to a physical address beyond the partition's DRAM (R338): no such memory exists, and
  the spec gives the access no effect. Safe: the model stops where the hardware would do something the spec does not say. -/
  | noDram (pa : Nat)
deriving DecidableEq, Repr

/-- The reasons an instruction is not run. -/
inductive Refusal where
  /-- Raised by the dispatch for an instruction without a meaning in this model. Safe: nothing can be proved of it. -/
  | notModelled (mnemonic : String)
deriving DecidableEq, Repr

/-- What a step answers. -/
abbrev Out := Host.Outcome State Fault Refusal

/-- No unit is being issued. -/
def Issue.idle : Issue :=
  { g := 0, lanes := 0, addr := 0, word := 0, pword := 0, replay := false, late := false, imgs := [], res := none, kimg := 0, simg := 0, low := none,
    rdone := false, dlv := 0, regOnly := false, data := [], ents := [], seq := 0, cycle := 0, second := false, fp := 0, clk := ⟨0, 0, 0⟩, left := none,
    got := [], met := false, walks := [] }

def Port.fresh : Port := ⟨true, 0, [], 0, 0, []⟩

/-- The package after reset (R287, R345, R349, R351; log entry 7). -/
def Package.reset : Package :=
  { podid := 0x0, pwrst := 0x0, boot := 0, dropq := 0, rasn := 0, orphn := 0, mailbox := ⟨0, 0, 0, 0, 0, 0⟩, ras := [], orphanLog := [],
    unmasked := [], msiPending := [], msiSent := [], ports := Vector.replicate 16 Port.fresh, inbox := [], reports := [],
    reconfig := none, flash := none, replies := [] }

/-- The machine right after reset: nothing is placed, memory lists nothing, and the four sets of partition registers
hold their reset values until Lupin firmware forms a partition (R340, R341, R347). -/
def State.reset : State :=
  { now := 0, epoch := 0, groups := [], crews := [], ctxs := [], parts := List.replicate 4 Partition.reset, tasks := [], forks := [], bars := [],
    dram := [], const := [], hostMem := [], cache := [], tlb := [], marks := [], poison := [], deadDies := [], orphans := [], pred := [],
    ibuf := [], pkg := Package.reset, sched := Sched.idle, cur := Issue.idle, issueQ := [], co := none, pair := none, pipes := [], busy := [], seq := 0 }

end Sys2Proof.Machine
end

