-- ==== Sys2Proof/Machine/Bits.lean ====
section
/-! DEFINITION. Bit fields, elements of register images, lane sets, sparse tables and lists of bytes: the helpers every other file
uses. Elements follow R5: element e of width w is bits [w(e+1)-1 : w e] of the image. -/

namespace Sys2Proof.Machine

/-! ## Fields and signs -/

/-- Bits [lo + n - 1 : lo] of a number. -/
def bits (x lo n : Nat) : Nat := x / 2 ^ lo % 2 ^ n

/-- Bit n of a number. -/
def bitAt (x n : Nat) : Bool := x / 2 ^ n % 2 == 1

/-- A w-bit code read as two's complement. -/
def sext (w x : Nat) : Int :=
  let y := x % 2 ^ w
  if y < 2 ^ (w - 1) then (y : Int) else (y : Int) - (2 ^ w : Nat)

/-- A w-bit code read as signed or unsigned: ext of R117 with U. -/
def ext (unsigned : Bool) (w x : Nat) : Int := if unsigned then ((x % 2 ^ w : Nat) : Int) else sext w x

/-- An exact value reduced modulo 2^w. -/
def wrap (w : Nat) (v : Int) : Nat := (v % ((2 ^ w : Nat) : Int)).toNat

/-- The range of a w-bit integer and clamp of R117. -/
def loOf (unsigned : Bool) (w : Nat) : Int := if unsigned then 0 else -((2 ^ (w - 1) : Nat) : Int)
def hiOf (unsigned : Bool) (w : Nat) : Int := if unsigned then ((2 ^ w : Nat) : Int) - 1 else ((2 ^ (w - 1) : Nat) : Int) - 1
def clampInt (unsigned : Bool) (w : Nat) (v : Int) : Int := max (loOf unsigned w) (min v (hiOf unsigned w))

/-- Number of bits of a number: 0 for 0, else the place of its highest bit plus one. -/
def bitLen (n : Nat) : Nat := if n == 0 then 0 else n.log2 + 1

/-! ## Elements of an image -/

/-- Element e of width w (R5). -/
def el (w e : Nat) (x : Img) : Nat := x.toNat / 2 ^ (w * e) % 2 ^ w

/-- The number whose first n elements of width w are given. -/
def buildNat (w : Nat) (f : Nat → Nat) : Nat → Nat
  | 0 => 0
  | n + 1 => buildNat w f n + (f n % 2 ^ w) * 2 ^ (w * n)

/-- The image whose elements of width w are given (R5). -/
def build (w : Nat) (f : Nat → Nat) : Img := BitVec.ofNat 2048 (buildNat w f (2048 / w))

/-- Lane l's 64 bits. -/
def laneOf (x : Img) (l : Nat) : Word := BitVec.ofNat 64 (el 64 l x)

/-- The image with one word in every lane. -/
def splat (v : Word) : Img := build 64 fun _ => v.toNat

/-- The image with a word in each lane. -/
def ofLanes (f : Nat → Word) : Img := build 64 fun l => (f l).toNat

/-- All bits of the lanes of a set. -/
def laneBits (ls : Lanes) : Img := build 64 fun l => if ls.getLsbD l then 2 ^ 64 - 1 else 0

/-- Bits of `new` where `en` is 1, of `old` elsewhere. -/
def blend (en new old : Img) : Img := (new &&& en) ||| (old &&& ~~~en)

/-- The mask bit that governs element e of width w: that of its least significant byte (R117). -/
def enabled (k : Mask) (w e : Nat) : Bool := k.getLsbD (w * e / 8)

/-- The lane of element e of width w. -/
def laneIx (w e : Nat) : Nat := w * e / 64

/-- A mask register whose bits are given byte by byte. -/
def buildMask (f : Nat → Bool) : Mask := BitVec.ofNat 256 (buildNat 1 (fun b => (f b).toNat) 256)

/-- OR of lane l's eight mask bits (R91). -/
def laneCond (k : Mask) (l : Nat) : Bool := bits k.toNat (8 * l) 8 != 0

/-! ## Sets of lanes -/

/-- The lanes for which a test holds. -/
def lanesWhere (f : Nat → Bool) : Lanes := BitVec.ofNat 32 (buildNat 1 (fun l => (f l).toNat) 32)

/-- The lane numbers of a set, ascending. -/
def lanesOf (ls : Lanes) : List Nat := (List.range 32).filter fun l => ls.getLsbD l

/-- The lowest lane of a set; 0 for the empty set. -/
def lowest (ls : Lanes) : Nat := (lanesOf ls).headD 0

/-- The set of one lane. -/
def oneLane (l : Nat) : Lanes := lanesWhere fun m => m == l

def allLanes : Lanes := lanesWhere fun _ => true

/-! ## Sparse tables -/

/-- The value a sparse table holds for a number. -/
def look {α : Type} (t : List (Nat × α)) (k : Nat) : Option α := (t.find? fun p => p.1 == k).map (·.2)

/-- A sparse table in ascending order with a value put in. -/
def put {α : Type} (k : Nat) (v : α) : List (Nat × α) → List (Nat × α)
  | [] => [(k, v)]
  | (k', v') :: t => if k < k' then (k, v) :: (k', v') :: t else if k = k' then (k, v) :: t else (k', v') :: put k v t

/-- A sparse table with a number taken out. -/
def drop {α : Type} (k : Nat) (t : List (Nat × α)) : List (Nat × α) := t.filter fun p => p.1 != k

/-- A sorted list of numbers with one put in, without repeats. -/
def addNo (k : Nat) : List Nat → List Nat
  | [] => [k]
  | x :: t => if k < x then k :: x :: t else if k = x then x :: t else x :: addNo k t

/-- The element that a measure makes least, the first of equals. -/
def leastBy {α : Type} (m : α → Nat) : List α → Option α
  | [] => none
  | a :: t =>
    match leastBy m t with
    | none => some a
    | some b => if m b < m a then some b else some a

/-- A list in ascending order of a measure, equals in the order they stood. -/
def insertBy {α : Type} (m : α → Nat) (a : α) : List α → List α
  | [] => [a]
  | b :: t => if m a < m b then a :: b :: t else b :: insertBy m a t
def sortBy {α : Type} (m : α → Nat) (l : List α) : List α := l.foldl (fun acc a => insertBy m a acc) []

/-- Lists of the same shape changed at one place. -/
def modAt {α : Type} (f : α → α) : Nat → List α → List α
  | _, [] => []
  | 0, a :: t => f a :: t
  | n + 1, a :: t => a :: modAt f n t

/-- The first element that passes a test, with its place. -/
def findIx {α : Type} (p : α → Bool) (l : List α) : Option (Nat × α) :=
  (l.zipIdx.find? fun x => p x.1).map fun x => (x.2, x.1)

/-! ## Bytes -/

/-- Little-endian value of bytes (R5). -/
def leNat : List Byte → Nat
  | [] => 0
  | b :: t => b.toNat + 2 ^ 8 * leNat t

/-- The n bytes of a value, lowest address first (R5). -/
def leBytes (n x : Nat) : List Byte := (List.range n).map fun i => BitVec.ofNat 8 (x / 2 ^ (8 * i))

/-- The bytes of an image. -/
def imgBytes (x : Img) : List Byte := leBytes 256 x.toNat

/-- The image of 256 bytes. -/
def imgOf (bs : List Byte) : Img := BitVec.ofNat 2048 (leNat bs)

end Sys2Proof.Machine
end

