-- ==== Sys2Proof/Machine/Mem.lean ====
section
/-! DEFINITION. Byte memories as sorted lists of cells that list no byte equal to what an unlisted address reads as (R340, log entry
3), and the sectors, lines and words built from bytes. -/

namespace Sys2Proof.Machine

/-- What an address that nothing has written reads as (R340; host memory: log entry 3). -/
def unlisted : Byte := 0

/-- The canonical form: addresses strictly rising, no cell equal to the unlisted byte. -/
def Mem.wfFrom : Option Nat → List Host.Cell → Bool
  | _, [] => true
  | lo, (a, b) :: t => (match lo with | none => true | some l => decide (l < a)) && b != unlisted && Mem.wfFrom (some a) t
def Mem.wf (m : List Host.Cell) : Bool := Mem.wfFrom none m

/-- One byte. -/
def Mem.get (m : List Host.Cell) (a : Nat) : Byte :=
  match m with
  | [] => unlisted
  | (a', b) :: t => if a' = a then b else Mem.get t a

/-- One byte written; the canonical form is kept. -/
def Mem.set (a : Nat) (b : Byte) : List Host.Cell → List Host.Cell
  | [] => if b = unlisted then [] else [(a, b)]
  | (a', b') :: t =>
    if a < a' then (if b = unlisted then (a', b') :: t else (a, b) :: (a', b') :: t)
    else if a = a' then (if b = unlisted then t else (a, b) :: t)
    else (a', b') :: Mem.set a b t

/-- n bytes from an address. -/
def Mem.read (m : List Host.Cell) (a n : Nat) : List Byte := (List.range n).map fun i => Mem.get m (a + i)

/-- Bytes written from an address up. -/
def Mem.write (a : Nat) : List Byte → List Host.Cell → List Host.Cell
  | [], m => m
  | b :: bs, m => Mem.write (a + 1) bs (Mem.set a b m)

/-- A range of addresses set to the unlisted byte. -/
def Mem.clear (a n : Nat) (m : List Host.Cell) : List Host.Cell := m.filter fun c => decide (c.1 < a) || decide (a + n ≤ c.1)

/-- A little-endian number of n bytes (R5). -/
def Mem.num (m : List Host.Cell) (a n : Nat) : Nat := leNat (Mem.read m a n)
def Mem.putNum (a n x : Nat) (m : List Host.Cell) : List Host.Cell := Mem.write a (leBytes n x) m

end Sys2Proof.Machine
end

