-- ==== Sys2Proof/Machine/Num.lean ====
section
/-! DEFINITION. The floating formats, exact values and roundings of R61 to R70, and the flags of R71. Every operation works on exact
values and rounds once at the end. -/

namespace Sys2Proof

open Machine

/-! ## Formats -/

/-- Exponent bits, mantissa bits and bias of a floating format (R62): 0 f32, 1 f16, 2 bf16, 3 e4m3, 4 e5m2, 5 e2m1. -/
def expBits : Nat → Nat
  | 0 => 8 | 1 => 5 | 2 => 8 | 3 => 4 | 4 => 5 | _ => 2
def manBits : Nat → Nat
  | 0 => 23 | 1 => 10 | 2 => 7 | 3 => 3 | 4 => 2 | _ => 1
def biasOf : Nat → Int
  | 0 => 127 | 1 => 15 | 2 => 127 | 3 => 7 | 4 => 15 | _ => 1

/-- The exponent of the format's finest grid: that of its subnormals (R62, R64). -/
def minExp (f : Nat) : Int := 1 - biasOf f - (manBits f : Int)

/-- The largest finite value n·2^q of the format (R62, R65, R66). -/
def maxFin : Nat → Nat × Int
  | 0 => (2 ^ 24 - 1, 104) | 1 => (2047, 5) | 2 => (255, 120) | 3 => (14, 5) | 4 => (7, 13) | _ => (3, 1)

/-- The canonical NaN (R62, R63); E2M1 has none and converts a NaN to 0 (R70). -/
def nanCode : Nat → Nat
  | 0 => 0x7FC00000 | 1 => 0x7E00 | 2 => 0x7FC0 | 3 => 0x7F | 4 => 0x7E | _ => 0x0

/-- The format has infinities. -/
def hasInf (f : Nat) : Bool := f == 0 || f == 1 || f == 2 || f == 4

/-- A code's value (R62, R65, R66). The extra value of E2M1 code 0x8 reads as −0; an engine replaces it (R66). -/
def decodeF (f c : Nat) : FVal :=
  let eb := expBits f
  let mb := manBits f
  let neg := bitAt c (eb + mb)
  let e := bits c mb eb
  let m := bits c 0 mb
  if f == 3 && e == 15 && m == 7 then .nan
  else if hasInf f && e == 2 ^ eb - 1 then (if m == 0 then .inf neg else .nan)
  else if e == 0 then .fin neg m (minExp f)
  else .fin neg (2 ^ mb + m) (minExp f + (e : Int) - 1)

/-! ## Exact values -/

/-- The value is a NaN or an infinity. -/
def FVal.nonFinite : FVal → Bool
  | .fin _ _ _ => false
  | _ => true
def FVal.isNan : FVal → Bool
  | .nan => true
  | _ => false
def FVal.isInf : FVal → Bool
  | .inf _ => true
  | _ => false
def FVal.isZero : FVal → Bool
  | .fin _ m _ => m == 0
  | _ => false
def FVal.isNeg : FVal → Bool
  | .fin n _ _ => n
  | .inf n => n
  | .nan => false
def FVal.neg : FVal → FVal
  | .nan => .nan
  | .inf n => .inf (!n)
  | .fin n m e => .fin (!n) m e

/-- An exact integer times a power of two. -/
def ofIntExp (v : Int) (e : Int) : FVal := .fin (decide (v < 0)) v.natAbs e

/-- An exact product; 0 × ∞ is a NaN. -/
def FVal.mul : FVal → FVal → FVal
  | .nan, _ => .nan
  | _, .nan => .nan
  | .inf a, .inf b => .inf (a != b)
  | .inf a, .fin b m _ => if m == 0 then .nan else .inf (a != b)
  | .fin a m _, .inf b => if m == 0 then .nan else .inf (a != b)
  | .fin a m e, .fin b n k => .fin (a != b) (m * n) (e + k)

/-- m·2^e as a multiple of 2^k, for k ≤ e. -/
def scaled (neg : Bool) (m : Nat) (e k : Int) : Int :=
  let v := ((m * 2 ^ (e - k).toNat : Nat) : Int)
  if neg then -v else v

/-- The exact sum of two values (R74). An exact zero from values of opposite sign is +0, and −0 under rd (R133, IEEE 754). -/
def FVal.add (rd : Bool) : FVal → FVal → FVal
  | .nan, _ => .nan
  | _, .nan => .nan
  | .inf a, .inf b => if a == b then .inf a else .nan
  | .inf a, .fin _ _ _ => .inf a
  | .fin _ _ _, .inf b => .inf b
  | .fin a m e, .fin b n k =>
    let q := min e k
    let v := scaled a m e q + scaled b n k q
    if v == 0 then .fin (if m == 0 && n == 0 && a == b then a else rd) 0 q
    else ofIntExp v q

/-- The exact sum of a list (R74): NaN if a term is NaN or both infinities occur. -/
def FVal.sum (rd : Bool) : List FVal → FVal
  | [] => .fin false 0 0
  | [a] => a
  | a :: t => FVal.add rd a (FVal.sum rd t)

/-- A finite value compared with another; both infinities at the ends. -/
def FVal.lt : FVal → FVal → Bool
  | .nan, _ => false
  | _, .nan => false
  | .inf a, .inf b => a && !b
  | .inf a, .fin _ _ _ => a
  | .fin _ _ _, .inf b => !b
  | .fin a m e, .fin b n k => let q := min e k; decide (scaled a m e q < scaled b n k q)

def FVal.eqv : FVal → FVal → Bool
  | .nan, _ => false
  | _, .nan => false
  | .inf a, .inf b => a == b
  | .inf _, .fin _ _ _ => false
  | .fin _ _ _, .inf _ => false
  | .fin a m e, .fin b n k => let q := min e k; scaled a m e q == scaled b n k q

/-! ## Rounding -/

/-- The sticky flags of R71 as bits NV, DZ, OF, UF, NX from bit 0. -/
def fNV : BitVec 5 := 1
def fDZ : BitVec 5 := 2
def fOF : BitVec 5 := 4
def fUF : BitVec 5 := 8
def fNX : BitVec 5 := 16

/-- Whether a magnitude with quotient n and a remainder is rounded up (R69): `half` compares the remainder with one half
(0 below, 1 equal, 2 above), `exact` says it is 0. -/
def roundsUp (rm : Nat) (neg : Bool) (n half : Nat) (exact : Bool) : Bool :=
  if exact then false else
  match rm with
  | 0 => half == 2 || (half == 1 && n % 2 == 1)
  | 1 => false
  | 2 => !neg
  | 3 => neg
  | _ => half != 0

/-- m / 2^d rounded to a whole number, and whether it was exact. -/
def roundShift (rm : Nat) (neg : Bool) (m d : Nat) : Nat × Bool :=
  let n := m / 2 ^ d
  let r := m % 2 ^ d
  let exact := r == 0
  let half := if 2 * r < 2 ^ d then 0 else if 2 * r == 2 ^ d then 1 else 2
  (if roundsUp rm neg n half exact then n + 1 else n, exact)

/-- A finite magnitude rounded to the format's grid, unbounded above (R70, step 1): n, q with value n·2^q, and exactness. -/
def toGrid (f rm : Nat) (neg : Bool) (m : Nat) (e : Int) : Nat × Int × Bool :=
  let mb := manBits f
  let q := max (e + (bitLen m : Int) - 1 - (mb : Int)) (minExp f)
  if q ≤ e then (m * 2 ^ (e - q).toNat, q, true)
  else
    let (n, x) := roundShift rm neg m (q - e).toNat
    if n == 2 ^ (mb + 1) then (2 ^ mb, q + 1, x) else (n, q, x)

/-- The sign bit of a format. -/
def signBit (f : Nat) (neg : Bool) : Nat := if neg then 2 ^ (expBits f + manBits f) else 0

/-- The code of ±n·2^q on the format's grid; E2M1 has no −0 (R66). -/
def gridCode (f : Nat) (neg : Bool) (n : Nat) (q : Int) : Nat :=
  let mb := manBits f
  let mag := if n < 2 ^ mb then n else (q - minExp f + 1).toNat * 2 ^ mb + (n - 2 ^ mb)
  if f == 5 && mag == 0 then 0 else signBit f neg + mag

/-- The code of the largest finite value. -/
def maxCode (f : Nat) (neg : Bool) : Nat := gridCode f neg (maxFin f).1 (maxFin f).2

/-- An infinite result in a format (R70, steps 2 and 3). -/
def infCode (f : Nat) (neg : Bool) : Nat :=
  if f == 3 then nanCode 3 else if f == 5 then maxCode 5 neg else signBit f neg + (2 ^ expBits f - 1) * 2 ^ manBits f

/-- The magnitude n·2^q lies beyond the largest finite value. -/
def overflows (f n : Nat) (q : Int) : Bool :=
  let mx := maxFin f
  decide (mx.2 < q) || (decide (q = mx.2) && decide (mx.1 < n))

/-- A result code with its flags. -/
structure FRes where
  code : Nat
  flags : BitVec 5
deriving DecidableEq, Repr

/-- A value rounded into a floating format under a mode (R70), with the flags of R71. A NaN result from a finite or infinite
value sets NV (E4M3, R71); an infinite or NaN value into E2M1 sets NV alone (R70). -/
def roundF (f rm : Nat) (v : FVal) : FRes :=
  match v with
  | .nan => ⟨nanCode f, if f == 5 then fNV else 0⟩
  | .inf neg => ⟨infCode f neg, if f == 5 || f == 3 then fNV else 0⟩
  | .fin neg m e =>
    if m == 0 then ⟨gridCode f neg 0 (minExp f), 0⟩
    else
      let (n, q, exact) := toGrid f rm neg m e
      if overflows f n q then
        let toMax := rm == 1 || (rm == 2 && neg) || (rm == 3 && !neg)
        if toMax then ⟨maxCode f neg, fOF ||| fNX⟩
        else ⟨infCode f neg, fOF ||| fNX ||| (if f == 3 then fNV else 0)⟩
      else
        ⟨gridCode f neg n q, if exact then 0 else if decide (n < 2 ^ manBits f) then fUF ||| fNX else fNX⟩

/-- The clamp of R70: clips to the finite range; the flag says that a finite value was clipped. -/
def clampF (f : Nat) (v : FVal) : FVal × BitVec 5 :=
  let mx (neg : Bool) : FVal := .fin neg (maxFin f).1 (maxFin f).2
  match v with
  | .nan => (.nan, 0)
  | .inf neg => (mx neg, 0)
  | .fin neg _ _ => if FVal.lt (mx false) (if neg then v.neg else v) then (mx neg, fOF) else (v, 0)

/-- Clip, where asked for, then round once (R70). E2M1 notes an infinite value as invalid, with or without the clip. -/
def roundClamp (f rm : Nat) (clamp : Bool) (v : FVal) : FRes :=
  if clamp then
    let (v', fl) := clampF f v
    let r := roundF f rm v'
    ⟨r.code, r.flags ||| fl ||| (if f == 5 && v.isInf then fNV else 0)⟩
  else roundF f rm v

/-- A finite value as a whole number under a mode (R68, step 1). -/
def roundInt (rm : Nat) : FVal → Int × Bool
  | .fin neg m e =>
    if 0 ≤ e then (scaled neg m e 0, true)
    else
      let (n, x) := roundShift rm neg m (-e).toNat
      (if neg then -(n : Int) else (n : Int), x)
  | _ => (0, true)

/-- A value converted to a w-bit integer, saturating (R68, R71). One that is out of range sets NV alone, also where it is not an integer
(DESIGN CHOICE, log entry 23). -/
def toIntSat (unsigned : Bool) (w rm : Nat) (v : FVal) : FRes :=
  match v with
  | .nan => ⟨0, fNV⟩
  | .inf neg => ⟨wrap w (if neg then loOf unsigned w else hiOf unsigned w), fNV⟩
  | .fin _ _ _ =>
    let (n, exact) := roundInt rm v
    let c := clampInt unsigned w n
    ⟨wrap w c, if c != n then fNV else if exact then 0 else fNX⟩

/-! ## One-step operations on codes -/

/-- Sum, difference, product and fused product of two or three codes of one format (R134). -/
def fAdd (f rm a b : Nat) : FRes := roundF f rm (FVal.add (rm == 3) (decodeF f a) (decodeF f b))

/-- Lesser or greater of two codes by R134: one NaN gives the other operand, two the canonical NaN, and −0 orders below +0. -/
def fMinMax (f : Nat) (greater : Bool) (a b : Nat) : Nat :=
  let x := decodeF f a
  let y := decodeF f b
  if x.isNan then (if y.isNan then nanCode f else b)
  else if y.isNan then a
  else
    let less := FVal.lt x y || (x.isZero && y.isZero && x.isNeg && !y.isNeg)
    if less != greater then a else b

/-- NaN from operands none of which is a NaN (NV of R71). -/
def invalid (operands : List FVal) (v : FVal) : BitVec 5 := if v.isNan && !operands.any FVal.isNan then fNV else 0

/-- The sub-cause of R77 for a non-finite result of these operands; 0 for a finite one. -/
def nonFiniteSub (operands : List FVal) (result : FVal) : BitVec 8 :=
  if !result.nonFinite then 0
  else if result.isNan && !operands.any FVal.isNan then 0x01
  else if !operands.any FVal.nonFinite then 0x02
  else 0x03

/-- The exponent of an E8M0 byte as a value (R67): 0xFF is a NaN. -/
def mxVal (code : Nat) (x : Nat) : FVal :=
  if x == 255 then .nan else ofIntExp (sext 8 code) ((x : Int) - 127)

/-- A value of any format code (R61, R67): integers are exact; MXINT8 takes its exponent byte. -/
def decodeAny (f code mx : Nat) : FVal :=
  if f ≤ 5 then decodeF f code
  else if f == 6 then mxVal code mx
  else ofIntExp (ext (decide (11 ≤ f)) (fmtWidth f) code) 0

end Sys2Proof
end

