-- ==== Sys2Proof/Machine/Access.lean ====
section
/-! DEFINITION. Reading and changing the parts of the state by number. A number that names nothing reads as an empty part, and a change
to it changes nothing. -/

namespace Sys2Proof.Machine

/-! ## What absent numbers read as -/

def Group.absent : Group := { Group.fresh 0 0 0 0 0 0 0 0 0 with place := .retired, lanes := Vector.replicate 32 { Lane.start 0 with mode := .exited } }

def Crew.absent : Crew :=
  { ctx := 0, task := 0, quad := 0, crewNo := 0, groups := [], window := 0, granules := [], cimg := 0, scratch := [], clk := 0,
    clkIssues := 0, pace := 0x100, paceEpochs := 0, paceSeen := false, paceDue := false, sw := Vector.replicate 16 ⟨0, 0, 0⟩, cb := Vector.replicate 16 CircBuf.undeclared,
    tl := Vector.replicate 8 Timeline.unbound, retired := true, failed := false, atDeath := none }

def Context.absent : Context := { Context.fresh 0 0 with live := false }

def Task.absent : Task :=
  { ctx := 0, level := 23, source := .tape 0, pkt := Vector.replicate 8 0, kernel := ⟨0, 0, 0, []⟩, ncrews := 0, placed := 0,
    retired := 0, failed := false, complete := true }

/-! ## Reading -/

def State.grp (s : State) (g : Nat) : Group := s.groups.getD g Group.absent
def State.crew (s : State) (c : Nat) : Crew := s.crews.getD c Crew.absent
def State.ctx (s : State) (c : Nat) : Context := s.ctxs.getD c Context.absent
def State.part (s : State) (p : Nat) : Partition := s.parts.getD p Partition.reset
def State.task (s : State) (t : Nat) : Task := s.tasks.getD t Task.absent

/-- The crew, context and partition of a group. -/
def State.crewOf (s : State) (g : Nat) : Crew := s.crew (s.grp g).crew
def State.ctxNo (s : State) (g : Nat) : Nat := (s.crewOf g).ctx
def State.ctxOf (s : State) (g : Nat) : Context := s.ctx (s.ctxNo g)
def State.partNo (s : State) (g : Nat) : Nat := (s.ctxOf g).part

/-- Quad and die of a core, die of a quad (R14). -/
def quadOfCore (core : Nat) : Nat := core / 4
def dieOfQuad (quad : Nat) : Nat := quad / 64
def State.quadOf (s : State) (g : Nat) : Nat := quadOfCore (s.grp g).core

/-- A lane of a group. -/
def Group.lane (gr : Group) (l : Nat) : Lane := gr.lanes[l]?.getD { Lane.start 0 with mode := .exited }
def State.lane (s : State) (g l : Nat) : Lane := (s.grp g).lane l

/-- A context runs at system level (R329, R330). -/
def Context.isSys (c : Context) : Bool := c.ctxid.getLsbD 16
/-- The identifier in CTXID (R330). -/
def Context.id (c : Context) : BitVec 16 := c.ctxid.truncate 16

/-- A live context of a partition belongs to the image that the partition holds (R342). -/
def State.inPlace (s : State) (part : Nat) (c : Context) : Bool := c.live && c.part == part && c.image == (s.part part).image

/-- The number of a live context of a partition with an identifier. -/
def State.findCtx (s : State) (part : Nat) (id : Nat) : Option Nat :=
  (findIx (fun c : Context => s.inPlace part c && c.id.toNat == id) s.ctxs).map (·.1)

/-- PARTID (R330). -/
def Partition.partid (p : Partition) : Word := BitVec.ofNat 64 (p.num.toNat + 4 * p.dies.toNat)
/-- The dies of a partition, ascending. -/
def Partition.dieList (p : Partition) : List Nat := (List.range 4).filter fun d => p.dies.getLsbD d
/-- Bytes of device memory of a partition (R338). -/
def Partition.dramSize (p : Partition) : Nat := 96 * 2 ^ 30 * 3 * p.dieList.length

/-! ## Changing -/

def State.modGrp (s : State) (g : Nat) (f : Group → Group) : State := { s with groups := modAt f g s.groups }
def State.modCrew (s : State) (c : Nat) (f : Crew → Crew) : State := { s with crews := modAt f c s.crews }
def State.modCtx (s : State) (c : Nat) (f : Context → Context) : State := { s with ctxs := modAt f c s.ctxs }
def State.modPart (s : State) (p : Nat) (f : Partition → Partition) : State := { s with parts := modAt f p s.parts }
def State.modTask (s : State) (t : Nat) (f : Task → Task) : State := { s with tasks := modAt f t s.tasks }
def State.modFork (s : State) (i : Nat) (f : ForkInst → ForkInst) : State := { s with forks := modAt f i s.forks }
def State.modPkg (s : State) (f : Package → Package) : State := { s with pkg := f s.pkg }

/-- One lane of a group changed. -/
def Group.modLane (gr : Group) (l : Nat) (f : Lane → Lane) : Group :=
  { gr with lanes := gr.lanes.setIfInBounds l (f (gr.lane l)) }
def State.modLane (s : State) (g l : Nat) (f : Lane → Lane) : State := s.modGrp g fun gr => gr.modLane l f

/-- Every lane of a set changed. -/
def Group.modLanes (gr : Group) (ls : Lanes) (f : Nat → Lane → Lane) : Group :=
  { gr with lanes := gr.lanes.mapIdx fun l x => if ls.getLsbD l then f l x else x }
def State.modLanes (s : State) (g : Nat) (ls : Lanes) (f : Nat → Lane → Lane) : State := s.modGrp g fun gr => gr.modLanes ls f

/-- The lanes of a group in a state. -/
def Group.inMode (gr : Group) (m : LaneMode) : Lanes := lanesWhere fun l => (gr.lane l).mode == m

/-- The lanes of a vote that share its lowest counter. -/
def Group.lowSet (gr : Group) (ls : Lanes) : Lanes :=
  match leastBy (fun l => (gr.lane l).pc.toNat) (lanesOf ls) with
  | none => 0
  | some l0 => lanesWhere fun l => ls.getLsbD l && (gr.lane l).pc == (gr.lane l0).pc

/-- The lane is in its group's handler, parked there or not (R86, R202). -/
def Lane.inHandler (x : Lane) : Bool := x.mode == .handler || (x.mode == .parked && x.park.any fun p => p.handler)

/-- A timeline of a crew. -/
def Crew.tline (c : Crew) (i : Nat) : Timeline := c.tl[i]?.getD Timeline.unbound
def Crew.modTl (c : Crew) (i : Nat) (f : Timeline → Timeline) : Crew := { c with tl := c.tl.setIfInBounds i (f (c.tline i)) }
def State.modTl (s : State) (c i : Nat) (f : Timeline → Timeline) : State := s.modCrew c fun cr => cr.modTl i f
def Crew.buf (c : Crew) (i : Nat) : CircBuf := c.cb[i]?.getD CircBuf.undeclared
def Crew.setBuf (c : Crew) (i : Nat) (b : CircBuf) : Crew := { c with cb := c.cb.setIfInBounds i b }

/-- A region of a context; `none` where the number is not declared (R197). -/
def Context.region (c : Context) (r : Nat) : Option Region := look c.regions r
def State.modRegion (s : State) (c r : Nat) (f : Region → Region) : State :=
  s.modCtx c fun cx => { cx with regions := cx.regions.map fun p => if p.1 == r then (p.1, f p.2) else p }

/-- The first words of the decode table of a context: what an opcode performs (R56). -/
def Context.opMap (c : Context) : Bool → Nat → Option Nat := fun uni op =>
  match c.decode.find? fun e => e.1 == uni && e.2.1 == op with
  | some e => e.2.2
  | none => some op

end Sys2Proof.Machine
end

