-- ==== Sys2Proof/Machine/Xlate.lean ====
section
/-! DEFINITION. Address translation (R176 to R181), the fixed interleave (R338) and where a line's home lies. -/

namespace Sys2Proof.Machine

/-- Place of a DRAM byte in the state's memory. -/
def dramKey (part pa : Nat) : Nat := part * 2 ^ 48 + pa

def State.readDram (s : State) (part pa n : Nat) : List Byte := Mem.read s.dram (dramKey part pa) n
def State.writeDram (s : State) (part pa : Nat) (bs : List Byte) : State :=
  { s with dram := Mem.write (dramKey part pa) bs s.dram }
def State.dramNum (s : State) (part pa n : Nat) : Nat := Mem.num s.dram (dramKey part pa) n

/-- The first bit of the address that indexes a level, and how many (R176). -/
def levelLow : Nat → Nat
  | 3 => 39 | 2 => 30 | 1 => 21 | _ => 16
def levelBits : Nat → Nat
  | 3 => 13 | 2 => 9 | 1 => 9 | _ => 5

/-- A valid entry is malformed at its level (R177). -/
def malformed (level : Nat) (e : Nat) : Bool :=
  let leaf := bitAt e 1
  let addr := bits e 8 40 * 2 ^ 8
  bits e 48 16 != 0 || bits e 5 2 == 3 || (leaf && level == 3) || (!leaf && level == 0) || (!leaf && bits e 2 6 != 0) ||
  (!leaf && (level == 3 || level == 2) && bits e 8 4 != 0) || (leaf && addr % 2 ^ levelLow level != 0) ||
  (bitAt e 7 && bits e 5 2 == 0 && leaf)

/-- A leaf's page for a virtual address (R177). -/
def leafXl (e log va : Nat) : Xl :=
  { pa := bits e 8 40 * 2 ^ 8 + va % 2 ^ log, attr := bits e 5 2, host := bitAt e 7, w := bitAt e 2, x := bitAt e 3, u := bitAt e 4,
    base := va / 2 ^ log * 2 ^ log, log := log, leaf := BitVec.ofNat 64 e }

/-! ## The interleave (R338) -/

/-- The die, slice within the die and set of a line's home. -/
def homeOf (dies : List Nat) (pa : Nat) : Nat × Nat × Nat :=
  let d := 3 * dies.length
  let g := pa / 2 ^ 12
  let u := g / d
  (dies.getD (g % d / 3) 0, 16 * (u % 2) + bits pa 8 4, u / 2 % 1024)

/-- The die beside a line's home slice. -/
def State.homeDie (s : State) (part pa : Nat) : Nat := (homeOf (s.part part).dieList pa).1

/-- The home of a line has failed (R194). -/
def State.lostHome (s : State) (part pa : Nat) : Bool := s.deadDies.contains (s.homeDie part pa)

/-- The cache number of a line's home slice, and its set there. -/
def State.homeSlice (s : State) (part pa : Nat) : Nat × Nat :=
  let (d, sl, st) := homeOf (s.part part).dieList pa
  (256 + 32 * d + sl, st)

/-! ## Walks (R176 to R180) -/

/-- One table entry read and judged (R176, R177, R180): a pointer goes on at the next table. An entry behind a lost home is an access of
its line (R194); an entry in a poisoned sector is used (log entry 49). -/
def State.walkEntry (s : State) (part va level table : Nat) (next : Nat → Walk) : Walk :=
  let ea := table + 8 * bits va (levelLow level) (levelBits level)
  if (s.part part).dramSize < ea + 8 then .void ea
  else if s.lostHome part ea then .lost
  else
    let e := s.dramNum part ea 8
    if !bitAt e 0 then .fault 0x01
    else if malformed level e then .fault 0x02
    else if bitAt e 1 then .page (leafXl e (levelLow level) va)
    else next (bits e 8 40 * 2 ^ 8)

/-- The walk from a level's table down (R176). -/
def State.walkFrom (s : State) (part va : Nat) : Nat → Nat → Walk
  | 0, table => s.walkEntry part va 0 table fun _ => .fault 0x02
  | l + 1, table => s.walkEntry part va (l + 1) table fun t => State.walkFrom s part va l t

/-- The walk of a context's table, root to leaf, whatever the caches hold (R178, R179). -/
def State.walk (s : State) (ctx va : Nat) : Walk :=
  let c := s.ctx ctx
  if !c.xlbase.getLsbD 0 then .fault 0x01
  else s.walkFrom c.part va 3 (bits c.xlbase.toNat 16 32 * 2 ^ 16)

/-- A translation-cache entry of a cache covers an address (R179). -/
def TlbEnt.covers (t : TlbEnt) (cache ctx va : Nat) : Bool :=
  t.cache == cache && t.ctx == ctx && va / 2 ^ t.log * 2 ^ t.log == t.base

/-- The translation an access of a quad uses: its own cache, then its die's, then a walk (R179); none while it is switched off
(R178). -/
def State.xlate (s : State) (quad ctx va : Nat) : Walk :=
  if !(s.ctx ctx).xlbase.getLsbD 0 then .fault 0x01
  else match s.tlb.find? fun t => t.covers quad ctx va with
  | some t => .page (leafXl t.leaf.toNat t.log va)
  | none =>
    match s.tlb.find? fun t => t.covers (256 + dieOfQuad quad) ctx va with
    | some t => .page (leafXl t.leaf.toNat t.log va)
    | none => s.walk ctx va

/-- An entry put into a cache that holds `cap` entries; the oldest makes room (which entry does is not said: log entry 9). -/
def tlbPut (e : TlbEnt) (cap : Nat) (t : List TlbEnt) : List TlbEnt :=
  let mine := t.filter fun x => x.cache == e.cache
  let rest := t.filter fun x => x.cache != e.cache
  if mine.any fun x => x.ctx == e.ctx && x.base == e.base && x.log == e.log then t else (e :: mine.take (cap - 1)) ++ rest

/-- The caches after an access of a quad has translated an address (R179). -/
def State.fillTlb (s : State) (quad ctx va : Nat) : State :=
  match s.xlate quad ctx va with
  | .page x =>
    let e (cache : Nat) : TlbEnt := ⟨cache, ctx, x.base, x.log, x.leaf⟩
    { s with tlb := tlbPut (e quad) 256 (tlbPut (e (256 + dieOfQuad quad)) 8192 s.tlb) }
  | _ => s

/-- Line and sector numbers of a physical address. -/
def lineOf (pa : Nat) : Nat := pa / 256
def sectorOf (pa : Nat) : Nat := pa / 32
def sectorKey (part pa : Nat) : Nat := part * 2 ^ 43 + pa / 32

/-! ## Permissions and conflicts -/

/-- What an access does with a page (R180). -/
inductive Kind where
  | load | store | fetch
deriving DecidableEq, Repr

/-- An L1 copy that a DT or SI access left (R181). -/
def CLine.attr? (c : CLine) : Option Nat :=
  match c.kind with
  | .dt .I => none
  | .dt _ => some 0
  | .si _ _ true => some 1
  | .halo => some 0
  | _ => none

/-- Copies of the line exist under another attribute than the access's (R181). -/
def State.attrConflict (s : State) (part : Nat) (x : Xl) : Bool :=
  !x.host && s.cache.any fun c => c.cache < 256 && c.part == part && c.line == lineOf x.pa &&
    (match c.attr? with | some a => a != x.attr | none => false)

/-- The sub-cause of PROT that an access to a page meets first (R180): 0x03, then 0x01 or 0x02, then 0x05. -/
def State.permSub (s : State) (part : Nat) (user : Bool) (k : Kind) (x : Xl) : Option (BitVec 8) :=
  if user && !x.u then some 0x03
  else if k == .store && !x.w then some 0x01
  else if k == .fetch && (!x.x || x.attr == 2 || x.host) then some 0x02
  else if s.attrConflict part x then some 0x05
  else none

/-- Cause codes of R9. -/
def cILLEGAL : BitVec 8 := 0x01
def cPRIVILEGE : BitVec 8 := 0x02
def cSTALLCHK : BitVec 8 := 0x03
def cUNIFORM : BitVec 8 := 0x04
def cBREAK : BitVec 8 := 0x05
def cWDOG : BitVec 8 := 0x06
def cSWTRAP : BitVec 8 := 0x07
def cPAGE : BitVec 8 := 0x10
def cPROT : BitVec 8 := 0x11
def cALIGN : BitVec 8 := 0x12
def cRACE : BitVec 8 := 0x13
def cPOISON : BitVec 8 := 0x14
def cHOMELOST : BitVec 8 := 0x15
def cHALOWRITE : BitVec 8 := 0x16
def cNONFINITE : BitVec 8 := 0x20
def cINDEX : BitVec 8 := 0x21
def cROOMLESS : BitVec 8 := 0x30
def cROOMMODE : BitVec 8 := 0x31
def cROOMORDER : BitVec 8 := 0x32
def cROOMBROKEN : BitVec 8 := 0x33
def cROOMWAIT : BitVec 8 := 0x34
def cROOMHOLDS : BitVec 8 := 0x35
def cENGINE : BitVec 8 := 0x40
def cNOLINK : BitVec 8 := 0x41
def cPEERLOST : BitVec 8 := 0x42

/-- A translated and permitted access, a fault with cause and sub-cause, or an address without memory. -/
inductive Reach where
  | ok (x : Xl)
  | fault (cause sub : BitVec 8)
  | void (pa : Nat)
deriving DecidableEq, Repr

/-- The permission checks of a translation, for a context at a level and a kind of access (R180). -/
def State.permit (s : State) (ctx : Nat) (user : Bool) (k : Kind) (w : Walk) : Reach :=
  match w with
  | .fault sub => .fault cPAGE sub
  | .lost => .fault cHOMELOST 0x00
  | .void pa => .void pa
  | .page x =>
    let p := (s.ctx ctx).part
    match s.permSub p user k x with
    | some sub => .fault cPROT sub
    | none => if !x.host && (s.part p).dramSize ≤ x.pa then .void x.pa else .ok x

/-- Translation with the permission checks of R180. With translation off every access raises PAGE, before any PROT (R178). -/
def State.reach (s : State) (quad ctx : Nat) (user : Bool) (k : Kind) (va : Nat) : Reach :=
  if 2 ^ 52 ≤ va then (if (s.ctx ctx).xlbase.getLsbD 0 then .fault cPROT 0x04 else .fault cPAGE 0x01)
  else s.permit ctx user k (s.xlate quad ctx va)

end Sys2Proof.Machine
end

