-- ==== Sys2Proof/Machine/Cache.lean ====
section
/-! DEFINITION. The caches: stamps, victims, quotas and samples (R168 to R174), MOESI (R183), SI copies (R185), partial lines
(R200), and the bytes an access of a quad sees. -/

namespace Sys2Proof.Machine

/-! ## Homes -/

/-- The partition number under which the caches know a line: 4 for host memory. -/
def cachePart (part : Nat) (x : Xl) : Nat := if x.host then 4 else part

/-- A poison mark set or cleared (R193). -/
def State.setPoison (s : State) (x : Spot) (b : Bool) : State :=
  if s.poison.contains x == b then s
  else { s with poison := if b then x :: s.poison else s.poison.filter fun y => y != x }

/-- Bytes at the home: DRAM behind the home slice, or host memory. -/
def State.homeRead (s : State) (cp addr n : Nat) : List Byte :=
  if cp == 4 then Mem.read s.hostMem addr n else s.readDram cp addr n
def State.homeWrite (s : State) (cp addr : Nat) (bs : List Byte) : State :=
  if cp == 4 then { s with hostMem := Mem.write addr bs s.hostMem } else s.writeDram cp addr bs

/-! ## Next-use stamps -/

/-- The distance of a NUD value in crew ticks (R168). -/
def nudTicks (v : Nat) : Nat := if v ≤ 14 then 2 ^ (v - 1) else 128

/-- The low 16 bits of the reuse epoch (R169). -/
def State.nowEpoch (s : State) : BitVec 16 := BitVec.ofNat 16 s.epoch

/-- The due epoch of an access (R170). -/
def dueEpoch (now : BitVec 16) (pace log v : Nat) : BitVec 16 :=
  if v == 0 then now - 16384#16
  else now + BitVec.ofNat 16 (min (nudTicks v * pace * 2 ^ log / 256) 16383)

/-- What a crew's access at this moment computes its stamps with, and the due epoch that it gives (R170). -/
def State.clock (s : State) (crew : Nat) : ReuseClock :=
  let c := s.crew crew
  ⟨s.nowEpoch, c.pace, bits (s.ctx c.ctx).reusef.toNat 0 3⟩
def ReuseClock.due (k : ReuseClock) (v : Nat) : BitVec 16 := dueEpoch k.epoch k.pace.toNat k.log v
def State.due (s : State) (crew v : Nat) : BitVec 16 := (s.clock crew).due v

/-- The stamp of an access: the context that is recorded, its NUD and due epoch. `again`: the access has stamped the line already, and a hit
leaves the stamp (R170, R172). -/
structure Stamp where
  ctx : Nat
  nud : Nat
  due : BitVec 16
  again : Bool
deriving DecidableEq, Repr

def ReuseClock.stamp (k : ReuseClock) (ctx nud : Nat) (again : Bool) : Stamp := ⟨ctx, nud, k.due nud, again⟩

/-- A candidate's rank (R171). -/
def rankOf (now due : BitVec 16) : Nat :=
  let d := sext 16 (due - now).toNat
  if 0 ≤ d then d.toNat else min (2 * (-d).toNat) 32767

/-! ## Samples (R172, R173) -/

/-- The adjustment of REUSEF after 65,536 samples (R173). ADJ tells which of the three cases it was, whether or not LOG could move (DESIGN
CHOICE, log entry 42). -/
def Context.adjustReuse (c : Context) : Context :=
  let overs := bits c.reusest.toNat 17 17
  let log := bits c.reusef.toNat 0 3
  let (log', adj) := if 32768 < overs then (min (log + 1) 4, 1) else if overs < 16384 then (log - 1, 2) else (log, 0)
  { c with reusef := BitVec.ofNat 64 log', reusest := BitVec.ofNat 64 (adj * 2 ^ 34) }

/-- A context has resolved a window of samples (R173). -/
def Context.windowFull (c : Context) : Bool := 65536 ≤ bits c.reusest.toNat 0 17 + bits c.reusest.toNat 17 17

/-- A stamp resolved: honest or overstated, counted in REUSEST of the context on the line. A window that is full has been judged before the
next sample counts (R173). -/
def Context.resolve (c : Context) (honest : Bool) : Context :=
  let c := if c.windowFull then c.adjustReuse else c
  { c with reusest := if honest then c.reusest + 1#64 else c.reusest + BitVec.ofNat 64 (2 ^ 17) }
def State.resolve (s : State) (ctx : Nat) (honest : Bool) : State := s.modCtx ctx fun c => c.resolve honest

/-- Lines changed or taken out of the caches. A stamp that goes without a hit resolves as overstated (R172). -/
def State.filterCache (s : State) (f : CLine → Option CLine) : State :=
  let gone (c : CLine) : Bool := c.sample && (match f c with | none => true | some d => !d.sample)
  let s' := (s.cache.filter gone).foldl (fun t c => t.resolve c.ctx false) s
  { s' with cache := s'.cache.filterMap f }

/-! ## Partial lines -/

/-- The identity of an ACCUM operator (R150, R199): ETYPE 0 i32, 1 i64, 2 f32. -/
def accIdentity (etype aop : Nat) : Nat :=
  let w := if etype == 1 then 64 else 32
  if etype == 2 then (match aop with | 0 => 0x80000000 | 1 => 0x7F800000 | _ => 0xFF800000)
  else match aop with
    | 0 => 0 | 1 => 2 ^ (w - 1) - 1 | 2 => 2 ^ (w - 1) | 3 => 2 ^ w - 1 | _ => 0

/-- One contribution or combination under an ACCUM operator (R200). -/
def accOp (etype aop a b : Nat) : Nat :=
  let w := if etype == 1 then 64 else 32
  if etype == 2 then
    (match aop with | 0 => (fAdd 0 0 a b).code | 1 => fMinMax 0 false a b | _ => fMinMax 0 true a b)
  else match aop with
    | 0 => (a + b) % 2 ^ w
    | 1 => if sext w a ≤ sext w b then a else b
    | 2 => if sext w a ≤ sext w b then b else a
    | 3 => (BitVec.ofNat w a &&& BitVec.ofNat w b).toNat
    | 4 => (BitVec.ofNat w a ||| BitVec.ofNat w b).toNat
    | _ => (BitVec.ofNat w a ^^^ BitVec.ofNat w b).toNat

/-- A partial line combined into the region's memory (R200, R205, R210). -/
def State.combine (s : State) (ctx : Nat) (p : Partial) : State :=
  let cx := s.ctx ctx
  match cx.region p.region with
  | none => s
  | some r =>
    let w := if r.etype == 1 then 64 else 32
    let old := imgOf (s.readDram cx.part (256 * p.line) 256)
    s.writeDram cx.part (256 * p.line) (imgBytes (build w fun e => accOp r.etype r.aop (el w e old) (el w e p.data)))

/-- A partial line combined into the region's memory, with its poison marks (R193, R200). A line whose home is lost is written all the same (log
entry 20). -/
def State.combineMarked (s : State) (ctx : Nat) (p : Partial) : State :=
  let s := s.combine ctx p
  if s.poison.isEmpty then s
  else (List.range 8).foldl (fun s n =>
    let k := 8 * p.line + n
    if s.poison.contains (.accum ctx p.region p.quad k) then
      (s.setPoison (.home (s.ctx ctx).part k) true).setPoison (.accum ctx p.region p.quad k) false
    else s) s

/-- One partial line flushed to the home: combined, and gone from the quad (R200, R210). -/
def State.flushPartial (s : State) (ctx region quad line : Nat) : State :=
  let is (p : Partial) : Bool := p.region == region && p.quad == quad && p.line == line
  match (s.ctx ctx).partials.find? is with
  | none => s
  | some p =>
    let s := s.combineMarked ctx p
    let s := s.modCtx ctx fun c => { c with partials := c.partials.filter fun q => !is q }
    s.filterCache fun c => if c.cache == quad && c.ctx == ctx && c.line == line && c.kind == .accum region then none else some c

/-! ## Copies -/

/-- Sector n of a line. -/
def lineSector (x : Img) (n : Nat) : List Byte := leBytes 32 (el 256 n x)

/-- The dirty sectors of a quad's SI copy, and only those, written to the home, with their poison marks (R185, R193). A
home that is lost is written all the same (log entry 20). -/
def State.writeBack (s : State) (quad cp line : Nat) (data : Img) (dirty : BitVec 8) : State :=
  (List.range 8).foldl (fun s n =>
    if dirty.getLsbD n then
      let k := 8 * line + n
      (s.homeWrite cp (256 * line + 32 * n) (lineSector data n)).setPoison (.home cp k) (s.poison.contains (.si quad cp k))
    else s) s

/-- A quad's new SI copy takes the poison marks of its home (R193). -/
def State.fillMarks (s : State) (quad cp line : Nat) : State :=
  if s.poison.isEmpty then s
  else (List.range 8).foldl (fun s n => s.setPoison (.si quad cp (8 * line + n)) (s.poison.contains (.home cp (8 * line + n)))) s

/-- The same line of the same cache. -/
def CLine.same (a b : CLine) : Bool := a.cache == b.cache && a.set == b.set && a.way == b.way

/-- The copy owns its DT line: the home is stale (R183). -/
def CLine.owns (c : CLine) : Bool := c.cache < 256 && (match c.kind with | .dt .M | .dt .O => true | _ => false)

/-- The quad that owns a DT line (R183). -/
def State.ownerOf (s : State) (part line : Nat) : Option Nat := (s.cache.find? fun c => c.owns && c.part == part && c.line == line).map (·.cache)

/-- Where the coherent contents of a sector carry their poison mark: in the owner's copy, or at the home (R183, R193). -/
def State.coherentSpot (s : State) (part sec : Nat) : Spot :=
  match s.ownerOf part (sec / 8) with
  | some q => .copy q part sec
  | none => .home part sec

/-- The poison marks of eight places; nothing where there is no poison at all. -/
def State.marksOf (s : State) (f : Nat → Spot) : List Bool := if s.poison.isEmpty then [] else (List.range 8).map fun n => s.poison.contains (f n)
def State.putMarks (s : State) (f : Nat → Spot) (ms : List Bool) : State := ms.zipIdx.foldl (fun s p => s.setPoison (f p.2) p.1) s

/-- The data of an owner's copy returns to the home, and its poison marks with it (R183, R193). -/
def State.returnMarks (s : State) (c : CLine) : State :=
  if c.owns then s.putMarks (fun n => .home c.part (8 * c.line + n)) (s.marksOf fun n => .copy c.cache c.part (8 * c.line + n)) else s

/-- A way's contents leave the cache (R171, R172, R183, R185, R200). -/
def State.evictLine (s : State) (c : CLine) : State :=
  let s := match c.kind with
    | .si data dirty true => s.writeBack c.cache c.part c.line data dirty
    | .accum region => s.flushPartial c.ctx region c.cache c.line
    | _ => s.returnMarks c
  s.filterCache fun x => if x.same c then none else some x

/-- Ways of a cache (R20, R171), and the context's quota there (R174). -/
def waysOf (cache : Nat) : Nat := if cache < 256 then 8 else 16
def State.quota (s : State) (cache ctx : Nat) : Nat :=
  let q := (s.ctx ctx).wayq.toNat
  if cache < 256 then bits q 0 4 else bits q 4 5

/-- The way a context's new line takes in a set, with the line it displaces (R171, R174); `none`: it is served without allocating. -/
def State.pickWay (s : State) (cache set ctx : Nat) : Option (Nat × Option CLine) :=
  let inSet := s.cache.filter fun c => c.cache == cache && c.set == set
  let mine := inSet.filter fun c => c.ctx == ctx
  let q := s.quota cache ctx
  let victim (cs : List CLine) : Option (Nat × Option CLine) :=
    (leastBy (fun c : CLine => (32767 - rankOf s.nowEpoch c.due) * 16 + c.way) (cs.filter fun c => c.pins == 0)).map fun c => (c.way, some c)
  if q != 0 && q ≤ mine.length then victim mine
  else
    match (List.range (waysOf cache)).find? fun w => !inSet.any fun c => c.way == w with
    | some w => some (w, none)
    | none => victim inSet

/-- A stamp is sampled (R172). -/
def sampled (set nud : Nat) : Bool := set % 64 == 0 && nud != 0

/-- A line's occupied way restamped by a hit (R170, R172). -/
def State.restamp (s : State) (c : CLine) (st : Stamp) (kind : LineKind) : State :=
  let s := if c.sample && !st.again then s.resolve c.ctx true else s
  { s with cache := s.cache.map fun x =>
      if !x.same c then x
      else if st.again then { x with kind := kind }
      else { x with kind := kind, due := st.due, sample := sampled c.set st.nud, ctx := st.ctx } }

/-- A line allocated in a cache, where a way can be had (R171, R174). -/
def State.allocate (s : State) (cache set cp line : Nat) (st : Stamp) (kind : LineKind) : State :=
  match s.pickWay cache set st.ctx with
  | none => s
  | some (w, victim) =>
    let s := match victim with | some c => s.evictLine c | none => s
    { s with cache := ⟨cache, set, w, cp, line, kind, st.due, sampled set st.nud, st.ctx, 0, 0⟩ :: s.cache }

/-- The entry of a cache for an ordinary copy of a line. -/
def State.copyIn (s : State) (cache cp line : Nat) : Option CLine :=
  s.cache.find? fun c => c.cache == cache && c.part == cp && c.line == line &&
    (match c.kind with | .accum _ => false | .halo => false | _ => true)

/-- The copies of a DT line in the L1s of other quads. -/
def State.otherCopies (s : State) (quad part line : Nat) : List CLine :=
  s.cache.filter fun c => c.cache < 256 && c.cache != quad && c.part == part && c.line == line &&
    (match c.kind with | .dt .I => false | .dt _ => true | _ => false)

/-- What a quad's read of a line without a copy makes of its own copy, and of the others (R183). -/
def readState (others : List Moesi) : Moesi := if others.isEmpty then .E else .S
def afterRead : Moesi → Moesi
  | .M => .O | .E => .S | m => m

/-- Other quads' copies changed for a read miss (R183). -/
def State.shareOthers (s : State) (quad part line : Nat) : State :=
  { s with cache := s.cache.map fun c =>
      if c.cache < 256 && c.cache != quad && c.part == part && c.line == line then
        (match c.kind with | .dt m => { c with kind := .dt (afterRead m) } | _ => c)
      else c }

/-- A DT copy invalidated: a pinned line keeps its way (R175, R183). -/
def CLine.lose (c : CLine) : Option CLine :=
  match c.kind with
  | .dt _ => if c.pins == 0 then none else some { c with kind := .dt .I, sample := false }
  | _ => some c

/-- The DT copies that a test picks are invalidated; an owner's data returns to the home (R183). -/
def State.loseCopies (s : State) (pick : CLine → Bool) : State :=
  let mine (c : CLine) : Bool := decide (c.cache < 256) && pick c
  let s := if s.poison.isEmpty then s else (s.cache.filter mine).foldl State.returnMarks s
  s.filterCache fun c => if mine c then c.lose else some c

/-- Every DT copy of a line in an L1 that a test picks is invalidated (R183). -/
def State.invalidate (s : State) (pick : Nat → Bool) (part line : Nat) : State :=
  s.loseCopies fun c => pick c.cache && c.part == part && c.line == line

/-- The L1 set of a line (R338). -/
def l1Set (line : Nat) : Nat := line % 512

/-- A stamp in the home slice alone: UC accesses (R186), and requests of engines that no L1 sees. -/
def State.touchL2 (s : State) (part line : Nat) (st : Stamp) : State :=
  let (sl, set) := s.homeSlice part (256 * line)
  match s.copyIn sl part line with
  | some c => s.restamp c st (.dt .E)
  | none => s.allocate sl set part line st (.dt .E)

/-- A hit of a DT copy that the quad serves alone: a read of valid data, or a write to a copy that no other quad holds (R183). -/
def servedAlone (write : Bool) (k : LineKind) : Bool :=
  match k with
  | .dt .M | .dt .E => true
  | .dt .O | .dt .S => !write
  | _ => false

/-- A DT access of a quad: its copy, the others', and the stamps in the caches that the access passes: the home slice only where the
quad cannot serve it alone (R170, R183). -/
def State.touchDt (s : State) (quad part line : Nat) (st : Stamp) (write : Bool) : State :=
  let others := (s.otherCopies quad part line).map fun c => match c.kind with | .dt m => m | _ => .I
  let ms := s.marksOf fun n => s.coherentSpot part (8 * line + n)
  let fill (t : State) : State := t.putMarks (fun n => if (t.copyIn quad part line).isSome then .copy quad part (8 * line + n) else .home part (8 * line + n)) ms
  let s := if write then s.invalidate (fun q => q != quad) part line else s
  match s.copyIn quad part line with
  | some c =>
    let k : Moesi := if write then .M else (match c.kind with | .dt .I => readState others | .dt m => m | _ => .S)
    let s := if !write && c.kind == LineKind.dt .I then s.shareOthers quad part line else s
    let t := s.restamp c st (.dt k)
    let t := if c.kind == .dt .I then fill t else t
    if servedAlone write c.kind then t else t.touchL2 part line st
  | none =>
    let s := if write then s else s.shareOthers quad part line
    let t := s.allocate quad (l1Set line) part line st (.dt (if write then .M else readState others))
    (if write || (t.copyIn quad part line).isSome then fill t else t).touchL2 part line st

/-- An SI access of a quad: a copy that is absent is fetched from the home, which the access passes then, and stamped (R170, R185). -/
def State.touchSi (s : State) (quad cp line : Nat) (st : Stamp) : State :=
  let home (s : State) : State := if cp == 4 then s else s.touchL2 cp line st
  match s.copyIn quad cp line with
  | some c =>
    match c.kind with
    | .si d m true => s.restamp c st (.si d m true)
    | _ => home ((s.fillMarks quad cp line).restamp c st (.si (imgOf (s.homeRead cp (256 * line) 256)) 0 true))
  | none => home ((s.fillMarks quad cp line).allocate quad (l1Set line) cp line st (.si (imgOf (s.homeRead cp (256 * line) 256)) 0 true))

/-- The SI copy of a line in a quad's L1. -/
def State.siCopy (s : State) (quad cp line : Nat) : Option (CLine × Img × BitVec 8) :=
  match s.copyIn quad cp line with
  | some c => (match c.kind with | .si d m true => some (c, d, m) | _ => none)
  | none => none

/-- Every cache an access passes, after it (R170, R183, R185, R186). A UC page ignores the NUD (R164). -/
def State.touch (s : State) (quad part ctx : Nat) (k : ReuseClock) (nud : Nat) (x : Xl) (write again : Bool) : State :=
  let line := lineOf x.pa
  let st := k.stamp ctx nud again
  if x.attr == 0 then s.touchDt quad part line st write
  else if x.attr == 1 then s.touchSi quad (cachePart part x) line st
  else if x.host then s
  else s.touchL2 part line (k.stamp ctx 15 again)

/-- A read of a line in a cached page passes its home slice: the quad does not serve it alone. -/
def State.passesHome (s : State) (quad part : Nat) (x : Xl) : Bool :=
  match s.copyIn quad (cachePart part x) (lineOf x.pa) with
  | some c => if x.attr == 0 then !servedAlone false c.kind else (match c.kind with | .si _ _ true => false | _ => true)
  | none => true

/-- A line of a cached page read into the quad's L1 and into the home slice, each stamped once (R166, R175); host memory has no home slice. -/
def State.touchBoth (s : State) (quad part ctx : Nat) (k : ReuseClock) (nud : Nat) (x : Xl) : State :=
  let t := s.touch quad part ctx k nud x false false
  if x.host || s.passesHome quad part x then t else t.touchL2 part (lineOf x.pa) (k.stamp ctx nud false)

/-! ## The bytes an access sees -/

/-- Bytes of one line as a quad's access reads them (R183, R185, R186): an SI copy, an orphaned copy, or the coherent contents. -/
def State.readBytes (s : State) (quad part : Nat) (x : Xl) (n : Nat) : List Byte :=
  let cp := cachePart part x
  let line := lineOf x.pa
  if x.attr == 1 then
    match s.siCopy quad cp line with
    | some (_, d, _) => ((imgBytes d).drop (x.pa % 256)).take n
    | none => s.homeRead cp x.pa n
  else if x.attr == 0 then
    match s.orphans.find? fun o => o.1 == cp * 2 ^ 40 + line && o.2.1 == quad with
    | some o => ((imgBytes o.2.2).drop (x.pa % 256)).take n
    | none => s.homeRead cp x.pa n
  else s.homeRead cp x.pa n

/-- Bytes of one line written by a quad's access: into the SI copy with its dirty bits, or to the coherent contents. -/
def State.writeBytes (s : State) (quad part : Nat) (x : Xl) (bs : List Byte) : State :=
  let cp := cachePart part x
  let line := lineOf x.pa
  if x.attr == 1 then
    match s.siCopy quad cp line with
    | some (c, d, m) =>
      let old := imgBytes d
      let new := old.take (x.pa % 256) ++ bs ++ old.drop (x.pa % 256 + bs.length)
      let lo := x.pa % 256 / 32
      let hi := (x.pa % 256 + bs.length - 1) / 32
      let dirty := m ||| BitVec.ofNat 8 (buildNat 1 (fun i => (decide (lo ≤ i) && decide (i ≤ hi)).toNat) 8)
      { s with cache := s.cache.map fun y => if y.same c then { y with kind := .si (imgOf new) dirty true } else y }
    | none => s.homeWrite cp x.pa bs
  else s.homeWrite cp x.pa bs

/-- An SI copy discarded: a pinned line keeps its way (R175, R185, R189). -/
def CLine.discard (c : CLine) : Option CLine :=
  if c.pins == 0 then none else some { c with kind := .si 0 0 false, sample := false }

/-- The dirty sectors of one SI copy written back, and the copy discarded or kept clean (R185, R189). -/
def State.flushCopy (s : State) (discard : Bool) (c : CLine) : State :=
  match c.kind with
  | .si d m true =>
    (s.writeBack c.cache c.part c.line d m).filterCache fun y =>
      if y.same c then (if discard then y.discard else some { y with kind := .si d 0 true }) else some y
  | _ => s

/-- Every SI copy in a quad's L1 written back, and discarded for an acquire (R185). -/
def State.flushSi (s : State) (quad : Nat) (discard : Bool) : State :=
  (s.cache.filter fun c => c.cache == quad).foldl (fun s c => s.flushCopy discard c) s

/-- The stamps whose due has passed without a hit resolve as overstated (R172). -/
def State.expireStamps (s : State) : State :=
  let late (c : CLine) : Bool := c.sample && decide (sext 16 (c.due - s.nowEpoch).toNat < 0)
  let s' := (s.cache.filter late).foldl (fun t c => t.resolve c.ctx false) s
  { s' with cache := s'.cache.map fun c => if late c then { c with sample := false } else c }

/-- A visit of a set: stamps far in the past are brought to the saturated rank (R171). -/
def State.sweepSet (s : State) (cache set : Nat) : State :=
  { s with cache := s.cache.map fun c =>
      if c.cache == cache && c.set == set && decide (sext 16 (c.due - s.nowEpoch).toNat < -16384) then
        { c with due := s.nowEpoch - 16384#16 } else c }

end Sys2Proof.Machine
end

