-- ==== Sys2Proof/Machine/Regs.lean ====
section
/-! DEFINITION. The registers of a group: the one read and the one write of them, and the writes of the fixed-latency pipes
(R44 to R46, R50 to R53, R83). -/

namespace Sys2Proof.Machine

/-! ## Reading -/

/-- A register as the file holds it, read by an instruction of element width w (R44, R46). -/
def Group.reg (gr : Group) (w : Nat) (spec : BitVec 6) : Img :=
  let n := spec.toNat
  if n < 48 then gr.v[n]?.getD 0
  else if n < 56 then gr.o[n - 48]?.getD 0
  else if n == 56 then gr.la
  else if n == 57 then gr.lb
  else if n == 59 then build w fun e => laneIx w e
  else if n == 60 then ofLanes fun l => (gr.lane l).pc
  else if n == 61 then build w fun _ => gr.cid
  else 0

/-- A mask register; k0 reads all ones (R20). -/
def Group.mask (gr : Group) (k : Nat) : Mask := if k == 0 then BitVec.allOnes 256 else gr.k[k]?.getD 0

/-! ## Writing -/

/-- A register written where `en` is 1; z discards, and the source-only specifiers are never destinations (R44). -/
def Group.setReg (gr : Group) (spec : BitVec 6) (en val : Img) : Group :=
  let n := spec.toNat
  if n < 48 then { gr with v := gr.v.setIfInBounds n (blend en val (gr.v[n]?.getD 0)) }
  else if n < 56 then { gr with o := gr.o.setIfInBounds (n - 48) (blend en val (gr.o[n - 48]?.getD 0)) }
  else gr

/-- A mask register written where `en` is 1; k0 keeps all ones (R20, R122). -/
def Group.setMask (gr : Group) (k : Nat) (en val : Mask) : Group :=
  if k == 0 then gr
  else { gr with k := gr.k.setIfInBounds k ((val &&& en) ||| (gr.k[k]?.getD 0 &&& ~~~en)) }

/-- A result entered into la, the older ones moving to lb, lane by lane in the order of issue (R45, R83). -/
def Group.enterLast (gr : Group) (lanes : Lanes) (val : Img) (seq : Nat) : Group :=
  let newer := lanesWhere fun l => lanes.getLsbD l && decide (gr.laSeq[l]?.getD 0 < seq)
  let second := lanesWhere fun l => lanes.getLsbD l && !decide (gr.laSeq[l]?.getD 0 < seq) && decide (gr.lbSeq[l]?.getD 0 < seq)
  { gr with
    la := blend (laneBits newer) val gr.la
    lb := blend (laneBits newer) gr.la (blend (laneBits second) val gr.lb)
    laSeq := gr.laSeq.mapIdx fun l q => if newer.getLsbD l then seq else q
    lbSeq := gr.lbSeq.mapIdx fun l q =>
      if newer.getLsbD l then gr.laSeq[l]?.getD 0 else if second.getLsbD l then seq else q }

/-- Flags raised lane by lane: in FPMODE, or, in a continuation, in the lanes' own flags (R72, R100) (log entry 56). -/
def Group.addFlags (gr : Group) (fs : List (Nat × BitVec 5)) : Group :=
  if gr.shadow.isSome then { gr with lanes := gr.lanes.mapIdx fun l x => { x with flags := x.flags ||| (look fs l).getD 0 } }
  else
    let all := fs.foldl (fun (acc : BitVec 5) p => acc ||| p.2) 0
    { gr with fpmode := gr.fpmode ||| (all.zeroExtend 64 <<< (8 : Nat)) }

/-- A pending write performed, with the flags of its instruction. The value that enters la is the register's after the write, so after
merge or fill (R45, R72). -/
def Group.perform (gr : Group) (p : Pending) : Group :=
  let gr := if p.flags.isEmpty then gr else gr.addFlags p.flags
  match p.dest with
  | .reg spec =>
    let gr' := gr.setReg spec p.en p.val
    let full := p.full.getD (if spec.toNat < 56 then gr'.reg 64 spec else p.val &&& p.en)
    if p.last == 0 then gr' else gr'.enterLast p.last full p.seq
  | .mask k => gr.setMask k (p.en.truncate 256) (p.val.truncate 256)

/-! ## Order of writes (R50, R52, R53) -/

/-- A register as it will stand when the pending writes of a list to it have been performed, in the order of issue. -/
def Group.after (gr : Group) (spec : BitVec 6) (older : List Pending) : Img :=
  older.foldl (fun v q => if q.dest == .reg spec then blend q.en q.val v else v) (if spec.toNat < 56 then gr.reg 64 spec else 0)

/-- Pending writes of which a younger write of some bits of a destination goes first: they write those bits no more, and the value
that they enter into la is theirs in the order of issue. `v` is the register before the first of them. -/
def overtaken (d : Dest) (en : Img) : Img → List Pending → List Pending
  | _, [] => []
  | v, q :: t =>
    if q.dest == d then
      let w := blend q.en q.val v
      { q with full := some (q.full.getD w), en := q.en &&& ~~~en } :: overtaken d en w t
    else q :: overtaken d en v t

/-- The pending writes of a register before a younger write of some of its bits. -/
def Group.overtake (gr : Group) (spec : BitVec 6) (en : Img) : Group :=
  if spec.toNat < 56 then { gr with fix := overtaken (.reg spec) en (gr.reg 64 spec) gr.fix } else gr

/-- A pending write with the value it enters into la fixed, where older ones are still to be performed. -/
def Pending.fixed (gr : Group) (older : List Pending) (p : Pending) : Pending :=
  match p.dest with
  | .reg spec =>
    if spec.toNat < 56 && older.any (fun q => q.dest == p.dest) then { p with full := some (p.full.getD (blend p.en p.val (gr.after spec older))) }
    else p
  | .mask _ => p

/-- The pending writes that are due performed. A younger write of a register or mask that is due before an older one goes first, and the
older one then writes only the other bits, when it is due itself: no bit is readable before its time, and no older write comes after
a younger one (R50, R52, R53). `older` are those found not to be due. -/
def Group.settleList (now : Nat) : List Pending → List Pending → Group → Group
  | older, [], gr => { gr with fix := older }
  | older, p :: rest, gr =>
    if p.avail ≤ now then
      let older' := match p.dest with | .reg spec => if spec.toNat < 56 then overtaken p.dest p.en (gr.reg 64 spec) older else older | .mask _ => overtaken p.dest p.en 0 older
      Group.settleList now older' rest (gr.perform (p.fixed gr older))
    else Group.settleList now (older ++ [p]) rest gr

def Group.settle (gr : Group) (now : Nat) : Group := Group.settleList now [] gr.fix gr

/-- Every pending write performed (R55). -/
def Group.flush (gr : Group) : Group := { gr.fix.foldl Group.perform gr with fix := [] }

def State.settle (s : State) (g : Nat) : State := s.modGrp g fun gr => gr.settle s.now
def State.flush (s : State) (g : Nat) : State := s.modGrp g Group.flush

/-! ## Uncovered reads (R53) -/

/-- A read of the register by these lanes falls before the covering cycle of its producer. A read of la or lb counts as a read
of the result that stands, or is to stand, there (R45, R53). A pending write counts where it is to write an element of these lanes:
whether a producer whose mask enables none of them counts is left open (DESIGN CHOICE, log entry 38). -/
def Group.uncovered (gr : Group) (now : Nat) (lanes : Lanes) (spec : BitVec 6) : Bool :=
  gr.fix.any fun p => decide (now < p.avail) &&
    (if spec == 56 then (lanesOf (p.last &&& lanes)).any fun l => decide (gr.laSeq[l]?.getD 0 < p.seq)
     else if spec == 57 then (lanesOf (p.last &&& lanes)).any fun l => decide (gr.lbSeq[l]?.getD 0 < p.seq)
     else p.dest == .reg spec && (p.en &&& laneBits lanes) != 0)

end Sys2Proof.Machine
end

