-- ==== Sys2Proof/Machine/Operands.lean ====
section
/-! DEFINITION. The operands of the unit being issued: the value each field reads, under which width, from which lanes, and from the
captured images when the unit is performed again (R44, R46, R318); write masks, fill and results (R47, R117); the disagreement
test of uniform reads (R84). -/

namespace Sys2Proof

open Machine

/-- A field of the word that names a source: D, A, B, or C of the prefix. -/
inductive Fld where
  | D | A | B | C
deriving DecidableEq, Repr

/-- The specifier in a field. -/
def Instr.specOf (i : Instr) : Fld → BitVec 6
  | .D => i.dSpec.getD 58
  | .A => i.a?.getD 58
  | .B => i.b?.getD 58
  | .C => i.c

/-- The type layout of R149 holds for the row. -/
def Instr.typed (i : Instr) : Bool :=
  match i with
  | .redl _ _ _ _ | .scan _ _ _ _ _ | .redmi _ _ _ _ _ | .comb _ _ _ _ _ => true
  | _ => false

/-- The width of the elements the instruction works on, under which lid and cid fill a field (R46): the element width where the
field holds elements, 64 where it holds an address, an offset, an index of a lane, a target or a command word. -/
def Instr.width (i : Instr) : Nat :=
  let l := i.laneOp
  match i with
  | .lea _ _ _ _ _ => 64
  | .tmv _ _ _ _ _ => 32
  | .fcvt _ _ _ _ _ _ _ => fmtWidth (i.x % 16)
  | .ld _ _ _ _ _ z | .st _ _ _ _ _ z | .ldl _ _ _ _ _ z | .lds _ _ _ _ z | .sts _ _ _ _ z | .ldc _ _ _ _ z
  | .prf _ _ _ _ z => 8 * 2 ^ z.toNat
  | .sld _ _ _ _ z | .sst _ _ _ _ z => 8 * 2 ^ z.toNat
  | .atom _ _ _ _ _ z | .acas _ _ _ _ _ z | .abinc _ _ _ _ _ z => 32 * 2 ^ z.toNat
  | _ =>
    if 0x020 ≤ l && l ≤ 0x03B then wOf (i.x % 8)
    else if 0x060 ≤ l && l ≤ 0x072 then fmtWidth (i.x % 8)
    else if i.typed then fmtWidth (i.x % 16)
    else if 0x0A0 ≤ l && l ≤ 0x0A7 then wOf (i.x % 8)
    else 64

/-- The width under which a field is read. -/
def Instr.readWidth (i : Instr) (f : Fld) : Nat :=
  match i, f with
  | .fcvt _ _ _ _ _ _ r, .A => fmtWidth r.toNat
  | .fcvt _ _ _ _ _ _ _, .C => 8
  | .shfl _ _ _ _ _, .B | .bcast _ _ _ _ _, .B | .tmv _ _ _ _ _, .B => 64
  | .sst _ _ _ _ _, _ | .sld _ _ _ _ _, _ => 64
  | .sinv _ _ _ _, _ | .swb _ _ _ _, _ | .swbInv _ _ _ _, _ => 64
  | _, f =>
    let l := i.laneOp
    if f == .A && ((0x0C0 ≤ l && l ≤ 0x0CA) || (0x0E0 ≤ l && l ≤ 0x0E2)) then 64 else i.width

/-- The registers a row reads, in the field order of R318, each with its place in its run. -/
def Instr.reads (i : Instr) : List (Fld × Nat) :=
  (if i.readsD && i.dSpec.isSome then [(Fld.D, 0)] else []) ++
  (if i.readsA then (List.range i.aRun).map fun j => (Fld.A, j) else []) ++
  (if i.readsB then (List.range (match i with | .cpyx _ _ _ _ => 2 | _ => 1)).map fun j => (Fld.B, j) else []) ++
  (if i.fourth && i.pf?.isSome then [(Fld.C, 0)] else [])

/-- The place of a register read among those of the row. -/
def Instr.readIx (i : Instr) (f : Fld) (j : Nat) : Nat := i.reads.findIdx fun p => p.1 == f && p.2 == j

/-- The specifier of the j-th register of a run. -/
def Instr.specAt (i : Instr) (f : Fld) (j : Nat) : BitVec 6 := i.specOf f + BitVec.ofNat 6 j

/-- The bits of a source that a uniform read consumes. -/
def Instr.usedBits (i : Instr) (f : Fld) : Nat :=
  match i, f with
  | .sst _ _ _ _ z, .D => 2 ^ (8 * 2 ^ z.toNat) - 1
  | .barSync _ _ _ _, .A | .barArrive _ _ _ _, .A | .pbarInit _ _ _, .B | .tdef _ _ _, .D => 0xFFFF
  | .launch _ _ _ _, .D | .gnode _ _ _ _, .D | .tapeRun _ _ _, .D => 0xFFFF
  | .prio _ _, .A => 7
  | .barWait _ _ _ _, .A => 0
  | .cbadvWroom _ _ _, .A | .cbadvPut _ _ _, .A | .cbadvWdata _ _ _, .A | .cbadvGet _ _ _, .A => 0xFFFF
  | .pbarWait _ _ _, .B => 1
  | .swarm _ _ _, .A => 0xFFFFFFFF
  | .syscShoot _ _, .D | .syscTerm _ _, .D | .syscQdesc _ _, .D | .syscLevel _ _, .D | .syscRing _ _, .D
  | .syscPodwin _ _, .D | .syscFpdef _ _, .D => 0xFFFFF
  | _, _ => 2 ^ 64 - 1

/-- The row's register reads take part in the test: every uniform row, and `sinv` and `swb` (R84, R189). -/
def Instr.uniformReads (i : Instr) : Bool :=
  decide (i.uniOp < 0x400) || i.laneOp == 0x0C9 || i.laneOp == 0x0CA

/-- The lanes in which a field is read (R146, R160, R175, R189): the base of a memory instruction and the index of `bcast` in the
lowest active lane alone; the exponents of `fcvt` in lanes that are not checked. -/
def Instr.readLanes (i : Instr) (f : Fld) (lanes : Lanes) : Lanes :=
  let l := i.laneOp
  match f with
  | .A => if 0x0C0 ≤ l && l ≤ 0x0C8 then oneLane (lowest lanes) else lanes
  | .B => if l == 0x0A7 then oneLane (lowest lanes) else lanes
  | _ => lanes

end Sys2Proof

namespace Sys2Proof.Machine

/-- The register a field names (the j-th of its run), as the unit being issued reads it: from the file, or from the images captured
at its first issue (R318, R322). The counter that vpc reads in an active lane is the unit's own address (R46, R48). -/
def State.srcAt (s : State) (i : Instr) (f : Fld) (j : Nat) : Img :=
  let spec := i.specAt f j
  let file := (s.grp s.cur.g).reg (i.readWidth f) spec
  let held := if spec == 60 then blend (laneBits s.cur.lanes) (splat s.cur.addr) file else file
  if s.cur.replay then (s.cur.imgs[i.readIx f j]?).getD held else held

def State.src (s : State) (i : Instr) (f : Fld) : Img := s.srcAt i f 0

/-- A field's 64 bits in a lane, and in the lowest active lane. -/
def State.srcLane (s : State) (i : Instr) (f : Fld) (l : Nat) : Word := laneOf (s.src i f) l
def Issue.lowLane (u : Issue) : Nat := u.low.getD (lowest u.lanes)
def State.scalAt (s : State) (i : Instr) (f : Fld) (j : Nat) : Word := laneOf (s.srcAt i f j) s.cur.lowLane
def State.scal (s : State) (i : Instr) (f : Fld) : Word := s.scalAt i f 0

/-- The words of an operand block in consecutive registers, in the lowest active lane (R248). -/
def State.block (s : State) (i : Instr) (f : Fld) (n : Nat) : List Word := (List.range n).map fun j => s.scalAt i f j

/-- The write mask of the unit (R47), and the source mask it reads (KS of `vote`, ks of `isel`, K of `brl`). -/
def State.wmask (s : State) (i : Instr) : Mask :=
  if s.cur.replay then s.cur.kimg else (s.grp s.cur.g).mask i.kNum
def State.smask (s : State) (k : Nat) : Mask :=
  if s.cur.replay then s.cur.simg else (s.grp s.cur.g).mask k

/-- The registers the unit reads, as they stand at its issue: one image for each field and place of a run, in the field order (R318). -/
def State.capture (s : State) (i : Instr) : List Img := i.reads.map fun p => s.srcAt i p.1 p.2

/-- The source mask's number. -/
def smaskNo (i : Instr) : Nat :=
  match i with
  | .voteAny _ _ k _ | .voteAll _ _ k _ | .voteBallot _ _ k _ => k.toNat
  | .brl _ k _ => k.toNat
  | .isel _ _ _ _ _ => i.x / 16
  | _ => 0

/-- The unit being issued as a record that can be performed again: its operands are captured once. -/
def State.unitRec (s : State) (i : Instr) : UnitRec :=
  if s.cur.replay then ⟨i, s.cur, none, false⟩
  else
    { instr := i
      iss := { s.cur with replay := true, imgs := s.capture i, kimg := s.wmask i,
                          simg := if smaskNo i == 0 then 0 else s.smask (smaskNo i) }
      bad := none, illegal := false }

/-! ## Results -/

/-- A result: the bits it writes, and their values. -/
structure Result where
  en : Img
  val : Img
deriving DecidableEq, Repr

/-- An element of the active lanes that the write mask enables takes part (R146, R160). -/
def State.takesPart (s : State) (i : Instr) (w e : Nat) : Bool := s.cur.lanes.getLsbD (laneIx w e) && enabled (s.wmask i) w e

/-- A register written by a unit of variable latency; the older pending writes of the fixed-latency pipes to it write those bits no
more (R52). -/
def State.writeReg (s : State) (g : Nat) (spec : BitVec 6) (r : Result) : State :=
  s.modGrp g fun gr => (gr.overtake spec r.en).setReg spec r.en r.val

/-- The bits of the enabled elements of width w in a set of lanes (R117). -/
def enBits (k : Mask) (w : Nat) (lanes : Lanes) : Img :=
  build w fun e => if lanes.getLsbD (laneIx w e) && enabled k w e then 2 ^ w - 1 else 0

/-- The result of a lane instruction with elements of width w: merged, or zero where the mask is off (R117, R133). -/
def State.result (s : State) (i : Instr) (w : Nat) (lanes : Lanes) (f : Nat → Nat) : Result :=
  let k := s.wmask i
  let en := enBits k w lanes
  let val := build w fun e => if lanes.getLsbD (laneIx w e) && enabled k w e then f e else 0
  if i.zeroFill then ⟨laneBits lanes, val⟩ else ⟨en, val⟩

/-- A 64-bit result in each lane of a set, without a mask. -/
def laneResult (lanes : Lanes) (f : Nat → Word) : Result := ⟨laneBits lanes, ofLanes fun l => if lanes.getLsbD l then f l else 0⟩

/-- A scalar in all 32 lanes (R84). -/
def uniResult (v : Word) : Result := ⟨BitVec.allOnes 2048, splat v⟩

/-- The mask bits of the elements of width w in a set of lanes, by a test; with fill, disabled elements clear theirs (R122). -/
def State.maskResult (s : State) (i : Instr) (w : Nat) (lanes : Lanes) (f : Nat → Bool) : Mask × Mask :=
  let k := s.wmask i
  let at_ (b : Nat) : Nat := 8 * b / w
  let on (b : Nat) : Bool := lanes.getLsbD (b / 8) && enabled k w (at_ b)
  (buildMask fun b => if i.zeroFill then lanes.getLsbD (b / 8) else on b, buildMask fun b => on b && f (at_ b))

/-! ## Disagreement (R84) -/

/-- A specifier whose lanes can differ: not z, lid, vpc or cid (R84). -/
def canDiffer (spec : BitVec 6) : Bool := spec.toNat < 58

/-- The active lanes disagree on a source the unit reads (R84). -/
def State.disagree (s : State) (i : Instr) : Bool :=
  i.uniformReads && i.reads.any fun p =>
    canDiffer (i.specAt p.1 p.2) &&
      (let x := s.srcAt i p.1 p.2
       let u := i.usedBits p.1
       let first := (laneOf x (lowest s.cur.lanes)).toNat
       (lanesOf s.cur.lanes).any fun l => ((laneOf x l).toNat ^^^ first) &&& u != 0)

/-! ## Uncovered reads (R53) -/

/-- Some source of the unit is read before the covering cycle of its producer (R53). -/
def State.uncovered (s : State) (i : Instr) : Bool :=
  let gr := s.grp s.cur.g
  i.reads.any fun p => gr.uncovered s.now (i.readLanes p.1 s.cur.lanes) (i.specAt p.1 p.2)

end Sys2Proof.Machine
end

