-- ==== Sys2Proof/Machine/Flags.lean ====
section
/-! DEFINITION. The flags of FPMODE and UNIST, the rounding mode a unit runs under, and what one floating element yields: its code,
its flags and the sub-cause of NONFINITE it would raise (R69, R71, R72, R77, R84). -/

namespace Sys2Proof.Machine

/-- FPMODE.NFT of a group now (R71). -/
def Group.nft (gr : Group) : Bool := gr.fpmode.getLsbD 3

/-- FPMODE.RM, NFT and LOWACC as the unit being issued read them at its issue (R69, R71, R133, R141). -/
def Issue.rm (u : Issue) : Nat := bits u.fp.toNat 0 3
def Issue.nft (u : Issue) : Bool := u.fp.getLsbD 3
def Issue.lowacc (u : Issue) : Bool := u.fp.getLsbD 4

/-- The rounding mode of the unit being issued (R69). -/
def State.rm (s : State) (i : Instr) : Nat := if i.rmField == 6 then s.cur.rm else i.rmField

/-- The flags of a set of lanes, lane by lane. -/
def laneFlagList (lanes : Lanes) (f : Nat → BitVec 5) : List (Nat × BitVec 5) :=
  ((lanesOf lanes).map fun l => (l, f l)).filter fun p => p.2 != 0

/-- Flags raised at once: by a unit of variable latency, or by a commit (R72, R107). -/
def State.addFlags (s : State) (g : Nat) (lanes : Lanes) (f : Nat → BitVec 5) : State :=
  s.modGrp g fun gr => gr.addFlags (laneFlagList lanes f)

/-- UNIST.DIS and FIRST for a disagreement at an address (R84, R85); per lane in a continuation (R100). -/
def unistAfter (u : Word) (addr : Word) : Word :=
  if u.getLsbD 0 then u else (addr &&& ~~~3#64) ||| 1#64
def State.addDisagree (s : State) (g : Nat) (lanes : Lanes) (addr : Word) : State :=
  if (s.grp g).shadow.isSome then
    s.modLanes g lanes fun _ x => if x.dis then x else { x with dis := true, first := addr }
  else s.modGrp g fun gr => { gr with unist := unistAfter gr.unist addr }

/-- One floating element: result code, flags, and the sub-cause of NONFINITE that it meets, 0 for none (R77). -/
structure Elem where
  code : Nat
  flags : BitVec 5
  nf : BitVec 8
deriving DecidableEq, Repr

/-- An exact value rounded into a format, with the operands it came from (R70, R71, R77). An infinite source that E4M3 turns into NaN without a
clamp has sub-cause 0x01 (DEDUCED, log entry 23). -/
def Elem.round (f rm : Nat) (clamp : Bool) (operands : List FVal) (v : FVal) : Elem :=
  let r := roundClamp f rm clamp v
  { code := r.code
    flags := r.flags ||| invalid operands v
    nf := if clamp && operands.any FVal.nonFinite then 0x04 else nonFiniteSub operands (decodeF f r.code) }

/-- A result that is no floating value, or never traps. -/
def Elem.plain (c : Nat) : Elem := ⟨c, 0, 0⟩

/-- The lanes of a unit that raise NONFINITE, and the lowest trapping element, numbered as the destination is (R77). `on` says which
elements the instruction writes apart from the mask. -/
def State.nonFinite (s : State) (i : Instr) (w : Nat) (lanes : Lanes) (on : Nat → Bool) (f : Nat → Elem) : Lanes × Option TrapInfo :=
  if !s.cur.nft then (0, none)
  else
    let k := s.wmask i
    let bad (e : Nat) : Bool := lanes.getLsbD (laneIx w e) && enabled k w e && on e && (f e).nf != 0
    let n := 64 / w
    let t := lanesWhere fun l => (List.range n).any fun j => bad (n * l + j)
    match (List.range (2048 / w)).find? bad with
    | none => (0, none)
    | some e => (t, some ⟨cNONFINITE, (f e).nf, BitVec.ofNat 64 e, none⟩)

/-- The flags of a lane's enabled elements together. -/
def State.laneFlags (s : State) (i : Instr) (w : Nat) (on : Nat → Bool) (f : Nat → Elem) (l : Nat) : BitVec 5 :=
  let k := s.wmask i
  let n := 64 / w
  (List.range n).foldl (fun (acc : BitVec 5) j =>
    let e := n * l + j
    if enabled k w e && on e then acc ||| (f e).flags else acc) 0

end Sys2Proof.Machine
end

