-- ==== Sys2Proof/Machine/MemCheck.lean ====
section
/-! DEFINITION. Judging the elements of an access before any of them takes effect: translation (R180), rooms (R199, R201), lost homes,
halo tiles, publication marks and poison (R192 to R194, R222). Faults are found element by element and taken lane by lane (R161). -/

namespace Sys2Proof.Machine

/-- Who makes an access: group, crew, core, quad, context, partition, and whether it runs at user level. -/
structure Agent where
  g : Nat
  crew : Nat
  core : Nat
  quad : Nat
  ctx : Nat
  part : Nat
  user : Bool
  /-- What its stamps are computed with (R170). -/
  clk : ReuseClock
  /-- The translations taken at its issue (R182). -/
  walks : List (Nat × Walk)
  /-- The virtual lines that the access has stamped in an earlier part (R162, R170). -/
  seen : List Nat
deriving DecidableEq, Repr

def State.agent (s : State) (g : Nat) : Agent :=
  let gr := s.grp g
  let c := s.ctxNo g
  { g := g, crew := gr.crew, core := gr.core, quad := quadOfCore gr.core, ctx := c, part := (s.ctx c).part, user := !(s.ctx c).isSys,
    clk := s.clock gr.crew, walks := [], seen := [] }

/-- The agent of the unit being issued, whose stamps are computed, and whose lines are translated, at its issue (R170, R182, R200). -/
def State.unitAgent (s : State) : Agent := { s.agent s.cur.g with clk := s.cur.clk, walks := s.cur.walks }

/-- What an access does with its elements. -/
inductive Acc where
  | load | store | atomic
deriving DecidableEq, Repr

/-- The kind of access that the page's permissions see (R180). -/
def Acc.kind : Acc → Kind
  | .load => .load
  | _ => .store

/-- One element of an access: number, lane, address and, for a store, value. -/
structure Elt where
  e : Nat
  lane : Nat
  va : Nat
  val : Nat
deriving DecidableEq, Repr

/-! ## Regions, tiles, marks -/

/-- Bytes of a region's span. -/
def Region.covers (r : Region) (va : Nat) : Bool := r.base.toNat ≤ va && va < r.base.toNat + 256 * r.lines

/-- The declared region that an address lies in (R23). -/
def Context.regionAt (c : Context) (va : Nat) : Option (Nat × Region) := c.regions.find? fun p => p.2.covers va

/-- The mode in which a lane holds a region. -/
def Lane.holdOf (l : Lane) (r : Nat) : Option Nat := (l.holds.find? fun h => h.region == r).map (·.mode)

/-- The element width of a region (R197). -/
def Region.width (r : Region) : Nat := if r.etype == 1 then 64 else 32

/-- Elements of the ring of a queue (R201). -/
def Region.ring (r : Region) : Nat := 256 * r.lines / (r.width / 8)

/-- The virtual sector lies in a tile's interior (R190). -/
def Halo.inside (h : Halo) (va : Nat) : Bool :=
  let d := va - h.base.toNat
  h.base.toNat ≤ va && d % (32 * h.pitch) < 32 * h.rlen && d / (32 * h.pitch) < h.rows

/-- The tile whose interior holds an address. -/
def Context.haloAt (c : Context) (va : Nat) : Option (Nat × Halo) := c.halos.find? fun p => p.2.inside va

/-- The level that a mark must have reached for an access of a core (R222). -/
def neededLevel (anchor core : Nat) : Nat :=
  if anchor == core then 1 else if anchor / 4 == core / 4 then 2 else if anchor / 256 == core / 256 then 3 else 4

/-- An access of a crew's core to a sector meets another crew's write that is not published far enough (R222). -/
def State.races (s : State) (part pa crew core : Nat) : Bool :=
  match look s.marks (sectorKey part pa) with
  | none => false
  | some m => m.crew != crew && decide (m.level < neededLevel m.anchor core)

/-- A quad keeps an orphaned copy of a line (R194). -/
def State.orphaned (s : State) (quad part pa : Nat) : Bool :=
  s.orphans.any fun o => o.1 == part * 2 ^ 40 + lineOf pa && o.2.1 == quad

/-- The coherent contents of a sector are poisoned (R193). -/
def State.poisoned (s : State) (part pa : Nat) : Bool := !s.poison.isEmpty && s.poison.contains (s.coherentSpot part (pa / 32))

/-- A replica of a sector serves the quad's loads (R192). -/
def State.replicaServes (s : State) (a : Agent) (va : Nat) : Bool :=
  (s.ctx a.ctx).halos.any fun h => h.2.replicas.any fun r => r.quad == a.quad && r.sector == va / 32

/-- The quad holds the data of a DT line: a valid copy, or an orphaned one. -/
def State.holdsDt (s : State) (quad part pa : Nat) : Bool :=
  s.orphaned quad part pa || (match s.copyIn quad part (lineOf pa) with | some c => (match c.kind with | .dt .I => false | .dt _ => true | _ => false) | none => false)

/-- Where an access of a quad meets the poison mark of a sector: in the quad's own copy, in the owner's, or at the home (R193). -/
def State.memSpot (s : State) (a : Agent) (y : Xl) : Spot :=
  let cp := cachePart a.part y
  let sec := y.pa / 32
  if y.attr == 1 then (if (s.siCopy a.quad cp (lineOf y.pa)).isSome then .si a.quad cp sec else .home cp sec)
  else if y.attr == 0 then (if s.holdsDt a.quad cp y.pa then .copy a.quad cp sec else s.coherentSpot cp sec)
  else .home cp sec

/-- The place of a sector of the scratchpad (space 1) or the constant store. -/
def localSpot (a : Agent) (space sec : Nat) : Spot := if space == 1 then .scratch a.crew sec else .const a.quad sec

/-! ## One element -/

/-- What becomes of an element: it may take effect, it raises a cause, or no memory answers. -/
inductive Judged where
  | ok
  | bad (cause sub : BitVec 8)
  | void (pa : Nat)
deriving DecidableEq, Repr

/-- The room checks of an element in a region, but for the capacity of PUSH (R199, R211). -/
def roomFault (l : Lane) (r : Nat) (reg : Region) (k : Acc) (w : Nat) : Option (BitVec 8 × BitVec 8) :=
  match l.holdOf r with
  | none => some (cROOMLESS, 0x01)
  | some m =>
    if reg.broken then some (cROOMBROKEN, 0x02)
    else if k == .atomic && m != 4 then some (cROOMMODE, 0x04)
    else if k == .store && m == 0 then some (cROOMMODE, 0x01)
    else if (m == 1 || m == 2 || m == 3) && w != reg.width then some (cROOMMODE, 0x05)
    else if (k == .load && m == 2) || (k == .store && m == 3) then some (cROOMMODE, 0x03)
    else none

/-- The element is served by the room and reads and writes no memory at its own address (R200, R201). -/
def inQueueRoom (l : Lane) (r : Nat) : Bool :=
  match l.holdOf r with
  | some m => m == 1 || m == 2 || m == 3
  | none => false

/-- The checks of a translated sector for an access by a quad's core, but for poison: lost home, halo tile, mark (R194, R192, R222). A
load that a replica serves meets no mark (R192). -/
def State.sectorFault (s : State) (a : Agent) (k : Acc) (marked : Bool) (va : Nat) (x : Xl) : Option (BitVec 8 × BitVec 8) :=
  if x.host then none
  else if s.lostHome a.part x.pa && !(k == .load && x.attr == 0 && s.orphaned a.quad a.part x.pa) then some (cHOMELOST, 0x00)
  else if k != .load && ((s.ctx a.ctx).haloAt va).any (fun h => h.2.owner != a.quad) then some (cHALOWRITE, 0x00)
  else if marked && x.attr == 0 && !(k == .load && s.replicaServes a va) && s.races a.part x.pa a.crew a.core then some (cRACE, if k == .store then 0x02 else 0x01)
  else none

/-- The virtual lines of elements. -/
def eltLines (elts : List Elt) : List Nat := elts.foldl (fun acc x => addNo (x.va / 256) acc) []

/-- An agent's reach of a line: by the translation taken at its issue, where it has one. -/
def State.lineReach (s : State) (a : Agent) (k : Kind) (ln : Nat) : Reach :=
  match look a.walks ln with
  | some w => s.permit a.ctx a.user k w
  | none => s.reach a.quad a.ctx a.user k (256 * ln)

/-- The agent's translation of a line maps host memory, whatever its permissions. -/
def State.lineHost (s : State) (a : Agent) (ln : Nat) : Bool :=
  decide (256 * ln < 2 ^ 52) && (match (look a.walks ln).getD (s.xlate a.quad a.ctx (256 * ln)) with | .page x => x.host | _ => false)

/-- The translations of the lines that an access touches. -/
def State.lineTable (s : State) (a : Agent) (k : Kind) (elts : List Elt) : List (Nat × Reach) :=
  (eltLines elts).map fun ln => (ln, s.lineReach a k ln)

/-- The translation of an address by such a table. -/
def reachIn (t : List (Nat × Reach)) (va : Nat) : Reach :=
  match look t (va / 256) with
  | some (.ok x) => .ok { x with pa := x.pa + va % 256 }
  | some r => r
  | none => .fault cPROT 0x04

/-- The reach of one address. -/
def State.reachBy (s : State) (a : Agent) (k : Kind) (va : Nat) : Reach := reachIn [(va / 256, s.lineReach a k (va / 256))] va

/-- One element of an access to device memory judged, poison and the capacity of PUSH apart (log entry 21). -/
def State.judge (s : State) (a : Agent) (k : Acc) (w : Nat) (t : List (Nat × Reach)) (x : Elt) : Judged :=
  match reachIn t x.va with
  | .void pa => .void pa
  | .fault c d => .bad c d
  | .ok y =>
    match (s.ctx a.ctx).regionAt x.va with
    | some (r, reg) =>
      let l := s.lane a.g x.lane
      match roomFault l r reg k w with
      | some f => .bad f.1 f.2
      | none =>
        if inQueueRoom l r then (if l.holdOf r == some 1 && s.lostHome a.part y.pa then .bad cHOMELOST 0x00 else .ok)
        else match s.sectorFault a k false x.va y with | some f => .bad f.1 f.2 | none => .ok
    | none => match s.sectorFault a k true x.va y with | some f => .bad f.1 f.2 | none => .ok

/-! ## A whole access -/

/-- What an access may do: the elements that take effect, and the lanes that fault, with the lowest faulting element. -/
structure Plan where
  good : List Elt
  bad : Lanes
  trap : Option TrapInfo
  void : Option Nat
deriving DecidableEq, Repr

/-- A fault found at an element. -/
abbrev Found := Elt × BitVec 8 × BitVec 8

/-- The elements of lanes in which no fault was found. -/
def without (elts : List Elt) (fs : List Found) : List Elt := elts.filter fun x => !fs.any fun f => f.1.lane == x.lane

/-- The bytes of one sector that elements of eb bytes cover together make up the whole sector (R193). -/
def coversSector (eb sec : Nat) (elts : List Elt) : Bool :=
  (List.range 32).all fun b => elts.any fun x => x.va ≤ 32 * sec + b && 32 * sec + b < x.va + eb

/-- The faults of poison among elements that pass so far: an element whose sector is marked faults where the access reads the sector or
replaces only a part of it. A lane that faults stores nothing, so the cover is taken again (R193). -/
def poisonRounds (marked : Elt → Bool) (k : Acc) (eb : Nat) (elts : List Elt) : Nat → List Found → List Found
  | 0, fs => fs
  | n + 1, fs =>
    let live := without elts fs
    let new := (live.filter fun x => marked x && !(k == .store && coversSector eb (x.va / 32) live)).map fun x => (x, cPOISON, (0x00 : BitVec 8))
    if new.isEmpty then fs else poisonRounds marked k eb elts n (fs ++ new)

/-- The element reaches device memory at its own address, and its sector is poisoned there. -/
def State.memMarked (s : State) (a : Agent) (k : Acc) (t : List (Nat × Reach)) (x : Elt) : Bool :=
  !s.poison.isEmpty && (match reachIn t x.va with
    | .ok y =>
      s.poison.contains (if k == .load && s.replicaServes a x.va then .replica a.ctx a.quad (x.va / 32) else s.memSpot a y) &&
        (match (s.ctx a.ctx).regionAt x.va with | some (r, _) => !inQueueRoom (s.lane a.g x.lane) r | none => true)
    | _ => false)

/-! ## Rings (R193, R194, R201) -/

/-- What an element takes of a ring: nothing (a load that finds it empty), a slot at an address, or it finds no room. -/
inductive Slot where
  | empty
  | at_ (pa : Option Nat)
  | full
deriving DecidableEq, Repr

/-- The physical address of a slot of a region's ring. -/
def State.slotPa (s : State) (a : Agent) (reg : Region) (k : Nat) : Option Nat :=
  let va := reg.base.toNat + k % reg.ring * (reg.width / 8)
  match s.xlate a.quad a.ctx va with
  | .page x => some x.pa
  | _ => none

/-- The slots that the elements of an access take, in their order; `used` counts those taken so far of each region. -/
def State.slotsOf (s : State) (a : Agent) (k : Acc) : List Elt → List (Nat × Nat) → List (Elt × Slot)
  | [], _ => []
  | x :: t, used =>
    match (s.ctx a.ctx).regionAt x.va with
    | none => State.slotsOf s a k t used
    | some (r, reg) =>
      let n := (look used r).getD 0
      let more := put r (n + 1) used
      match k, (s.lane a.g x.lane).holdOf r with
      | .store, some 2 =>
        if reg.ring - (reg.tail - reg.head) ≤ n then (x, .full) :: State.slotsOf s a k t used
        else (x, .at_ (s.slotPa a reg (reg.tail + n))) :: State.slotsOf s a k t more
      | .load, some 3 =>
        if reg.tail - reg.head ≤ n then (x, .empty) :: State.slotsOf s a k t used
        else (x, .at_ (s.slotPa a reg (reg.head + n))) :: State.slotsOf s a k t more
      | _, _ => State.slotsOf s a k t used

/-- The slots of an access make up the whole sector of an address. -/
def slotsCover (eb pa : Nat) (ss : List (Elt × Slot)) : Bool :=
  decide (32 / eb ≤ (ss.filter fun p => match p.2 with | .at_ (some q) => q / 32 == pa / 32 | _ => false).length)

/-- The fault of a slot: no room (R201), a lost home (R194), poison that the access reads or replaces in part (R193). -/
def State.slotFault (s : State) (a : Agent) (k : Acc) (eb : Nat) (ss : List (Elt × Slot)) (p : Elt × Slot) : Option Found :=
  match p.2 with
  | .full => some (p.1, cROOMMODE, 0x06)
  | .at_ (some pa) =>
    if s.lostHome a.part pa then some (p.1, cHOMELOST, 0x00)
    else if s.poisoned a.part pa && !(k == .store && slotsCover eb pa ss) then some (p.1, cPOISON, 0x00)
    else none
  | _ => none

/-- The lanes whose ring elements fault: each in turn takes nothing, and those after it are judged by what that leaves (R199, R201). -/
def State.ringFaults (s : State) (a : Agent) (k : Acc) (eb : Nat) (elts : List Elt) : Nat → List Found → List Found
  | 0, fs => fs
  | n + 1, fs =>
    let ss := s.slotsOf a k (without elts fs) []
    match ss.findSome? (s.slotFault a k eb ss) with
    | none => fs
    | some f => State.ringFaults s a k eb elts n (fs ++ [f])

/-- The trap of the faults found: the lowest faulting element of the group (R161). -/
def trapOf (fs : List Found) : Option TrapInfo :=
  (leastBy (fun f : Found => f.1.e) fs).map fun f => ⟨f.2.1, f.2.2, BitVec.ofNat 64 f.1.va, none⟩

/-- The plan of an access whose faults are these. -/
def planOf (elts : List Elt) (fs : List Found) : Plan :=
  { good := without elts fs, bad := lanesWhere fun l => fs.any fun f => f.1.lane == l, trap := trapOf fs, void := none }

/-- Poisoned elements of the lanes in which another fault was found, so that a lane reports its lowest (R161, R193): `ok` are the elements that
pass the other checks. -/
def poisonBeside (marked : Elt → Bool) (k : Acc) (eb : Nat) (ok : List Elt) (fs : List Found) : List Found :=
  (ok.filter fun x => fs.any (fun f => f.1.lane == x.lane) && marked x && !(k == .store && coversSector eb (x.va / 32) ok)).map fun x => (x, cPOISON, 0x00)

/-- The ring faults of those lanes, each lane judged behind the lanes that pass (R161, R199, R201). -/
def State.ringBeside (s : State) (a : Agent) (k : Acc) (eb : Nat) (elts ok : List Elt) (fs : List Found) : List Found :=
  (List.range 32).flatMap fun l =>
    if fs.any fun f => f.1.lane == l then
      let ss := s.slotsOf a k (elts.filter fun x => if x.lane == l then ok.contains x else !fs.any fun f => f.1.lane == x.lane) []
      (ss.filter fun p => p.1.lane == l).filterMap (s.slotFault a k eb ss)
    else []

/-- The whole access judged (R161, R193, R199, R201); elements stand in ascending order (log entry 21). -/
def State.plan (s : State) (a : Agent) (k : Acc) (w : Nat) (elts : List Elt) : Plan :=
  let t := s.lineTable a k.kind elts
  let js := elts.map fun x => (x, s.judge a k w t x)
  match js.findSome? fun p => match p.2 with | .void pa => some pa | _ => none with
  | some pa => ⟨[], 0, none, some pa⟩
  | none =>
    let fs : List Found := js.filterMap fun p => match p.2 with | .bad c d => some (p.1, c, d) | _ => none
    let ok := js.filterMap fun p => match p.2 with | .bad _ _ => none | _ => some p.1
    let fs := poisonRounds (s.memMarked a k t) k (w / 8) elts 9 fs ++ poisonBeside (s.memMarked a k t) k (w / 8) ok fs
    planOf elts (if (s.ctx a.ctx).regions.isEmpty then fs else s.ringFaults a k (w / 8) elts 33 fs ++ s.ringBeside a k (w / 8) elts ok fs)

/-- The plan of an access to a space with a limit: the scratchpad window (1) or the constant store (R157, R193). -/
def State.planLimit (s : State) (a : Agent) (space limit : Nat) (k : Acc) (eb : Nat) (elts : List Elt) : Plan :=
  let fs : List Found := (elts.filter fun x => limit < x.va + eb).map fun x => (x, cPROT, 0x04)
  let marked (x : Elt) : Bool := s.poison.contains (localSpot a space (x.va / 32))
  planOf elts (if s.poison.isEmpty then fs
    else poisonRounds marked k eb elts 9 fs ++ poisonBeside marked k eb (elts.filter fun x => x.va + eb ≤ limit) fs)

/-- A sector of a span of the crew's window is poisoned (R193) (log entry 49). -/
def State.boxPoison (s : State) (c o n : Nat) : Bool :=
  !s.poison.isEmpty && (List.range ((o + n + 31) / 32 - o / 32)).any fun j => s.poison.contains (.scratch c (o / 32 + j))

end Sys2Proof.Machine
end

