-- ==== Sys2Proof/Machine/MemOps.lean ====
section
/-! DEFINITION. The effects of accesses that have passed their checks: lines read and written, marks, poison, partial lines, ring
elements, and the actions of releases and acquires (R162 to R164, R185, R192, R200, R201, R220 to R224). -/

namespace Sys2Proof.Machine

/-! ## Lines -/

/-- The bytes of a line as a quad's loads see them: replica sectors of halo tiles stand in for their sectors (R192). -/
def State.lineBytes (s : State) (a : Agent) (vline : Nat) (x : Xl) : List Byte :=
  let base := s.readBytes a.quad a.part { x with pa := 256 * lineOf x.pa } 256
  let reps := (s.ctx a.ctx).halos.flatMap fun h => h.2.replicas.filter fun r => r.quad == a.quad && r.sector / 8 == vline
  reps.foldl (fun bs r => bs.take (32 * (r.sector % 8)) ++ leBytes 32 r.data.toNat ++ bs.drop (32 * (r.sector % 8) + 32)) base

/-- The lines of an access touched in every cache they pass, with the translation caches filled (R170, R179). A line that an earlier part of
the access has stamped keeps that stamp. -/
def State.touchLines (s : State) (a : Agent) (nud : Nat) (write : Bool) (t : List (Nat × Reach)) (vlines : List Nat) : State :=
  vlines.foldl (fun s ln =>
    match reachIn t (256 * ln) with
    | .ok x => (s.fillTlb a.quad a.ctx (256 * ln)).touch a.quad a.part a.ctx a.clk nud x write (a.seen.contains ln)
    | _ => s) s

/-- The replica lines that serve loads, stamped (R170, R192). -/
def State.touchReplicas (s : State) (a : Agent) (nud : Nat) (t : List (Nat × Reach)) (vlines : List Nat) : State :=
  vlines.foldl (fun s ln =>
    match reachIn t (256 * ln) with
    | .ok x =>
      (match s.cache.find? fun c => c.cache == a.quad && c.part == a.part && c.line == lineOf x.pa && c.kind == .halo with
       | some c => s.restamp c (a.clk.stamp a.ctx nud (a.seen.contains ln)) .halo
       | none => s)
    | _ => s) s

/-- The value of eb bytes at an offset of a list. -/
def bytesAt (bs : List Byte) (off eb : Nat) : Nat := leNat ((bs.drop off).take eb)

/-! ## Publication marks -/

/-- A sector's contents as they were last published at die scope or wider (R191). -/
def State.publishedData (s : State) (part pa : Nat) : BitVec 256 :=
  let now := BitVec.ofNat 256 (leNat (s.homeRead part (32 * (pa / 32)) 32))
  match look s.marks (sectorKey part pa) with
  | some m => if m.level < 3 then m.old else now
  | none => now

/-- A crew's write, about to be performed, marks its sector of a DT line (R220); lines of a region carry no mark (R199). -/
def State.mark (s : State) (a : Agent) (va : Nat) (x : Xl) : State :=
  if x.host || x.attr != 0 || ((s.ctx a.ctx).regionAt va).isSome then s
  else { s with marks := put (sectorKey a.part x.pa) ⟨a.crew, 0, a.core, s.publishedData a.part x.pa⟩ s.marks }

/-- A write from outside the crews leaves no mark (R220). -/
def State.unmark (s : State) (part pa : Nat) : State := { s with marks := drop (sectorKey part pa) s.marks }

/-- The owner's writes into a strip wait for the next push (R192). -/
def Halo.noteStale (sec : Nat) (h : Halo) : Halo :=
  if h.replicas.any fun r => r.sector == sec then { h with stale := addNo sec h.stale } else h
def State.noteStale (s : State) (a : Agent) (va : Nat) : State :=
  s.modCtx a.ctx fun c => { c with halos := c.halos.map fun h => (h.1, h.2.noteStale (va / 32)) }

/-- Poison taken away from the coherent contents of a sector (R193). -/
def State.clearPoison (s : State) (part pa : Nat) : State := if s.poison.isEmpty then s else s.setPoison (s.coherentSpot part (pa / 32)) false

/-! ## Ordinary stores -/

/-- One element written. -/
def State.storeElt (s : State) (a : Agent) (eb : Nat) (t : List (Nat × Reach)) (x : Elt) : State :=
  match reachIn t x.va with
  | .ok y => ((s.mark a x.va y).writeBytes a.quad a.part y (leBytes eb x.val)).noteStale a x.va
  | _ => s

/-- The sectors that the elements replace whole lose their poison (R193). -/
def State.healSectors (s : State) (a : Agent) (eb : Nat) (t : List (Nat × Reach)) (elts : List Elt) : State :=
  if s.poison.isEmpty then s
  else (elts.foldl (fun acc x => addNo (x.va / 32) acc) []).foldl (fun s sec =>
    match reachIn t (32 * sec) with
    | .ok y => if coversSector eb sec elts then s.setPoison (s.memSpot a y) false else s
    | _ => s) s

/-! ## Rooms (R200, R201) -/

/-- One contribution into the quad's partial of a region line (R200). -/
def State.contribute (s : State) (a : Agent) (r : Nat) (reg : Region) (st : Stamp) (pa val : Nat) : State :=
  let line := lineOf pa
  let w := reg.width
  let e := pa % 256 / (w / 8)
  let idn := accIdentity reg.etype reg.aop
  let is (p : Partial) : Bool := p.region == r && p.quad == a.quad && p.line == line
  let add (p : Partial) : Partial :=
    { p with data := build w fun j => if j == e then accOp reg.etype reg.aop (el w j p.data) val else el w j p.data }
  if (s.ctx a.ctx).partials.any is then
    let s := match s.cache.find? fun c => c.cache == a.quad && c.ctx == a.ctx && c.line == line && c.kind == .accum r with
      | some c => s.restamp c st c.kind
      | none => s
    s.modCtx a.ctx fun c => { c with partials := c.partials.map fun p => if is p then add p else p }
  else
    let new := add ⟨r, a.quad, line, build w fun _ => idn⟩
    match s.pickWay a.quad (l1Set line) a.ctx with
    | none => s.combine a.ctx new
    | some _ =>
      (s.allocate a.quad (l1Set line) a.part line st (.accum r)).modCtx a.ctx fun c => { c with partials := c.partials ++ [new] }

/-- The stamp of an access for a physical line, and the lines that it has stamped then: each once (R170). -/
def Agent.stampOnce (a : Agent) (nud line : Nat) (seen : List Nat) : Stamp × List Nat := (a.clk.stamp a.ctx nud (seen.contains line), addNo line seen)

/-- One element appended at the tail, in the home slice of its line (R170, R201). -/
def State.pushElt (s : State) (a : Agent) (r : Nat) (reg : Region) (nud val : Nat) (seen : List Nat) : State × List Nat :=
  let (s, seen) := match s.slotPa a reg reg.tail with
    | some pa =>
      let (st, seen) := a.stampOnce nud (lineOf pa) seen
      ((s.homeWrite a.part pa (leBytes (reg.width / 8) val)).touchL2 a.part (lineOf pa) st, seen)
    | none => (s, seen)
  (s.modRegion a.ctx r fun q => { q with tail := q.tail + 1 }, seen)

/-- The element at the head taken, or the sentinel (R170, R197, R201). -/
def State.popElt (s : State) (a : Agent) (r : Nat) (reg : Region) (nud : Nat) (seen : List Nat) : State × Nat × List Nat :=
  if reg.head == reg.tail then (s, if reg.width == 64 then (sext 32 reg.sent.toNat % 2 ^ 64).toNat else reg.sent.toNat, seen)
  else
    let (s, v, seen) := match s.slotPa a reg reg.head with
      | some pa =>
        let (st, seen) := a.stampOnce nud (lineOf pa) seen
        (s.touchL2 a.part (lineOf pa) st, leNat (s.homeRead a.part pa (reg.width / 8)), seen)
      | none => (s, 0, seen)
    (s.modRegion a.ctx r fun q => { q with head := q.head + 1 }, v, seen)

/-- The region whose room serves an element in place of memory, with its mode. -/
def State.roomOf (s : State) (a : Agent) (x : Elt) : Option (Nat × Region × Nat) :=
  match (s.ctx a.ctx).regionAt x.va with
  | some (r, reg) =>
    match (s.lane a.g x.lane).holdOf r with
    | some m => if m == 1 || m == 2 || m == 3 then some (r, reg, m) else none
    | none => none
  | none => none

/-! ## Whole accesses to device memory -/

/-- The elements that reach memory at their own address. -/
def State.plainElts (s : State) (a : Agent) (elts : List Elt) : List Elt := elts.filter fun x => !(s.roomOf a x).isSome

/-- The sectors of ring slots that an access replaces whole lose their poison (R193, R201). -/
def State.healSlots (s : State) (a : Agent) (eb : Nat) (ss : List (Elt × Slot)) : State :=
  if s.poison.isEmpty then s
  else ss.foldl (fun s p =>
    match p.2 with
    | .at_ (some pa) => if slotsCover eb pa ss then s.clearPoison a.part pa else s
    | _ => s) s

/-- The elements loaded, in order: the value of each by its number (R164, R199 to R201). -/
def State.loadElts (s : State) (a : Agent) (eb nud : Nat) (elts : List Elt) : State × List (Nat × Nat) :=
  let t := s.lineTable a .load elts
  let plain := s.plainElts a elts
  let lines := eltLines plain
  let s := s.touchLines a nud false t (eltLines (plain.filter fun x => !s.replicaServes a x.va))
  let s := s.touchReplicas a nud t (eltLines (plain.filter fun x => s.replicaServes a x.va))
  let imgs := lines.filterMap fun ln => match reachIn t (256 * ln) with | .ok x => some (ln, s.lineBytes a ln x) | _ => none
  let r := elts.foldl (fun acc x =>
    match acc.1.roomOf a x with
    | some (_, reg, 1) => (acc.1, acc.2.1 ++ [(x.e, accIdentity reg.etype reg.aop)], acc.2.2)
    | some (r, reg, _) => let p := acc.1.popElt a r reg nud acc.2.2; (p.1, acc.2.1 ++ [(x.e, p.2.1)], p.2.2)
    | none => (acc.1, acc.2.1 ++ [(x.e, bytesAt ((look imgs (x.va / 256)).getD []) (x.va % 256) eb)], acc.2.2)) (s, [], [])
  (r.1, r.2.1)

/-- The elements stored, in order (R164, R193, R199 to R201, R220). -/
def State.storeElts (s : State) (a : Agent) (eb nud : Nat) (elts : List Elt) : State :=
  let t := s.lineTable a .store elts
  let s := s.touchLines a nud true t (eltLines (s.plainElts a elts))
  let ss := if (s.ctx a.ctx).regions.isEmpty then [] else s.slotsOf a .store elts []
  let s := (elts.foldl (fun (acc : State × List Nat) x =>
    let s := acc.1
    match s.roomOf a x with
    | some (r, reg, 1) =>
      (match reachIn t x.va with
       | .ok y => let n := a.stampOnce nud (lineOf y.pa) acc.2; (s.contribute a r reg n.1 y.pa x.val, n.2)
       | _ => acc)
    | some (r, reg, _) => s.pushElt a r reg nud x.val acc.2
    | none => (s.storeElt a eb t x, acc.2)) (s, [])).1
  (s.healSectors a eb t (s.plainElts a elts)).healSlots a eb ss

/-! ## Scratchpad and constant store -/

def State.readScratch (s : State) (crew off n : Nat) : List Byte := Mem.read (s.crew crew).scratch off n
def State.putScratch (s : State) (crew off : Nat) (bs : List Byte) : State :=
  s.modCrew crew fun c => { c with scratch := Mem.write off bs c.scratch }
/-- The sectors that bytes from an offset up replace whole. -/
def wholeSectors (off n : Nat) : List Nat :=
  ((List.range ((off + n + 31) / 32 - off / 32)).map fun k => off / 32 + k).filter fun k => decide (off ≤ 32 * k) && decide (32 * k + 32 ≤ off + n)
/-- Bytes written into a window; sectors replaced whole lose their poison (R193). -/
def State.writeScratch (s : State) (crew off : Nat) (bs : List Byte) : State :=
  let s := s.putScratch crew off bs
  if s.poison.isEmpty then s else (wholeSectors off bs.length).foldl (fun s k => s.setPoison (.scratch crew k) false) s
def constKey (quad off : Nat) : Nat := 131072 * quad + off
def State.readConst (s : State) (quad off n : Nat) : List Byte := Mem.read s.const (constKey quad off) n
def State.writeConst (s : State) (quad off : Nat) (bs : List Byte) : State :=
  let s := { s with const := Mem.write (constKey quad off) bs s.const }
  if s.poison.isEmpty then s else (wholeSectors off bs.length).foldl (fun s k => s.setPoison (.const quad k) false) s
/-- The sectors of the scratchpad (space 1) or the constant store that elements replace whole lose their poison (R193). -/
def State.healLocal (s : State) (a : Agent) (space eb : Nat) (elts : List Elt) : State :=
  if s.poison.isEmpty then s
  else (elts.foldl (fun acc x => addNo (x.va / 32) acc) []).foldl (fun s sec =>
    if coversSector eb sec elts then s.setPoison (localSpot a space sec) false else s) s

/-! ## Releases and acquires (R221 to R224) -/

/-- Every sector that names the crew is published at a level (R221). -/
def State.publish (s : State) (crew level core : Nat) : State :=
  { s with marks := s.marks.map fun m =>
      if m.2.crew == crew && decide (m.2.level < level) then
        (m.1, { m.2 with level := level, anchor := core, old := if 3 ≤ level then 0 else m.2.old })
      else m }

/-- The physical address of a sector of a tile. -/
def State.tilePa (s : State) (ctx vsec : Nat) : Option Nat :=
  match s.walk ctx (32 * vsec) with
  | .page x => some x.pa
  | _ => none

/-- The contents of a sector of a tile, read at the home. -/
def State.sectorData (s : State) (ctx vsec : Nat) : BitVec 256 :=
  match s.tilePa ctx vsec with
  | some pa => BitVec.ofNat 256 (leNat (s.homeRead (s.ctx ctx).part pa 32))
  | none => 0

/-- A replica takes the poison mark of its sector (R193). -/
def State.replicaMark (s : State) (ctx quad vsec : Nat) : State :=
  match s.tilePa ctx vsec with
  | some pa => s.setPoison (.replica ctx quad vsec) (s.poisoned (s.ctx ctx).part pa)
  | none => s

/-- The strips written since the last push go to the replicas, at once. A load that nothing orders after it reads the last push, of the two
that R192 allows (DESIGN CHOICE, log entry 43). -/
def Halo.push (data : Nat → BitVec 256) (h : Halo) : Halo :=
  let new (r : Replica) : Replica := if h.stale.contains r.sector then { r with data := data r.sector } else r
  { h with stale := [], replicas := h.replicas.map new }
def State.pushHalos (s : State) (ctx quad : Nat) : State :=
  let mine := (s.ctx ctx).halos.filter fun h => h.2.owner == quad
  let s := if s.poison.isEmpty then s
    else (mine.flatMap fun h => h.2.replicas.filter fun r => h.2.stale.contains r.sector).foldl (fun s r => s.replicaMark ctx r.quad r.sector) s
  let push (h : Halo) : Halo := if h.owner == quad then h.push (s.sectorData ctx) else h
  s.modCtx ctx fun c => { c with halos := c.halos.map fun h => (h.1, push h.2) }

/-- The levels of scopes: 0 core to 4 pod; pod publishes as pkg (R221). -/
def levelOf (scope : Nat) : Nat := min (scope + 1) 4

/-- The scope actions of a release of a group (R221, R224, R228). -/
def State.release (s : State) (g scope : Nat) : State :=
  let a := s.agent g
  let s := s.publish a.crew (levelOf scope) a.core
  if scope < 2 then s else (s.flushSi a.quad false).pushHalos a.ctx a.quad

/-- The scope actions of an acquire of a group (R224, R228). -/
def State.acquire (s : State) (g scope : Nat) : State := if scope < 2 then s else s.flushSi (s.quadOf g) true

end Sys2Proof.Machine
end

