-- ==== Sys2Proof/Machine/Rooms.lean ====
section
/-! DEFINITION. The region controllers: occupants, demands, windows, drains, openings and withdrawals, and the report of `rstat` (R197
to R210). Numbers are a context's and a region's. -/

namespace Sys2Proof.Machine

/-- The lanes that hold a region, evicted holders included (R204, R210). -/
def State.occupants (s : State) (ctx r : Nat) : Nat :=
  (s.groups.map fun gr =>
    if (s.crew gr.crew).ctx == ctx then (gr.lanes.toList.filter fun l => (l.holdOf r).isSome).length else 0).sum

/-- A pending demand for a mode other than the open one (R205). -/
def Region.competing (reg : Region) : Bool := reg.demands.any fun d => some d.mode != reg.open_

/-! ## Draining (R205) -/

/-- The physical lines of a span of virtual lines, in runs within 64 KiB: first line and count. -/
def State.spanRuns (s : State) (ctx base lines : Nat) : List (Nat × Nat) :=
  let first := base / 65536
  let last := (base + 256 * lines - 1) / 65536
  (List.range (last + 1 - first)).filterMap fun i =>
    let lo := max base (65536 * (first + i))
    let hi := min (base + 256 * lines) (65536 * (first + i + 1))
    match s.walk ctx lo with
    | .page x => some (lineOf x.pa, (hi - lo) / 256)
    | _ => none

/-- A line lies in one of the runs. -/
def inRuns (runs : List (Nat × Nat)) (line : Nat) : Bool := runs.any fun r => r.1 ≤ line && line < r.1 + r.2

/-- Every L1 copy of a span's lines invalidated (R198, R205). -/
def State.invalidateSpan (s : State) (ctx base lines : Nat) : State :=
  let runs := s.spanRuns ctx base lines
  let part := (s.ctx ctx).part
  s.loseCopies fun c => c.part == part && inRuns runs c.line

/-- The partials of a region combined into its memory in ascending quad number, and discarded (R205). -/
def State.combineRegion (s : State) (ctx r : Nat) : State :=
  let ps := sortBy (fun p : Partial => p.quad) ((s.ctx ctx).partials.filter fun p => p.region == r)
  let s := ps.foldl (fun s p => s.combineMarked ctx p) s
  let s := s.modCtx ctx fun c => { c with partials := c.partials.filter fun p => p.region != r }
  s.filterCache fun c => if c.ctx == ctx && c.kind == .accum r then none else some c

/-- What the drain of an open room does to memory and copies (R205). -/
def State.drainRegion (s : State) (ctx r : Nat) : State :=
  match (s.ctx ctx).region r with
  | none => s
  | some reg =>
    let s := if reg.open_ == some 1 then s.combineRegion ctx r else s
    s.invalidateSpan ctx reg.base.toNat reg.lines

/-! ## Admission (R205, R206) -/

/-- A lane enters a room: it holds it, it runs again if it was parked, and its group acquires at pkg (R202). -/
def State.admitLane (s : State) (ctx r g l mode : Nat) : State :=
  let parked := (s.lane g l).park
  let s := s.modLane g l fun x =>
    { x with
      holds := x.holds ++ [⟨r, mode⟩]
      mode := if x.mode == .parked then (if x.inHandler then .handler else .running) else x.mode
      park := none
      ready := if parked.isSome then max x.ready (s.now + 1) else x.ready }
  let s := match parked with
    | some p => s.modGrp g fun gr => gr.setReg p.dest (laneBits (oneLane l)) 0
    | none => s
  let s := if mode == 4 then s.modRegion ctx r fun q => { q with admitting := false } else s
  s.acquire g 3

/-- The window of an open, admitting room with a competing demand starts; an empty room, or W = 0, stops admitting at once (R205). -/
def State.startWindow (s : State) (ctx r : Nat) : State :=
  let occ := s.occupants ctx r
  s.modRegion ctx r fun q =>
    if q.open_.isSome && q.competing && !q.drain then
      (if occ == 0 then { q with admitting := false, window := none, drain := true }
       else if !q.admitting || q.window.isSome then q
       else if q.w == 0 then { q with admitting := false }
       else { q with window := some (s.now + q.w) })
    else q

/-- The pending demands that an open, admitting room takes in: all of its mode, or, for OWN, the oldest one into an empty room (R206). -/
def State.admitPending (s : State) (ctx r : Nat) : State :=
  match (s.ctx ctx).region r with
  | none => s
  | some reg =>
    match reg.open_ with
    | none => s
    | some m =>
      if !reg.admitting || reg.drain then s
      else
        let mine := reg.demands.filter fun d => d.mode == m
        let take := if m == 4 then (if s.occupants ctx r == 0 then mine.take 1 else []) else mine
        let s := s.modRegion ctx r fun q => { q with demands := q.demands.filter fun d => !take.contains d }
        let s := take.foldl (fun s d => s.admitLane ctx r d.g d.lane m) s
        s.startWindow ctx r

/-- The drain is complete: the mode of the oldest demand opens, or none (R205, R206). -/
def State.openNext (s : State) (ctx r : Nat) : State :=
  let s := s.drainRegion ctx r
  let s := s.modRegion ctx r fun q =>
    match q.demands with
    | [] => { q with open_ := none, admitting := false, window := none, drain := false }
    | d :: _ => { q with open_ := some d.mode, admitting := true, window := none, drain := false }
  s.admitPending ctx r

/-- A demand recorded at the tail of the FIFO; a competing one starts the window (R202, R205). -/
def State.demand (s : State) (ctx r g l mode : Nat) : State :=
  (s.modRegion ctx r fun q => { q with demands := q.demands ++ [⟨g, l, mode⟩] }).startWindow ctx r

/-- A room admits a newcomer of a mode (R202). -/
def State.admits (s : State) (ctx r mode : Nat) : Bool :=
  match (s.ctx ctx).region r with
  | none => false
  | some reg =>
    match reg.open_ with
    | none => !reg.drain
    | some m => m == mode && reg.admitting && !reg.drain && (mode != 4 || s.occupants ctx r == 0)

/-- A room of the mode opens if none is open. -/
def State.openFor (s : State) (ctx r mode : Nat) : State :=
  s.modRegion ctx r fun q => if q.open_.isNone then { q with open_ := some mode, admitting := true, window := none } else q

/-! ## Leaving (R203, R205, R210) -/

/-- The room of a region after an occupant has gone (R205). -/
def State.afterLeave (s : State) (ctx r : Nat) : State :=
  let occ := s.occupants ctx r
  s.modRegion ctx r fun q =>
    if occ != 0 || q.drain || q.open_.isNone then q
    else if q.open_ == some 4 then
      (if q.demands.isEmpty then { q with admitting := true, window := none } else { q with admitting := false, window := none, drain := true })
    else if !q.admitting || q.window.isSome then { q with admitting := false, window := none, drain := true }
    else q

/-- A lane's hold of a region removed (R203). -/
def State.leaveRoom (s : State) (ctx r g l : Nat) : State :=
  (s.modLane g l fun x => { x with holds := x.holds.filter fun h => h.region != r }).afterLeave ctx r

/-- With no competing demand left, the open room admits again (R205, R209). -/
def Region.readmit (occ : Nat) (q : Region) : Region :=
  if q.open_.isSome && !q.drain && !q.competing && (q.open_ != some 4 || occ == 0) then { q with admitting := true, window := none } else q

/-- A demand taken back (R205, R209). -/
def State.withdraw (s : State) (ctx r g l : Nat) : State :=
  let s := s.modRegion ctx r fun q => { q with demands := q.demands.filter fun d => !(d.g == g && d.lane == l) }
  (s.modRegion ctx r (Region.readmit (s.occupants ctx r))).admitPending ctx r

/-- A destroyed holder's hold removed, with the flag its mode leaves; a broken region withdraws every demand, and its open room admits again
(R205, R209, R210). -/
def State.destroyHold (s : State) (ctx g l : Nat) (h : Hold) : State :=
  let occ := s.occupants ctx h.region
  let s := s.modRegion ctx h.region fun q =>
    if h.mode == 0 then q
    else if h.mode == 1 then { q with incomplete := true }
    else { q with broken := true, demands := [] }.readmit occ
  s.leaveRoom ctx h.region g l

/-- Every demand of some dying groups of a context taken back: none of their lanes is admitted meanwhile (R209, R210). -/
def State.takeDemands (s : State) (ctx : Nat) (gs : List Nat) : State :=
  let parks := gs.flatMap fun g => (List.range 32).filterMap fun l => (s.lane g l).park.map fun p => (g, l, p.region)
  let gone (r : Region) : Region := { r with demands := r.demands.filter fun d => !gs.contains d.g }
  let s := if parks.isEmpty then s else s.modCtx ctx fun c => { c with regions := c.regions.map fun r => (r.1, gone r.2) }
  parks.foldl (fun s p => s.withdraw ctx p.2.2 p.1 p.2.1) s

/-- Every demand and every hold of a dying group removed, the holds in ascending region number (R210, R325). -/
def State.destroyHolds (s : State) (g : Nat) : State :=
  let ctx := s.ctxNo g
  let s := s.takeDemands ctx [g]
  (List.range 32).foldl (fun s l =>
    (sortBy (fun h : Hold => h.region) (s.lane g l).holds).foldl (fun s h => s.destroyHold ctx g l h) s) s

/-- The partials of the ACCUM regions that a group's lanes hold are flushed from its quad (R210). -/
def State.flushHeld (s : State) (g : Nat) : State :=
  let ctx := s.ctxNo g
  let quad := s.quadOf g
  let held := (s.grp g).lanes.toList.flatMap fun l => (l.holds.filter fun h => h.mode == 1).map (·.region)
  let ps := (s.ctx ctx).partials.filter fun p => p.quad == quad && held.contains p.region
  ps.foldl (fun s p => s.flushPartial ctx p.region quad p.line) s

/-! ## Asking (R204) -/

/-- The report of a region. -/
def State.roomReport (s : State) (ctx r : Nat) : Word :=
  match (s.ctx ctx).region r with
  | none => 7
  | some q =>
    let sat (n : Nat) : Nat := min n 16383
    BitVec.ofNat 64
      (q.open_.getD 7 + 2 ^ 3 * q.admitting.toNat + 2 ^ 4 * q.drain.toNat + 2 ^ 5 * q.incomplete.toNat + 2 ^ 6 * q.broken.toNat + 2 ^ 7 +
       2 ^ 8 * sat (s.occupants ctx r) + 2 ^ 22 * sat q.demands.length +
       2 ^ 36 * (match q.demands with | [] => 7 | d :: _ => d.mode) + 2 ^ 40 * ((q.tail - q.head) % 2 ^ 24))

end Sys2Proof.Machine
end

