-- ==== Sys2Proof/Machine/EngineCtl.lean ====
section
/-! DEFINITION. Numbers, finishing and discarding of engine commands on a timeline (R236 to R240). -/

namespace Sys2Proof.Machine

/-- COUNT after a command has gone: the largest n below which every command has finished; it never decreases (R236, R238). -/
def Timeline.recount (t : Timeline) : Timeline :=
  match leastBy (fun c : Cmd => c.n) t.cmds with
  | some c => { t with count := max t.count (c.n - 1) }
  | none => { t with count := t.issued }

/-- A command finishes: it leaves the timeline, and COUNT follows (R238). -/
def Timeline.finish (t : Timeline) (n : Nat) : Timeline :=
  { { t with cmds := t.cmds.filter fun c => c.n != n } with served := true }.recount

/-- The command has met a fault, and its context is parked (R240). -/
def Timeline.stuck (t : Timeline) (n : Nat) : Bool := t.parked.any (fun p => p.n == n) || t.cmds.any fun x => x.n == n && x.stopped

/-- Where a command keeps what it has read (`Cmd.got`): device memory, the scratchpad window, the stream through its input buffer. No
address of device memory reaches the second. -/
def memBase : Nat := 0
def scratchBase : Nat := 2 ^ 100
def streamBase : Nat := 2 ^ 101

/-- The place of a K-step whose operands have been consumed (R262). -/
def operandsGone : Nat := 2 ^ 32

/-- A command that a fault has stopped, as it goes on again: it reads its sources anew, but for what it has taken from a buffer and for a K-step
whose operands have been consumed; an `ixs` restarts at its step counter, with its journal read again, and an `lput` with the first sector
that is not acknowledged (R240, R263, R282, R294) (log entry 28). -/
def Cmd.again (x : Cmd) : Cmd :=
  let kept := x.got.filter fun p => decide (streamBase ≤ p.1) || x.pos == operandsGone
  let x : Cmd := { x with stopped := false, journal := [], fail := none, got := kept }
  match x.instr with
  | .lput _ _ _ => { x with pos := x.step }
  | .ixs _ _ _ _ =>
    if bitAt (x.blk.getD 0 0).toNat 6 then { x with ups := x.ups.map fun u => { u with row := none, next := 0 } }
    else { x with ups := [], pos := x.step }
  | _ => x

/-- A context saved as it stands: its commands in progress go on when it is resident again (R239, R328). -/
def Timeline.saved (t : Timeline) : Timeline :=
  { t with resident := false, draining := false, cmds := t.cmds.map fun x => { x with started := x.started && t.stuck x.n } }

/-- The commands that a test picks are discarded (R240). -/
def Timeline.discard (t : Timeline) (pick : Cmd → Bool) : Timeline :=
  { t with cmds := t.cmds.filter fun c => !pick c }.recount

/-- The matrix commands of a crew that wait for one of some discarded copies are discarded with them (R240, R251). -/
def Crew.discardLinked (c : Crew) (gone : List (Nat × Nat)) : Crew :=
  { c with tl := c.tl.map fun t => if t.cmds.any (fun x => x.links.any gone.contains) then t.discard fun x => x.links.any gone.contains else t }

/-- The commands of a timeline that a test picks are discarded, with the matrix commands they hold. -/
def Crew.discardCmds (c : Crew) (i : Nat) (pick : Cmd → Bool) : Crew :=
  let gone := ((c.tline i).cmds.filter pick).map fun x => (i, x.n)
  (c.modTl i fun t => t.discard pick).discardLinked gone

/-- `ectx.abort`: the parked command and every unfinished later one are discarded, and COUNT becomes ISSUED (R240). -/
def Crew.abortTl (c : Crew) (i : Nat) : Crew :=
  match (c.tline i).parked with
  | none => c
  | some p =>
    let c := c.discardCmds i fun x => p.n ≤ x.n
    c.modTl i fun t =>
      { t with parked := none, aborted := true, count := t.issued, cmds := t.cmds.map fun x => if x.stopped then { x.again with started := false } else x }

/-- A dying group's unstarted commands are discarded, and those in progress aborted, each with every unfinished command of its timeline after
it (R240, R325). -/
def Crew.dropGroup (c : Crew) (g : Nat) : Crew :=
  (List.range 8).foldl (fun c i =>
    let mine := (c.tline i).cmds.filter fun x => x.g == g
    if mine.isEmpty then c
    else
      match leastBy (fun x : Cmd => x.n) (mine.filter fun x => x.started) with
      | none => c.discardCmds i fun x => x.g == g
      | some a =>
        let c := c.discardCmds i fun x => x.g == g || decide (a.n ≤ x.n)
        c.modTl i fun t =>
          { t with aborted := true, count := t.issued, parked := if t.parked.any (fun p => p.g == g || decide (a.n ≤ p.n)) then none else t.parked }) c

/-! ## Pins of the tile fetch unit (R175, R262) -/

/-- One pin of a context on a line's home copy released. -/
def State.unpinHome (s : State) (ctx : Nat) (key : Nat × Nat) : State :=
  match s.copyIn (s.homeSlice key.1 (256 * key.2)).1 key.1 key.2 with
  | some c =>
    if c.pins != 0 && c.pinCtx == ctx then
      { s with cache := s.cache.map fun y => if y.same c then { y with pins := y.pins - 1 } else y }
    else s
  | none => s

/-- The commands of a crew, each with its timeline. -/
def Crew.allCmds (c : Crew) : List (Nat × Cmd) := (List.range 8).flatMap fun k => (c.tline k).cmds.map fun x => (k, x)

/-- A change of a crew's commands: those that go release the pins made for them. -/
def State.modCmds (s : State) (c : Nat) (f : Crew → Crew) : State :=
  let old := (s.crew c).allCmds
  let s := s.modCrew c f
  let new := (s.crew c).allCmds
  let gone := old.filter fun p => !new.any fun q => q.1 == p.1 && q.2.n == p.2.n
  (gone.flatMap fun p => p.2.pins).foldl (fun s k => s.unpinHome (s.crew c).ctx k) s

end Sys2Proof.Machine
end

