-- ==== Sys2Proof/Machine/Fork.lean ====
section
/-! DEFINITION. Fork instances: copying a lane into a shadow slot, prediction, discarding, squash and commit (R99 to R112). -/

namespace Sys2Proof.Machine

def State.inst (s : State) (i : Nat) : ForkInst := s.forks.getD i ⟨0, 0, 0, 0, 58, 58, [], false, 0, false⟩

/-- The group whose FORKST counts for a slot: the one that no fork made (R113). -/
def State.rootOf (s : State) : Nat → Nat → Nat
  | 0, g => g
  | n + 1, g => match (s.grp g).shadow with | some i => s.rootOf n (s.inst i).caller | none => g
def State.root (s : State) (g : Nat) : Nat := s.rootOf 8 g

/-- One field of FORKST raised by n lanes, saturating (R113). -/
def State.countFork (s : State) (g lo n : Nat) : State :=
  s.modGrp (s.root g) fun gr =>
    let v := gr.forkst.toNat
    let f := bits v lo 12
    { gr with forkst := BitVec.ofNat 64 (v + (min (f + n) 0xFFF - f) * 2 ^ lo) }
def fkCOMMIT : Nat := 0
def fkVALUE : Nat := 12
def fkMEM : Nat := 24
def fkOTHER : Nat := 36
def fkPLAIN : Nat := 48

/-- The bits of one lane in every mask register. -/
def laneMaskBits (l : Nat) : Mask := buildMask fun b => b / 8 == l

/-- Lane l of a group's registers and masks copied into another group (R100, R107). -/
def Group.copyLane (src dst : Group) (l : Nat) : Group :=
  let en := laneBits (oneLane l)
  let km := laneMaskBits l
  { dst with
    v := dst.v.mapIdx fun j x => blend en (src.v[j]?.getD 0) x
    o := dst.o.mapIdx fun j x => blend en (src.o[j]?.getD 0) x
    la := blend en src.la dst.la
    lb := blend en src.lb dst.lb
    laSeq := dst.laSeq.mapIdx fun j q => if j == l then src.laSeq[j]?.getD 0 else q
    lbSeq := dst.lbSeq.mapIdx fun j q => if j == l then src.lbSeq[j]?.getD 0 else q
    k := dst.k.mapIdx fun j x => ((src.k[j]?.getD 0) &&& km) ||| (x &&& ~~~km) }

/-- Pending writes lose a lane: the lane's state has been replaced (R107). -/
def Group.dropLanePending (gr : Group) (l : Nat) : Group :=
  let en := laneBits (oneLane l)
  let km : Img := (laneMaskBits l).zeroExtend 2048
  { gr with fix := gr.fix.map fun p =>
      match p.dest with
      | .reg _ => { p with en := p.en &&& ~~~en, last := p.last &&& ~~~oneLane l }
      | .mask _ => { p with en := p.en &&& ~~~km } }

/-- Lane l of a shadow slot becomes absent; the slot is free when no lane is left (R107, R108). -/
def State.unlane (s : State) (i l : Nat) : State :=
  let sh := (s.inst i).shadow
  let s := s.modLane sh l fun x =>
    { x with mode := .absent, holds := [], fd := 0, recs := [], base := 0, hintValid := false, loadSet := [], storeBuf := [], flags := 0,
             dis := false, first := 0 }
  let gr := s.grp sh
  if (List.range 32).all fun m => (gr.lane m).mode == .absent then
    (s.modGrp sh fun x => { x with place := .retired, fix := [], units := [], waits := [] }).modFork i fun f => { f with live := false }
  else s

/-- A continuation lane discarded with every instance that it or its descendants created; every lane that goes counts under one
cause (R108, R111). The depth of forks is at most four (R113). -/
def State.discardLane (s : State) (cause : Nat) : Nat → Nat → Nat → State
  | 0, _, _ => s
  | n + 1, i, l =>
    let x := s.lane (s.inst i).shadow l
    if x.mode == .absent then s
    else
      let own := (x.recs.take (x.recs.length - x.base)).filter fun r => !r.squashed
      let s := own.foldl (fun s r => State.discardLane s cause n r.inst l) s
      (s.countFork (s.inst i).shadow cause 1).unlane i l

/-- A lane of an instance whose record has been squashed early: the record, the lane's own or an inherited copy of it, stays as a
squashed record, and the lane's depth falls with it (R101, R106, R108). -/
def Lane.squashRec (inst : Nat) (x : Lane) : Lane :=
  if x.recs.any fun r => r.inst == inst && !r.squashed then
    { x with recs := x.recs.map fun r => if r.inst == inst then { r with squashed := true } else r, fd := x.fd - 1 }
  else x

/-- The squash of a lane's record at a place of its stack, in every group that holds the record for this lane (R106, R108). -/
def State.squashEarly (s : State) (g l at_ : Nat) : State :=
  match (s.lane g l).recs[at_]? with
  | none => s
  | some r =>
    if r.squashed then s
    else
      let s := s.discardLane fkOTHER 8 r.inst l
      { s with groups := s.groups.map fun gr => if (gr.lane l).recs.isEmpty then gr else gr.modLane l (Lane.squashRec r.inst) }

/-- The place of a lane's innermost live record. -/
def Lane.liveRec (x : Lane) : Option Nat := (findIx (fun r : ForkRec => !r.squashed) x.recs).map (·.1)

/-- Every live record of a lane squashed, the innermost first (R108: `exit`). -/
def State.squashLane (s : State) (g l : Nat) : State :=
  (List.range (s.lane g l).recs.length).foldl (fun s j => s.squashEarly g l j) s

/-- Every continuation of a group squashed and every record removed (R112). -/
def State.squashAll (s : State) (g : Nat) : State :=
  let s := (List.range 32).foldl (fun s l => s.squashLane g l) s
  s.modLanes g allLanes fun _ x => { x with recs := [], base := 0, fd := 0 }

/-- The top record popped. -/
def Lane.popRec (x : Lane) : Lane := { x with recs := x.recs.drop 1, base := min x.base (x.recs.length - 1) }

/-! ## Write sets and acquire marks (R106) -/

/-- A write set with sectors joined. -/
def ForkInst.join (f : ForkInst) (secs : List Sector) : ForkInst :=
  let new := secs.foldl (fun acc x => if acc.contains x then acc else x :: acc) f.writes
  if f.overflow || 256 < new.length then { f with writes := [], overflow := true } else { f with writes := new }

/-- A callee lane's stores join the write set of every live record it holds; those of a continuation lane do so at its commit
(R106, R107, R110). -/
def State.joinWrites (s : State) (g l : Nat) (secs : List Sector) : State :=
  if secs.isEmpty then s
  else (s.lane g l).recs.foldl (fun s r => if r.squashed then s else s.modFork r.inst fun f => f.join secs) s

/-- An acquire of callee lanes marks every live record they hold. -/
def State.acquireMarks (s : State) (g : Nat) (lanes : Lanes) : State :=
  s.modLanes g lanes fun _ x => { x with recs := x.recs.map fun r => if r.squashed then r else { r with acq := true } }

/-! ## Calls and returns -/

/-- A call counted in a lane's innermost record (R106). -/
def State.nestLane (s : State) (g l : Nat) : State :=
  match (s.lane g l).recs with
  | [] => s
  | r :: _ =>
    let s := s.modLane g l fun x => { x with recs := modAt (fun q : ForkRec => { q with nest := q.nest + 1 }) 0 x.recs }
    if !r.squashed && 255 < r.nest + 1 then s.squashEarly g l 0
    else if 0xFFFFFFFF < r.nest + 1 then s.modLane g l Lane.popRec
    else s
def State.nestLanes (s : State) (g : Nat) (lanes : Lanes) : State := (lanesOf lanes).foldl (fun s l => s.nestLane g l) s

/-! ## Prediction (R102) -/

def PredEnt.fresh (tag : BitVec 42) : PredEnt := ⟨tag, 0, 0, 0, 0, 0, 0⟩
def predKey (core : Nat) (addr : Word) : Nat := 256 * core + bits addr.toNat 2 8
def predTag (addr : Word) : BitVec 42 := BitVec.ofNat 42 (bits addr.toNat 10 42)

/-- What the predictor gives for a call site, and the predictor after a miss has allocated: a call without return registers allocates, and is
learnt from, as any other (log entry 59). -/
def State.predict (s : State) (core : Nat) (addr cfg : Word) : State × Word × Word :=
  if cfg.getLsbD 5 then (s, 0, 0)
  else
    let miss : State × Word × Word := ({ s with pred := put (predKey core addr) (PredEnt.fresh (predTag addr)) s.pred }, 0, 0)
    match look s.pred (predKey core addr) with
    | none => miss
    | some e =>
      if e.tag != predTag addr then miss
      else
        let one (last stride : Word) (conf : Nat) : Word := if 2 ≤ conf && !cfg.getLsbD 4 then last + stride else last
        (s, one e.last0 e.stride0 e.conf0, one e.last1 e.stride1 e.conf1)

/-- The update of an entry by the true values of an instance (R102). -/
def State.learn (s : State) (core : Nat) (addr t0 t1 : Word) : State :=
  let fresh : PredEnt := ⟨predTag addr, t0, t1, 0, 0, 0, 0⟩
  let conf (sd old : Word) (c : Nat) : Nat := if sd == old && sd != 0 then min (c + 1) 3 else 0
  let e := match look s.pred (predKey core addr) with
    | none => fresh
    | some e =>
      if e.tag != predTag addr then fresh
      else
        let s0 := t0 - e.last0
        let s1 := t1 - e.last1
        ⟨e.tag, t0, t1, s0, s1, conf s0 e.stride0 e.conf0, conf s1 e.stride1 e.conf1⟩
  { s with pred := put (predKey core addr) e s.pred }

/-! ## Held stores -/

/-- The sectors of held bytes. -/
def heldSectors (bs : List HeldByte) : List Sector :=
  bs.foldl (fun acc b => let x : Sector := ⟨b.space, b.addr / 32⟩; if acc.contains x then acc else acc ++ [x]) []

/-- Held bytes of a space as elements of one lane's store. -/
def heldElts (space l : Nat) (bs : List HeldByte) : List Elt :=
  (sortBy (fun b : HeldByte => b.addr) (bs.filter fun b => b.space == space)).map fun b => ⟨0, l, b.addr, b.val.toNat⟩

/-- A lane's held stores would meet a fault if they were performed now: another crew's mark, above all (R222). -/
def State.heldFaults (s : State) (g l : Nat) (bs : List HeldByte) : Bool :=
  let a := s.agent g
  (s.plan a .store 8 (heldElts 0 l bs)).trap.isSome ||
    (s.planLimit a 1 (s.crew a.crew).window .store 1 (heldElts 1 l bs)).trap.isSome ||
    (s.planLimit a 2 131072 .store 1 (heldElts 2 l bs)).trap.isSome

/-- The stamps of held stores: NUD and clocks, in the order of the stores. -/
def heldStamps (bs : List HeldByte) : List (Nat × ReuseClock) :=
  bs.foldl (fun acc b => if acc.contains (b.nud, b.clk) then acc else acc ++ [(b.nud, b.clk)]) []

/-- A lane's held stores enter their spaces, each with the stamp computed at its issue (R107, R170; DEDUCED, log entry 46). -/
def State.releaseHeld (s : State) (g l : Nat) (bs : List HeldByte) : State :=
  let a := s.agent g
  let s := bs.foldl (fun s b =>
    if b.space == 1 then s.writeScratch a.crew b.addr [b.val]
    else if b.space == 2 then s.writeConst a.quad b.addr [b.val]
    else s) s
  let elts := heldElts 0 l bs
  if elts.isEmpty then s
  else
    let s := (heldStamps (bs.filter fun b => b.space == 0)).foldl (fun s st =>
      s.storeElts { a with clk := st.2 } 1 st.1 (heldElts 0 l (bs.filter fun b => b.nud == st.1 && b.clk == st.2))) s
    s.modGrp g fun gr => { gr with acks := gr.acks ++ [s.cur.cycle] }

/-- The store buffer with later bytes put over earlier ones. -/
def mergeHeld (old new : List HeldByte) : List HeldByte :=
  old.filter (fun b => !new.any fun n => n.space == b.space && n.addr == b.addr) ++ new

/-- The continuations that depend on a lane of an instance which has been resolved lose one of their depth (R101). -/
def State.lowerDepth (s : State) : Nat → Nat → Nat → State
  | 0, _, _ => s
  | n + 1, i, l =>
    let sh := (s.inst i).shadow
    let x := s.lane sh l
    if x.mode == .absent then s
    else
      let s := s.modLane sh l fun y => { y with fd := y.fd - 1 }
      ((x.recs.take (x.recs.length - x.base)).filter fun r => !r.squashed).foldl (fun s r => State.lowerDepth s n r.inst l) s

/-- The commit of continuation lane l of instance i into its caller lane, at a cycle (R107). -/
def State.commitLane (s : State) (g l i : Nat) : State :=
  let sh := (s.inst i).shadow
  let src := (s.grp sh).flush
  let x := src.lane l
  let outer := (s.grp g).shadow.isSome
  let s := s.modGrp g fun gr => src.copyLane (gr.dropLanePending l) l
  let s := s.modLane g l fun y =>
    { y with
      mode := .running
      pc := x.pc
      ready := max x.ready (s.now + 4)
      fd := x.fd - 1
      recs := x.recs
      base := min y.base x.recs.length
      hintValid := x.hintValid
      hint0 := x.hint0
      hint1 := x.hint1
      storeBuf := if outer then mergeHeld y.storeBuf x.storeBuf else y.storeBuf
      loadSet := if outer then y.loadSet ++ x.loadSet.filter (fun z => !y.loadSet.contains z) else y.loadSet }
  let s := if outer then s else s.releaseHeld g l x.storeBuf
  let s := if outer then s else s.joinWrites g l (heldSectors x.storeBuf)
  let s := ((x.recs.take (x.recs.length - x.base)).filter fun r => !r.squashed).foldl (fun s r => s.lowerDepth 8 r.inst l) s
  let s := s.addFlags g (oneLane l) fun _ => x.flags
  let s := if x.dis then s.addDisagree g (oneLane l) x.first else s
  (s.countFork g fkCOMMIT 1).unlane i l

/-- The sets of the inner and outer lane together fit the outer lane (R107). -/
def State.commitFits (s : State) (g l i : Nat) : Bool :=
  if (s.grp g).shadow.isNone then true
  else
    let x := s.lane (s.inst i).shadow l
    let y := s.lane g l
    (heldSectors (mergeHeld y.storeBuf x.storeBuf)).length ≤ 16 &&
      (y.loadSet ++ x.loadSet.filter fun z => !y.loadSet.contains z).length ≤ 64

/-! ## What a continuation reads and holds (R103) -/

/-- The lane holds the record of an instance as its own, not as an inherited copy. -/
def Lane.owns (x : Lane) (i : Nat) : Bool := (x.recs.take (x.recs.length - x.base)).any fun r => r.inst == i && !r.squashed

/-- The group in which lane l is the callee of an instance: the one that forked it, or the group that the forking continuation has been
committed into (R107). -/
def State.calleeOf (s : State) (i l : Nat) : Nat :=
  match findIx (fun gr : Group => (gr.lane l).owns i) s.groups with
  | some p => p.1
  | none => (s.inst i).caller

/-- The shadow groups on whose commit lane l of a group depends, its own first (R101). -/
def State.chain (s : State) (l : Nat) : Nat → Nat → List Nat
  | 0, _ => []
  | n + 1, g => match (s.grp g).shadow with | some i => g :: State.chain s l n (s.calleeOf i l) | none => []
def State.forkChain (s : State) (g l : Nat) : List Nat := s.chain l 8 g

/-- A byte that the held stores of a chain of continuations give for a lane, the innermost first. -/
def State.heldByte (s : State) (ch : List Nat) (l space addr : Nat) : Option Byte :=
  ch.findSome? fun g => ((s.lane g l).storeBuf.find? fun b => b.space == space && b.addr == addr).map (·.val)

/-- The value of an element as a continuation lane reads it: bytes of the space under the held ones. -/
def State.overlay (s : State) (ch : List Nat) (space eb : Nat) (x : Elt) (v : Nat) : Nat :=
  leNat ((leBytes eb v).mapIdx fun j b => (s.heldByte ch x.lane space (x.va + j)).getD b)

/-- The bytes and the sectors of elements. -/
def eltBytes (space eb : Nat) (elts : List Elt) : List HeldByte :=
  elts.flatMap fun x => (leBytes eb x.val).mapIdx fun j b => ⟨space, x.va + j, b, 0, ⟨0, 0, 0⟩⟩
def eltSectors (space eb : Nat) (elts : List Elt) : List Sector := heldSectors (eltBytes space eb elts)

/-- A lane's load is served wholly from its own store buffer (log entry 25). -/
def State.ownServed (s : State) (g l space eb : Nat) (mine : List Elt) : Bool :=
  (eltBytes space eb mine).all fun b => (s.heldByte [g] l space b.addr).isSome

/-- Sectors joined to a list. -/
def joinSectors (old new : List Sector) : List Sector := old ++ new.filter fun x => !old.contains x

/-- A continuation lane's load fits the lane's load set. -/
def State.loadFits (s : State) (g l space eb : Nat) (mine : List Elt) : Bool :=
  s.ownServed g l space eb mine || decide ((joinSectors (s.lane g l).loadSet (eltSectors space eb mine)).length ≤ 64)

/-- The sectors of a load added to that set; those of an inner continuation reach an outer lane's set at its commit (R107) (log entry 25). -/
def State.noteLoad (s : State) (g l space eb : Nat) (mine : List Elt) : State :=
  if s.ownServed g l space eb mine then s
  else s.modLane g l fun x => { x with loadSet := joinSectors x.loadSet (eltSectors space eb mine) }

/-- A continuation lane's store fits its store buffer. -/
def State.storeFits (s : State) (g l space eb : Nat) (mine : List Elt) : Bool :=
  decide ((heldSectors (mergeHeld (s.lane g l).storeBuf (eltBytes space eb mine))).length ≤ 16)

/-- A store held back in a lane's buffer, in ascending order of its elements, with what its stamp is computed with (R103, R170). -/
def State.holdStore (s : State) (g l space eb nud : Nat) (mine : List Elt) : State :=
  let bytes (e : Elt) : List HeldByte := (eltBytes space eb [e]).map fun b => { b with nud := nud, clk := s.cur.clk }
  s.modLane g l fun x => { x with storeBuf := mine.foldl (fun acc e => mergeHeld acc (bytes e)) x.storeBuf }

end Sys2Proof.Machine
end

