-- ==== Sys2Proof/Machine/Queues.lean ====
section
/-! DEFINITION. What Bracken reads and writes in physical memory: queue descriptors, packets, rings, the tape, and the ready pool
(R298 to R301, R311, R312). -/

namespace Sys2Proof.Machine

/-! ## Physical memory as Bracken reaches it -/

/-- Addresses of a range that no DRAM of the partition has. -/
def State.beyond (s : State) (part pa n : Nat) : Option Nat := if (s.part part).dramSize < pa + n then some pa else none

/-- Bytes written at a physical address within one line: every L1 copy of the line goes, and the sectors carry no mark (log entry 16). -/
def State.physWrite (s : State) (part pa : Nat) (bs : List Byte) : State :=
  let s := (s.invalidate (fun _ => true) part (lineOf pa)).homeWrite part pa bs
  let lo := pa / 32
  let hi := (pa + bs.length + 31) / 32
  (List.range (hi - lo)).foldl (fun s k => s.unmark part (32 * (lo + k))) s

/-! ## Descriptors (R298) -/

/-- Where the descriptor of a queue lies (R299). -/
def State.queueAddr (s : State) (part q : Nat) : Nat := bits (s.part part).qtbase.toNat 22 26 * 2 ^ 22 + 64 * q

/-- A descriptor as the queue table holds it. -/
def State.queueStored (s : State) (part q : Nat) : QDesc :=
  let w (j : Nat) : Nat := s.dramNum part (s.queueAddr part q + 8 * j) 8
  ⟨w 0, w 1, w 2, w 3, w 4, s.dramNum part (s.queueAddr part q + 40) 24⟩

/-- A descriptor as Bracken knows it: the cached copy of a mapped queue, else the table's (R298). -/
def State.queue (s : State) (part q : Nat) : QDesc :=
  match (s.part part).slots.find? fun x => x.q == q with
  | some x => x.desc
  | none => s.queueStored part q

/-- A descriptor with one of its words 0 to 4 changed. -/
def QDesc.put (d : QDesc) (j v : Nat) : QDesc :=
  let v := v % 2 ^ 64
  match j with
  | 0 => { d with w0 := v }
  | 1 => { d with w1 := v }
  | 2 => { d with rptr := v }
  | 3 => { d with wptr := v }
  | _ => { d with lastBad := v }

/-- Bracken and `sysc` write a word of a descriptor in the table and in a cached copy (DESIGN CHOICE, log entry 50). -/
def State.putQueueWord (s : State) (part q j v : Nat) : State :=
  (s.physWrite part (s.queueAddr part q + 8 * j) (leBytes 8 v)).modPart part fun p =>
    { p with slots := p.slots.map fun x => if x.q == q then { x with desc := x.desc.put j v } else x }

def QDesc.prod (d : QDesc) : Bool := bitAt d.w0 1
def QDesc.level (d : QDesc) : Nat := bits d.w0 2 5
def QDesc.err (d : QDesc) : Bool := bitAt d.w0 7
def QDesc.elog (d : QDesc) : Nat := bits d.w0 8 5
def QDesc.ctxid (d : QDesc) : Nat := bits d.w0 16 16
def QDesc.slice (d : QDesc) : Nat := if bits d.w0 32 32 == 0 then 100 else bits d.w0 32 32
def QDesc.base (d : QDesc) : Nat := bits d.w1 0 48
def QDesc.host (d : QDesc) : Bool := bitAt d.w1 48
/-- Packets in the ring. -/
def QDesc.held (d : QDesc) : Nat := (d.wptr + 2 ^ 64 - d.rptr) % 2 ^ 64
def QDesc.full (d : QDesc) : Bool := d.held == 2 ^ d.elog

/-- The descriptor counts as valid: V, its fields in range, and the level one that the context may have (R298; log entry 16 for the
ring's size and base). -/
def State.queueValid (s : State) (part : Nat) (d : QDesc) : Bool :=
  bitAt d.w0 0 && bits d.w0 13 3 == 0 && bits d.w1 49 15 == 0 && d.rest == 0 && decide (1 ≤ d.elog) && decide (d.elog ≤ 16) && decide (d.level ≤ 23) &&
    d.base % 64 == 0 &&
    (match s.findCtx part d.ctxid with | some c => decide (3 ≤ d.level) || (s.ctx c).isSys | none => decide (3 ≤ d.level))

/-- Bracken dispatches from a valid descriptor whose context is alive (log entry 16). -/
def State.queueLive (s : State) (part : Nat) (d : QDesc) : Bool := s.queueValid part d && (s.findCtx part d.ctxid).isSome

/-- The context of a queue. -/
def State.queueCtx (s : State) (part : Nat) (d : QDesc) : Nat := (s.findCtx part d.ctxid).getD 0

/-! ## Packets (R301) -/

/-- A packet from its 64 bytes. -/
def launchOf (bs : List Byte) : Launch := Vector.ofFn fun j : Fin 8 => BitVec.ofNat 64 (leNat ((bs.drop (8 * j.val)).take 8))

def Launch.w (p : Launch) (j : Nat) : Nat := (p[j]?.getD 0).toNat
def Launch.type (p : Launch) : Nat := bits (p.w 0) 0 2
def Launch.gang (p : Launch) : Bool := bitAt (p.w 0) 2
def Launch.ordq (p : Launch) : Bool := bitAt (p.w 0) 3
def Launch.kdesc (p : Launch) : Nat := p.w 1
def Launch.crews (p : Launch) : Nat := bits (p.w 3) 0 24 + 1
def Launch.compl (p : Launch) : Nat := p.w 4
def Launch.msiv (p : Launch) : Nat := bits (p.w 5) 0 11

/-- A reserved bit is set, or TYPE is invalid. -/
def Launch.malformed (p : Launch) : Bool :=
  decide (2 ≤ p.type) || bits (p.w 0) 4 60 != 0 || bits (p.w 1) 52 12 != 0 || bits (p.w 3) 24 40 != 0 || bits (p.w 4) 52 12 != 0 ||
    bits (p.w 5) 11 53 != 0 || p.w 6 != 0 || p.w 7 != 0

/-- Where packet k of a ring lies. -/
def QDesc.slot (d : QDesc) (k : Nat) : Nat := d.base + 64 * (k % 2 ^ d.elog)

/-- The address of a packet that no memory has. -/
def State.ringVoid (s : State) (part : Nat) (d : QDesc) (k : Nat) : Option Nat := if d.host then none else s.beyond part (d.slot k) 64

def State.packet (s : State) (part : Nat) (d : QDesc) (k : Nat) : Launch :=
  launchOf (s.homeRead (if d.host then 4 else part) (d.slot k) 64)

def State.putPacket (s : State) (part : Nat) (d : QDesc) (k : Nat) (bs : List Byte) : State :=
  if d.host then s.homeWrite 4 (d.slot k) bs else s.physWrite part (d.slot k) bs

/-! ## The ready pool (R311) -/

def poolSize : Nat := 16384
def Partition.poolFull (p : Partition) : Bool := decide (poolSize ≤ p.nodes.length)

/-- The lowest free index of the pool, and its generation. -/
def Partition.freeNode (p : Partition) : Option Nat := (List.range poolSize).find? fun k => !p.nodes.any fun n => n.idx == k
def Partition.genOf (p : Partition) (k : Nat) : Nat := (look p.nodeGen k).getD 0

/-! ## The tape (R312) -/

def Context.tapeLog (c : Context) : Nat := bits c.tapebase.toNat 48 5
def Context.tapeAt (c : Context) (j : Nat) : Nat := bits c.tapebase.toNat 6 42 * 64 + 64 * j

end Sys2Proof.Machine
end

