-- ==== Sys2Proof/Machine/Waits.lean ====
section
/-! DEFINITION. What a waiting unit waits for: quiet (R226), barriers (R229, R230), timelines and sync words (R232, R233), buffers
(R245), queues of commands (R237), Bracken (R310, R311); deaths of peers (R326); and the room that a register image needs (R242, R244). -/

namespace Sys2Proof.Machine

/-- The operations in flight that a group's count covers (R225): stores, `pbar.init` among them (R230), loads, atomics, write-backs, `tdef`
and `cbdef`. -/
def counted (i : Instr) : Bool :=
  let l := i.laneOp
  let u := i.uniOp
  (0x0C0 ≤ l && l ≤ 0x0C5) || l == 0x0CA || (0x0E0 ≤ l && l ≤ 0x0E2) || u == 0x0C0 || u == 0x0C1 ||
    (match i with | .tdef _ _ _ | .cbdef _ _ _ _ | .pbarInit _ _ _ => true | _ => false)

/-- Every operation of the count that the group issued in a cycle before a given one has completed (R225, R226). -/
def State.quiet (s : State) (g cycle : Nat) : Bool :=
  !((s.grp g).acks.any fun c => decide (c < cycle)) && !((s.grp g).units.any fun u => counted u.instr && decide (u.iss.cycle < cycle))

/-- The copy commands of `lput` that a release at pod scope waits for: those issued before it (R223, R295). -/
def State.lputsDone (s : State) (g cycle : Nat) : Bool :=
  !((s.crewOf g).tl.any fun t => t.cmds.any fun c =>
    c.g == g && decide (c.issuedAt < cycle) && (match c.instr with | .lput _ _ _ => true | _ => false))

/-! ## Barriers -/

/-- The number of the scope instance that contains a group (R229). -/
def State.scopeInst (s : State) (g scope : Nat) : Nat :=
  match scope with
  | 0 => (s.grp g).core
  | 1 => s.quadOf g
  | 2 => dieOfQuad (s.quadOf g)
  | _ => 0

/-- A barrier instance is the one a group means by an id at a scope. -/
def State.isBar (s : State) (g id scope : Nat) (b : BarInst) : Bool :=
  let c := s.crewOf g
  b.task == c.task && b.id == id && b.scope == scope && b.inst == s.scopeInst g scope &&
    b.crew == (if scope ≤ 1 then some (s.grp g).crew else none)

/-- The generation of a barrier instance; 0 before its first arrival. -/
def State.barGen (s : State) (bars : List BarInst) (g id scope : Nat) : Nat :=
  match bars.find? (s.isBar g id scope) with
  | some b => b.gen
  | none => 0

/-- A group's record for an id and scope (R229). -/
def Group.barRec (gr : Group) (id scope : Nat) : Option Nat :=
  (gr.bars.find? fun r => r.id == id && r.scope == scope).map (·.gen)

/-- The barrier's generation has passed the group's record, if it holds one. -/
def State.barMet (s : State) (bars : List BarInst) (g id scope : Nat) : Bool :=
  match (s.grp g).barRec id scope with
  | some r => decide (r < s.barGen bars g id scope)
  | none => true

/-- The barrier word of R230 at an offset. -/
def pbarWord (scratch : List Host.Cell) (off : Nat) : Nat := Mem.num scratch off 8
def pbarEXP (w : Nat) : Nat := bits w 0 16
def pbarPEND (w : Nat) : Nat := bits w 16 16
def pbarPH (w : Nat) : Nat := bits w 32 1
def pbarBad (w : Nat) : Bool := pbarEXP w == 0 || pbarPEND w == 0 || decide (pbarEXP w < pbarPEND w) || bits w 33 31 != 0

/-! ## Buffers -/

def CircBuf.elem (b : CircBuf) : Nat := 32 * 2 ^ b.elog
/-- Occupancy and free elements (R241). -/
def CircBuf.occ (b : CircBuf) : Nat := (b.pp - b.cp).toNat
def CircBuf.free (b : CircBuf) : Nat := b.cap - b.occ
/-- Elements of one register image. -/
def CircBuf.imgElems (b : CircBuf) : Nat := 256 / b.elem

/-- The condition of a buffer wait (R245). -/
def roomMet (b : CircBuf) (n : Nat) : Bool := decide (n ≤ b.free)
def dataMet (b : CircBuf) (n : Nat) : Bool := decide (n ≤ b.occ)

/-- The quad next to a quad in a direction: 0 N, 1 E, 2 S, 3 W (R14, R15), if it lies on the grid. -/
def neighbour (quad dir : Nat) : Option Nat :=
  let x := 8 * (quad / 64 % 2) + quad % 8
  let y := 8 * (quad / 128) + quad / 8 % 8
  let at_ (x y : Nat) : Nat := 64 * (x / 8 + 2 * (y / 8)) + 8 * (y % 8) + x % 8
  match dir with
  | 0 => if y == 0 then none else some (at_ x (y - 1))
  | 1 => if x == 15 then none else some (at_ (x + 1) y)
  | 2 => if y == 15 then none else some (at_ x (y + 1))
  | _ => if x == 0 then none else some (at_ (x - 1) y)

/-- The neighbour of a quad within its partition (R15, R339). -/
def State.neighbourIn (s : State) (part quad dir : Nat) : Option Nat :=
  match neighbour quad dir with
  | some q => if (s.part part).dies.getLsbD (dieOfQuad q) then some q else none
  | none => none

/-- The input at which an image sent in a direction arrives: W for E, and likewise (R244). -/
def inputOf (dir : Nat) : Nat := (dir + 2) % 4

/-- The crew and buffer that an input of a quad is bound to (R243, R244). -/
def State.boundInput (s : State) (quad input : Nat) : Option (Nat × Nat) :=
  (s.crews.zipIdx.filterMap fun c =>
    if c.1.quad == quad && !c.1.retired then
      (findIx (fun b : CircBuf => b.cap != 0 && b.hin.getLsbD input) c.1.cb.toList).map fun p => (c.2, p.1)
    else none).head?

/-- A crew has a resident group. -/
def State.crewResident (s : State) (c : Nat) : Bool :=
  s.groups.any fun gr => gr.crew == c && gr.place == .resident && gr.shadow.isNone

/-- The state of an unretired crew stands on its quad: a group of it is resident, or none is evicted, so that commands of groups that have
exited go on (R18, R328), and its partition runs the image it belongs to (R342). -/
def State.crewStands (s : State) (c : Nat) : Bool :=
  let cr := s.crew c
  !cr.retired && s.inPlace (s.ctx cr.ctx).part (s.ctx cr.ctx) &&
    (s.crewResident c || !s.groups.any fun gr => gr.crew == c && gr.place == .evicted)

/-- An image appended at the producer pointer of a crew's buffer, with the pointer moved (R242, R244). -/
def State.appendImg (s : State) (c b : Nat) (img : Img) : State :=
  let buf := (s.crew c).buf b
  let s := (List.range buf.imgElems).foldl (fun s j =>
    let slot := (buf.pp + BitVec.ofNat 32 j).toNat % buf.cap
    s.writeScratch c (buf.base + slot * buf.elem) (((imgBytes img).drop (j * buf.elem)).take buf.elem)) s
  s.modCrew c fun cr => cr.setBuf b { buf with pp := buf.pp + BitVec.ofNat 32 buf.imgElems }

/-- A consumer of a mask accepts now: 1 the buffer of the unit's crew, 2 to 5 the links N, E, S, W (R49, R244). -/
def State.accepts (s : State) (g x c : Nat) : Option (Nat × Nat) :=
  if c == 1 then
    let b := (s.crewOf g).buf x
    if b.cap != 0 && decide (b.imgElems ≤ b.free) then some ((s.grp g).crew, x) else none
  else
    match s.neighbourIn (s.partNo g) (s.quadOf g) (c - 2) with
    | none => none
    | some q =>
      match s.boundInput q (inputOf (c - 2)) with
      | some (cr, b) =>
        let buf := (s.crew cr).buf b
        if s.crewResident cr && decide (buf.imgElems ≤ buf.free) then some (cr, b) else none
      | none => none

/-! ## Commands -/

/-- The engine a command goes to (R236, R289). -/
def engineOf : Instr → Option Engine
  | .cpy _ _ _ _ | .cpyx _ _ _ _ | .rredRs _ _ _ _ _ | .rredAr _ _ _ _ _ | .rcat _ _ _ | .lput _ _ _ => some .copy
  | .mld _ _ _ _ | .mma _ _ _ _ _ | .mmas _ _ _ _ | .mwb _ _ _ _ | .mclr _ _ _ _ => some .matrix
  | .ixg _ _ _ _ | .ixs _ _ _ _ => some .index
  | _ => none

/-- The group's queue for an engine holds eight commands (R237). -/
def State.queueFull (s : State) (g : Nat) (e : Engine) : Bool :=
  let n := ((s.crewOf g).tl.toList.map fun t =>
    if t.engine == some e then (t.cmds.filter fun c => c.g == g && !c.started).length else 0).sum
  decide (8 ≤ n)

/-! ## Deaths of peers (R326) -/

/-- The wait is one that a peer's death ends, and its sub-cause (log entry 32). -/
def peerWait : Instr → Option (BitVec 8)
  | .barSync _ _ _ c | .barWait _ _ _ c => if c.toNat ≤ 1 then some 0x01 else none
  | .pbarWait _ _ _ => some 0x02
  | .cbadvWroom _ _ _ | .cbadvWdata _ _ _ => some 0x03
  | _ => none

/-- The condition of a wait whose operands are those of the unit being issued, over given windows, buffers and barriers. -/
def State.condOver (s : State) (i : Instr) (scratch : List Host.Cell) (cb : Vector CircBuf 16) (bars : List BarInst) : Bool :=
  let buf (d : BitVec 6) : CircBuf := cb[d.toNat]?.getD CircBuf.undeclared
  match i with
  | .barSync _ d _ c | .barWait _ d _ c => s.barMet bars s.cur.g d.toNat c.toNat
  | .pbarWait _ _ _ =>
    let w := pbarWord scratch (s.scal i .A).toNat
    pbarBad w || pbarPH w != bits (s.scal i .B).toNat 0 1
  | .cbadvWroom _ d _ => (buf d).cap == 0 || roomMet (buf d) (bits (s.scal i .A).toNat 0 16)
  | .cbadvWdata _ d _ => (buf d).cap == 0 || dataMet (buf d) (bits (s.scal i .A).toNat 0 16)
  | _ => true

/-- A peer's death has ended the wait: its condition was not met before the death, or no longer holds where the wait comes after it
(R326). A wait that was pending with its condition met passes at the death (`State.killGroup`). -/
def State.lost (s : State) (i : Instr) : Bool :=
  let c := s.crewOf s.cur.g
  (peerWait i).isSome &&
    (match c.atDeath with
     | some d => !(s.condOver i d.scratch d.cb d.bars && s.condOver i c.scratch c.cb s.bars)
     | none => false)

/-- The condition of the wait part of the unit being issued holds. -/
def State.cond (s : State) (i : Instr) : Bool :=
  let c := s.crewOf s.cur.g
  match i with
  | .tlwait _ d _ =>
    let t := c.tline d.toNat
    decide ((s.scal i .A).toNat ≤ t.count) || t.parked.any fun p => p.g == s.cur.g && !p.taken
  | .launch _ _ _ _ => !(s.queue (s.partNo s.cur.g) (bits (s.scal i .D).toNat 0 16)).full
  | .gnode _ _ _ _ => !(s.part (s.partNo s.cur.g)).poolFull
  | .swwait _ d _ => decide ((s.scal i .A).toNat < ((c.sw[d.toNat]?).map fun w => w.gen.toNat).getD 0)
  | i => s.condOver i c.scratch c.cb s.bars

/-- The unit releases first, and waits until its group is quiet (R226). -/
def needsQuiet (i : Instr) : Bool :=
  match i with
  | .fence _ _ _ | .barSync _ _ _ _ | .barArrive _ _ _ _ | .pbarArrive _ _ | .cbadvPut _ _ _ | .cbadvGet _ _ _ | .leave _ _ | .rdecl _ _ _ _ | .exit _ => true
  | .launch _ _ _ _ | .gnode _ _ _ _ | .tapePush _ _ => true
  | _ => false

/-- The release of the unit being issued may be performed. -/
def State.mayRelease (s : State) (i : Instr) : Bool :=
  s.quiet s.cur.g s.cur.cycle && (match i with
    | .fence _ c m => c != 4 || !m.getLsbD 1 || s.lputsDone s.cur.g s.cur.cycle
    | .barSync _ _ _ c | .barArrive _ _ _ c => c != 4 || s.lputsDone s.cur.g s.cur.cycle
    | _ => true)

/-- A park of a group's own on a timeline, which the group has still to take as a trap (R240). -/
def State.ownPark (s : State) (g tl : Nat) : Bool := ((s.crewOf g).tline tl).parked.any fun p => p.g == g && !p.taken

/-- An update of `ixs` of a context, translated no later than a cycle, has still adds to make (R280). -/
def State.addsOpen (s : State) (ctx cycle : Nat) : Bool :=
  s.crews.any fun c => c.ctx == ctx && (List.range 8).any fun k => (c.tline k).cmds.any fun x => x.ups.any fun u => u.row.isSome && decide (u.begun ≤ cycle)

/-- An access that a group of a context, or an engine for it, issued no later than a cycle is in flight: not acknowledged, or not performed on
the translations it took at its issue. -/
def State.inFlight (s : State) (ctx cycle : Nat) : Bool :=
  s.addsOpen ctx cycle ||
  s.groups.any fun gr => (s.crew gr.crew).ctx == ctx &&
    (gr.acks.any (fun n => decide (n ≤ cycle)) || gr.units.any fun u => !u.iss.walks.isEmpty && decide (u.iss.cycle ≤ cycle))

/-- The shoot-down of the unit being issued, whose block has been read, is not complete (R182). -/
def State.shootOpen (s : State) : Bool :=
  match s.findCtx (s.partNo s.cur.g) (leNat (s.cur.data.take 8)) with
  | some c => s.inFlight c s.cur.cycle
  | none => false

/-- A waiting unit can go on. -/
def State.canProgress (s : State) (u : UnitRec) : Bool :=
  let t := { s with cur := u.iss }
  let i := u.instr
  if i.rt then false
  else if needsQuiet i && !u.iss.rdone then t.mayRelease i
  else
    match i with
    | .syscShoot _ _ => !t.shootOpen
    | .ectxUnbind _ d => ((s.crewOf u.iss.g).tline d.toNat).cmds.isEmpty || s.ownPark u.iss.g d.toNat
    | .ectxDrain _ d => u.iss.rdone || s.ownPark u.iss.g d.toNat
    | i =>
      match engineOf i with
      | some e => !s.queueFull u.iss.g e || s.ownPark u.iss.g (i.d?.getD 0).toNat
      | none => u.iss.met || t.lost i || t.cond i

/-! ## What a wait holds back (R87, R215, R226, R316; log entry 39) -/

/-- A room instruction (R215). -/
def isRoom (i : Instr) : Bool :=
  match i with
  | .enter _ _ _ _ | .enterTry _ _ _ _ | .leave _ _ | .rstat _ _ _ | .rdecl _ _ _ _ => true
  | _ => false

/-- A unit with an effect outside its lanes' registers and counters, or that reads outside them: an access of memory, `tmv` among them (R144),
a pin, an engine, collective or scheduling command, a room instruction, a wait, or the end of its lanes. -/
def reachesOut (i : Instr) : Bool :=
  let l := i.laneOp
  let u := i.uniOp
  l == 0x00A || l == 0x073 || (0x0C0 ≤ l && l ≤ 0x0CA) || (0x0E0 ≤ l && l ≤ 0x0E5) || (0x0C0 ≤ u && u ≤ 0x134) || u == 0x142 || u == 0x143

/-- What a waiting unit holds back among the later units of its lanes: everything (a wait part, a stalled command, a drain), what
reaches out (a fence), room instructions and the end of the lanes (a leave), or nothing of its own (a release that waits: younger units
are ordered behind it one by one). -/
inductive Holds where
  | all | reach | rooms | follow
deriving DecidableEq, Repr

def holdsOf (u : UnitRec) : Holds :=
  match u.instr with
  | .leave _ _ => .rooms
  | .fence _ _ _ => .reach
  | .barArrive _ _ _ _ | .pbarArrive _ _ | .cbadvPut _ _ _ | .cbadvGet _ _ _ => .follow
  | _ => .all

/-- A wait holds a later unit of its lanes at its issue. -/
def holdsNext (u : UnitRec) (i : Instr) : Bool :=
  match holdsOf u with
  | .all => true
  | .reach => reachesOut i
  | .rooms => isRoom i || i.laneOp == 0x00A
  | .follow => false

/-- The wait stalls every lane of the group (R49, R237), not only its own. -/
def stallsGroup (i : Instr) : Bool := i.rt || (engineOf i).isSome

end Sys2Proof.Machine
end

