-- ==== Sys2Proof/Machine/Sweep.lean ====
section
/-! DEFINITION. Accesses of the three spaces that a lane or a uniform instruction names, their sweeps, and a sweep that is performed
sector by sector (R157 to R164, R316). Space 0 is device memory, 1 the crew's scratchpad window, 2 the quad's constant store. -/

namespace Sys2Proof

/-- The signed displacement of the class (R158). -/
def Instr.disp (i : Instr) : Int := Machine.sext 7 i.x

/-- Bytes of an element, by SZ. -/
def Instr.eb (i : Instr) : Nat := i.width / 8

end Sys2Proof

namespace Sys2Proof.Machine

/-! ## Spaces (R157) -/

/-- An access to a space judged. -/
def State.planSpace (s : State) (a : Agent) (space : Nat) (k : Acc) (eb : Nat) (elts : List Elt) : Plan :=
  match space with
  | 0 => s.plan a k (8 * eb) elts
  | 1 => s.planLimit a 1 (s.crew a.crew).window k eb elts
  | _ => s.planLimit a 2 131072 k eb elts

/-- Elements loaded from a space, each value by the element's number. -/
def State.loadSpace (s : State) (a : Agent) (space eb nud : Nat) (elts : List Elt) : State × List (Nat × Nat) :=
  match space with
  | 0 => s.loadElts a eb nud elts
  | 1 => (s, elts.map fun x => (x.e, leNat (s.readScratch a.crew x.va eb)))
  | _ => (s, elts.map fun x => (x.e, leNat (s.readConst a.quad x.va eb)))

/-- The store is acknowledged later: some element reaches a page that is not self-invalidating (R16, R184 to R187); on a HOST page R187's
sending by the endpoint acknowledges it, whatever the page's attribute (DEDUCED, log entry 61). -/
def State.acked (s : State) (a : Agent) (elts : List Elt) : Bool :=
  let t := s.lineTable a .store elts
  elts.any fun x => match reachIn t x.va with | .ok y => y.attr != 1 || y.host | _ => false

/-- Elements stored to a space; a store to memory counts toward the group's outstanding acknowledgements (R16). -/
def State.storeSpace (s : State) (a : Agent) (space eb nud : Nat) (elts : List Elt) : State :=
  match space with
  | 0 =>
    if elts.isEmpty then s
    else
      let n := (s.acked a elts).toNat
      (s.storeElts a eb nud elts).modGrp a.g fun gr => { gr with acks := gr.acks ++ List.replicate n s.cur.cycle }
  | 1 => (elts.foldl (fun s x => s.writeScratch a.crew x.va (leBytes eb x.val)) s).healLocal a 1 eb elts
  | _ => (elts.foldl (fun s x => s.writeConst a.quad x.va (leBytes eb x.val)) s).healLocal a 2 eb elts

/-- The elements of one lane. -/
def ofLane (elts : List Elt) (l : Nat) : List Elt := elts.filter fun x => x.lane == l

/-- A callee's store joins the write sets of its lanes' forks when it issues (R106), with the sectors of all its elements. -/
def State.joinStore (s : State) (g space eb : Nat) (lanes : Lanes) (elts : List Elt) : State :=
  if s.forks.isEmpty then s
  else (lanesOf lanes).foldl (fun s l => s.joinWrites g l (eltSectors space eb (ofLane elts l))) s

/-! ## Sweeps (R160, R161, R164) -/

/-- The base of the sweep: A in the lowest active lane, displaced by X units, modulo 2^64. -/
def State.sweepBase (s : State) (i : Instr) (unit : Nat) : Nat := wrap 64 ((s.scal i .A).toNat + i.disp * unit)

/-- The elements of a sweep: those of active lanes that the write mask enables. -/
def State.sweep (s : State) (i : Instr) (base : Nat) (data : Img) : List Elt :=
  let w := i.width
  let eb := i.eb
  (List.range (2048 / w)).filterMap fun e =>
    if s.takesPart i w e then some ⟨e, laneIx w e, (base + e * eb) % 2 ^ 64, el w e data⟩ else none

/-- Bits [63:52] of an address select the space; `none` where they select none (R157). -/
def spaceOf (addr : Word) : Option Nat :=
  match bits addr.toNat 52 12 with
  | 0 => some 0
  | 1 => some 1
  | 2 => some 2
  | _ => none

/-- The one element of a uniform access, judged by the lowest active lane. -/
def State.uniElt (s : State) (addr : Word) (v : Nat) : Elt := ⟨0, lowest s.cur.lanes, bits addr.toNat 0 52, v⟩

/-- What a sweep does: its space, the unit of its displacement, its NUD, and its destination, where it loads. -/
structure Form where
  space : Nat
  unit : Nat
  nud : Nat
  load : Option (BitVec 6)
deriving DecidableEq, Repr

/-- The sweeps (R158, R164, R167). -/
def formOf (i : Instr) : Option Form :=
  match i with
  | .ld _ _ d _ n _ => some ⟨0, i.eb, n.toNat, some d⟩
  | .st _ _ _ _ n _ => some ⟨0, i.eb, n.toNat, none⟩
  | .ldl _ _ d _ n _ => some ⟨0, 256, n.toNat, some d⟩
  | .lds _ _ d _ _ => some ⟨1, i.eb, 0, some d⟩
  | .sts _ _ _ _ _ => some ⟨1, i.eb, 0, none⟩
  | .ldc _ _ d _ _ => some ⟨2, i.eb, 0, some d⟩
  | _ => none

/-- The elements of the sweep of the unit being issued. -/
def State.formElts (s : State) (i : Instr) (f : Form) : List Elt :=
  s.sweep i (s.sweepBase i f.unit) (if f.load.isSome then 0 else s.src i .D)

/-! ## Continuations (R103, R104) -/

/-- An access of device memory that a continuation may not make: a declared region, an uncached page, host memory. -/
def State.outOfFork (s : State) (a : Agent) (t : List (Nat × Reach)) (x : Elt) : Bool :=
  ((s.ctx a.ctx).regionAt x.va).isSome || (match reachIn t x.va with | .ok y => y.host || y.attr == 2 | _ => false)

/-- The lanes of a continuation for which an access is a fork boundary, faults among them (R103 to R105). -/
def State.forkStops (s : State) (a : Agent) (space : Nat) (k : Acc) (eb : Nat) (lanes : Lanes) (elts : List Elt) (p : Plan) : Lanes :=
  let t := if space == 0 then s.lineTable a k.kind elts else []
  lanesWhere fun l => lanes.getLsbD l &&
    (p.bad.getLsbD l ||
      (let mine := ofLane elts l
       (space == 0 && mine.any (s.outOfFork a t)) ||
         !(if k == .store then s.storeFits a.g l space eb mine else s.loadFits a.g l space eb mine)))

/-- Elements as a continuation reads them, with its load set. -/
def State.loadFork (s : State) (a : Agent) (space eb nud : Nat) (elts : List Elt) : State × List (Nat × Nat) :=
  let (s', vals) := s.loadSpace a space eb nud elts
  (s', (elts.zip vals).map fun p => (p.1.e, s.overlay (s.forkChain a.g p.1.lane) space eb p.1 p.2.2))

/-- A uniform load of a continuation is performed, and its sector recorded for every active lane, unless the lanes' own store buffers serve
all of them (R103) (log entry 25). -/
def State.uniServed (s : State) (g space eb : Nat) (x : Elt) : Bool := (lanesOf s.cur.lanes).all fun l => s.ownServed g l space eb [x]
def State.uniLoadFits (s : State) (g space eb : Nat) (x : Elt) : Bool :=
  s.uniServed g space eb x || (lanesOf s.cur.lanes).all fun l => decide ((joinSectors (s.lane g l).loadSet (eltSectors space eb [x])).length ≤ 64)
def State.noteUniLoad (s : State) (g space eb : Nat) (x : Elt) : State :=
  if s.uniServed g space eb x then s
  else s.modLanes g s.cur.lanes fun _ y => { y with loadSet := joinSectors y.loadSet (eltSectors space eb [x]) }

/-- A uniform access that a continuation may not make: it faults, reaches what R103 excludes, or does not fit some lane's set (R103, R104). -/
def State.uniStops (s : State) (k : Acc) (space eb : Nat) (x : Elt) : Bool :=
  let a := s.unitAgent
  let p := s.planSpace a space k eb [x]
  let t := if space == 0 then s.lineTable a k.kind [x] else []
  p.trap.isSome || (space == 0 && s.outOfFork a t x) ||
    !(if k == .store then (lanesOf s.cur.lanes).all fun l => s.storeFits a.g l space eb [x] else s.uniLoadFits a.g space eb x)

/-- A unit at which every lane of a continuation that issues it waits, so that nothing of it is performed: an access (R103, R104), or a
misaligned prefetch or uniform branch (R105). -/
def State.accessStops (s : State) (i : Instr) : Bool :=
  match i with
  | .brx _ _ => (s.scal i .A).toNat % 4 != 0
  | .prf _ _ _ _ _ => s.sweepBase i i.eb % i.eb != 0
  | .sld _ _ _ _ z | .sst _ _ _ _ z =>
    let addr := s.scal i .A
    let k : Acc := if i.uniOp == 0x0C1 then .store else .load
    addr.toNat % 2 ^ z.toNat != 0 ||
      (match spaceOf addr with
       | none => true
       | some sp => s.uniStops k sp (2 ^ z.toNat) (s.uniElt addr (bits (s.scal i .D).toNat 0 (8 * 2 ^ z.toNat))))
  | _ =>
    match formOf i with
    | none => false
    | some f =>
      s.sweepBase i f.unit % f.unit != 0 ||
        (let k : Acc := if f.load.isSome then .load else .store
         let a := s.unitAgent
         let elts := s.formElts i f
         let p := s.planSpace a f.space k i.eb elts
         p.void.isNone && s.cur.lanes &&& ~~~(s.forkStops a f.space k i.eb s.cur.lanes elts p) == 0)

/-! ## Sweeps performed in parts (R162, R316) -/

/-- The sectors of elements, by number within their space. -/
def sectorsOf (elts : List Elt) : List Nat := elts.foldl (fun acc x => addNo (x.va / 32) acc) []
def inSectors (secs : List Nat) (elts : List Elt) : List Elt := elts.filter fun x => secs.contains (x.va / 32)

/-- The sectors that a mask picks from a list: all of them where it is 0, and none where it names only places beyond the list, so that an
access may have decided its faults and performed nothing (R16, R316). -/
def picked (m : Nat) (secs : List Nat) : List Nat := if m == 0 then secs else (secs.zipIdx.filter fun p => bitAt m p.2).map (·.1)

/-- The head of the list of splits (log entry 1). -/
def State.popSplit (s : State) : Nat × State :=
  match s.sched.splits with
  | [] => (0, s)
  | m :: t => (m, { s with sched := { s.sched with splits := t } })

/-- A unit put back among those in flight, in the order of issue. -/
def State.keepUnit (s : State) (u : UnitRec) : State :=
  s.modGrp u.iss.g fun gr => { gr with units := sortBy (fun v : UnitRec => v.iss.seq) (u :: gr.units) }

/-- The register that a load sweep writes, from the values read (R160, R164). -/
def State.loaded (s : State) (i : Instr) (lanes : Lanes) (vals : List (Nat × Nat)) : Result :=
  s.result i i.width lanes fun e => (look vals e).getD 0

/-- What a unit performed in parts accesses: space, bytes and NUD, its elements, the register of a load; `uni`: an `sst`, whose faults all
active lanes take (R165). -/
structure Part where
  space : Nat
  eb : Nat
  nud : Nat
  elts : List Elt
  load : Option (BitVec 6)
  uni : Bool
deriving DecidableEq, Repr

def State.partOf (s : State) (i : Instr) : Option Part :=
  match formOf i with
  | some f => some ⟨f.space, i.eb, f.nud, s.formElts i f, f.load, false⟩
  | none =>
    match i with
    | .sst _ _ _ n z =>
      (spaceOf (s.scal i .A)).map fun sp =>
        ⟨sp, 2 ^ z.toNat, n.toNat, [s.uniElt (s.scal i .A) (bits (s.scal i .D).toNat 0 (8 * 2 ^ z.toNat))], none, true⟩
    | _ => none

/-- A unit narrowed to the lanes of a set. -/
def UnitRec.narrow (u : UnitRec) (ls : Lanes) : UnitRec := { u with iss := { u.iss with lanes := u.iss.lanes &&& ls } }

/-- Some sectors of an access whose faults have been decided are accessed; the unit completes with the last of them. What stands there at
this moment, its point of execution, is judged again: a lane that meets a fault, such as a mark made since (R222), goes no further.
The answer names those lanes and their trap. -/
def State.sweepPart (s : State) (u : UnitRec) (m : Nat) : State × Lanes × Option TrapInfo :=
  let s := { s with cur := u.iss }
  match s.partOf u.instr with
  | none => (s, 0, none)
  | some f =>
    let secs := u.iss.left.getD []
    let now := picked m secs
    let a := { s.unitAgent with seen := eltLines (f.elts.filter fun x => !secs.contains (x.va / 32)) }
    let p := s.planSpace a f.space (if f.load.isSome then .load else .store) f.eb (inSectors now f.elts)
    let bad := if f.uni && p.bad != 0 then u.iss.lanes else p.bad
    let trap := if f.uni then p.trap.map fun t => { t with faddr := s.scal u.instr .A } else p.trap
    let v := u.narrow (~~~bad)
    let rest := if v.iss.lanes == 0 then [] else secs.filter fun n => !now.contains n
    match f.load with
    | none =>
      let s := s.storeSpace a f.space f.eb f.nud p.good
      (if rest.isEmpty then s else s.keepUnit { v with iss := { v.iss with left := some rest } }, bad, trap)
    | some d =>
      let (s, vals) := s.loadSpace a f.space f.eb f.nud p.good
      let got := v.iss.got ++ vals
      (if rest.isEmpty then s.writeReg v.iss.g d (s.loaded v.instr v.iss.lanes got)
       else s.keepUnit { v with iss := { v.iss with left := some rest, got := got } }, bad, trap)

/-- A decided unit completed as far as it goes; lanes that meet a fault are left with the unit as one that has still to decide. -/
def State.completeOne (s : State) (u : UnitRec) : State :=
  let (s, bad, _) := s.sweepPart u 0
  if bad == 0 then s else s.keepUnit { u.narrow bad with iss := { (u.narrow bad).iss with left := none, got := [] } }

/-- The decided units of some lanes completed, in the order of issue (R317, step 1). -/
def State.completeDecided (s : State) (g : Nat) (ls : Lanes) : State :=
  let mine (u : UnitRec) : Bool := u.iss.left.isSome && u.iss.lanes &&& ls != 0
  let us := (s.grp g).units.filter mine
  if us.isEmpty then s
  else
    let c := s.cur
    let s := s.modGrp g fun gr => { gr with units := gr.units.filter fun u => !mine u }
    { us.foldl State.completeOne s with cur := c }

end Sys2Proof.Machine
end

