-- ==== Sys2Proof/Machine/Ops.lean ====
section
/-! DEFINITION. The life of a unit of issue: the checks of R60, the advance of counters, results and consumers, waits; and taking a
trap, dying, returning (R48 to R53, R60, R83, R84, R86, R104, R105, R316 to R326). -/

namespace Sys2Proof.Machine

/-! ## Trap frames (R319 to R321) -/

/-- The frame address of a group (R319). -/
def State.frameAddr (s : State) (g : Nat) : Word :=
  (s.ctxOf g).savebase + BitVec.ofNat 64 (65536 * (s.grp g).gtag)

/-- Whether the unit is a prefix pair (R48). -/
def pairBit (pword : BitVec 32) : Nat := if pword == 0 then 0 else 1

/-- The header's words with offset from FA (R320). -/
def engWords (e : EngFrame) : List (Nat × Nat) :=
  [(0x28, e.ocause.toNat + 2 ^ 8 * e.osub.toNat + 2 ^ 16 * e.tl + 2 ^ 19 * e.engn), (0x30, e.cmdno), (0x38, e.step),
   (0x40, e.row + 2 ^ 8 * e.col + 2 ^ 16 * (e.kstep % 2 ^ 32)),
   (0x48, e.tida.toNat + 2 ^ 16 * e.tidb.toNat + 2 ^ 32 * e.tidd.toNat)]

def State.headerWords (s : State) (g : Nat) (lanes : Lanes) (t : TrapInfo) (fatal : Bool) (nrep : Nat) (word pword : BitVec 32) (pc : Word) :
    List (Nat × Nat) :=
  let gr := s.grp g
  let ls := List.range 32
  [(0x00, t.cause.toNat + 2 ^ 8 * t.sub.toNat + 2 ^ 16 * t.eng.isSome.toNat + 2 ^ 17 * pairBit pword + 2 ^ 18 * fatal.toNat + 2 ^ 20 * nrep),
   (0x08, t.faddr.toNat), (0x10, lanes.toNat), (0x18, word.toNat + 2 ^ 32 * pword.toNat), (0x20, pc.toNat)] ++
  (match t.eng with | some e => engWords e | none => []) ++
  ls.map (fun l => (0x100 + 8 * l, (gr.lane l).pc.toNat)) ++
  (if gr.nregs == 48 then ls.map (fun l => (0x200 + 8 * l, (laneOf (gr.reg 64 47) l).toNat)) else []) ++
  ls.map (fun l => (0x300 + 8 * l, (laneOf gr.la l).toNat)) ++ ls.map (fun l => (0x400 + 8 * l, (laneOf gr.lb l).toNat))

/-- The images of an entry: those of its sources, and last the result of a consumer-mask unit (R318, R321). -/
def Issue.images (u : Issue) : List Img := u.imgs ++ u.res.toList

/-- The words of the first line of an entry (R321). -/
def entryWords (u : UnitRec) : List (Nat × Nat) :=
  [(0x00, u.iss.word.toNat + 2 ^ 32 * u.iss.pword.toNat), (0x08, u.iss.addr.toNat),
   (0x10, u.iss.lanes.toNat + 2 ^ 32 * u.iss.rdone.toNat + 2 ^ 34 * u.iss.dlv.toNat + 2 ^ 40 * min u.iss.images.length 12)] ++
  (List.range 4).map (fun j => (0x20 + 8 * j, bits u.iss.kimg.toNat (64 * j) 64)) ++
  (List.range 4).map (fun j => (0x40 + 8 * j, bits u.iss.simg.toNat (64 * j) 64))

/-- 32 bytes at an offset of a page of words. -/
def sectorOfWords (ws : List (Nat × Nat)) (off : Nat) : Nat :=
  (ws.map fun p => if off ≤ p.1 && p.1 < off + 32 then p.2 * 2 ^ (8 * (p.1 - off)) else 0).sum

/-- Sector k of a frame of 1,152 sectors: the header page, then a page for each entry (R320, R321). -/
def frameSector (header : List (Nat × Nat)) (ents : List UnitRec) (k : Nat) : Nat :=
  let off := 32 * k
  if off < 0x1000 then sectorOfWords header off
  else
    match ents[off / 0x1000 - 1]? with
    | none => 0
    | some u =>
      let o := off % 0x1000
      if o < 0x100 then sectorOfWords (entryWords u) o
      else match u.iss.images[o / 0x100 - 1]? with | some p => el 256 (o % 0x100 / 32) p | none => 0

/-- The frame as one store of whole sectors by a lane of the group. -/
def frameElts (fa : Word) (l : Nat) (header : List (Nat × Nat)) (ents : List UnitRec) : List Elt :=
  (List.range 1152).map fun k => ⟨k, l, (fa.toNat + 32 * k) % 2 ^ 64, frameSector header ents k⟩

/-- Every sector of the frame may be stored (R319). -/
def State.frameOk (s : State) (g : Nat) (elts : List Elt) : Bool :=
  let a := s.agent g
  let t := s.lineTable a .store elts
  elts.all fun x => s.judge a .store 256 t x == .ok

/-! ## Death (R325) -/

/-- Units of a group taken from the queue of units to perform. -/
def State.dropQueued (s : State) (g : Nat) : State := { s with issueQ := s.issueQ.filter fun u => u.iss.g != g }

/-- The wait parts of a crew's groups whose condition a death finds met pass: those of resident groups are performed next, and those of evicted
ones when the group has resumed (R326). -/
def State.passMet (s : State) (c : Nat) : State :=
  let met (u : UnitRec) : Bool := (peerWait u.instr).isSome && u.iss.rdone && !u.instr.rt && ({ s with cur := u.iss }).cond u.instr
  let note (u : UnitRec) : UnitRec := if met u then { u with iss := { u.iss with met := true } } else u
  let here (gr : Group) : Bool := gr.crew == c && gr.place == .resident
  let pass (gr : Group) : Group :=
    if here gr then { gr with waits := gr.waits.filter fun u => !met u }
    else if gr.crew == c then { gr with savedUnits := gr.savedUnits.map note } else gr
  let ready := s.groups.flatMap fun gr => if here gr then (gr.waits.filter met).map note else []
  { s with groups := s.groups.map pass, issueQ := ready ++ s.issueQ }

/-- What a death leaves of a group (R325, steps 2 to 4). -/
def State.killGroup (s : State) (g : Nat) : State :=
  let s := ((s.flush g).squashAll g).destroyHolds g
  let c := (s.grp g).crew
  let s := s.passMet c
  let s := s.dropQueued g
  let s := s.modGrp g fun gr =>
    { gr with units := [], waits := [], save := none, savedUnits := [], preempt := none, place := .dead,
              lanes := gr.lanes.map fun x => { x with mode := .exited, held := none, park := none, holds := [] } }
  s.modCmds c fun cr =>
    { cr.dropGroup g with
      failed := true
      paceSeen := true
      atDeath := if cr.atDeath.isSome then cr.atDeath else some ⟨cr.scratch, cr.cb, s.bars⟩ }

/-- A group dies by a cause: a fatal frame where it can be written, then its death (R325). -/
def State.dieOf (s : State) (g : Nat) (lanes : Lanes) (t : TrapInfo) (word pword : BitVec 32) (pc : Word) : State :=
  let s := s.flush g
  let elts := frameElts (s.frameAddr g) (lowest lanes) (s.headerWords g lanes t true 0 word pword pc) []
  let s := if s.frameOk g elts then s.storeElts (s.agent g) 32 15 elts else s
  s.killGroup g

/-! ## Withdrawal (R317, R318) -/

/-- A unit that moves its lanes' counters (R317). -/
def movesCounters (i : Instr) : Bool :=
  match i with
  | .brl _ _ _ | .jmpl _ _ | .callv _ _ _ | .ret _ _ | .fcall _ _ _ _ | .bra _ _ | .brx _ _ | .call _ _ => true
  | _ => false

/-- The part of the units that concerns a set of lanes, and the rest. -/
def takeLanes (ls : Lanes) (us : List UnitRec) : List UnitRec :=
  (us.map (UnitRec.narrow · ls)).filter fun u => u.iss.lanes != 0
def leaveLanes (ls : Lanes) (us : List UnitRec) : List UnitRec :=
  (us.map (UnitRec.narrow · (~~~ls))).filter fun u => u.iss.lanes != 0

/-- A unit as a replay entry: `rett` issues it anew, one that moves counters keeps only its register writes, and the register
consumer of a result that exists has been written by then (R317, R318). -/
def UnitRec.toEntry (u : UnitRec) : UnitRec :=
  { u with
    bad := if u.illegal then u.bad else none
    iss := { u.iss with
      late := false, left := none, got := [], walks := [], regOnly := u.iss.regOnly || movesCounters u.instr
      dlv := if u.iss.res.isSome && u.instr.consumers.getLsbD 0 then u.iss.dlv ||| 1 else u.iss.dlv } }

/-- The unfinished units of a group withdrawn for some lanes, in the order of issue (R317, step 2). -/
def State.withdrawUnits (s : State) (g : Nat) (ls : Lanes) (own : List UnitRec) : State × List UnitRec :=
  let gr := s.grp g
  let queued := s.issueQ.filter fun u => u.iss.g == g
  let ents : List UnitRec := (sortBy (fun u : UnitRec => u.iss.seq) (takeLanes ls (gr.units ++ gr.waits ++ queued) ++ own)).map UnitRec.toEntry
  let s := { s with issueQ := (s.issueQ.filter fun (u : UnitRec) => u.iss.g != g) ++ leaveLanes ls queued }
  (s.modGrp g fun x => { x with units := leaveLanes ls x.units, waits := leaveLanes ls x.waits }, ents)

/-! ## Taking a trap (R86, R317) -/

/-- The handler of a group is busy: its save slot holds a frame (R86). -/
def Group.handlerBusy (gr : Group) : Bool := gr.save.isSome

/-- Trap entry of a set of lanes whose resume counters stand in their lanes: every pending write performed, the frame written, the
lanes in the handler; the group dies where traps are fatal or the frame cannot be written (R317, R319, R325). -/
def State.enterTrap (s : State) (g : Nat) (ls : Lanes) (t : TrapInfo) (ents : List UnitRec) (word pword : BitVec 32) (pc : Word) : State :=
  let s := s.flush g
  let base := (s.ctxOf g).trapbase
  if !base.getLsbD 0 then s.dieOf g ls t word pword pc
  else
    let fa := s.frameAddr g
    let ents := ents.take 8
    let elts := frameElts fa (lowest ls) (s.headerWords g ls t false ents.length word pword pc) ents
    if !s.frameOk g elts then s.dieOf g ls t word pword pc
    else
      let s := s.storeElts (s.agent g) 32 15 elts
      let s := s.modLanes g ls fun _ x => { x with mode := .handler, pc := base &&& ~~~3#64, held := none, park := none }
      s.modGrp g fun gr =>
        let gr := if gr.nregs == 48 then gr.setReg 47 (laneBits ls) (splat fa) else gr
        { gr with save := some ⟨fa, ls, ents⟩ }

/-- The lanes are held at the faulting word until the handler is free (R86). -/
def State.holdLanes (s : State) (g : Nat) (ls : Lanes) (t : TrapInfo) (ents : List UnitRec) (word pword : BitVec 32) (pc : Word) : State :=
  s.modLanes g ls fun l x =>
    { x with mode := .held, park := none, pc := pc
             held := some ⟨t, (ents.filter fun u => u.iss.lanes.getLsbD l).map (fun u => u.narrow (oneLane l)), x.pc, word, pword, pc⟩ }

/-- Units of the lanes in flight that are older than a unit: some still decide their faults, and the others write their results before the
trap is taken (R316, R317). -/
def State.olderInFlight (s : State) (g : Nat) (ls : Lanes) (seq : Nat) : List UnitRec :=
  (s.grp g).units.filter fun u => u.iss.lanes &&& ls != 0 && decide (u.iss.seq < seq)

/-- What a trap is taken for: the lanes, the cause, the faulting unit, whether it becomes an entry, and whether the cause stands when
the trap must wait for older units. -/
structure Raise where
  g : Nat
  lanes : Lanes
  trap : TrapInfo
  unit : Option UnitRec
  entry : Bool
  keep : Bool
  word : BitVec 32
  pword : BitVec 32
  pc : Word
deriving DecidableEq, Repr

/-- Lanes raise a cause (R86, R105, R316, R317, R325). Their counters hold their resume counters. Lanes of a continuation go back to the
word and wait there; handler lanes die; lanes of the program vote trap, or are held while the handler is busy. Older units of the
lanes in flight are performed first; younger ones, and parts that they have read, are withdrawn (log entry 24). -/
def State.raise (s : State) (r : Raise) : State :=
  let gr := s.grp r.g
  if r.lanes == 0 || gr.place == .dead then s
  else if gr.shadow.isSome then s.modLanes r.g r.lanes fun _ x => { x with mode := .boundary, pc := r.pc }
  else if (gr.lane (lowest r.lanes)).inHandler then s.dieOf r.g r.lanes r.trap r.word r.pword r.pc
  else
    let older := match r.unit with | some u => s.olderInFlight r.g r.lanes u.iss.seq | none => []
    match older, r.unit with
    | o :: os, some u =>
      let s := s.modGrp r.g fun x => { x with units := x.units.filter fun v => !(o :: os).contains v }
      let v := u.narrow r.lanes
      { s with issueQ := (o :: os) ++ { v with iss := { v.iss with late := true }, bad := if r.keep then some r.trap else v.bad } :: s.issueQ }
    | _, _ =>
      let s := if r.unit.isNone then s.completeDecided r.g r.lanes else s
      let own := match r.unit with | some u => if r.entry then [u.narrow r.lanes] else [] | none => []
      let (s, ents) := s.withdrawUnits r.g r.lanes own
      if gr.handlerBusy then s.holdLanes r.g r.lanes r.trap ents r.word r.pword r.pc
      else s.enterTrap r.g r.lanes r.trap ents r.word r.pword r.pc

/-- A unit that was or is being issued faults in some of its lanes: it becomes an entry (R317). `keep`: the cause has been decided for
good. -/
def State.faultUnit (s : State) (u : UnitRec) (ls : Lanes) (t : TrapInfo) (keep : Bool) : State :=
  s.raise ⟨u.iss.g, ls, t, some u, true, keep, u.iss.word, u.iss.pword, u.iss.addr⟩

/-- The unit being issued faults in some of its lanes (log entry 24). -/
def State.fault (s : State) (i : Instr) (ls : Lanes) (t : TrapInfo) (keep : Bool) : State := s.faultUnit (s.unitRec i) ls t keep

/-- A unit traps in some lanes, with itself, captured before any of its results, as the entry (R77, R161, R317). -/
def State.faultRec (s : State) (u : UnitRec) (ls : Lanes) (t : Option TrapInfo) : State :=
  match t with
  | none => s
  | some t => s.faultUnit u ls t false

/-- A part of a decided access performed, with the fault that it may meet there (R162, R222, R316). -/
def State.goOn (s : State) (u : UnitRec) (m : Nat) : State :=
  let (s, bad, t) := s.sweepPart u m
  s.faultRec { u with iss := { u.iss with left := none, got := [] } } bad t

/-- A trap without an entry of its own: BREAK and SWTRAP (R318). -/
def State.softTrap (s : State) (i : Instr) (ls : Lanes) (t : TrapInfo) : State :=
  s.raise ⟨s.cur.g, ls, t, some (s.unitRec i), false, false, s.cur.word, s.cur.pword, s.cur.addr⟩

/-- A cause without address or engine fields. -/
def plainTrap (cause sub : BitVec 8) : TrapInfo := ⟨cause, sub, 0, none⟩
def addrTrap (cause sub : BitVec 8) (a : Word) : TrapInfo := ⟨cause, sub, a, none⟩

/-! ## Counters (R83) -/

/-- The address after the unit: after the instruction word of a pair (R48). -/
def State.nextAddr (s : State) (i : Instr) : Word := s.cur.addr + (if i.pf?.isSome then 8 else 4)

/-- The active lanes go on after the unit and are ready after its stall count; a unit that is performed again moves no counter. -/
def State.advance (s : State) (i : Instr) : State :=
  if s.cur.replay then s
  else
    let nx := s.nextAddr i
    let rd := s.now + s.cur.second.toNat + i.stall.toNat + 1
    s.modLanes s.cur.g s.cur.lanes fun _ x => { x with pc := nx, ready := rd }

/-- Some lanes go to a target (R91 to R94). -/
def State.goto (s : State) (ls : Lanes) (f : Nat → Word) : State :=
  if s.cur.replay then s else s.modLanes s.cur.g ls fun l x => { x with pc := f l }

/-- Some lanes of a unit that moves counters stay at it: it failed a check (R84, R91 to R94). -/
def State.stay (s : State) (ls : Lanes) : State := s.goto ls fun _ => s.cur.addr

/-- Lanes of a continuation wait at the unit, with no effect of it (R104). -/
def State.holdBoundary (s : State) (ls : Lanes) : State :=
  s.modLanes s.cur.g ls fun _ x => { x with mode := .boundary, pc := s.cur.addr }

/-! ## The checks of R60 -/

/-- A privileged opcode or operand at user level (check 6), by its sub-cause (R157, R329, R334, R335). -/
def privileged (n : Nat) : Bool :=
  (0x100 ≤ n && n ≤ 0x102) || n == 0x200 || (0x205 ≤ n && n ≤ 0x20C) || (0x300 ≤ n && n ≤ 0x305)

def State.privSub (s : State) (i : Instr) : Option (BitVec 8) :=
  if (s.ctxOf s.cur.g).isSys then none
  else
    match i with
    | .dtld _ _ _ => some 0x01
    | .wrsr _ _ n => if privileged n.toNat then some 0x02 else none
    | .syscShoot _ _ | .syscTerm _ _ | .syscQdesc _ _ | .syscLevel _ _ | .syscRing _ _ | .syscPodwin _ _ | .syscFpdef _ _ => some 0x02
    | .sst _ _ _ _ _ => if bits (s.scal i .A).toNat 52 12 == 2 then some 0x02 else none
    | _ => none

/-- An object number read from a register lies at or above its kind's count (R43, check 4). -/
def State.objectBad (s : State) (i : Instr) : Bool :=
  match i with
  | .tdef _ _ _ => 256 ≤ bits (s.scal i .D).toNat 0 16
  | .rdecl _ _ _ _ => 4096 ≤ bits (s.scal i .D).toNat 0 16
  | _ => false

/-- The checks 3 to 8 of R60, by the trap they raise. A disagreement without UNICHK is no trap. -/
def State.checks (s : State) (i : Instr) : Option TrapInfo :=
  let cx := s.ctxOf s.cur.g
  match i.staticCheck with
  | some 3 => some (plainTrap cILLEGAL 0x03)
  | some 4 => some (plainTrap cILLEGAL 0x04)
  | st =>
    if s.objectBad i then some (plainTrap cILLEGAL 0x04)
    else if st.isSome || !i.countOk (s.grp s.cur.g).nregs then some (plainTrap cILLEGAL 0x05)
    else
      match s.privSub i with
      | some d => some (plainTrap cPRIVILEGE d)
      | none =>
        if cx.sbchk.getLsbD 0 && !s.cur.replay && s.uncovered i then some (plainTrap cSTALLCHK 0x00)
        else if cx.unichk.getLsbD 0 && s.disagree i then some (plainTrap cUNIFORM 0x00)
        else none


/-- What a consumer mask checks before any consumer receives anything: the buffer before the neighbours, where both checks fail (R49, R242;
DESIGN CHOICE, log entry 61). -/
def State.consumerFault (s : State) (i : Instr) : Option TrapInfo :=
  if !i.rt || s.cur.res.isSome then none
  else
    let d := i.consumers
    let b := (s.crewOf s.cur.g).buf i.rawX
    let lost := (List.range 4).filter fun k => d.getLsbD (k + 2) && (s.neighbourIn (s.partNo s.cur.g) (s.quadOf s.cur.g) k).isNone
    if d.getLsbD 1 && b.cap == 0 then some (plainTrap cENGINE 0x12)
    else if d.getLsbD 1 && (b.pside != .groups || b.hin != 0 || 256 < b.elem) then some (plainTrap cENGINE 0x13)
    else if !lost.isEmpty then some (addrTrap cNOLINK 0x00 (BitVec.ofNat 64 ((lost.map fun k => 2 ^ (k + 2)).sum)))
    else none

/-! ## Waiting -/

/-- The unit waits for its lanes: it becomes a wait of the group, with the parts that have been performed marked (R226, R318). -/
def State.await (s : State) (i : Instr) (rdone : Bool) : State :=
  let u := s.unitRec i
  s.modGrp s.cur.g fun gr => { gr with waits := gr.waits ++ [{ u with iss := { u.iss with rdone := rdone, late := true } }] }

/-! ## Results -/

/-- The consumers of a mask that have still to accept (R49). -/
def pendingConsumers (d dlv : BitVec 6) : List Nat := (List.range 6).filter fun c => d.getLsbD c && !dlv.getLsbD c

/-- One consumer other than the register tried (R49). -/
def State.offer (s : State) (g x c : Nat) (img : Img) : State × Bool :=
  match s.accepts g x c with
  | some (cr, b) => (s.appendImg cr b img, true)
  | none => (s, false)

/-- A unit's result image is on its way to its consumers: the group stalls at the unit until each of them has accepted (R49). -/
def State.deliverRec (s : State) (u : UnitRec) (img : Img) (dlv : BitVec 6) : State :=
  if (pendingConsumers u.instr.consumers dlv).isEmpty then s
  else s.modGrp s.cur.g fun gr => { gr with waits := gr.waits ++ [{ u with iss := { u.iss with res := some img, dlv := dlv, late := true } }] }
def State.deliver (s : State) (i : Instr) (img : Img) (dlv : BitVec 6) : State := s.deliverRec (s.unitRec i) img dlv

/-- The result image of an entry given to the consumers that lack it; the register, where it is one of them, is written now (R318,
R322). -/
def State.redeliver (s : State) (i : Instr) (img : Img) : State :=
  if i.consumers.getLsbD 0 && !s.cur.dlv.getLsbD 0 then
    (s.writeReg s.cur.g i.c ⟨laneBits s.cur.lanes, img⟩).deliver i img (s.cur.dlv ||| 1)
  else s.deliver i img s.cur.dlv

/-- A pending write put at the end, but a uniform one before the lane writes to the same register of its own cycle (R130). -/
def addPending (fix : List Pending) (p : Pending) : List Pending :=
  let after (q : Pending) : Bool := p.uni && !q.uni && q.dest == p.dest && q.issued == p.issued
  fix.takeWhile (fun q => !after q) ++ p :: fix.dropWhile fun q => !after q

/-- The pending write of the unit being issued: readable after its latency, a cycle later for the second of a pair (R50, R54). -/
def State.pend (s : State) (i : Instr) (lat : Nat) (d : Dest) (en val : Img) (last : Lanes) (fl : List (Nat × BitVec 5)) : Pending :=
  { dest := d, en := en, val := val, last := last, seq := s.cur.seq, avail := s.now + s.cur.second.toNat + lat + 1, issued := s.now,
    uni := decide (i.uniOp < 0x400), full := none, flags := fl }

/-- A result for a register or for the consumers of a mask, with the flags of its lanes: performed after the latency, or at once for
a unit of variable latency (R45, R49 to R52, R72). `lanes` are the lanes that completed. The image that the consumers receive is
merged into the register consumer, or into zeros where no register is named (log entries 10 and 56). -/
def State.finishWith (s : State) (i : Instr) (spec : BitVec 6) (r : Result) (lanes : Lanes) (fl : List (Nat × BitVec 5)) : State :=
  if lanes == 0 then s
  else
    let g := s.cur.g
    let gr := s.grp g
    let spec := if i.rt then (if i.consumers.getLsbD 0 then i.c else 58) else spec
    let img := if spec.toNat < 56 then blend r.en r.val (gr.after spec gr.fix) else r.val &&& r.en
    match i.latency with
    | some lat =>
      let p := s.pend i lat (.reg spec) r.en r.val (if i.laneOp < 0x400 then lanes else 0) fl
      let s := s.modGrp g fun gr => { gr with fix := addPending gr.fix p }
      if i.rt then s.deliver i img s.cur.dlv else s
    | none =>
      let t := (if fl.isEmpty then s else s.modGrp g fun gr => gr.addFlags fl).writeReg g spec r
      if i.rt then t.deliverRec (s.unitRec i) img (if i.consumers.getLsbD 0 then s.cur.dlv ||| 1 else s.cur.dlv) else t

/-- A result without flags. -/
def State.finish (s : State) (i : Instr) (spec : BitVec 6) (r : Result) (lanes : Lanes) : State := s.finishWith i spec r lanes []

/-- A result for a mask register (R52, R122), with the flags of its lanes. -/
def State.finishMask (s : State) (i : Instr) (k : Nat) (r : Mask × Mask) (fl : List (Nat × BitVec 5)) : State :=
  match i.latency with
  | some lat => s.modGrp s.cur.g fun gr => { gr with fix := gr.fix ++ [s.pend i lat (.mask k) (r.1.zeroExtend 2048) (r.2.zeroExtend 2048) 0 fl] }
  | none => s.modGrp s.cur.g fun gr => gr.setMask k r.1 r.2

/-! ## Pipes that stay occupied (R145, R147) -/

/-- The lane set of a slot of a core, numbered in the package (R355). -/
def Group.laneSet (gr : Group) : Nat := 2 * gr.core + gr.slot % 2

/-- Cycles for which a unit occupies the cross-lane network (R147); 0 for none. -/
def netCycles (i : Instr) : Nat :=
  match i with
  | .shfl _ _ _ _ _ | .bcast _ _ _ _ _ | .redl _ _ _ _ | .scan _ _ _ _ _ => 1
  | .rixG _ _ _ _ _ | .rixS _ _ _ _ _ => rixRun i.x
  | .redmi _ _ _ _ _ => 2
  | .cfd _ _ _ _ => 64 / i.width
  | .comb _ _ _ _ _ => 64 / i.width + 1
  | _ => 0

/-- Cycles for which a `tmv` occupies the vector pipe: a pass for each distinct offset (R145). -/
def State.tmvCycles (s : State) (i : Instr) : Nat :=
  let o := s.src i .B
  let offs := (lanesOf s.cur.lanes).foldl (fun acc l => addNo (laneOf o l).toNat acc) []
  tmvM i.x * tmvN i.x / 2 * offs.length

/-- A pipe of a lane set occupied for some cycles more, behind what occupies it already. -/
def State.occupyPipe (s : State) (vector : Bool) (n : Nat) : State :=
  let ls := (s.grp s.cur.g).laneSet
  let live := s.busy.filter fun b => decide (s.now < b.till)
  let at_ := (live.filter fun b => b.laneSet == ls && b.vector == vector).foldl (fun m b => max m b.till) s.now
  { s with busy := ⟨ls, vector, s.cur.g, at_ + n⟩ :: live }

/-- What the unit being issued occupies. -/
def State.occupy (s : State) (i : Instr) : State :=
  if s.cur.late then s
  else if netCycles i != 0 then s.occupyPipe false (netCycles i)
  else match i with | .tmv _ _ _ _ _ => s.occupyPipe true (s.tmvCycles i) | _ => s

/-! ## Issue -/

/-- The instruction counts toward its crew's reuse clock, once per issue (R169). A unit that `rett` performs counts as issued now; one that is
performed later than it issued has been counted (log entry 24). -/
def State.countIssue (s : State) (i : Instr) : State :=
  if !i.countsReuse || s.cur.late then s
  else
    s.modCrew (s.grp s.cur.g).crew fun c =>
      if c.clkIssues == 31 then
        { c with clkIssues := 0, clk := c.clk + 1#64, paceDue := c.paceDue || ((c.clk + 1#64).toNat % 256 == 0) }
      else { c with clkIssues := c.clkIssues + 1 }

/-- The registers as the unit finds them, with due writes performed; a unit that issues is numbered in the order of issue and notes the
cycle, its FPMODE and the clocks of its stamps (R69, R170). An entry to be performed keeps its place in that order. -/
def State.begin (s : State) (_ : Instr) : State :=
  let s := s.settle s.cur.g
  if s.cur.late then s
  else
    let gr := s.grp s.cur.g
    { s with
      cur := { s.cur with
        seq := if s.cur.seq == 0 then s.seq + 1 else s.cur.seq, cycle := s.now, fp := gr.fpmode, clk := s.clock gr.crew
        low := some s.cur.lowLane }
      seq := s.seq + 1 }

/-- What the checks make of a unit. -/
inductive Gate where
  /-- The lanes of a continuation wait at a fork boundary (R104). -/
  | boundary
  /-- A check fails. -/
  | trap (t : TrapInfo)
  | pass
deriving DecidableEq, Repr

/-- The gate of a unit, in the order of R104, R60 and R49. A unit whose issue still goes on has passed it, and one of which only register writes
are left makes no check again (R318, R322). -/
def State.gate (s : State) (i : Instr) : Gate :=
  if s.cur.late || s.cur.regOnly then .pass
  else if (s.grp s.cur.g).shadow.isSome && i.isBoundary then .boundary
  else
    match s.checks i with
    | some t => .trap t
    | none =>
      match s.consumerFault i with
      | some t => .trap t
      | none => if (s.grp s.cur.g).shadow.isSome && s.accessStops i then .boundary else .pass

/-- What every unit does on passing its gate: a disagreement is recorded, counters move, the issue is counted, pipes are occupied. -/
def State.passed (s : State) (i : Instr) : State :=
  let s := if !s.cur.late && s.disagree i then s.addDisagree s.cur.g s.cur.lanes s.cur.addr else s
  ((s.advance i).countIssue i).occupy i

/-- A unit is issued: gate, advance, and then its effect, which sees the state with the counters moved. A unit that moves counters
and fails a check leaves them (R84). -/
def State.issue (s : State) (i : Instr) (body : State → Out) : Out :=
  let s := s.begin i
  match s.gate i with
  | .boundary => .next (s.holdBoundary s.cur.lanes)
  | .trap t => .next ((if movesCounters i then s else s.advance i).fault i s.cur.lanes t true)
  | .pass =>
    let s := s.passed i
    match s.cur.res with
    | some img => .next (s.redeliver i img)
    | none => body s

/-! ## Words that are no instruction (R60) -/

/-- A word whose bad fields are mended: the low field cleared, or made the size of an atomic; then the fields above it, and D last. -/
def mended (w : BitVec 32) : List (BitVec 32) :=
  [w &&& ~~~0x3F#32, (w &&& ~~~0x3#32) ||| 2#32, w &&& ~~~0x38000#32, w &&& ~~~0x3803F#32, w &&& ~~~0x3FFFF#32]

/-- A prefix before a word with a bad field is misused as well: check 3 comes before check 4 (R60). The prefix is judged before the
first mended word that decodes. -/
def alsoMisused (m : OpMap) (w pword : BitVec 32) : Bool :=
  let seen := (mended w).findSome? fun v =>
    match decodeWords m pword.toNat (some v.toNat) with
    | .ok i => some i.pfxMisuse
    | .error .prefixMisuse => some true
    | .error _ => none
  pword != 0 && seen.getD false

/-- The trap of a word that is no instruction (R60, checks 2 to 4). -/
def decodeTrap (m : OpMap) (w pword : BitVec 32) (e : DecodeErr) : TrapInfo :=
  match e with
  | .unmapped => plainTrap cILLEGAL 0x02
  | .prefixMisuse => plainTrap cILLEGAL 0x03
  | .field => plainTrap cILLEGAL (if alsoMisused m w pword then 0x03 else 0x04)
  | .short => plainTrap cILLEGAL 0x02

/-- The words of a unit, its prefix first, as the decoder reads them. -/
def decodeUnit (m : OpMap) (w pword : BitVec 32) : Except DecodeErr Instr :=
  if pword == 0 then decodeWords m w.toNat none else decodeWords m pword.toNat (some w.toNat)

/-! ## The return from a trap (R322) -/

/-- The frame of a group is released when no lane remains in the handler (R86, R97, R322). -/
def State.releaseFrame (s : State) (g : Nat) : State :=
  s.modGrp g fun gr => if (List.range 32).any fun l => (gr.lane l).inHandler then gr else { gr with save := none }

/-- An n-byte number at an offset of a frame whose sectors were read. -/
def frameNum (secs : List (Nat × Nat)) (off n : Nat) : Nat := bits ((look secs (off / 32)).getD 0) (8 * (off % 32)) (8 * n)

/-- An image at an offset of such a frame. -/
def frameImg (secs : List (Nat × Nat)) (off : Nat) : Img := build 256 fun k => (look secs (off / 32 + k)).getD 0

/-- NREP of a frame, and NIMG of an entry, as they stand in memory, at most the numbers that a frame has room for (R320, R321). -/
def frameNREP (secs : List (Nat × Nat)) : Nat := min (bits (frameNum secs 0 8) 20 4) 8
def frameNIMG (secs : List (Nat × Nat)) (i : Nat) : Nat := min (bits (frameNum secs (0x1000 * (i + 1) + 0x10) 8) 40 4) 12

/-- The sectors of a frame that `rett` reads first: the header, then the fields of its entries, then their images. -/
def headerSecs : List Nat := List.range 40
def fieldSecs (n : Nat) : List Nat := (List.range n).flatMap fun i => (List.range 3).map fun k => 128 * (i + 1) + k
def imageSecs (secs : List (Nat × Nat)) (n : Nat) : List Nat :=
  (List.range n).flatMap fun i => (List.range (8 * frameNIMG secs i)).map fun k => 128 * (i + 1) + 8 + k

/-- Entry i of a frame as it stands in memory, for the returning lanes: `none` where the handler has set SKIP (R321, R322). Words that
the handler has not changed keep their decoded form; others are decoded by the context's table. `seq` is its place in the order of issue. -/
def frameEntry (m : OpMap) (secs : List (Nat × Nat)) (r : Lanes) (g i seq : Nat) (saved : Option UnitRec) : Option UnitRec :=
  let e := 0x1000 * (i + 1)
  let w := frameNum secs (e + 0x10) 8
  let ls := BitVec.ofNat 32 w &&& r
  if bitAt w 33 || ls == 0 then none
  else
    let word := BitVec.ofNat 32 (frameNum secs e 4)
    let pword := BitVec.ofNat 32 (frameNum secs (e + 4) 4)
    let imgs := (List.range (frameNIMG secs i)).map fun j => frameImg secs (e + 0x100 + 0x100 * j)
    let give (instr : Instr) (bad : Option TrapInfo) : UnitRec :=
      let n := instr.reads.length
      { instr := instr, bad := bad, illegal := bad.isSome
        iss := { Issue.idle with
          g := g, lanes := ls, seq := seq, addr := BitVec.ofNat 64 (frameNum secs (e + 8) 8), word := word, pword := pword, replay := true
          imgs := imgs.take n
          res := if instr.rt && n < imgs.length then imgs.getLast? else none
          kimg := BitVec.ofNat 256 ((look secs ((e + 0x20) / 32)).getD 0)
          simg := BitVec.ofNat 256 ((look secs ((e + 0x40) / 32)).getD 0)
          rdone := bitAt w 32
          dlv := BitVec.ofNat 6 (w / 2 ^ 34)
          regOnly := movesCounters instr } }
    match saved with
    | some u =>
      if u.iss.word == word && u.iss.pword == pword then some (give u.instr u.bad)
      else match decodeUnit m word pword with | .ok x => some (give x none) | .error k => some (give (.nop 0) (some (decodeTrap m word pword k)))
    | none => match decodeUnit m word pword with | .ok x => some (give x none) | .error k => some (give (.nop 0) (some (decodeTrap m word pword k)))

/-- The lanes take back what the frame saved, and its entries are to be performed next (R322). -/
def State.restore (s : State) (g : Nat) (f : SaveSlot) (h : Lanes) (secs : List (Nat × Nat)) : State :=
  let s := s.flush g
  let r := h &&& BitVec.ofNat 32 (frameNum secs 0x10 8)
  let at_ (base : Nat) : Img := ofLanes fun l => BitVec.ofNat 64 (frameNum secs (base + 8 * l) 8)
  let s := s.modGrp g fun gr =>
    let gr := if gr.nregs == 48 then gr.setReg 47 (laneBits r) (at_ 0x200) else gr
    { gr with la := blend (laneBits r) (at_ 0x300) gr.la, lb := blend (laneBits r) (at_ 0x400) gr.lb
              laSeq := gr.laSeq.mapIdx fun l q => if r.getLsbD l then s.seq else q
              lbSeq := gr.lbSeq.mapIdx fun l q => if r.getLsbD l then s.seq else q }
  let s := s.modLanes g r fun l x => { x with mode := .running, pc := BitVec.ofNat 64 (frameNum secs (0x100 + 8 * l) 8) }
  let ents := (List.range (frameNREP secs)).filterMap fun i => frameEntry (s.ctxOf g).opMap secs r g i (s.seq + 1 + i) f.units[i]?
  { s with issueQ := ents ++ s.issueQ, seq := s.seq + 8 }.releaseFrame g

/-- Sectors of a frame read for handler lanes: a fault of the read, an address without memory, or the sectors (R322). -/
inductive FrameRead where
  | trap (t : TrapInfo)
  | void (pa : Nat)
  | got (s : State) (secs : List (Nat × Nat))

def State.readFrame (s : State) (g : Nat) (h : Lanes) (fa : Word) (ks : List Nat) : FrameRead :=
  let elts : List Elt := ks.map fun k => ⟨k, lowest h, (fa.toNat + 32 * k) % 2 ^ 64, 0⟩
  let a := s.agent g
  let p := s.plan a .load 256 elts
  match p.void, p.trap with
  | some pa, _ => .void pa
  | none, some t => .trap t
  | none, none => let q := s.loadElts a 32 15 elts; .got q.1 q.2

/-- The stages of the reading: each list of sectors by what has been read before it. -/
def State.readStages (s : State) (g : Nat) (h : Lanes) (fa : Word) : List (List (Nat × Nat) → List Nat) → List (Nat × Nat) → FrameRead
  | [], secs => .got s secs
  | f :: t, secs =>
    match s.readFrame g h fa (f secs) with
    | .got s' new => s'.readStages g h fa t (secs ++ new)
    | r => r

/-- The return from a trap of handler lanes: every field is read as it stands in memory; a frame that cannot be read raises the fault of
the read, and the group dies (R321, R322, R325). -/
def State.returnTrap (s : State) (i : Instr) (h : Lanes) : Out :=
  let g := s.cur.g
  match (s.grp g).save with
  | none => .next s
  | some f =>
    match s.readStages g h f.fa [fun _ => headerSecs, fun q => fieldSecs (frameNREP q), fun q => imageSecs q (frameNREP q)] [] with
    | .void pa => .fault (.noDram pa)
    | .trap t => .next (s.fault i h t false)
    | .got s secs => .next (s.restore g f h secs)

/-! ## Held traps (R86) -/

/-- Units of several lanes joined again where they are one unit. -/
def joinUnits (us : List UnitRec) : List UnitRec :=
  us.foldl (fun acc u =>
    if acc.any fun v => v.iss.seq == u.iss.seq then
      acc.map fun v => if v.iss.seq == u.iss.seq then { v with iss := { v.iss with lanes := v.iss.lanes ||| u.iss.lanes } } else v
    else acc ++ [u]) []

/-- The held lanes at the lowest held word. -/
def Group.heldNext (gr : Group) : List Nat :=
  match leastBy (fun l => (gr.lane l).pc.toNat) (lanesOf (gr.inMode .held)) with
  | none => []
  | some l0 => (lanesOf (gr.inMode .held)).filter fun l => (gr.lane l).pc == (gr.lane l0).pc

/-- The next held trap can be taken. -/
def Group.heldReady (gr : Group) : Bool := gr.place == .resident && !gr.handlerBusy && !gr.heldNext.isEmpty

/-- The lanes held at the lowest word take their trap together, with a fresh frame (R86). -/
def State.takeHeld (s : State) (g : Nat) : State :=
  let gr := s.grp g
  let ls := gr.heldNext
  match ls with
  | [] => s
  | l :: _ =>
    match (gr.lane l).held with
    | none => s
    | some h =>
      let ents := joinUnits (ls.flatMap fun m => match (gr.lane m).held with | some x => x.ents | none => [])
      let set := lanesWhere fun m => ls.contains m
      let s := s.modLanes g set fun _ x => match x.held with | some y => { x with pc := y.resume } | none => x
      s.enterTrap g set h.trap (sortBy (fun u : UnitRec => u.iss.seq) ents) h.word h.pword h.addr

/-! ## Leaving a core and coming back (R309, R324) -/

/-- What a group takes with it when it is evicted: pending writes performed, continuations squashed, unfinished units kept with its
state (R112, R309, R324). -/
def State.saveGroup (s : State) (g : Nat) : State :=
  let s := (s.flush g).squashAll g
  let s := (s.flushHeld g).completeDecided g allLanes
  let (s, ents) := s.withdrawUnits g allLanes []
  (s.modGrp g fun gr => { gr with savedUnits := ents, preempt := none, place := .evicted }).modCrew (s.grp g).crew
    fun c => { c with paceSeen := true }

/-- The saved units are performed before the group's first issue (R324). -/
def State.resumeGroup (s : State) (g : Nat) : State :=
  let us := (s.grp g).savedUnits
  let s := { s with issueQ := s.issueQ ++ us }
  s.modGrp g fun gr => { gr with savedUnits := [], place := .resident }

end Sys2Proof.Machine
end

