-- ==== Sys2Proof/Machine/Memory.lean ====
section
/-! DEFINITION. The memory-access instructions: sweeps, uniform accesses, prefetch and pins (R157 to R166, R175), and what a
continuation makes of them (R103). Space 0 is device memory, 1 the crew's scratchpad window, 2 the quad's constant store. -/

namespace Sys2Proof.Machine

/-! ## Sweeps (R160, R161, R164) -/

/-- ALIGN for all active lanes (R160, R165). -/
def State.misaligned (s : State) (i : Instr) (addr : Nat) : Out :=
  .next (s.fault i s.cur.lanes (addrTrap cALIGN 0x00 (BitVec.ofNat 64 addr)) false)

/-- The sectors of a sweep that are accessed now: all of them, but for a unit that completes later than it issues, which may complete in
parts (R162). Elements in a declared region are taken together, in their order (R201). -/
def State.sectorsNow (s : State) (space : Nat) (a : Agent) (good : List Elt) : State × List Nat :=
  let secs := sectorsOf good
  if !s.cur.late || (space == 0 && good.any fun x => ((s.ctx a.ctx).regionAt x.va).isSome) then (s, secs)
  else
    let (m, s) := s.popSplit
    (s, picked m secs)

/-- A load sweep (R164). -/
def State.loadSweep (s : State) (i : Instr) (d : BitVec 6) (space unit nud : Nat) : Out :=
  let base := s.sweepBase i unit
  if base % unit != 0 then s.misaligned i base
  else
    let a := s.unitAgent
    let eb := i.eb
    let elts := s.sweep i base 0
    let p := s.planSpace a space .load eb elts
    match p.void with
    | some pa => .fault (.noDram pa)
    | none =>
      if (s.grp s.cur.g).shadow.isSome then
        let stop := s.forkStops a space .load eb s.cur.lanes elts p
        let ok := s.cur.lanes &&& ~~~stop
        let (t, vals) := s.loadFork a space eb nud (elts.filter fun x => !stop.getLsbD x.lane)
        let t := (lanesOf ok).foldl (fun t l => t.noteLoad a.g l space eb (ofLane elts l)) t
        .next ((t.finish i d (t.loaded i ok vals) ok).holdBoundary stop)
      else
        let unitRec := s.unitRec i
        let ok := s.cur.lanes &&& ~~~p.bad
        let (s, now) := s.sectorsNow space a p.good
        let (s, vals) := s.loadSpace a space eb nud (inSectors now p.good)
        let rest := (sectorsOf p.good).filter fun n => !now.contains n
        let s :=
          if rest.isEmpty then s.finish i d (s.loaded i ok vals) ok
          else s.keepUnit { unitRec with iss := { unitRec.iss with lanes := ok, left := some rest, got := vals } }
        .next (s.faultRec unitRec p.bad p.trap)

/-- A store sweep (R164). -/
def State.storeSweep (s : State) (i : Instr) (space unit nud : Nat) : Out :=
  let base := s.sweepBase i unit
  if base % unit != 0 then s.misaligned i base
  else
    let a := s.unitAgent
    let eb := i.eb
    let elts := s.sweep i base (s.src i .D)
    let p := s.planSpace a space .store eb elts
    match p.void with
    | some pa => .fault (.noDram pa)
    | none =>
      if (s.grp s.cur.g).shadow.isSome then
        let stop := s.forkStops a space .store eb s.cur.lanes elts p
        let t := (lanesOf (s.cur.lanes &&& ~~~stop)).foldl (fun t l => t.holdStore a.g l space eb nud (ofLane elts l)) s
        .next (t.holdBoundary stop)
      else
        let unitRec := s.unitRec i
        let ok := s.cur.lanes &&& ~~~p.bad
        let s := if s.cur.late then s else s.joinStore a.g space eb s.cur.lanes elts
        let (s, now) := s.sectorsNow space a p.good
        let s := s.storeSpace a space eb nud (inSectors now p.good)
        let rest := (sectorsOf p.good).filter fun n => !now.contains n
        let s := if rest.isEmpty then s else s.keepUnit { unitRec with iss := { unitRec.iss with lanes := ok, left := some rest } }
        .next (s.faultRec unitRec p.bad p.trap)

def execLd (pf : Option Pfx) (sc : BitVec 3) (d a : BitVec 6) (n : BitVec 4) (z : BitVec 2) (s : State) : Out :=
  let i : Instr := .ld pf sc d a n z
  s.issue i fun s => s.loadSweep i d 0 i.eb n.toNat

def execSt (pf : Option Pfx) (sc : BitVec 3) (d a : BitVec 6) (n : BitVec 4) (z : BitVec 2) (s : State) : Out :=
  let i : Instr := .st pf sc d a n z
  s.issue i fun s => s.storeSweep i 0 i.eb n.toNat

/-- `ldl`: the displacement counts lines, and the sweep starts at a line. -/
def execLdl (pf : Option Pfx) (sc : BitVec 3) (d a : BitVec 6) (n : BitVec 4) (z : BitVec 2) (s : State) : Out :=
  let i : Instr := .ldl pf sc d a n z
  s.issue i fun s => s.loadSweep i d 0 256 n.toNat

def execLds (pf : Option Pfx) (sc : BitVec 3) (d a : BitVec 6) (z : BitVec 2) (s : State) : Out :=
  let i : Instr := .lds pf sc d a z
  s.issue i fun s => s.loadSweep i d 1 i.eb 0

def execSts (pf : Option Pfx) (sc : BitVec 3) (d a : BitVec 6) (z : BitVec 2) (s : State) : Out :=
  let i : Instr := .sts pf sc d a z
  s.issue i fun s => s.storeSweep i 1 i.eb 0

def execLdc (pf : Option Pfx) (sc : BitVec 3) (d a : BitVec 6) (z : BitVec 2) (s : State) : Out :=
  let i : Instr := .ldc pf sc d a z
  s.issue i fun s => s.loadSweep i d 2 i.eb 0

/-! ## Prefetch (R166) -/

/-- The elements whose lines a prefetch brings in: translated, cached, in no region, with a home that answers. -/
def State.prefetches (s : State) (a : Agent) (elts : List Elt) : List Elt :=
  let t := s.lineTable a .load elts
  elts.filter fun x =>
    ((s.ctx a.ctx).regionAt x.va).isNone &&
      (match reachIn t x.va with | .ok y => !y.host && y.attr != 2 && !s.lostHome a.part y.pa | _ => false)

def execPrf (pf : Option Pfx) (sc : BitVec 3) (a : BitVec 6) (n : BitVec 4) (z : BitVec 2) (s : State) : Out :=
  let i : Instr := .prf pf sc a n z
  s.issue i fun s =>
    let base := s.sweepBase i i.eb
    if base % i.eb != 0 then s.misaligned i base
    else
      let ag := s.unitAgent
      let elts := s.prefetches ag (s.sweep i base 0)
      let t := s.lineTable ag .load elts
      .next ((eltLines elts).foldl (fun s ln =>
        match reachIn t (256 * ln) with
        | .ok x => (s.fillTlb ag.quad ag.ctx (256 * ln)).touchBoth ag.quad ag.part ag.ctx ag.clk n.toNat x
        | _ => s) s)

/-! ## Uniform accesses (R157, R165) -/

/-- A fault of a uniform access, taken by all active lanes; its address is the whole of A. -/
def State.uniFault (s : State) (i : Instr) (t : TrapInfo) : Out :=
  .next (s.fault i s.cur.lanes { t with faddr := s.scal i .A } false)

/-- `sld`. In a continuation each active lane sees its own held stores (R103). An address that is both misaligned and in no listed space raises ALIGN (DESIGN CHOICE, log entry 40). -/
def execSld (sc : BitVec 3) (d a : BitVec 6) (n : BitVec 4) (z : BitVec 2) (s : State) : Out :=
  let i : Instr := .sld sc d a n z
  s.issue i fun s =>
    let addr := s.scal i .A
    let eb := 2 ^ z.toNat
    if addr.toNat % eb != 0 then s.misaligned i addr.toNat
    else
      match spaceOf addr with
      | none => s.uniFault i (plainTrap cPROT 0x04)
      | some sp =>
        let ag := s.unitAgent
        let x := s.uniElt addr 0
        let p := s.planSpace ag sp .load eb [x]
        let word (vals : List (Nat × Nat)) : Word := BitVec.ofNat 64 ((look vals 0).getD 0)
        match p.void, p.trap with
        | some pa, _ => .fault (.noDram pa)
        | none, some t => s.uniFault i t
        | none, none =>
          if (s.grp s.cur.g).shadow.isSome then
            let (t, vals) := if s.uniServed ag.g sp eb x then (s, [(0, 0)]) else s.loadSpace ag sp eb n.toNat [x]
            let own (l : Nat) : Word := BitVec.ofNat 64 (s.overlay (s.forkChain ag.g l) sp eb { x with lane := l } (word vals).toNat)
            let r := ofLanes fun l => own (if s.cur.lanes.getLsbD l then l else lowest s.cur.lanes)
            .next ((t.noteUniLoad ag.g sp eb x).writeReg s.cur.g d ⟨BitVec.allOnes 2048, r⟩)
          else
            let (s, vals) := s.loadSpace ag sp eb n.toNat [x]
            .next (s.writeReg s.cur.g d (uniResult (word vals)))

/-- `sst`, with the order of its checks as in `sld`. -/
def execSst (sc : BitVec 3) (d a : BitVec 6) (n : BitVec 4) (z : BitVec 2) (s : State) : Out :=
  let i : Instr := .sst sc d a n z
  s.issue i fun s =>
    let addr := s.scal i .A
    let eb := 2 ^ z.toNat
    if addr.toNat % eb != 0 then s.misaligned i addr.toNat
    else
      match spaceOf addr with
      | none => s.uniFault i (plainTrap cPROT 0x04)
      | some sp =>
        let ag := s.unitAgent
        let x := s.uniElt addr (bits (s.scal i .D).toNat 0 (8 * eb))
        let p := s.planSpace ag sp .store eb [x]
        let each (s : State) (f : State → Nat → State) : State := (lanesOf s.cur.lanes).foldl f s
        match p.void, p.trap with
        | some pa, _ => .fault (.noDram pa)
        | none, some t => s.uniFault i t
        | none, none =>
          if (s.grp s.cur.g).shadow.isSome then .next (each s fun t l => t.holdStore ag.g l sp eb n.toNat [x])
          else
            let s := if s.cur.late then s else each s fun s l => s.joinWrites ag.g l (eltSectors sp eb [x])
            let u := s.unitRec i
            let (s, now) := s.sectorsNow sp ag [x]
            .next (if now.isEmpty then s.keepUnit { u with iss := { u.iss with left := some (sectorsOf [x]) } } else s.storeSpace ag sp eb n.toNat [x])

/-! ## Pins (R175) -/

/-- A level at which a line may be pinned: its cache, its set, how many ways of a set may be pinned, the context's limit. -/
structure PinLevel where
  cache : Nat
  set : Nat
  most : Nat
  limit : Nat
  l1 : Bool
deriving DecidableEq, Repr

/-- A slice number that no slice has: host memory has no home slice, and no set or limit there to refuse a pin (R187). -/
def noSlice : Nat := 384

/-- The levels that SZ names, the L2 before the L1. -/
def State.pinLevels (s : State) (a : Agent) (x : Xl) (z : BitVec 2) : List PinLevel :=
  let q := (s.ctx a.ctx).pinq.toNat
  let (sl, st) := s.homeSlice a.part x.pa
  (if z != 1 then [if x.host then ⟨noSlice, 0, 12, 1, false⟩ else ⟨sl, st, 12, bits q 16 16, false⟩] else []) ++
  (if z != 0 then [⟨a.quad, l1Set (lineOf x.pa), 6, bits q 0 16, true⟩] else [])

/-- Pinned ways of a set, and lines that a context holds pinned in a cache (R174, R175). -/
def State.pinnedWays (s : State) (cache set : Nat) : Nat := (s.cache.filter fun y => y.cache == cache && y.set == set && y.pins != 0).length
def State.pinnedLines (s : State) (cache ctx : Nat) : Nat :=
  ((s.cache.filter fun y => y.cache == cache && y.pins != 0 && y.pinCtx == ctx).foldl (fun acc y =>
    if acc.contains (y.part, y.line) then acc else (y.part, y.line) :: acc) ([] : List (Nat × Nat))).length

/-- The refusal of `pin` at a level, 0 for none, in the order of the table: a full set or limit refuses a line that the context has pinned
there already as well (R175; log entry 44). -/
def State.pinRefusal (s : State) (a : Agent) (x : Xl) (v : PinLevel) : Nat :=
  let c := s.copyIn v.cache (cachePart a.part x) (lineOf x.pa)
  let count := match c with | some c => c.pins | none => 0
  let other := match c with | some c => c.pins != 0 && c.pinCtx != a.ctx | none => false
  if v.most ≤ s.pinnedWays v.cache v.set then 1
  else if v.limit ≤ s.pinnedLines v.cache a.ctx then 2
  else if x.attr == 2 || x.host then 3
  else if other then 4
  else if count == 255 then 5
  else if c.isNone && (s.pickWay v.cache v.set a.ctx).isNone then 7
  else 0

/-- The refusal of `unpin` at a level. -/
def State.unpinRefusal (s : State) (a : Agent) (x : Xl) (v : PinLevel) : Nat :=
  match s.copyIn v.cache (cachePart a.part x) (lineOf x.pa) with
  | some c => if c.pins != 0 && c.pinCtx == a.ctx then 0 else 6
  | none => 6

/-- The status of the first level that refuses, with bit 8 for the L1; 0 where none does. -/
def firstRefusal (f : PinLevel → Nat) (vs : List PinLevel) : Nat :=
  match vs.find? fun v => f v != 0 with
  | some v => f v + (if v.l1 then 256 else 0)
  | none => 0

/-- A level's copy of a line changed. -/
def State.modCopy (s : State) (cache part line : Nat) (f : CLine → CLine) : State :=
  match s.copyIn cache part line with
  | some c => { s with cache := s.cache.map fun y => if y.same c then f y else y }
  | none => s

/-- A line without data whose last pin has gone frees its way. -/
def CLine.hollow (c : CLine) : Bool :=
  c.pins == 0 && (match c.kind with | .dt .I => decide (c.cache < 256) | .si _ _ false => true | _ => false)

/-- The line is fetched where it is absent, stamped as NUD 15, and pinned at every level. -/
def State.pinLine (s : State) (a : Agent) (x : Xl) (vs : List PinLevel) : State :=
  let line := lineOf x.pa
  let s := if !vs.any PinLevel.l1 then s.touchL2 a.part line (a.clk.stamp a.ctx 15 false)
    else if vs.all PinLevel.l1 then s.touch a.quad a.part a.ctx a.clk 15 x false false
    else s.touchBoth a.quad a.part a.ctx a.clk 15 x
  vs.foldl (fun s v => s.modCopy v.cache a.part line fun c => { c with pins := c.pins + 1, pinCtx := a.ctx }) s

def State.unpinLine (s : State) (a : Agent) (x : Xl) (vs : List PinLevel) : State :=
  let s := vs.foldl (fun s v => s.modCopy v.cache a.part (lineOf x.pa) fun c => { c with pins := c.pins - 1 }) s
  { s with cache := s.cache.filter fun c => !c.hollow }

/-- The virtual address of a pin. -/
def State.pinAddr (s : State) (i : Instr) : Nat := s.sweepBase i 256

/-- What `pin` raises as an access of the line: its room, a lost home, a mark of another crew on one of its sectors (R175, R194, R222) (log entry 26). -/
def State.pinFault (s : State) (a : Agent) (va : Nat) (x : Xl) : Option (BitVec 8 × BitVec 8) :=
  match (s.ctx a.ctx).regionAt va with
  | some (r, reg) =>
    match (s.lane a.g (lowest s.cur.lanes)).holdOf r with
    | none => some (cROOMLESS, 0x01)
    | some m =>
      if reg.broken then some (cROOMBROKEN, 0x02)
      else if m == 1 || m == 2 || m == 3 then some (cROOMMODE, 0x07)
      else s.sectorFault a .load false va x
  | none =>
    let base := 256 * lineOf x.pa
    (List.range 8).findSome? fun n => s.sectorFault a .load true va { x with pa := base + 32 * n }

/-- The outcome of a pin instruction at its address: a status in D of every active lane, or a fault of all of them. -/
def State.pinOp (s : State) (i : Instr) (d : BitVec 6) (z : BitVec 2) (pin : Bool) : Out :=
  let a := s.unitAgent
  let va := s.pinAddr i
  let bad (c e : BitVec 8) : Out := .next (s.fault i s.cur.lanes (addrTrap c e (BitVec.ofNat 64 va)) false)
  let give (s : State) (st : Nat) : Out := .next (s.writeReg s.cur.g d (laneResult s.cur.lanes fun _ => BitVec.ofNat 64 st))
  match s.reachBy a .load va with
  | .void pa => .fault (.noDram pa)
  | .fault c e => bad c e
  | .ok x =>
    match if pin then s.pinFault a va x else none with
    | some (c, e) => bad c e
    | none =>
      let vs := s.pinLevels a x z
      let s := s.fillTlb a.quad a.ctx va
      let st := firstRefusal (if pin then s.pinRefusal a x else s.unpinRefusal a x) vs
      if st != 0 then give s st
      else give (if pin then s.pinLine a x vs else s.unpinLine a x vs) 0

def execPin (pf : Option Pfx) (sc : BitVec 3) (d a : BitVec 6) (z : BitVec 2) (s : State) : Out :=
  let i : Instr := .pin pf sc d a z
  s.issue i fun s => s.pinOp i d z true

def execUnpin (pf : Option Pfx) (sc : BitVec 3) (d a : BitVec 6) (z : BitVec 2) (s : State) : Out :=
  let i : Instr := .unpin pf sc d a z
  s.issue i fun s => s.pinOp i d z false

end Sys2Proof.Machine
end

