-- ==== Sys2Proof/Machine/Atomics.lean ====
section
/-! DEFINITION. The atomics `atom`, `acas` and `abinc` (R213, R214). -/

namespace Sys2Proof.Machine

/-- The value an `atom` of an operation writes over an old one (R213). -/
def atomOp (op w old v : Nat) : Nat :=
  let x := BitVec.ofNat w old
  let y := BitVec.ofNat w v
  match op with
  | 0 => (old + v) % 2 ^ w
  | 1 => if sext w old ≤ sext w v then old else v
  | 2 => if sext w old ≤ sext w v then v else old
  | 3 => min old v
  | 4 => max old v
  | 5 => (x &&& y).toNat
  | 6 => (x ||| y).toNat
  | 7 => (x ^^^ y).toNat
  | 8 => v
  | 9 => (fAdd 0 0 old v).code
  | 10 => fMinMax 0 false old v
  | _ => fMinMax 0 true old v

/-- The operation and the scope in X. -/
def atomOpOf (i : Instr) : Nat := i.x % 16
def atomScope (i : Instr) : Nat := i.x / 16

/-- Bytes read and written by an atomic, at its point of execution. -/
structure Atomic where
  /-- The new value of an element, if it is written: lane, old value. -/
  new : Nat → Nat → Option Nat
  /-- PCI Express has the operation (R187). -/
  host : Bool
  signed : Bool

/-- The line is brought to the point of execution (R183, R214). At the home of an SI line the quad's own copy is written back and
discarded first, so that R163 holds (log entry 12). -/
def State.atomicReach (s : State) (a : Agent) (scope nud : Nat) (x : Xl) : State :=
  let line := lineOf x.pa
  if x.attr == 2 then s.touch a.quad a.part a.ctx a.clk nud x true false
  else if scope ≤ 1 && !x.host then s.touch a.quad a.part a.ctx a.clk nud x true false
  else
    let s := if x.attr == 0 then s.invalidate (fun _ => true) a.part line
      else match s.siCopy a.quad (cachePart a.part x) line with
        | some (c, _, _) => s.flushCopy true c
        | none => s
    if x.host then s else s.touchL2 a.part line (a.clk.stamp a.ctx nud false)

/-- One element performed: the state after it, and the old value. -/
def State.atomicElt (s : State) (a : Agent) (op : Atomic) (scope nud eb : Nat) (x : Elt) (y : Xl) : State × Nat :=
  let s := (s.fillTlb a.quad a.ctx x.va).atomicReach a scope nud y
  let old := leNat (s.readBytes a.quad a.part y eb)
  match op.new x.lane old with
  | some v => ((s.writeBytes a.quad a.part y (leBytes eb v)).noteStale a x.va, old)
  | none => (s, old)

/-- The elements of an atomic: one for each enabled lane, in ascending order. -/
def State.atomicElts (s : State) (i : Instr) : List Elt :=
  ((lanesOf s.cur.lanes).filter fun l => s.takesPart i 64 l).map fun l => ⟨l, l, (s.srcLane i .A l).toNat, 0⟩

/-- An atomic of each enabled lane, in ascending order. -/
def State.atomics (s : State) (i : Instr) (d : BitVec 6) (nud : Nat) (op : Atomic) : Out :=
  let g := s.cur.g
  let ag := s.unitAgent
  let w := i.width
  let eb := w / 8
  let u := s.unitRec i
  let elts := s.atomicElts i
  let askew := elts.filter fun x => x.va % eb != 0
  let straight := elts.filter fun x => x.va % eb == 0
  let hostBad (x : Elt) : Bool := !op.host && s.lineHost ag (x.va / 256)
  let p := s.plan ag .atomic w (straight.filter fun x => !hostBad x)
  match p.void with
  | some pa => .fault (.noDram pa)
  | none =>
    let odd := askew.map (fun x => (x.lane, addrTrap cALIGN 0x00 (BitVec.ofNat 64 x.va))) ++
      (straight.filter hostBad).map (fun x => (x.lane, addrTrap cPROT 0x04 (BitVec.ofNat 64 x.va)))
    let planned := match p.trap with | some t => [(lowest p.bad, t)] | none => []
    let trap := (leastBy (fun q : Nat × TrapInfo => q.1) (odd ++ planned)).map (·.2)
    let bad := lanesWhere fun l => p.bad.getLsbD l || odd.any fun q => q.1 == l
    let t := s.lineTable ag .store p.good
    let (s', olds) := p.good.foldl (fun acc x =>
      match reachIn t x.va with
      | .ok y => let r := acc.1.atomicElt ag op (atomScope i) nud eb x y; (r.1, acc.2 ++ [(x.lane, r.2)])
      | _ => acc) (s, ([] : List (Nat × Nat)))
    let ok := s.cur.lanes &&& ~~~bad
    let ext (v : Nat) : Nat := if op.signed then wrap 64 (sext w v) else v
    let s' := s'.modGrp g fun gr => { gr with acks := gr.acks ++ List.replicate (!p.good.isEmpty).toNat s.cur.cycle }
    let s' := s'.acquireMarks g (lanesWhere fun l => (look olds l).isSome)
    let s' := s'.finish i d (s.result i 64 ok fun l => ext ((look olds l).getD 0)) ok
    .next (s'.faultRec u bad trap)

def execAtom (pf : Option Pfx) (sc : BitVec 3) (d a : BitVec 6) (n : BitVec 4) (z : BitVec 1) (s : State) : Out :=
  let i : Instr := .atom pf sc d a n z
  s.issue i fun s =>
    let op := atomOpOf i
    let w := i.width
    let v := s.src i .D
    let new (l old : Nat) : Option Nat := some (atomOp op w old (bits (laneOf v l).toNat 0 w))
    s.atomics i d n.toNat ⟨new, op == 0 || op == 8, op == 1 || op == 2⟩

def execAcas (pf : Option Pfx) (sc : BitVec 3) (d a : BitVec 6) (n : BitVec 4) (z : BitVec 1) (s : State) : Out :=
  let i : Instr := .acas pf sc d a n z
  s.issue i fun s =>
    let w := i.width
    let v := s.src i .D
    let c := s.src i .C
    let new (l old : Nat) : Option Nat := if old == bits (laneOf c l).toNat 0 w then some (bits (laneOf v l).toNat 0 w) else none
    s.atomics i d n.toNat ⟨new, true, false⟩

def execAbinc (pf : Option Pfx) (sc : BitVec 3) (d a : BitVec 6) (n : BitVec 4) (z : BitVec 1) (s : State) : Out :=
  let i : Instr := .abinc pf sc d a n z
  s.issue i fun s =>
    let w := i.width
    let v := s.src i .D
    let new (l old : Nat) : Option Nat := if old < bits (laneOf v l).toNat 0 w then some ((old + 1) % 2 ^ w) else none
    s.atomics i d n.toNat ⟨new, false, false⟩

end Sys2Proof.Machine
end

