-- ==== Sys2Proof/Machine/Control.lean ====
section
/-! DEFINITION. The control-flow instructions (R89 to R98). -/

namespace Sys2Proof.Machine

/-! ## Shared parts -/

/-- The lanes of the unit whose target in A is not a multiple of 4 (R41, R60 check 9). -/
def State.badTargets (s : State) (i : Instr) : Lanes :=
  lanesWhere fun l => s.cur.lanes.getLsbD l && (s.srcLane i .A l).toNat % 4 != 0

/-- ALIGN for a set of lanes, with the lowest lane's target as the address (R327). -/
def State.alignFault (s : State) (i : Instr) (ls : Lanes) : State :=
  s.fault i ls (addrTrap cALIGN 0x00 (s.srcLane i .A (lowest ls))) false

/-- The target of a displacement in words (R41). -/
def State.relTarget (s : State) (n : Nat) (p : BitVec n) : Word := s.cur.addr + (p.signExtend 64 <<< (2 : Nat))

/-- A link written into one register of some lanes; it enters neither la nor lb (R89). -/
def State.writeLink (s : State) (spec : BitVec 6) (ls : Lanes) : State :=
  s.writeReg s.cur.g spec (laneResult ls fun _ => s.cur.addr + 4)

/-- A trap mask bit of the group (R323); a continuation goes by its caller's. -/
def State.trapMasked (s : State) (g bit : Nat) : Bool := (s.grp (s.root g)).trapmask.getLsbD bit

/-- BREAK and SWTRAP (R96, R331): no effect in handler lanes or under the mask. -/
def State.breakTrap (s : State) (i : Instr) (cause : BitVec 8) (bit : Nat) (code : BitVec 8) : State :=
  let ls := s.cur.lanes
  if (s.lane s.cur.g (lowest ls)).mode == .handler || s.trapMasked s.cur.g bit then s
  else s.softTrap i ls (plainTrap cause code)

/-- The group retires when all its lanes are exited (R18, R97). -/
def State.retireIfDone (s : State) (g : Nat) : State :=
  let gr := s.grp g
  if gr.place == .resident && (List.range 32).all fun l => (gr.lane l).mode == .exited then
    (s.modGrp g fun gr => { gr.flush with place := .retired }).modCrew gr.crew fun c => { c with paceSeen := true }
  else s

/-- The rooms of a lane left in ascending region number (R97, R203). -/
def State.leaveAll (s : State) (g l : Nat) : State :=
  let ctx := s.ctxNo g
  (sortBy (fun h : Hold => h.region) (s.lane g l).holds).foldl (fun s h => s.leaveRoom ctx h.region g l) s

/-! ## The instructions -/

/-- `nop` (R90). -/
def execNop (sc : BitVec 3) (s : State) : Out := s.issue (.nop sc) fun s => .next s

/-- `snop` (R90). -/
def execSnop (sc : BitVec 3) (s : State) : Out := s.issue (.snop sc) fun s => .next s

/-- `brl`: each lane by the OR of its eight mask bits (R91). -/
def execBrl (sc k : BitVec 3) (p : BitVec 15) (s : State) : Out :=
  s.issue (.brl sc k p) fun s =>
    let m := s.smask k.toNat
    .next (s.goto s.cur.lanes fun l => if laneCond m l then s.relTarget 15 p else s.cur.addr + 4)

/-- `jmpl` (R92). -/
def execJmpl (sc : BitVec 3) (a : BitVec 6) (s : State) : Out :=
  let i : Instr := .jmpl sc a
  s.issue i fun s =>
    if s.cur.regOnly then .next s
    else
      let bad := s.badTargets i
      let s := s.goto (s.cur.lanes &&& ~~~bad) fun l => s.srcLane i .A l
      .next ((s.stay bad).alignFault i bad)

/-- `callv`: the link, the count of R106, and the move (R92). -/
def execCallv (sc : BitVec 3) (d a : BitVec 6) (s : State) : Out :=
  let i : Instr := .callv sc d a
  s.issue i fun s =>
    if s.cur.regOnly then .next (s.writeLink d s.cur.lanes)
    else
      let bad := s.badTargets i
      let ok := s.cur.lanes &&& ~~~bad
      let t := s.goto ok fun l => s.srcLane i .A l
      let t := t.writeLink d ok
      let t := if d == 58 then t else t.nestLanes s.cur.g ok
      .next ((t.stay bad).faultUnit (s.unitRec i) bad (addrTrap cALIGN 0x00 (s.srcLane i .A (lowest bad))) false)

/-- `bra` (R93). -/
def execBra (sc : BitVec 3) (p : BitVec 18) (s : State) : Out :=
  s.issue (.bra sc p) fun s => .next (s.goto s.cur.lanes fun _ => s.relTarget 18 p)

/-- `call`: o7 of every lane takes the link (R84, R93, R106). -/
def execCall (sc : BitVec 3) (p : BitVec 18) (s : State) : Out :=
  s.issue (.call sc p) fun s =>
    let s := s.writeLink 55 allLanes
    if s.cur.regOnly then .next s
    else
      let s := s.goto s.cur.lanes fun _ => s.relTarget 18 p
      .next (s.nestLanes s.cur.g s.cur.lanes)

/-- `brx`: the target of the lowest active lane (R94). -/
def execBrx (sc : BitVec 3) (a : BitVec 6) (s : State) : Out :=
  let i : Instr := .brx sc a
  s.issue i fun s =>
    if s.cur.regOnly then .next s
    else
      let t := s.scal i .A
      if t.toNat % 4 != 0 then .next ((s.stay s.cur.lanes).fault i s.cur.lanes (addrTrap cALIGN 0x00 t) false)
      else .next (s.goto s.cur.lanes fun _ => t)

/-- `vote` (R95): a value for D, and the lanes whose bytes of kD become ones. -/
def State.voteWith (s : State) (i : Instr) (d : BitVec 6) (j : BitVec 3) (r : Lanes → Lanes → Word × Lanes) : State :=
  let ls := s.cur.lanes
  let m := s.smask (smaskNo i)
  let p := lanesWhere fun l => ls.getLsbD l && laneCond m l
  let (v, on) := r ls p
  let s := s.finish i d (laneResult ls fun _ => v) ls
  if j == 0 then s
  else s.finishMask i j.toNat (buildMask fun b => ls.getLsbD (b / 8), buildMask fun b => on.getLsbD (b / 8)) []

def execVoteAny (sc : BitVec 3) (d : BitVec 6) (k j : BitVec 3) (s : State) : Out :=
  let i : Instr := .voteAny sc d k j
  s.issue i fun s => .next (s.voteWith i d j fun ls p => if p != 0 then (1, ls) else (0, 0))

def execVoteAll (sc : BitVec 3) (d : BitVec 6) (k j : BitVec 3) (s : State) : Out :=
  let i : Instr := .voteAll sc d k j
  s.issue i fun s => .next (s.voteWith i d j fun ls p => if p == ls then (1, ls) else (0, 0))

def execVoteBallot (sc : BitVec 3) (d : BitVec 6) (k j : BitVec 3) (s : State) : Out :=
  let i : Instr := .voteBallot sc d k j
  s.issue i fun s => .next (s.voteWith i d j fun _ p => (p.zeroExtend 64, p))

/-- `brk` (R96). -/
def execBrk (sc : BitVec 3) (c : BitVec 8) (s : State) : Out :=
  let i : Instr := .brk sc c
  s.issue i fun s => .next (s.breakTrap i cBREAK 1 c)

/-- A park that the unit's group has still to take as a trap (R240). -/
def State.parkDue (s : State) (tl : Nat) : Option ParkedCmd :=
  match ((s.crewOf s.cur.g).tline tl).parked with
  | some p => if p.g == s.cur.g && !p.taken then some p else none
  | none => none

/-- The unit takes the ENGINE trap of a parked context (R232, R240). Behind older units of its lanes in flight the trap waits, and has not been
taken yet (R316). -/
def State.takePark (s : State) (i : Instr) (tl : Nat) (p : ParkedCmd) : State :=
  let s := if (s.olderInFlight s.cur.g s.cur.lanes s.cur.seq).isEmpty then
      s.modTl (s.grp s.cur.g).crew tl fun t => { t with parked := some { p with taken := true } }
    else s
  match p.word with
  | none => s.fault i s.cur.lanes p.trap false
  | some w => s.raise ⟨s.cur.g, s.cur.lanes, p.trap, some (s.unitRec i), true, false, w, 0, s.cur.addr⟩

/-- The lanes of a set are the last of the group that run: no other lane is Running, or, where they are in the handler, every other lane has
exited (R80). -/
def Group.lastOf (gr : Group) (ls : Lanes) : Bool :=
  let run := (List.range 32).any fun l => ls.getLsbD l && (gr.lane l).mode == .running
  (List.range 32).all fun l => ls.getLsbD l || (gr.lane l).mode == .exited || (run && (gr.lane l).mode != .running)

/-- The lowest timeline whose park the exit of the last running lanes takes (R240). -/
def State.exitPark (s : State) : Option (Nat × ParkedCmd) :=
  if !(s.grp s.cur.g).lastOf s.cur.lanes then none
  else (List.range 8).findSome? fun tl => (s.parkDue tl).map fun p => (tl, p)

/-- `exit`: the lanes leave their rooms, once a release can be performed, and are exited (R97, R108). -/
def execExit (sc : BitVec 3) (s : State) : Out :=
  let i : Instr := .exit sc
  s.issue i fun s =>
    let g := s.cur.g
    let ls := s.cur.lanes
    match s.exitPark with
    | some (tl, p) => .next (s.takePark i tl p)
    | none =>
      let rooms := (lanesOf ls).any fun l => !(s.lane g l).holds.isEmpty
      if rooms && !s.mayRelease i then .next (s.await i false)
      else
        let s := if rooms then s.release g 3 else s
        let s := (lanesOf ls).foldl (fun s l => (s.leaveAll g l).squashLane g l) s
        let s := s.modLanes g ls fun _ x => { x with mode := .exited, pc := s.cur.addr }
        .next ((s.releaseFrame g).retireIfDone g)

/-- The pause of `yield`; with `z` for A the lanes give up their turn, too (R98). -/
def State.pause (s : State) (i : Instr) (turn : Bool) : State :=
  let c := min (s.scal i .A).toNat 4095
  let rd := s.now + max (i.stall.toNat + 1) (c + 1)
  let s := if s.cur.replay then s else s.modLanes s.cur.g s.cur.lanes fun _ x => { x with ready := rd }
  if turn then s.modGrp s.cur.g fun gr => { gr with yielded := true } else s

def execYield (sc : BitVec 3) (a : BitVec 6) (s : State) : Out :=
  let i : Instr := .yield sc a
  s.issue i fun s => .next (s.pause i (a == 58))

end Sys2Proof.Machine
end

