-- ==== Sys2Proof/Machine/Report.lean ====
section
/-! DEFINITION. What the package reports: MSI-X vectors and the RAS and orphan logs (R344, R345, R353, R354). -/

namespace Sys2Proof.Machine

/-- An event raises its vector, or is held pending while the vector is masked (R344). -/
def State.msi (s : State) (v : Nat) : State :=
  s.modPkg fun p => if p.unmasked.contains v then { p with msiSent := v :: p.msiSent } else { p with msiPending := addNo v p.msiPending }

/-- The host unmasks a vector: a pending event is raised (R344). -/
def State.msiUnmask (s : State) (v : Nat) : State :=
  s.modPkg fun p =>
    if p.unmasked.contains v || 2048 ≤ v then p
    else if p.msiPending.contains v then
      { p with unmasked := v :: p.unmasked, msiPending := p.msiPending.filter fun x => x != v, msiSent := v :: p.msiSent }
    else { p with unmasked := v :: p.unmasked }

/-- The host masks a vector: later events are held pending (R344). -/
def State.msiMask (s : State) (v : Nat) : State := s.modPkg fun p => { p with unmasked := p.unmasked.filter fun x => x != v }

/-- The newest n entries of a log. -/
def newest : List RasEnt → Nat → List RasEnt
  | [], _ => []
  | _ :: _, 0 => []
  | e :: t, n + 1 => e :: newest t n

/-- An entry of the RAS log, the newest first; in a full ring the oldest is overwritten, and RASN counts on (R353; log entry 17). -/
def State.rasEntry (s : State) (kind : Nat) (source : BitVec 16) (addr : Word) : State :=
  (s.modPkg fun p => { p with ras := ⟨kind, source, addr, s.now, 0⟩ :: newest p.ras Config.rasRing, rasn := p.rasn + 1 }).msi 1

/-- Arithmetic cycles of a microsecond at the clock's step (R351): the durations that the spec gives in µs or ms are times, and take fewer
cycles at a lower step (DESIGN CHOICE, log entry 54). -/
def State.cyclesPerUs (s : State) : Nat := match bits s.pkg.pwrst.toNat 0 2 with | 0 => 1500 | 1 => 1200 | _ => 900

end Sys2Proof.Machine
end

