-- ==== Sys2Proof/Machine/Slots.lean ====
section
/-! DEFINITION. The slots, registers and granules of cores: what is free, and where a group goes (R20, R21, R99, R157, R305, R355,
R357). -/

namespace Sys2Proof.Machine

/-- The groups that occupy slots of a core, shadow slots among them. -/
def State.onCore (s : State) (core : Nat) : List Group := s.groups.filter fun gr => gr.place == .resident && gr.core == core

/-- A slot of a core is free. -/
def State.slotFree (s : State) (core slot : Nat) : Bool := !(s.onCore core).any fun gr => gr.slot == slot

/-- Main registers of a core: 16 slots of 48 (R20), and those that no group holds (R21). -/
def coreRegs : Nat := 768
def State.regsFree (s : State) (core : Nat) : Nat := coreRegs - ((s.onCore core).map fun gr => gr.nregs).sum

/-- The free slots of a lane set of a core, ascending (R355). -/
def State.freeSlots (s : State) (core set : Nat) : List Nat :=
  (List.range 16).filter fun k => k % 2 == set && s.slotFree core k

/-- The shadow slot of an `fcall` of a group: a free slot of the core's other lane set, and registers for it (R99). -/
def State.shadowSlot (s : State) (g : Nat) : Option Nat :=
  let gr := s.grp g
  if s.regsFree gr.core < gr.nregs then none else (s.freeSlots gr.core (1 - gr.slot % 2)).head?

/-- The slot a group takes on a core: the lowest free one of the lane set with more free slots, set 0 on a tie (R357). -/
def State.slotOn (s : State) (core : Nat) : Option Nat :=
  let a := s.freeSlots core 0
  let b := s.freeSlots core 1
  if a.length < b.length then b.head? else a.head?

/-- The core of a quad that a group goes to: the one with most free slots among those with a free slot and its registers free, the
lowest number on a tie (R357) (log entry 31). -/
def State.coreFor (s : State) (quad nregs : Nat) : Option Nat :=
  let cores := (List.range 4).map fun c => 4 * quad + c
  let free (c : Nat) : Nat := (s.freeSlots c 0).length + (s.freeSlots c 1).length
  leastBy (fun c => 16 - free c) (cores.filter fun c => free c != 0 && nregs ≤ s.regsFree c)

/-- Free group slots of a quad. -/
def State.quadSlots (s : State) (quad : Nat) : Nat :=
  ((List.range 4).map fun c => (s.freeSlots (4 * quad + c) 0).length + (s.freeSlots (4 * quad + c) 1).length).sum

/-- The granules of a quad that no crew holds (R157): core of the quad and granule, in the order of R357 for given first cores. -/
def State.freeGranules (s : State) (quad : Nat) (first : List Nat) : List (Nat × Nat) :=
  let used := s.crews.flatMap fun c => if c.quad == quad && !c.retired then c.granules else []
  let order := (List.range 4).filter (fun c => first.contains c) ++ (List.range 4).filter fun c => !first.contains c
  (order.flatMap fun c => (List.range 4).map fun k => (c, k)).filter fun x => !used.contains x

end Sys2Proof.Machine
end

