-- ==== Sys2Proof/Machine/Bracken.lean ====
section
/-! DEFINITION. Bracken: what it dispatches, in which order, where crews and resumed groups go, and what is evicted for them
(R298 to R309, R311, R312, R357). -/

namespace Sys2Proof.Machine

/-! ## Kernel descriptors (R301) -/

/-- The quad whose translations Bracken and the completion adds of a partition use: its lowest (log entry 16). -/
def State.firstQuad (s : State) (part : Nat) : Nat := 64 * ((s.part part).dieList.headD 0)

/-- What Bracken reads for a context at a virtual address: bytes, or the reason it cannot. -/
inductive Fetched where
  | bytes (bs : List Byte)
  | unreadable
  | void (pa : Nat)
deriving DecidableEq, Repr

/-- Eight bytes of a context's memory. -/
def State.readFor (s : State) (ctx va : Nat) : Fetched :=
  let c := s.ctx ctx
  match s.reach (s.firstQuad c.part) ctx (!c.isSys) .load va with
  | .void pa => .void pa
  | .fault _ _ => .unreadable
  | .ok x =>
    if (c.regionAt va).isSome || (!x.host && (s.lostHome c.part x.pa || s.poisoned c.part x.pa)) then .unreadable
    else .bytes (s.homeRead (cachePart c.part x) x.pa 8)

/-- Words at a virtual address. -/
def State.readWords (s : State) (ctx va n : Nat) : Fetched :=
  (List.range n).foldl (fun acc j =>
    match acc with
    | .bytes bs => (match s.readFor ctx (va + 8 * j) with | .bytes x => .bytes (bs ++ x) | r => r)
    | r => r) (.bytes [])

/-- A kernel descriptor from its words; `none` where a field is out of its range. -/
def kernelOf (bs : List Byte) : Option Kernel :=
  let w (j : Nat) : Nat := leNat ((bs.drop (8 * j)).take 8)
  let n := bits (w 0) 0 5 + 1
  let ent (g : Nat) : Nat × Nat := (bits (w (2 + g)) 0 32, bits (w (2 + g)) 32 6)
  let entBad (g : Nat) : Bool := (ent g).1 % 4 != 0 || (ent g).2 == 0 || decide (48 < (ent g).2) || bits (w (2 + g)) 38 26 != 0
  if bits (w 0) 5 3 != 0 || bits (w 0) 21 11 != 0 || bits (w 0) 48 16 != 0 || decide (4096 < bits (w 0) 8 13) || bits (w 1) 0 8 != 0 ||
      bits (w 1) 52 12 != 0 || (List.range n).any entBad then none
  else some ⟨bits (w 0) 8 13, bits (w 0) 32 16, BitVec.ofNat 64 (bits (w 1) 0 52), (List.range n).map ent⟩

/-- What a packet asks for at dispatch. -/
inductive Asked where
  | kernel (k : Kernel)
  | nop
  | bad
  | void (pa : Nat)
deriving DecidableEq, Repr

/-- The packet and the descriptor it names, checked: any packet fails on a descriptor that cannot be read or has a field out of range, a nop
too (R301; DEDUCED, log entry 16). -/
def State.asked (s : State) (ctx : Nat) (p : Launch) : Asked :=
  if p.malformed || p.kdesc % 256 != 0 || p.compl % 8 != 0 || (p.msiv != 0 && decide (p.msiv < 16)) then .bad
  else
    match s.readWords ctx p.kdesc 1 with
    | .void pa => .void pa
    | .unreadable => .bad
    | .bytes h =>
      match s.readWords ctx p.kdesc (3 + bits (leNat h) 0 5) with
      | .void pa => .void pa
      | .unreadable => .bad
      | .bytes bs => match kernelOf bs with | some k => if p.type == 1 then .nop else .kernel k | none => .bad

/-! ## Placement (R305, R306, R357) -/

/-- Granules of a window of SCR units of 256 bytes (R157). -/
def granulesFor (scr : Nat) : Nat := (256 * scr + 65535) / 65536

/-- A crew of a quad whose state stands on it (log entry 31). -/
def State.onQuad (s : State) (quad c : Nat) : Bool := (s.crew c).quad == quad && s.crewStands c

/-- The quad's constant store takes a crew with an image tag (R305). -/
def State.constFits (s : State) (quad cimg : Nat) : Bool :=
  cimg == 0 || (List.range s.crews.length).all fun c => !s.onQuad quad c || (s.crew c).cimg == 0 || (s.crew c).cimg == cimg

/-- The lowest GTAG that no resident or evicted group of a context holds (R319). -/
def State.freeTag (s : State) (ctx : Nat) : Option Nat :=
  let held := (s.groups.filter fun gr => gr.shadow.isNone && (gr.place == .resident || gr.place == .evicted) && (s.crew gr.crew).ctx == ctx).map Group.gtag
  ((List.range (held.length + 1)).find? fun t => !held.contains t).filter fun t => t < 65536

/-- One group of a starting crew put on its core (R306, R357). -/
def State.startGroup (s : State) (crew ctx quad cid level : Nat) (k : Kernel) (arg : Word) (e : Nat × Nat) : Option State :=
  match s.coreFor quad e.2, s.freeTag ctx with
  | some core, some tag =>
    match s.slotOn core with
    | none => none
    | some slot =>
      let gr := Group.fresh crew cid e.2 core slot tag (k.base + BitVec.ofNat 64 e.1) (s.ctx ctx).fpdef (BitVec.ofNat 64 (level + 0x80))
      let gr := { gr.setReg 0 (BitVec.allOnes 2048) (splat arg) with dispatchNo := s.seq }
      some { s.modCrew crew fun c => { c with groups := c.groups ++ [s.groups.length] } with groups := s.groups ++ [gr] }
  | _, _ => none

/-- A crew before its groups are placed. -/
def Crew.fresh (ctx task quad crewNo : Nat) (k : Kernel) : Crew :=
  { Crew.absent with ctx := ctx, task := task, quad := quad, crewNo := crewNo, window := 256 * k.scr, cimg := k.cimg, pace := 0x100, retired := false }

/-- A crew's granules taken, from the cores of its groups first (R357). -/
def State.takeGranules (s : State) (c : Nat) : Option State :=
  let cr := s.crew c
  let cores := (s.groups.filter fun gr => gr.crew == c && gr.place == .resident).map fun gr => gr.core % 4
  let n := (cr.window + 65535) / 65536
  let free := s.freeGranules cr.quad cores
  if free.length < n then none else some (s.modCrew c fun x => { x with granules := free.take n })

/-- A crew with a constant image stands on a quad. -/
def State.imageOn (s : State) (quad cimg : Nat) : Bool :=
  (List.range s.crews.length).any fun c => s.onQuad quad c && (s.crew c).cimg == cimg

/-- The runtime writes the image with a tag into a quad's store before a crew of it comes there, unless such a crew is there already: the
image from offset 0, and zeros beyond (R31, R196; log entry 51). -/
def State.loadImage (s : State) (quad cimg : Nat) : State :=
  if cimg == 0 || s.imageOn quad cimg then s
  else
    let base := 131072 * quad
    { s with
      const := Mem.write base ((Config.constImage cimg).take 131072) (Mem.clear base 131072 s.const)
      poison := s.poison.filter fun x => match x with | .const q _ => q != quad | _ => true }

/-- A crew placed on a quad, if it fits (R305), with its constant image (R196); it acquires at scope pkg before its first instruction
(R308). -/
def State.startCrew (s : State) (ctx task level quad crewNo : Nat) (k : Kernel) (arg : Word) : Option State :=
  if !s.constFits quad k.cimg then none
  else
    let c := s.crews.length
    let s := s.loadImage quad k.cimg
    let s := { s with crews := s.crews ++ [Crew.fresh ctx task quad crewNo k], seq := s.seq + 1 }
    let placed := k.entries.zipIdx.foldl (fun (acc : Option State) e => acc.bind fun t => t.startGroup c ctx quad e.2 level k arg e.1) (some s)
    (placed.bind fun t => t.takeGranules c).map fun t => t.flushSi quad true

/-- The quads of a partition. -/
def Partition.quads (p : Partition) : List Nat := p.dieList.flatMap fun d => (List.range 64).map fun q => 64 * d + q

/-- A crew placed on the quad that Bracken chooses among those that fit: the one with most free slots, the lowest on a tie (R305). -/
def State.placeCrew (s : State) (part ctx task level crewNo : Nat) (k : Kernel) (arg : Word) : Option State :=
  let fits := (s.part part).quads.filterMap fun q => (s.startCrew ctx task level q crewNo k arg).map fun t => (q, t)
  (leastBy (fun p : Nat × State => 64 - s.quadSlots p.1) fits).map (·.2)

/-- The next crew of a task placed: on the quad that a plan gives it, or on the one that Bracken chooses. -/
def State.placeNext (s : State) (part t : Nat) (quad : Option Nat) : Option State :=
  let k := s.task t
  let arg := BitVec.ofNat 64 (k.pkt.w 2)
  let u := match quad with
    | some q => s.startCrew k.ctx t k.level q k.placed k.kernel arg
    | none => s.placeCrew part k.ctx t k.level k.placed k.kernel arg
  u.map fun s => s.modTask t fun x => { x with placed := x.placed + 1 }

/-- Crews of a task placed, or none of them (R305). -/
def State.placeMany (s : State) (part t : Nat) : List (Option Nat) → Option State
  | [] => some s
  | q :: rest => (s.placeNext part t q).bind fun u => State.placeMany u part t rest

/-- How the crews of a packet are placed at its dispatch: the first one, or all of a GANG task, on the quads of a plan where there is one
(R305, R309). -/
def Launch.crewsAt (p : Launch) (quads : List Nat) : List (Option Nat) :=
  if !p.gang then [quads.head?]
  else if quads.isEmpty then List.replicate p.crews none
  else quads.map some

/-! ## Tasks -/

def Task.fresh (ctx level : Nat) (src : Source) (p : Launch) (k : Kernel) (n : Nat) (failed : Bool) : Task :=
  { ctx := ctx, level := level, source := src, pkt := p, kernel := k, ncrews := n, placed := 0, retired := 0, failed := failed, complete := false }

def Kernel.empty : Kernel := ⟨0, 0, 0, []⟩

/-- A packet dispatched: the task, with its first crew placed, or all of them for GANG. `none` where nothing fits. The number of the task
is answered too. -/
def State.begin? (s : State) (part ctx level : Nat) (src : Source) (p : Launch) (quads : List Nat) : Option ((State × Nat) ⊕ Nat) :=
  let t := s.tasks.length
  let add (k : Kernel) (n : Nat) (failed : Bool) : State := { s with tasks := s.tasks ++ [Task.fresh ctx level src p k n failed] }
  match s.asked ctx p with
  | .void pa => some (.inr pa)
  | .nop => some (.inl (add Kernel.empty 0 false, t))
  | .bad => some (.inl (add Kernel.empty 0 true, t))
  | .kernel k => ((add k p.crews false).placeMany part t (p.crewsAt quads)).map fun u => .inl (u, t)

/-- Every crew of a task is placed. -/
def Task.allPlaced (t : Task) : Bool := t.placed == t.ncrews

/-! ## The sources (R302, R311, R312) -/

/-- What serving a source gives. -/
abbrev Served := Option Out

/-- A task's packet is used up: RPTR moves, and a packet that failed at dispatch is noted (R298, R301). -/
def State.passPacket (s : State) (part q t : Nat) : State :=
  let d := s.queue part q
  let s := if (s.task t).failed && (s.task t).ncrews == 0 then s.putQueueWord part q 4 d.rptr else s
  let s := s.putQueueWord part q 2 (d.rptr + 1)
  s.modPart part fun p => { p with placing := drop q p.placing }

/-- The queue after a turn in which its task t had a crew placed, or was dispatched. -/
def State.afterTurn (s : State) (part q t : Nat) : State :=
  if (s.task t).allPlaced then s.passPacket part q t else s.modPart part fun p => { p with placing := put q t p.placing }

/-- One turn of a mapped queue. -/
def State.serveQueue (s : State) (part q : Nat) (quads : List Nat) : Served :=
  let p := s.part part
  let d := s.queue part q
  if !(p.slots.any fun x => x.q == q) || p.quiesce.isSome || !s.queueLive part d || d.err then none
  else
    match look p.placing q with
    | some t => (s.placeNext part t none).map fun u => .next (u.afterTurn part q t)
    | none =>
      if d.held == 0 then none
      else
        match s.ringVoid part d d.rptr with
        | some pa => some (.fault (.noDram pa))
        | none =>
          let k := s.packet part d d.rptr
          let waits := k.ordq && (match look p.lastTask q with | some t => !(s.task t).complete | none => false)
          if waits then none
          else
            match s.begin? part (s.queueCtx part d) d.level (.queue part q) k quads with
            | none => none
            | some (.inr pa) => some (.fault (.noDram pa))
            | some (.inl (u, t)) =>
              some (.next ((u.modPart part fun x => { x with lastTask := put q t x.lastTask }).afterTurn part q t))

/-- A node of the pool changed. -/
def Partition.modNode (p : Partition) (k : Nat) (f : Node → Node) : Partition :=
  { p with nodes := p.nodes.map fun n => if n.idx == k then f n else n }

/-- One turn of a graph node: a cancelled one completes as failed without a crew (R311). -/
def State.serveNode (s : State) (part : Nat) (n : Node) (quads : List Nat) : Served :=
  if !n.waits.isEmpty then none
  else
    match n.task with
    | some t => if (s.task t).allPlaced then none else (s.placeNext part t none).map fun u => .next u
    | none =>
      let note (u : State) (t : Nat) : State := u.modPart part fun p => p.modNode n.idx fun x => { x with task := some t }
      let src : Source := .node part n.idx
      if n.cancelled then
        some (.next (note { s with tasks := s.tasks ++ [Task.fresh n.ctx n.level src n.pkt Kernel.empty 0 true] } s.tasks.length))
      else
        match s.begin? part n.ctx n.level src n.pkt quads with
        | none => none
        | some (.inr pa) => some (.fault (.noDram pa))
        | some (.inl (u, t)) => some (.next (note u t))

/-- One turn of a context's tape run (R312). -/
def State.serveTape (s : State) (part ctx : Nat) (r : TapeRun) (quads : List Nat) : Served :=
  let c := s.ctx ctx
  match r.task with
  | some t => if (s.task t).allPlaced then none else (s.placeNext part t none).map fun u => .next u
  | none =>
    if c.tapeDepth ≤ r.mark then none
    else
      let pa := c.tapeAt (c.tapeDepth - 1)
      match s.beyond part pa 64 with
      | some pa => some (.fault (.noDram pa))
      | none =>
        match s.begin? part ctx r.level (.tape ctx) (launchOf (s.homeRead part pa 64)) quads with
        | none => none
        | some (.inr pa) => some (.fault (.noDram pa))
        | some (.inl (u, t)) =>
          some (.next (u.modCtx ctx fun c => { c with tapeDepth := c.tapeDepth - 1, tapeRun := some { r with task := some t } }))

/-! ## Evicted groups (R309) -/

/-- The partition and the level of a group. -/
def State.groupPart (s : State) (gr : Group) : Nat := (s.ctx (s.crew gr.crew).ctx).part
def Group.level (gr : Group) : Nat := bits gr.prio.toNat 0 5
def Group.sub (gr : Group) : Nat := bits gr.prio.toNat 5 3

/-- A group holds a room for which a competing demand is pending (R210). -/
def State.holdsBack (s : State) (gr : Group) : Bool :=
  let ctx := (s.crew gr.crew).ctx
  gr.lanes.toList.any fun x => x.holds.any fun h =>
    match (s.ctx ctx).region h.region with | some r => r.open_ == some h.mode && r.competing | none => false

/-- An evicted group comes back to its quad, where it fits, and performs its saved units first (R309, R324, R357); with the first of its
crew the constant image comes back, unless a crew of it is there (DEDUCED, log entry 51). -/
def State.comeBack (s : State) (g : Nat) : Option State :=
  let gr := s.grp g
  let c := s.crew gr.crew
  let again := !s.crewResident gr.crew
  if again && !s.constFits c.quad c.cimg then none
  else
    match s.coreFor c.quad gr.nregs with
    | none => none
    | some core =>
      match s.slotOn core with
      | none => none
      | some slot =>
        let s := if again then s.loadImage c.quad c.cimg else s
        let s := s.modGrp g fun x => { x with core := core, slot := slot, place := .resident }
        let t := if again && c.granules.isEmpty then s.takeGranules gr.crew else some s
        t.map fun t => t.resumeGroup g

/-- The window and the engine contexts of a crew leave with its last resident group (R328). -/
def State.storeCrew (s : State) (c : Nat) : State :=
  if s.crewResident c then s else s.modCrew c fun x => { x with granules := [], tl := x.tl.map Timeline.saved }

/-- A group evicted (R112, R210, R309, R324). -/
def State.evictGroup (s : State) (g : Nat) : State :=
  let s := s.saveGroup g
  let s := { s with seq := s.seq + 1 }
  (s.modGrp g fun gr => { gr with evictNo := s.seq }).storeCrew (s.grp g).crew

/-- The deferral of a pre-emption holds: a lane is in the handler vote, PRE = 1, and the bound has not passed (R324). -/
def State.defersPreempt (s : State) (g : Nat) : Bool :=
  let gr := s.grp g
  let cyc := bits (s.part (s.partNo g)).prebound.toNat 0 32
  let since := match gr.preempt with | some p => p.arrived | none => s.now
  ((List.range 32).any fun l => (gr.lane l).mode == .handler) && gr.trapmask.getLsbD 0 && decide (s.now - since < cyc)

/-- A pre-emption request reaches a group (R324). -/
def State.preemptGroup (s : State) (g : Nat) : State :=
  let gr := s.grp g
  if gr.place != .resident || gr.shadow.isSome then s
  else if s.defersPreempt g then s.modGrp g fun x => { x with preempt := some (x.preempt.getD ⟨s.now⟩) }
  else s.evictGroup g

/-! ## The order of work (R302) -/

/-- A piece of work of Bracken. -/
inductive Work where
  | resume (g : Nat)
  | queue (q : Nat)
  | node (idx : Nat)
  | tape (ctx : Nat)
deriving DecidableEq, Repr

/-- A level is under its floor share (R302). -/
def State.underFloor (s : State) (part level : Nat) : Bool :=
  let p := s.part part
  let n := (s.groups.filter fun gr =>
    gr.shadow.isNone && (gr.place == .resident || gr.place == .evicted) && s.groupPart gr == part && gr.level == level).length
  decide (n * 64 < bits (p.levels[level]?.getD 0).toNat 0 7 * (4096 * p.dieList.length))

/-- The level at which work counts. -/
def State.workLevel (s : State) (part level : Nat) : Nat := if s.underFloor part level then min level 3 else level

/-- A source's place in the round of its level. -/
def Work.key : Work → Nat
  | .resume _ => 0
  | .queue q => q
  | .node k => 65536 + k
  | .tape c => 2 ^ 17 + c

/-- The pieces of work of a partition and its image with their own levels; whether they can be done now is another question. -/
def State.works (s : State) (part : Nat) : List (Nat × Work) :=
  let p := s.part part
  let back := s.groups.zipIdx.filterMap fun g =>
    if g.1.place == .evicted && s.inPlace part (s.ctx (s.crew g.1.crew).ctx) then some (g.1.level, Work.resume g.2) else none
  let queues := p.slots.map fun x => ((s.queue part x.q).level, Work.queue x.q)
  let nodes := (p.nodes.filter fun n => s.inPlace part (s.ctx n.ctx)).map fun n => (n.level, Work.node n.idx)
  let tapes := s.ctxs.zipIdx.filterMap fun c => if s.inPlace part c.1 then c.1.tapeRun.map fun r => (r.level, Work.tape c.2) else none
  back ++ queues ++ nodes ++ tapes

/-- What doing a piece of work gives, on the quads of a plan where there is one; `none` where it cannot be done. -/
def State.doWork (s : State) (part : Nat) (w : Work) (quads : List Nat) : Served :=
  match w with
  | .resume g => (s.comeBack g).map fun u => .next u
  | .queue q => s.serveQueue part q quads
  | .node k => ((s.part part).nodes.find? fun n => n.idx == k).bind fun n => s.serveNode part n quads
  | .tape c => (s.ctx c).tapeRun.bind fun r => s.serveTape part c r quads

/-- The order of work: by level; within a level the holders of rooms, then other evicted groups, each in the order of eviction, then new crews
in turn (R302, R309). -/
def State.workOrder (s : State) (part : Nat) (x : Nat × Work) : Nat :=
  let l := s.workLevel part x.1
  match x.2 with
  | .resume g => (3 * l + (if s.holdsBack (s.grp g) then 0 else 1)) * 2 ^ 40 + (s.grp g).evictNo
  | w =>
    let last := (look (s.part part).served l).getD (2 ^ 20 - 1)
    (3 * l + 2) * 2 ^ 40 + (w.key + 2 ^ 20 - 1 - last) % 2 ^ 20

/-- Work in order. -/
def State.inOrder (s : State) (part : Nat) : List (Nat × Work) := sortBy (s.workOrder part) (s.works part)

/-- The work to be done next, and what it gives. -/
def State.nextWork (s : State) (part : Nat) : Option (Nat × Work × Out) :=
  if (s.part part).swapped || !(s.part part).live then none
  else (s.inOrder part).findSome? fun x => (s.doWork part x.2 []).map fun o => (x.1, x.2, o)

/-- The turn of a source of a level is noted, at the level at which it counted (R302). -/
def State.served (s : State) (part level : Nat) (w : Work) (u : State) : State :=
  u.modPart part fun p => { p with served := put (s.workLevel part level) w.key p.served }

/-- DISPATCH: the best ready and placeable work, if it is a new crew's (R302). -/
def execDispatch (part : Nat) (s : State) : Out :=
  match s.nextWork part with
  | some (_, .resume _, _) => .next s
  | some (l, w, .next u) => .next (s.served part l w u)
  | some (_, _, o) => o
  | none => .next s

/-- GROUP_RESUME: the best ready and placeable work, if it is this group's (R309). -/
def execGroupResume (g : Nat) (s : State) : Out :=
  match s.nextWork (s.groupPart (s.grp g)) with
  | some (_, .resume h, o) => if h == g then o else .next s
  | _ => .next s

/-! ## Eviction (R309) -/

/-- Sublists of a length, in the order of the list. -/
def combos {α : Type} : Nat → List α → List (List α)
  | 0, _ => [[]]
  | _ + 1, [] => []
  | k + 1, a :: t => (combos k t).map (a :: ·) ++ combos (k + 1) t

/-- The candidates of a quad for work of a level, the preferred first (R309). -/
def State.candidates (s : State) (part level quad : Nat) : List Nat :=
  let l := s.workLevel part level
  let under := s.underFloor part level
  let ok (g : Nat) : Bool :=
    let gr := s.grp g
    gr.place == .resident && gr.shadow.isNone && s.quadOf g == quad &&
      decide (l < gr.level) && (!under || !s.underFloor part gr.level)
  let pref (g : Nat) : Nat := let gr := s.grp g; ((31 - gr.level) * 8 + (7 - gr.sub)) * 2 ^ 40 + (2 ^ 40 - 1 - gr.dispatchNo)
  sortBy pref ((List.range s.groups.length).filter ok)

/-- The quad with its shadow slots free (R112). -/
def State.withoutShadows (s : State) (quad : Nat) : State :=
  { s with groups := s.groups.map fun gr => if gr.shadow.isSome && gr.core / 4 == quad then { gr with place := .retired } else gr }

/-- The quad as it will be when some groups are gone. -/
def State.ifGone (s : State) (quad : Nat) (gs : List Nat) : State :=
  gs.foldl (fun s g => (s.modGrp g fun gr => { gr with place := .evicted }).storeCrew (s.grp g).crew) (s.withoutShadows quad)

/-- What a quad gives up for some work: the smallest preferred set of groups. -/
def State.quadSet (s : State) (part level quad : Nat) (fits : State → Bool) : Option (List Nat) :=
  let cs := s.candidates part level quad
  (List.range (cs.length + 1)).findSome? fun k => (combos k cs).find? fun gs => fits (s.ifGone quad gs)

/-- The quad and the set chosen: the smallest set, the lowest quad on a tie. -/
def State.evictionFor (s : State) (part level : Nat) (quads : List Nat) (fits : Nat → State → Bool) : Option (Nat × List Nat) :=
  leastBy (fun p : Nat × List Nat => p.2.length) (quads.filterMap fun q => (s.quadSet part level q (fits q)).map fun gs => (q, gs))

/-- What a piece of work would place next: its context, level and kernel, with how many crews at once. -/
def State.wants (s : State) (part : Nat) (w : Work) : Option (Nat × Kernel × Nat) :=
  let ofTask (t : Nat) : Option (Nat × Kernel × Nat) := if (s.task t).allPlaced then none else some ((s.task t).ctx, (s.task t).kernel, 1)
  let ofPacket (ctx : Nat) (p : Launch) : Option (Nat × Kernel × Nat) :=
    match s.asked ctx p with | .kernel k => some (ctx, k, if p.gang then p.crews else 1) | _ => none
  let p := s.part part
  match w with
  | .resume _ => none
  | .queue q =>
    let d := s.queue part q
    if p.quiesce.isSome || !s.queueLive part d || d.err then none
    else
      match look p.placing q with
      | some t => ofTask t
      | none =>
        let k := s.packet part d d.rptr
        let waits := k.ordq && (match look p.lastTask q with | some t => !(s.task t).complete | none => false)
        if d.held == 0 || waits || (s.ringVoid part d d.rptr).isSome then none else ofPacket (s.queueCtx part d) k
  | .node k =>
    match p.nodes.find? fun n => n.idx == k with
    | none => none
    | some n =>
      if !n.waits.isEmpty || (n.cancelled && n.task.isNone) then none
      else match n.task with | some t => ofTask t | none => ofPacket n.ctx n.pkt
  | .tape c =>
    let cx := s.ctx c
    match cx.tapeRun with
    | none => none
    | some r =>
      match r.task with
      | some t => ofTask t
      | none =>
        let pa := cx.tapeAt (cx.tapeDepth - 1)
        if cx.tapeDepth ≤ r.mark || (s.beyond part pa 64).isSome then none else ofPacket c (launchOf (s.homeRead part pa 64))

/-- A crew of a plan: its quad, and the groups evicted there for it once the quad's shadow slots are reclaimed; `none` where it fits without
that. -/
abbrev RoomPlan := List (Nat × Option (List Nat))

/-- A plan for a number of crews, each placed in turn on a copy of the machine (R309). -/
def State.gangPlan (s : State) (part level ctx : Nat) (k : Kernel) : Nat → Option RoomPlan
  | 0 => some []
  | n + 1 =>
    match s.placeCrew part ctx 0 level 0 k 0 with
    | some u => (State.gangPlan u part level ctx k n).map fun rest => ((u.crew s.crews.length).quad, none) :: rest
    | none =>
      match s.evictionFor part level (s.part part).quads (fun q u => (u.startCrew ctx 0 level q 0 k 0).isSome) with
      | none => none
      | some (q, gs) =>
        match (s.ifGone q gs).startCrew ctx 0 level q 0 k 0 with
        | none => none
        | some u => (State.gangPlan u part level ctx k n).map fun rest => (q, some gs) :: rest

/-- The plan of evictions for a piece of work that cannot be done as things stand. -/
def State.planFor (s : State) (part : Nat) (x : Nat × Work) : Option RoomPlan :=
  if (s.doWork part x.2 []).isSome then none
  else
    match x.2 with
    | .resume g =>
      let q := (s.crew (s.grp g).crew).quad
      (s.evictionFor part x.1 [q] fun _ u => (u.comeBack g).isSome).map fun p => [(p.1, some p.2)]
    | w =>
      match s.wants part w with
      | none => none
      | some (ctx, k, n) => s.gangPlan part x.1 ctx k n

/-- Bracken works in a partition, and no pre-emption that it has asked for is still deferred. -/
def State.planning (s : State) (part : Nat) : Bool :=
  !(s.part part).swapped && (s.part part).live &&
    !s.groups.any fun gr => gr.preempt.isSome && gr.place == .resident && s.groupPart gr == part

/-- The work whose plan Bracken carries out, and the plan: the best work that needs one, unless better work can be done as things stand. -/
def State.nextPlan (s : State) (part : Nat) : Option (Nat × Work × RoomPlan) :=
  if !s.planning part then none
  else
    let ready := (s.nextWork part).map fun w => s.workOrder part (w.1, w.2.1)
    ((s.inOrder part).filter fun x => match ready with | some r => decide (s.workOrder part x < r) | none => true).findSome? fun x =>
      (s.planFor part x).map fun p => (x.1, x.2, p)

/-- The shadow slots of a quad reclaimed (R112). -/
def State.reclaimShadows (s : State) (quad : Nat) : State :=
  (List.range s.groups.length).foldl (fun s g =>
    if (s.grp g).shadow.isNone && s.quadOf g == quad && (s.grp g).place == .resident && (s.forks.any fun f => f.live && s.root f.caller == g)
    then s.squashAll g else s) s

/-- The evictions of a plan (R309, R324). -/
def State.carryOut (s : State) (plan : RoomPlan) : State :=
  plan.foldl (fun s p => match p.2 with | some gs => gs.foldl State.preemptGroup (s.reclaimShadows p.1) | none => s) s

/-- Work done on the quads of its plan, if it can be now. -/
def State.placePlanned (s : State) (part : Nat) (x : Nat × Work) (quads : List Nat) : Out :=
  match s.doWork part x.2 quads with
  | none => .next s
  | some (.next u) => .next (match x.2 with | .resume _ => u | w => s.served part x.1 w u)
  | some o => o

/-- EVICTION: a plan carried out; the crews of a GANG task are placed together on its quads (R309). Where a planned eviction is deferred
(R324), they are placed as R305 has it once it has been performed (DESIGN CHOICE, log entry 52). -/
def execEviction (part : Nat) (s : State) : Out :=
  match s.nextPlan part with
  | none => .next s
  | some (l, w, plan) =>
    let t := s.carryOut plan
    if 1 < plan.length then t.placePlanned part (l, w) (plan.map (·.1)) else .next t

/-- Ready work of a partition at a level or above, that lacks room (R98): the best of it. -/
def State.lacksRoom (s : State) (part level : Nat) : Option (Nat × Work) :=
  if (s.part part).swapped || !(s.part part).live then none
  else
    (s.inOrder part).find? fun x =>
      decide (s.workLevel part x.1 ≤ level) && (s.doWork part x.2 []).isNone &&
        (match x.2 with | .resume _ => true | w => (s.wants part w).isSome)

/-- A group that offers itself is evicted for such work, and the work takes the room before anything resumes, with what other evictions it
needs (R98, R309; log entry 52). -/
def State.giveWay (s : State) (g : Nat) : Out :=
  let part := s.partNo g
  match s.lacksRoom part (s.grp g).level with
  | none => .next s
  | some x =>
    let s := s.preemptGroup g
    if (s.grp g).place == .resident then .next s
    else
      match s.planFor part x with
      | some plan => (s.carryOut plan).placePlanned part x (plan.map (·.1))
      | none => s.placePlanned part x []

/-- `yield.x` offers the group to Bracken, which evicts it at this point where such work waits; in a continuation X is ignored (R98). -/
def execYieldX (sc : BitVec 3) (a : BitVec 6) (s : State) : Out :=
  let i : Instr := .yieldX sc a
  s.issue i fun s =>
    let t := s.pause i (a == 58)
    if (t.grp t.cur.g).shadow.isSome then .next t else t.giveWay t.cur.g

/-- PREEMPT_REQUEST (R324). -/
def execPreemptRequest (g : Nat) (s : State) : Out := .next (s.preemptGroup g)

/-- PREBOUND_EXPIRY: a deferred pre-emption reaches its bound (R324). -/
def execPreboundExpiry (g : Nat) (s : State) : Out :=
  .next (if (s.grp g).preempt.isSome && !s.defersPreempt g then s.preemptGroup g else s)

/-! ## Doorbells and slots (R300, R303) -/

/-- DOORBELL: a host write of WPTR; BAR 0 has a doorbell for each of 65,536 queues, and nothing beyond (R300, R343). -/
def execDoorbell (part q : Nat) (v : Word) (s : State) : Out :=
  let d := s.queue part q
  if 65536 ≤ q then .next s
  else if !s.queueValid part d || d.prod then .next ((s.modPkg fun p => { p with dropq := BitVec.ofNat 16 q }).msi 3)
  else if v.toNat < d.wptr || 2 ^ d.elog < v.toNat - d.rptr then .next ((s.putQueueWord part q 0 (d.w0 ||| 0x80)).msi 4)
  else .next (s.putQueueWord part q 3 v.toNat)

/-- The queues of a partition whose descriptor has a byte that is not 0 at its lowest address, where V stands: no other queue has V = 1. -/
def State.listedQueues (s : State) (part : Nat) : List Nat :=
  let base := dramKey part (s.queueAddr part 0)
  s.dram.filterMap fun c => if base ≤ c.1 && c.1 < base + 2 ^ 22 && (c.1 - base) % 64 == 0 then some ((c.1 - base) / 64) else none

/-- A queue has work to map it for. -/
def State.needsSlot (s : State) (part q : Nat) : Bool :=
  let p := s.part part
  let d := s.queue part q
  s.queueLive part d && d.held != 0 && !(p.slots.any fun x => x.q == q) && p.quiesce.isNone && !p.swapped && p.live

/-- The mapped queue that a queue of a level displaces (R303). -/
def State.displaced (s : State) (part level : Nat) : Option QSlot :=
  let p := s.part part
  match p.slots.find? fun x => (s.queue part x.q).held == 0 with
  | some x => some x
  | none =>
    leastBy (fun x : QSlot => (31 - (s.queue part x.q).level) * 2 ^ 40 + x.order)
      (p.slots.filter fun x => x.expired && decide (level ≤ (s.queue part x.q).level))

/-- QUEUE_MAP (R303). -/
def execQueueMap (part q : Nat) (s : State) : Out :=
  if !s.needsSlot part q then .next s
  else
    let add (p : Partition) (slots : List QSlot) : Partition :=
      { p with slots := slots ++ [⟨q, s.queueStored part q, p.mapCount, s.now, false⟩], mapCount := p.mapCount + 1 }
    if (s.part part).slots.length < 64 then .next (s.modPart part fun p => add p p.slots)
    else
      match s.displaced part (s.queue part q).level with
      | none => .next s
      | some x => .next (s.modPart part fun p => add p (p.slots.filter fun y => y.q != x.q))

/-- The slice of a mapped queue has passed. -/
def State.sliceOver (s : State) (part : Nat) (x : QSlot) : Bool := decide ((s.queue part x.q).slice * s.cyclesPerUs ≤ s.now - x.since)

/-- SLICE_EXPIRY (R303). -/
def execSliceExpiry (part q : Nat) (s : State) : Out :=
  .next (s.modPart part fun p => { p with slots := p.slots.map fun x => if x.q == q && s.sliceOver part x then { x with expired := true } else x })

/-! ## Retirement and completion (R18, R221, R307) -/

/-- A crew can retire: its groups have retired or died, nothing is outstanding, and its commands have finished (R18). -/
def State.crewDone (s : State) (c : Nat) : Bool :=
  let cr := s.crew c
  !cr.retired && decide (c < s.crews.length) && cr.groups.all (fun g => ((s.grp g).place == .retired || (s.grp g).place == .dead) && (s.grp g).acks.isEmpty) &&
    cr.tl.all fun t => t.cmds.isEmpty

/-- CREW_RETIRE: the crew releases at scope pkg, and its window, barriers and bindings end (R18, R221, R236, R244). -/
def execCrewRetire (c : Nat) (s : State) : Out :=
  if !s.crewDone c then .next s
  else
    let cr := s.crew c
    let s := match cr.groups.head? with | some g => s.release g 3 | none => s
    let s := s.modCrew c fun x =>
      { x with retired := true, granules := [], cb := Vector.replicate 16 CircBuf.undeclared, tl := Vector.replicate 8 Timeline.unbound }
    let s := { s with bars := s.bars.filter fun b => b.crew != some c }
    .next (s.modTask cr.task fun t => { t with retired := t.retired + 1, failed := t.failed || cr.failed })

/-- The completion add of a task, as `atom.add.pkg`; one that faults is dropped and logged (R307). -/
def State.completionAdd (s : State) (t : Task) : Out :=
  let va := t.pkt.compl
  let c := s.ctx t.ctx
  let drop : Out := .next (s.rasEntry 5 0 0)
  if va == 0 then .next s
  else if va % 8 != 0 then drop
  else
    match s.reach (s.firstQuad c.part) t.ctx (!c.isSys) .store va with
    | .void pa => .fault (.noDram pa)
    | .fault _ _ => drop
    | .ok x =>
      if (c.regionAt va).isSome || (!x.host && (s.lostHome c.part x.pa || s.poisoned c.part x.pa)) then drop
      else
        let cp := cachePart c.part x
        let s := if x.attr == 0 then s.invalidate (fun _ => true) cp (lineOf x.pa) else s
        let old := leNat (s.homeRead cp x.pa 8)
        let s := s.homeWrite cp x.pa (leBytes 8 (old + if t.failed then 2 ^ 32 else 1))
        .next (s.modCtx t.ctx fun c => { c with halos := c.halos.map fun h => (h.1, h.2.noteStale (va / 32)) })

/-- A completed graph node leaves the pool: its successors wait no more, and are cancelled if it failed (R311). -/
def Partition.freeNodeAt (p : Partition) (k : Nat) (failed : Bool) : Partition :=
  let gen := p.genOf k
  { p with
    nodes := (p.nodes.filter fun n => n.idx != k).map fun n =>
      if n.waits.contains (k, gen) then { n with waits := n.waits.filter fun w => w != (k, gen), cancelled := n.cancelled || failed } else n
    nodeGen := put k (gen + 1) p.nodeGen }

/-- What a task's completion does to its source: a node leaves the pool, a tape run goes on, or ends (R311, R312). -/
def State.sourceDone (s : State) (t : Task) : State :=
  match t.source with
  | .queue _ _ => s
  | .node part k => s.modPart part fun p => p.freeNodeAt k t.failed
  | .tape ctx =>
    s.modCtx ctx fun c =>
      match c.tapeRun with
      | none => c
      | some r => { c with tapeRun := if t.failed || decide (c.tapeDepth ≤ r.mark) then none else some { r with task := none } }

/-- A task can complete. -/
def Task.done (t : Task) : Bool := !t.complete && t.allPlaced && t.retired == t.ncrews

/-- TASK_COMPLETE (R307). -/
def execTaskComplete (t : Nat) (s : State) : Out :=
  if s.tasks.length ≤ t || !(s.task t).done then .next s
  else
    let k := s.task t
    match s.completionAdd k with
    | .next u =>
      let u := if k.pkt.msiv != 0 && decide (16 ≤ k.pkt.msiv) then u.msi k.pkt.msiv else u
      let u := (u.modTask t fun x => { x with complete := true }).sourceDone k
      .next { u with bars := u.bars.filter fun b => b.task != t }
    | o => o

end Sys2Proof.Machine
end

