-- ==== Sys2Proof/Machine/Links.lean ====
section
/-! DEFINITION. Ring entries, sending on Yarrow links, and the generations of pod barriers (R286, R287, R290, R295). -/

namespace Sys2Proof.Machine

/-! ## Rings (R287) -/

/-- A valid ring entry: members, this member's position, ports toward the next member and from the previous one. -/
structure RingEnt where
  n : Nat
  pos : Nat
  tx : List Nat
  rx : List Nat
deriving DecidableEq, Repr

/-- The set bits of a port mask, ascending. -/
def portsOf (m : Nat) : List Nat := (List.range 16).filter fun k => bitAt m k

/-- The two words read as an entry; `none` where they are invalid (R287). -/
def ringOf (w : Word × Word) : Option RingEnt :=
  let a := w.1.toNat
  let b := w.2.toNat
  let nm1 := bits a 1 8
  let pos := bits a 9 8
  let tx := portsOf (bits b 0 16)
  let rx := portsOf (bits b 16 16)
  let ok (l : List Nat) : Bool := decide (1 ≤ l.length) && decide (l.length ≤ 4)
  if bitAt a 0 && nm1 != 0 && decide (pos ≤ nm1) && ok tx && ok rx && tx.length == rx.length && bits a 17 47 == 0 && bits b 32 32 == 0
  then some ⟨nm1 + 1, pos, tx, rx⟩ else none

/-- Ring r of a partition. -/
def State.ring (s : State) (part r : Nat) : Option RingEnt := ringOf ((s.part part).rings[r]?.getD (0, 0))

/-! ## Sending (R286) -/

/-- This package's number (R287). -/
def State.pkgNo (s : State) : Nat := bits s.pkg.podid.toNat 0 8

def State.port (s : State) (p : Nat) : Port := s.pkg.ports[p]?.getD Port.fresh
def State.modPort (s : State) (p : Nat) (f : Port → Port) : State :=
  s.modPkg fun k => { k with ports := k.ports.setIfInBounds p (f (s.port p)) }

/-- A packet numbered and put into a port's replay buffer. -/
def State.send (s : State) (p : Nat) (pkt : Packet) : State :=
  s.modPort p fun q => { q with buffer := q.buffer ++ [{ pkt with seq := q.txSeq }], txSeq := q.txSeq + 1 }

/-- A packet with nothing but its kind, its ends and its ring. -/
def State.blank (s : State) (kind : PacketKind) (ring : Nat) : Packet :=
  { kind := kind, seq := 0, crcOk := true, poison := false, src := s.pkgNo, dst := 0, ring := ring, nth := 0, opcode := 0, form := 0, rm := 0,
    ef := false, chunk := 0, hop := 0, crew := 0, tl := 0, ctx := 0, addr := 0, cause := 0, sub := 0, payload := [] }

/-! ## Pod barriers (R295) -/

/-- Packets that say that members of a ring have reached their counts in a generation. -/
def podNotice (r : RingEnt) (id gen : Nat) (x : Nat × Packet) : Bool :=
  x.2.kind == .barrier && x.2.ring == id && x.2.nth == gen && r.rx.contains x.1

/-- The partition of a barrier instance. -/
def State.barPart (s : State) (b : BarInst) : Nat := (s.ctx (s.task b.task).ctx).part

/-- A pod barrier whose count is reached here and at every other member completes its generation. -/
def State.podCheck (s : State) (k : Nat) : State :=
  match s.bars[k]? with
  | none => s
  | some b =>
    match s.ring (s.barPart b) b.id with
    | none => s
    | some r =>
      let mine := s.pkg.inbox.filter (podNotice r b.id b.gen)
      let srcs := mine.foldl (fun acc x => addNo x.2.src acc) []
      if b.scope == 4 && b.reached && decide (r.n - 1 ≤ srcs.length) then
        let s := s.modPkg fun p => { p with inbox := p.inbox.filter fun x => !podNotice r b.id b.gen x }
        { s with bars := modAt (fun q : BarInst => { q with gen := q.gen + 1, cnt := 0, reached := false }) k s.bars }
      else s

/-- This package's count is reached: the other members are told, one after another round the ring (log entry 13). -/
def State.podReached (s : State) (k : Nat) : State :=
  match s.bars[k]? with
  | none => s
  | some b =>
    let s := { s with bars := modAt (fun q : BarInst => { q with reached := true, since := s.now }) k s.bars }
    match s.ring (s.barPart b) b.id with
    | none => s
    | some r => (s.send (r.tx.headD 0) { s.blank .barrier b.id with nth := b.gen }).podCheck k

end Sys2Proof.Machine
end

