-- ==== Sys2Proof/Machine/Order.lean ====
section
/-! DEFINITION. The ordering and synchronisation instructions: `fence`, `bar`, `pbar`, `tlwait`, `swarm`, `swwait` (R225 to R233), and
the shared form of a wait (R226, R326). -/

namespace Sys2Proof.Machine

/-! ## Waits -/

/-- The lowest `cid` among the dead groups of the unit's crew (R326). -/
def State.deadCid (s : State) : Nat :=
  let ds := (s.groups.filter fun gr => gr.crew == (s.grp s.cur.g).crew && gr.place == .dead && gr.shadow.isNone).map Group.cid
  (leastBy (fun n : Nat => n) ds).getD 0

/-- The wait part of a unit: the rest where a death has found it met, PEERLOST where a peer's death has ended it, the rest where
its condition holds, a wait otherwise (R326). -/
def State.waitThen (s : State) (i : Instr) (rest : State → Out) : Out :=
  if s.cur.met then rest s
  else if s.lost i then .next (s.fault i s.cur.lanes (addrTrap cPEERLOST ((peerWait i).getD 0) (BitVec.ofNat 64 s.deadCid)) false)
  else if s.cond i then rest s
  else .next (s.await i true)

/-- The release part of a unit: it waits until the group is quiet, releases at a scope, and goes on; a unit whose release has been
performed goes on at once (R226, R318). -/
def State.releaseThen (s : State) (i : Instr) (scope : Nat) (rest : State → Out) : Out :=
  if s.cur.rdone then rest s
  else if !s.mayRelease i then .next (s.await i false)
  else rest (s.release s.cur.g scope)

/-- An acquire of the unit's lanes: scope actions, and the marks on their fork records (R106, R224). -/
def State.acquireLanes (s : State) (scope : Nat) : State := (s.acquire s.cur.g scope).acquireMarks s.cur.g s.cur.lanes

/-! ## fence (R228) -/

/-- `fence`: every form waits for the older operations of the group (R16, R226, R228). -/
def execFence (sc c : BitVec 3) (m : BitVec 2) (s : State) : Out :=
  let i : Instr := .fence sc c m
  s.issue i fun s =>
    if !s.mayRelease i then .next (s.await i false)
    else
      let s := if m.getLsbD 1 then s.release s.cur.g c.toNat else s
      .next (if m.getLsbD 0 then s.acquireLanes c.toNat else s)

/-! ## bar (R229, R231, R295) -/

/-- Groups of a crew that have neither retired nor died. -/
def State.liveGroups (s : State) (c : Nat) : List Group :=
  s.groups.filter fun gr => gr.crew == c && gr.shadow.isNone && (gr.place == .resident || gr.place == .evicted)

/-- The default limit at core and quad scope (R229). At core scope an evicted group counts on the core it was last placed on (DEDUCED, log entry
55). -/
def State.barDefault (s : State) (g scope : Nat) : Nat :=
  let gr := s.grp g
  ((s.liveGroups gr.crew).filter fun x => scope == 1 || x.core == gr.core).length

/-- The place of a barrier instance in the state, made where it does not exist. -/
def State.barAt (s : State) (g id scope : Nat) : State × Nat :=
  match findIx (s.isBar g id scope) s.bars with
  | some (k, _) => (s, k)
  | none =>
    let new : BarInst :=
      { task := (s.crewOf g).task, crew := if scope ≤ 1 then some (s.grp g).crew else none, id := id, scope := scope,
        inst := s.scopeInst g scope, gen := 0, cnt := 0, limit := 0, reached := false, since := 0 }
    ({ s with bars := s.bars ++ [new] }, s.bars.length)

/-- The trap of an arrive. A pod barrier over an invalid ring entry raises what a command over it raises (log entry 13). -/
def State.barFault (s : State) (g id scope c : Nat) (b : BarInst) : Option TrapInfo :=
  let bad (e : BitVec 8) : Option TrapInfo := some (addrTrap cENGINE e (BitVec.ofNat 64 id))
  if c == 0 && decide (2 ≤ scope) then bad 0x51
  else if b.cnt != 0 && c != 0 && c != b.limit then bad 0x51
  else if scope == 4 && (s.ring (s.partNo g) id).isNone then bad 0x80
  else none

/-- The arrival counted, and the group's record set. -/
def State.barArrive (s : State) (g id scope c k : Nat) : State :=
  let b := s.bars.getD k ⟨0, none, 0, 0, 0, 0, 0, 0, false, 0⟩
  let limit := if b.cnt != 0 then b.limit else if c != 0 then c else s.barDefault g scope
  let s := s.modGrp g fun gr =>
    { gr with bars := (gr.bars.filter fun r => !(r.id == id && r.scope == scope)) ++ [⟨id, scope, b.gen⟩] }
  let full := b.cnt + 1 == limit
  let upd (q : BarInst) : BarInst :=
    if full && scope != 4 then { q with cnt := 0, limit := limit, gen := q.gen + 1 } else { q with cnt := q.cnt + 1, limit := limit }
  let s := { s with bars := modAt upd k s.bars }
  if full && scope == 4 then s.podReached k else s

/-- The arrive part of `bar`: once it has been counted, the unit is an entry with RDONE set (R229, R318). -/
def State.arriveThen (s : State) (i : Instr) (id scope : Nat) (rest : State → Out) : Out :=
  if s.cur.rdone then rest s
  else
    s.releaseThen i scope fun s =>
      let g := s.cur.g
      let c := bits (s.scal i .A).toNat 0 16
      let (s, k) := s.barAt g id scope
      match s.barFault g id scope c (s.bars.getD k ⟨0, none, 0, 0, 0, 0, 0, 0, false, 0⟩) with
      | some t => .next (s.fault i s.cur.lanes t false)
      | none => rest { s.barArrive g id scope c k with cur := { s.cur with rdone := true } }

/-- The wait part of `bar`. -/
def State.barWaitThen (s : State) (i : Instr) (id scope : Nat) : Out :=
  s.waitThen i fun s =>
    let s := s.modGrp s.cur.g fun gr => { gr with bars := gr.bars.filter fun r => !(r.id == id && r.scope == scope) }
    .next (s.acquireLanes scope)

def execBarSync (sc : BitVec 3) (d a : BitVec 6) (c : BitVec 3) (s : State) : Out :=
  let i : Instr := .barSync sc d a c
  s.issue i fun s => s.arriveThen i d.toNat c.toNat fun s => s.barWaitThen i d.toNat c.toNat

def execBarArrive (sc : BitVec 3) (d a : BitVec 6) (c : BitVec 3) (s : State) : Out :=
  let i : Instr := .barArrive sc d a c
  s.issue i fun s => s.arriveThen i d.toNat c.toNat fun s => .next s

def execBarWait (sc : BitVec 3) (d a : BitVec 6) (c : BitVec 3) (s : State) : Out :=
  let i : Instr := .barWait sc d a c
  s.issue i fun s => s.barWaitThen i d.toNat c.toNat

/-! ## pbar (R230, R231) -/

/-- The checks of a barrier word's offset; a word in a poisoned sector is read, or written in part (R193). -/
def State.pbarOffset (s : State) (i : Instr) : Option TrapInfo :=
  let o := s.scal i .A
  if o.toNat % 8 != 0 then some (addrTrap cALIGN 0x00 o)
  else if (s.crewOf s.cur.g).window < o.toNat + 8 then some (addrTrap cPROT 0x04 o)
  else if s.boxPoison (s.grp s.cur.g).crew o.toNat 8 then some (addrTrap cPOISON 0x00 o)
  else none

/-- A barrier instruction of a scratchpad word, its offset checked. -/
def State.pbarThen (s : State) (i : Instr) (rest : Nat → Out) : Out :=
  match s.pbarOffset i with
  | some t => .next (s.fault i s.cur.lanes t false)
  | none => rest (s.scal i .A).toNat

def State.pbarBadAt (s : State) (i : Instr) : Out :=
  .next (s.fault i s.cur.lanes (addrTrap cENGINE 0x50 (s.scal i .A)) false)

def execPbarInit (sc : BitVec 3) (a b : BitVec 6) (s : State) : Out :=
  let i : Instr := .pbarInit sc a b
  s.issue i fun s => s.pbarThen i fun o =>
    let c := bits (s.scal i .B).toNat 0 16
    if c == 0 then s.pbarBadAt i else .next (s.writeScratch (s.grp s.cur.g).crew o (leBytes 8 (c + c * 2 ^ 16)))

/-- The word after an arrival. -/
def pbarStep (w : Nat) : Nat :=
  let pend := pbarPEND w - 1
  if pend == 0 then pbarEXP w + 2 ^ 16 * pbarEXP w + 2 ^ 32 * (1 - pbarPH w) else pbarEXP w + 2 ^ 16 * pend + 2 ^ 32 * pbarPH w

def execPbarArrive (sc : BitVec 3) (a : BitVec 6) (s : State) : Out :=
  let i : Instr := .pbarArrive sc a
  s.issue i fun s => s.pbarThen i fun o => s.releaseThen i 1 fun s =>
    let c := (s.grp s.cur.g).crew
    let w := pbarWord (s.crew c).scratch o
    if pbarBad w then s.pbarBadAt i else .next (s.writeScratch c o (leBytes 8 (pbarStep w)))

def execPbarWait (sc : BitVec 3) (a b : BitVec 6) (s : State) : Out :=
  let i : Instr := .pbarWait sc a b
  s.issue i fun s => s.pbarThen i fun o => s.waitThen i fun s =>
    if pbarBad (pbarWord (s.crewOf s.cur.g).scratch o) then s.pbarBadAt i else .next (s.acquireLanes 1)

/-! ## tlwait (R232) -/

/-- `tlwait`. A park of the group's own comes as its trap, whatever the counter (R232, R240). -/
def execTlwait (sc : BitVec 3) (d a : BitVec 6) (s : State) : Out :=
  let i : Instr := .tlwait sc d a
  s.issue i fun s =>
    match s.parkDue d.toNat with
    | some p => .next (s.takePark i d.toNat p)
    | none =>
      if (s.scal i .A).toNat ≤ ((s.crewOf s.cur.g).tline d.toNat).count then .next (s.acquireMarks s.cur.g s.cur.lanes)
      else .next (s.await i true)

/-! ## Sync words (R233) -/

/-- The check of a sync word. -/
def SyncWord.check (w : SyncWord) : SyncWord :=
  if w.target != 0 && decide (w.target.toNat ≤ w.count.toNat) then ⟨0, w.count - w.target, w.gen + 1⟩ else w

/-- Bytes counted into a sync word; COUNT saturates. -/
def SyncWord.arrive (n : Nat) (w : SyncWord) : SyncWord :=
  SyncWord.check { w with count := BitVec.ofNat 32 (min (w.count.toNat + n) 0xFFFFFFFF) }

def State.modSync (s : State) (c k : Nat) (f : SyncWord → SyncWord) : State :=
  s.modCrew c fun cr => { cr with sw := cr.sw.setIfInBounds k (f (cr.sw[k]?.getD ⟨0, 0, 0⟩)) }

def execSwarm (sc : BitVec 3) (d a : BitVec 6) (s : State) : Out :=
  let i : Instr := .swarm sc d a
  s.issue i fun s =>
    .next (s.modSync (s.grp s.cur.g).crew d.toNat fun w => SyncWord.check { w with target := BitVec.ofNat 32 (s.scal i .A).toNat })

def execSwwait (sc : BitVec 3) (d a : BitVec 6) (s : State) : Out :=
  let i : Instr := .swwait sc d a
  s.issue i fun s => s.waitThen i fun s => .next (s.acquireLanes 1)

end Sys2Proof.Machine
end

