-- ==== Sys2Proof/Machine/Engines.lean ====
section
/-! DEFINITION. What the three engines of a quad share: memory as an engine reaches it (R180, R220, R222, R263), streams through
circular buffers (R242), parks (R240), and the numbering and queueing of commands (R236, R237, R251). -/

namespace Sys2Proof.Machine

/-! ## Device memory -/

/-- Why an engine step cannot be made: its context parks, or no memory answers. -/
inductive Stop where
  | park (cause sub : BitVec 8) (faddr : Nat)
  | void (pa : Nat)
deriving DecidableEq, Repr

/-- A range of bytes cut at the 32-byte sectors: address and length of each piece. -/
def pieces (va n : Nat) : List (Nat × Nat) :=
  if n == 0 then []
  else
    (List.range ((va + n - 1) / 32 + 1 - va / 32)).map fun j =>
      let lo := max va (32 * (va / 32 + j))
      (lo, min (va + n) (32 * (va / 32 + j + 1)) - lo)

/-- The checks of one piece but for its poison: translation, declared regions, lost homes, halo tiles, marks (R180, R192, R194, R222, R240) (log entry 28). -/
def State.engReach (s : State) (a : Agent) (k : Acc) (va : Nat) : Stop ⊕ Xl :=
  match s.reach a.quad a.ctx a.user k.kind va with
  | .void pa => .inl (.void pa)
  | .fault c d => .inl (.park c d 0)
  | .ok x =>
    if ((s.ctx a.ctx).regionAt va).isSome then .inl (.park cENGINE 0x47 0)
    else if x.host then .inr x
    else if s.lostHome a.part x.pa then .inl (.park cHOMELOST 0x00 0)
    else if k != .load && ((s.ctx a.ctx).haloAt va).any (fun h => h.2.owner != a.quad) then .inl (.park cHALOWRITE 0x00 0)
    else if x.attr == 0 && s.races a.part x.pa a.crew a.core then .inl (.park cRACE 0x03 0)
    else .inr x

/-- One piece with its poison: a read, or a write of a part, of a poisoned sector (R193). -/
def State.engPiece (s : State) (a : Agent) (k : Acc) (p : Nat × Nat) : Option Stop :=
  match s.engReach a k p.1 with
  | .inl st => some st
  | .inr x =>
    if !x.host && s.poisoned a.part x.pa && (k != .store || p.2 != 32) then some (.park cPOISON 0x00 0) else none

/-- The first stop of an engine's access to a range. -/
def State.engCheck (s : State) (a : Agent) (k : Acc) (va n : Nat) : Option Stop := (pieces va n).findSome? (s.engPiece a k)

/-- The bytes of a range, read at the home (R263) (log entry 28). -/
def State.engRead (s : State) (a : Agent) (va n : Nat) : List Byte :=
  (pieces va n).flatMap fun p =>
    match s.reach a.quad a.ctx a.user .load p.1 with
    | .ok x => s.homeRead (cachePart a.part x) x.pa p.2
    | _ => List.replicate p.2 0

/-- A little-endian number read so. -/
def State.engNum (s : State) (a : Agent) (va n : Nat) : Nat := leNat (s.engRead a va n)

/-- A quad's own copy of an SI line, where it has one, takes bytes that an engine of the quad has written at the home: whole sectors are
clean there, like the home's (R185, R218, R232). -/
def State.refreshSi (s : State) (quad cp : Nat) (x : Xl) (bs : List Byte) : State :=
  match s.siCopy quad cp (lineOf x.pa) with
  | none => s
  | some (c, d, m) =>
    let off := x.pa % 256
    let old := imgBytes d
    let new := imgOf (old.take off ++ bs ++ old.drop (off + bs.length))
    let dirty := if bs.length == 32 then m &&& ~~~(BitVec.ofNat 8 (2 ^ (off / 32))) else m
    { s with cache := s.cache.map fun y => if y.same c then { y with kind := .si new dirty true } else y }

/-- One piece written at the home: every DT copy of the line in an L1 goes, the crew's quad keeps no older SI bytes, the sector is marked for
the crew, and a whole sector loses its poison (R183, R193, R218, R220). -/
def State.engWritePiece (s : State) (a : Agent) (va : Nat) (bs : List Byte) : State :=
  match s.reach a.quad a.ctx a.user .store va with
  | .ok x =>
    let cp := cachePart a.part x
    let s := if x.attr == 0 then s.invalidate (fun _ => true) cp (lineOf x.pa) else s
    let s := (((s.mark a va x).homeWrite cp x.pa bs).refreshSi a.quad cp x bs).noteStale a va
    if bs.length == 32 then (s.setPoison (.home cp (x.pa / 32)) false).setPoison (.si a.quad cp (x.pa / 32)) false else s
  | _ => s

/-- Bytes written to a range, in ascending order of its sectors (R227). -/
def State.engWrite (s : State) (a : Agent) (va : Nat) (bs : List Byte) : State :=
  (pieces va bs.length).foldl (fun s p => s.engWritePiece a p.1 ((bs.drop (p.1 - va)).take p.2)) s

/-- The line requests of a step: a line is not requested again while it is among the last sixteen that the command requested; requests
stamp the home slice (R170, R262, log entry 15). The lines requested last are answered too. -/
def State.request (s : State) (a : Agent) (nud : Nat) (old : List (Nat × Nat)) (vas : List Nat) : State × List (Nat × Nat) :=
  vas.foldl (fun acc va =>
    match acc.1.reach a.quad a.ctx a.user .load va with
    | .ok x =>
      let key := (cachePart a.part x, lineOf x.pa)
      if acc.2.contains key then acc
      else
        let t := acc.1.fillTlb a.quad a.ctx va
        let v := if x.attr == 2 then 15 else nud
        (if x.host then t else t.touchL2 a.part key.2 ((t.clock a.crew).stamp a.ctx v false), (key :: acc.2).take 16)
    | _ => acc) (s, old)

/-- The addresses at which the lines of a range begin to be read. -/
def lineStarts (va n : Nat) : List Nat := (pieces va n).map (·.1)

/-! ## Commands on their timelines -/

def State.cmdAt (s : State) (c tl n : Nat) : Option Cmd := ((s.crew c).tline tl).cmds.find? fun x => x.n == n
def Timeline.modCmd (t : Timeline) (n : Nat) (f : Cmd → Cmd) : Timeline :=
  { t with cmds := t.cmds.map fun x => if x.n == n then f x else x }
def State.modCmd (s : State) (c tl n : Nat) (f : Cmd → Cmd) : State := s.modTl c tl fun t => t.modCmd n f

/-- A command that may make a step: in progress on a resident context, not done, and not parked. -/
def State.liveCmd (s : State) (c tl n : Nat) : Option Cmd :=
  let t := (s.crew c).tline tl
  if t.stuck n || !t.resident then none else (s.cmdAt c tl n).filter fun x => x.started && !x.done

/-- Word j of a command's block. -/
def Cmd.w (x : Cmd) (j : Nat) : Nat := (x.blk.getD j 0).toNat
/-- A field of word j. -/
def Cmd.f (x : Cmd) (j lo n : Nat) : Nat := bits (x.w j) lo n

/-! ## Tensors (R247) -/

def Tensor.word (t : Tensor) (j : Nat) : Nat := (t[j]?.getD 0).toNat
def Tensor.base (t : Tensor) : Nat := bits (t.word 0) 0 52
def Tensor.fmt (t : Tensor) : Nat := bits (t.word 0) 52 4
def Tensor.scale (t : Tensor) : Nat := bits (t.word 1) 0 52
/-- Extent of dimension d. -/
def Tensor.ext (t : Tensor) (d : Nat) : Nat := bits (t.word (2 + d / 2)) (32 * (d % 2)) 32
/-- Byte stride of dimension d, 1 to 3. -/
def Tensor.stride (t : Tensor) (d : Nat) : Nat := bits (t.word (3 + d)) 0 48
def Tensor.xv (t : Tensor) : Nat := bits (t.word 7) 0 32
def Tensor.dims (t : Tensor) : Nat := bits (t.word 7) 32 2 + 1
/-- Element width in bits. -/
def Tensor.width (t : Tensor) : Nat := fmtWidth t.fmt
def Tensor.zero : Tensor := Vector.replicate 8 0
/-- Address of the byte in which an element lies. -/
def Tensor.addr (t : Tensor) (c0 c1 c2 c3 : Nat) : Nat :=
  t.base + c0 * t.width / 8 + c1 * t.stride 1 + c2 * t.stride 2 + c3 * t.stride 3
def Tensor.inside (t : Tensor) (c0 c1 c2 c3 : Nat) : Bool :=
  decide (c0 < t.ext 0) && decide (c1 < t.ext 1) && decide (c2 < t.ext 2) && decide (c3 < t.ext 3)

/-- An entry of the unit's context, as it stood when the unit issued (R246). -/
def State.tensor (s : State) (g t : Nat) : Option Tensor :=
  match look s.cur.ents t with
  | some e => e
  | none => look (s.ctxOf g).tensors t

/-- The code that starts at bit `off` of bytes read from a byte boundary: of elements of width w. -/
def codeIn (bs : List Byte) (off w : Nat) : Nat := bits (leNat bs) off w

/-! ## Parks (R240, R270) -/

def engineNo : Engine → Nat
  | .copy => 0
  | .matrix => 1
  | .index => 2

/-- Identifier and format as a frame shows them (R320). -/
def tidCode (tid fmt : Nat) : BitVec 12 := BitVec.ofNat 12 (tid % 256 + 256 * fmt)

/-- The operands of a matrix command in its frame: A, weights, destination (R78, R320). -/
def Cmd.frameIds (x : Cmd) (m : MatCtx) : BitVec 12 × BitVec 12 × BitVec 12 :=
  let own := tidCode (x.f 0 16 8) ((x.ent.getD Tensor.zero).fmt)
  match x.instr with
  | .mld _ _ _ _ => (0, own, 0)
  | .mma _ _ _ _ _ => let sl := m.w[x.f 0 7 1]?.getD WSlot.empty; (own, tidCode sl.tid sl.fmt, 0)
  | .mmas _ _ _ _ => (own, tidCode (x.f 2 0 8) ((x.ent2.getD Tensor.zero).fmt), 0)
  | .mwb _ _ _ _ => (0, 0, own)
  | _ => (0, 0, 0)

/-- A command's context parks: the trap that its group will take, with the step counter and, for NONFINITE of a tile, row, column
and K-step. A command that faults while its context is parked on another stops where it stands; it meets its fault again when it goes on. -/
def State.parkAs (s : State) (c tl : Nat) (x : Cmd) (cause sub ocause osub : BitVec 8) (faddr row col kstep : Nat) : State :=
  let t := (s.crew c).tline tl
  let ids := x.frameIds t.mat
  let e : EngFrame :=
    { ocause := ocause, osub := osub, tl := tl, engn := match t.engine with | some e => engineNo e | none => 0, cmdno := x.n, step := x.step,
      row := row, col := col, kstep := kstep, tida := ids.1, tidb := ids.2.1, tidd := ids.2.2 }
  let word := if cause == cNONFINITE && t.engine == some .matrix then some x.word else none
  if t.parked.isSome then s.modCmd c tl x.n fun y => { y with stopped := true }
  else s.modTl c tl fun t => { t with draining := true, parked := some ⟨x.n, x.g, ⟨cause, sub, BitVec.ofNat 64 faddr, some e⟩, word, false⟩ }

/-- A park on an original cause: ENGINE and NONFINITE appear under their own sub-cause, any other under ENGINE 0x00. -/
def State.park (s : State) (c tl : Nat) (x : Cmd) (cause sub : BitVec 8) (faddr : Nat) : State :=
  if cause == cENGINE || cause == cNONFINITE then s.parkAs c tl x cause sub cause sub faddr 0 0 0
  else s.parkAs c tl x cENGINE 0x00 cause sub faddr 0 0 0

/-- A step that stops. -/
def State.stopCmd (s : State) (c tl : Nat) (x : Cmd) (st : Stop) : Out :=
  match st with
  | .park cause sub faddr => .next (s.park c tl x cause sub faddr)
  | .void pa => .fault (.noDram pa)

/-! ## Sources: each sector is read once (R238, R250, R263, R275, R283) -/

/-- The sectors that a range touches. -/
def sectorsIn (va n : Nat) : List Nat := (pieces va n).map fun p => p.1 / 32

/-- The sectors of a range, as a command keeps them. -/
def keysAt (base va n : Nat) : List Nat := (sectorsIn va n).map (base + ·)

/-- Bytes of a range of sectors that the command has read. -/
def Cmd.read (x : Cmd) (base va n : Nat) : List Byte :=
  (pieces va n).flatMap fun p => ((leBytes 32 ((look x.got (base + p.1 / 32)).getD 0).toNat).drop (p.1 % 32)).take p.2
def Cmd.readNum (x : Cmd) (base va n : Nat) : Nat := leNat (x.read base va n)

/-! ## Streams through buffers (R242) -/

/-- Elements of e bytes that the bytes lo to hi − 1 of a stream touch, and those that end there. -/
def elemsIn (e lo hi : Nat) : Nat := (hi + e - 1) / e - lo / e
def elemsEnd (e lo hi : Nat) : Nat := hi / e - lo / e

/-- Window offset of byte p of a stream whose byte lo lies in the element at a count. -/
def CircBuf.place (b : CircBuf) (count : BitVec 32) (lo p : Nat) : Nat :=
  b.base + (count + BitVec.ofNat 32 (p / b.elem - lo / b.elem)).toNat % b.cap * b.elem + p % b.elem

/-- Bytes p to p + n − 1 of a stream whose byte lo stands at its buffer's CP: a sector that the command has read ahead is as it was then (R263). -/
def State.streamBytes (s : State) (c : Nat) (x : Cmd) (b : CircBuf) (lo p n : Nat) : List Byte :=
  (pieces p n).flatMap fun q =>
    match look x.got (streamBase + q.1 / 32) with
    | some d => ((leBytes 32 d.toNat).drop (q.1 % 32)).take q.2
    | none => (List.range q.2).map fun j => Mem.get (s.crew c).scratch (b.place b.cp lo (q.1 + j))

/-- Bytes lo to hi − 1 of a stream taken from a buffer: CP passes every element whose last byte is among them. -/
def State.takeBuf (s : State) (c : Nat) (x : Cmd) (b lo hi : Nat) : State × List Byte :=
  let buf := (s.crew c).buf b
  (s.modCrew c fun cr => cr.setBuf b { buf with cp := buf.cp + BitVec.ofNat 32 (elemsEnd buf.elem lo hi) }, s.streamBytes c x buf lo lo (hi - lo))

/-- A sector of the next bytes of a stream is poisoned (R193). -/
def State.bufPoison (s : State) (c : Nat) (b : CircBuf) (lo n : Nat) : Option Stop :=
  if !s.poison.isEmpty && ((pieces lo n).any fun p => s.poison.contains (.scratch c (b.place b.cp lo p.1 / 32))) then some (.park cPOISON 0x00 0) else none

/-- Bytes of a stream put into a buffer: PP passes every element whose last byte is among them. -/
def State.putBuf (s : State) (c b lo : Nat) (bs : List Byte) : State :=
  let buf := (s.crew c).buf b
  let s := (pieces lo bs.length).foldl (fun s p => s.writeScratch c (buf.place buf.pp lo p.1) ((bs.drop (p.1 - lo)).take p.2)) s
  s.modCrew c fun cr => cr.setBuf b { buf with pp := buf.pp + BitVec.ofNat 32 (elemsEnd buf.elem lo (lo + bs.length)) }

/-- The bytes lo to hi − 1 may be moved, in steps of `unit` bytes whose elements must all be there, or have room. -/
def streamReady (avail e unit lo hi : Nat) : Bool := decide (elemsIn e lo ((hi + unit - 1) / unit * unit) ≤ avail)

/-! ## Which buffers a command uses -/

/-- A copy's source and destination buffers. -/
def spaceBuf (w : Nat) : Option Nat := if bits w 52 3 == 3 then some (bits w 0 4) else none

/-- The buffers that a command reads, and those it writes. -/
def Cmd.inBuf (x : Cmd) : Option Nat :=
  match x.instr with
  | .cpy _ _ _ _ => spaceBuf (x.w 0)
  | .mld _ _ _ _ | .mma _ _ _ _ _ | .mmas _ _ _ _ | .ixs _ _ _ _ => if x.f 0 6 1 == 1 then some (x.f 0 24 4) else none
  | _ => none
def Cmd.outBuf (x : Cmd) : Option Nat :=
  match x.instr with
  | .cpy _ _ _ _ => spaceBuf (x.w 1)
  | .cpyx _ _ _ _ => if x.f 3 20 1 == 1 then some (x.f 3 0 4) else none
  | .mwb _ _ _ _ | .ixg _ _ _ _ => if x.f 0 6 1 == 1 then some (x.f 0 24 4) else none
  | _ => none

/-- The command uses a buffer, on either side. -/
def Cmd.usesBuf (x : Cmd) (b : Nat) : Bool := x.inBuf == some b || x.outBuf == some b

/-- Another command moves the same side of a buffer before this one: a lower-numbered one of its timeline, or one of another timeline
that has begun (R242). -/
def State.sideHeld (s : State) (c tl : Nat) (x : Cmd) (side : Cmd → Option Nat) : Bool :=
  (side x).isSome && (List.range 8).any fun k =>
    ((s.crew c).tline k).cmds.any fun y =>
      side y == side x && !y.done &&
        (if k == tl then decide (y.n < x.n) else y.started && (y.step != 0 || y.pos != 0) && x.step == 0 && x.pos == 0)

/-! ## Reading a source, in any order of its sectors (R263) -/

/-- The buffer can hold the whole operand (log entry 48). -/
def CircBuf.fits (b : CircBuf) (total : Nat) : Bool := decide (total / b.elem ≤ b.cap)

/-- Bytes of the image that a matrix command reads through a buffer (R265 to R267). -/
def Cmd.operandSize (x : Cmd) : Nat :=
  match x.instr with
  | .mld _ _ _ _ => 16384
  | _ => 128 * (x.f 0 32 7 + 1)

/-- The byte of its input stream at which a command finds its buffer's CP: CP passes an operand that the buffer can hold only when all of it has
been read (R262). -/
def Cmd.streamLo (x : Cmd) (b : CircBuf) : Nat :=
  let part (lo : Nat) : Nat := if b.fits x.operandSize then 0 else lo
  match x.instr with
  | .mld _ _ _ _ => part (32 * x.step)
  | .mma _ _ _ _ _ => part (128 * x.step)
  | .mmas _ _ _ _ => part x.pos
  | .ixs _ _ _ _ => x.pos * (4 * (x.ent.getD Tensor.zero).ext 0)
  | _ => x.pos

/-- The sector of a stream that a key names: its first byte, and where that byte stands in the window. -/
def Cmd.streamSpot (x : Cmd) (b : CircBuf) (key : Nat) : Nat × Nat :=
  let p := 32 * (key - streamBase)
  (p, b.place b.cp (x.streamLo b) p)

/-- The input buffer of a command. -/
def State.inBuffer (s : State) (c : Nat) (x : Cmd) : CircBuf := (s.crew c).buf (x.inBuf.getD 0)

/-- What stops the reading of a sector. -/
def State.sourceStop (s : State) (c : Nat) (x : Cmd) (key : Nat) : Option Stop :=
  if key < scratchBase then s.engPiece (s.agent x.g) .load (32 * key, 32)
  else if !s.poison.isEmpty && s.poison.contains (.scratch c (if key < streamBase then key - scratchBase else (x.streamSpot (s.inBuffer c x) key).2 / 32))
  then some (.park cPOISON 0x00 0)
  else none

/-- The contents of a sector. -/
def State.sourceData (s : State) (c : Nat) (x : Cmd) (key : Nat) : BitVec 256 :=
  BitVec.ofNat 256 (
    if key < scratchBase then s.engNum (s.agent x.g) (32 * key) 32
    else if key < streamBase then Mem.num (s.crew c).scratch (32 * (key - scratchBase)) 32
    else let b := s.inBuffer c x; leNat (s.streamBytes c x b (x.streamLo b) (x.streamSpot b key).1 32))

/-- Sectors read, and the lines of device memory among them requested. -/
def State.readSectors (s : State) (c tl : Nat) (x : Cmd) (fetch : State → List Nat → State) (keys : List Nat) : State :=
  let new := keys.map fun k => (k, s.sourceData c x k)
  let mem := (keys.filter fun k => decide (k < scratchBase)).map fun k => 32 * k
  (if mem.isEmpty then s else fetch s mem).modCmd c tl x.n fun y => { y with got := new ++ y.got }

/-- The sectors among some that the command has not read. -/
def Cmd.lacks (x : Cmd) (keys : List Nat) : List Nat := (keys.filter fun k => (look x.got k).isNone).eraseDups

/-- A sector may be read now: nothing stops it, and, in a stream, its elements are in the buffer and it is the command's turn there (R242). -/
def State.mayRead (s : State) (c tl : Nat) (x : Cmd) (key : Nat) : Bool :=
  let b := s.inBuffer c x
  (s.sourceStop c x key).isNone && (decide (key < streamBase) ||
    (!s.sideHeld c tl x Cmd.inBuf && streamReady b.occ b.elem b.elem (x.streamLo b) ((x.streamSpot b key).1 + 32)))

/-- The machine may read some of the sectors that a command lacks ahead of the others, whichever of its steps they belong to; `keysOf j` are
those of the j-th step from the next one on (R263; log entry 1). -/
def State.prefetch (s : State) (c tl : Nat) (x : Cmd) (fetch : State → List Nat → State) (keysOf : Nat → List Nat) : Bool × State :=
  let (m, s) := s.popSplit
  if m == 0 then (false, s)
  else
    let now := (picked m (x.lacks ((List.range (m.log2 + 1)).flatMap keysOf))).filter (s.mayRead c tl x)
    if now.isEmpty then (false, s) else (true, s.readSectors c tl x fetch now)

/-- The sectors that a step needs, all read; then the rest of the step. What it needs of a stream it takes itself. -/
def State.readAll (s : State) (c tl : Nat) (x : Cmd) (fetch : State → List Nat → State) (keys : List Nat) (rest : State → Cmd → Out) : Out :=
  let miss := x.lacks (keys.filter fun k => decide (k < streamBase))
  match miss.findSome? (s.sourceStop c x) with
  | some st => s.stopCmd c tl x st
  | none =>
    let s := if miss.isEmpty then s else s.readSectors c tl x fetch miss
    rest s ((s.cmdAt c tl x.n).getD x)

/-- Some sectors read ahead, or those that the next step needs; then the rest of the step. -/
def State.gather (s : State) (c tl : Nat) (x : Cmd) (fetch : State → List Nat → State) (keysOf : Nat → List Nat) (rest : State → Cmd → Out) : Out :=
  match s.prefetch c tl x fetch keysOf with
  | (true, t) => .next t
  | (false, t) => t.readAll c tl x fetch (keysOf 0) rest

/-- The line requests of a copy or index command. -/
def State.fetchFor (c tl : Nat) (x : Cmd) (nud : Nat) (s : State) (vas : List Nat) : State :=
  let (s, lines) := s.request (s.agent x.g) nud ((s.cmdAt c tl x.n).getD x).lines vas
  s.modCmd c tl x.n fun y => { y with lines := lines }

/-- A part of a poisoned sector of the scratchpad or the constant store would be replaced (R193). -/
def State.partStop (s : State) (spot : Nat → Spot) (off n : Nat) : Option Stop :=
  if !s.poison.isEmpty && ((pieces off n).any fun p => p.2 != 32 && s.poison.contains (spot (p.1 / 32))) then some (.park cPOISON 0x00 0) else none

/-! ## Numbering and queueing (R236, R237, R251) -/

/-- A timeline bound to an engine, with a context at its first state (R236, R257). -/
def Timeline.bind (t : Timeline) (e : Engine) : Timeline :=
  { t with engine := some e, resident := false, pinned := false, parked := none, aborted := false, draining := false, lastStart := 0,
           served := false, kturn := 0, mat := MatCtx.empty }

/-- The control word of a copy, its FOL and its FT (R248). -/
def Cmd.follows (x : Cmd) : Option Nat :=
  match x.instr with
  | .cpy _ _ _ _ | .cpyx _ _ _ _ => if x.f 2 14 1 == 1 then some (x.f 2 11 3) else none
  | _ => none

/-- The copies of a group that its next matrix command on a timeline is linked to. -/
def Crew.waitingCopies (c : Crew) (g tl : Nat) : List (Nat × Nat) :=
  (List.range 8).flatMap fun k =>
    ((c.tline k).cmds.filter fun x => x.g == g && x.follows == some tl && !x.linked).map fun x => (k, x.n)

/-- The numbers of a timeline from n on moved up by one, wherever they stand. -/
def Crew.shiftNumbers (c : Crew) (tl n : Nat) : Crew :=
  let link (p : Nat × Nat) : Nat × Nat := if p.1 == tl && decide (n ≤ p.2) then (p.1, p.2 + 1) else p
  let fix (k : Nat) (x : Cmd) : Cmd := { x with n := if k == tl && decide (n ≤ x.n) then x.n + 1 else x.n, links := x.links.map link }
  { c with tl := c.tl.mapIdx fun k (t : Timeline) => { t with cmds := t.cmds.map (fix k) } }

/-- The number that a new command takes: commands of one cycle stand in ascending `cid` (R237). -/
def Timeline.numberFor (t : Timeline) (cid : Nat → Nat) (x : Cmd) : Nat :=
  match leastBy (fun y : Cmd => y.n) (t.cmds.filter fun y => y.queued == x.queued && decide (cid x.g < cid y.g)) with
  | some y => y.n
  | none => t.issued + 1

/-- A command numbered and queued, with the timeline bound where it was not. -/
def Crew.enqueue (c : Crew) (cid : Nat → Nat) (tl : Nat) (e : Engine) (x : Cmd) : Crew :=
  let c := if (c.tline tl).engine.isNone then c.modTl tl fun t => t.bind e else c
  let links := if e == .matrix then c.waitingCopies x.g tl else []
  let note (y : Cmd) : Cmd := if e == .matrix && y.g == x.g && y.follows == some tl then { y with linked := true } else y
  let c : Crew := { c with tl := c.tl.map fun (t : Timeline) => { t with cmds := t.cmds.map note } }
  let n := (c.tline tl).numberFor cid x
  let c := c.shiftNumbers tl n
  c.modTl tl fun t => { t with issued := t.issued + 1, cmds := t.cmds ++ [{ x with n := n, links := links }] }

/-- The command that the unit being issued stands for. -/
def State.newCmd (s : State) (i : Instr) (blk : List Word) (ent ent2 : Option Tensor) : Cmd :=
  { n := 0, g := s.cur.g, instr := i, word := s.cur.word, blk := blk, ent := ent, ent2 := ent2, nft := s.cur.nft,
    issuedAt := s.cur.cycle, queued := s.now, started := false, done := false, step := 0, pos := 0, noCheck := false, links := [], linked := false, held := [],
    opened := false, tile := none, got := [], stopped := false, ups := [], fail := none, journal := [], lines := [], pins := [], nth := 0, heard := s.now }

/-- An ENGINE trap without a value. -/
def engTrap (sub : BitVec 8) : TrapInfo := plainTrap cENGINE sub

/-- The timeline is bound to another engine. -/
def State.boundElsewhere (s : State) (tl : Nat) (e : Engine) : Bool :=
  match ((s.crewOf s.cur.g).tline tl).engine with
  | some b => b != e
  | none => false

/-- The tensor entries that a command has read, by number (R246). -/
def Cmd.entries (x : Cmd) : List (Nat × Option Tensor) :=
  match x.instr with
  | .cpyx _ _ _ _ => [(x.f 2 16 8, x.ent)]
  | .mmas _ _ _ _ => [(x.f 0 16 8, x.ent), (x.f 2 0 8, x.ent2)]
  | .mld _ _ _ _ | .mma _ _ _ _ _ | .mwb _ _ _ _ | .ixg _ _ _ _ | .ixs _ _ _ _ => [(x.f 0 16 8, x.ent)]
  | _ => []

/-- A command at issue: the trap of a parked context first, then the checks of its entry, then the binding; it waits while its group's
queue is full, and is numbered and queued (R236, R237, R240). When the queue has room, a command that has waited makes its checks again, and
takes its binding and its number then, on the operands and entries of its issue (DESIGN CHOICE, log entry 47). -/
def State.submit (s : State) (i : Instr) (tl : Nat) (e : Engine) (bad : Option TrapInfo) (x : Cmd) (after : State → State) : Out :=
  match s.parkDue tl with
  | some p => .next (s.takePark i tl p)
  | none =>
    match bad with
    | some t => .next (s.fault i s.cur.lanes t false)
    | none =>
      if s.boundElsewhere tl e then .next (s.fault i s.cur.lanes (engTrap 0x15) false)
      else if s.queueFull s.cur.g e then .next ({ s with cur := { s.cur with ents := x.entries } }.await i false)
      else .next (after (s.modCrew (s.grp s.cur.g).crew fun c => c.enqueue (fun g => (s.grp g).cid) tl e x))

/-- The first trap of a list of checks. -/
def firstTrap (l : List (Bool × TrapInfo)) : Option TrapInfo := (l.find? fun p => p.1).map (·.2)

end Sys2Proof.Machine
end

