-- ==== Sys2Proof/Machine/Buffers.lean ====
section
/-! DEFINITION. Circular buffers, the tensor table and the control of engine contexts: `cbdef`, `cbadv`, `tdef`, `ectx`, `estat` (R241 to
R247, R254, R255). -/

namespace Sys2Proof.Machine

/-! ## cbdef (R243) -/

/-- The unfinished units of a group, wherever they stand: waiting, saved with it, held with a trap, or in its frame (R318, R324). -/
def Group.unfinished (gr : Group) : List UnitRec :=
  gr.waits ++ gr.savedUnits ++ (match gr.save with | some f => f.units | none => []) ++
    gr.lanes.toList.flatMap fun l => match l.held with | some h => h.ents | none => []

/-- A consumer-mask instruction of the crew names a buffer and has not retired (R49). -/
def State.consumerWaits (s : State) (c b : Nat) : Bool :=
  let names (u : UnitRec) : Bool := u.instr.rt && u.instr.consumers.getLsbD 1 && u.instr.rawX == b
  (s.groups.any fun gr => gr.crew == c && gr.unfinished.any names) || s.issueQ.any fun u => (s.grp u.iss.g).crew == c && names u

/-- The buffer may not be replaced now. -/
def State.bufBusy (s : State) (c b : Nat) : Bool :=
  let buf := (s.crew c).buf b
  (buf.cap != 0 && buf.occ != 0) || ((s.crew c).allCmds.any fun p => p.2.usesBuf b) || s.consumerWaits c b

/-- The buffer that words A and B declare, and whether a field or a reserved bit is invalid. -/
def sideOf (n : Nat) : Side := match n with | 0 => .groups | 1 => .copy | 2 => .matrix | _ => .index
def bufOf (a b : Nat) : CircBuf :=
  ⟨bits a 0 20, bits b 0 16, bits b 16 4, sideOf (bits b 20 2), sideOf (bits b 22 2), BitVec.ofNat 4 (bits b 24 4), 0, 0⟩
def bufInvalid (a b : Nat) : Bool :=
  bits a 20 44 != 0 || bits b 28 36 != 0 || bits b 0 16 == 1 || decide (12 ≤ bits b 16 4) ||
    (bits b 24 4 == 0 && bits b 20 2 == bits b 22 2)

/-- The checks of `cbdef`, in order. -/
def State.cbdefFault (s : State) (d : Nat) (a b : Word) : Option TrapInfo :=
  let c := (s.grp s.cur.g).crew
  let new := bufOf a.toNat b.toNat
  firstTrap [
    (a.toNat % 32 != 0, addrTrap cALIGN 0x00 a),
    (bufInvalid a.toNat b.toNat, engTrap 0x14),
    (decide ((s.crew c).window < new.base + new.cap * new.elem), engTrap 0x14),
    (s.bufBusy c d, engTrap 0x10),
    (new.hin != 0 && (new.pside != .groups || decide (256 < new.elem)), engTrap 0x14),
    ((List.range 4).any (fun k => new.hin.getLsbD k && (s.boundInput (s.crew c).quad k).isSome), engTrap 0x17)]

def execCbdef (sc : BitVec 3) (d a b : BitVec 6) (s : State) : Out :=
  let i : Instr := .cbdef sc d a b
  s.issue i fun s =>
    let wa := s.scal i .A
    let wb := s.scal i .B
    match s.cbdefFault d.toNat wa wb with
    | some t => .next (s.fault i s.cur.lanes t false)
    | none =>
      let new := bufOf wa.toNat wb.toNat
      .next (s.modCrew (s.grp s.cur.g).crew fun c => c.setBuf d.toNat (if new.cap == 0 then CircBuf.undeclared else new))

/-! ## cbadv (R245) -/

/-- The checks of a form at issue; the producer side of a buffer bound to Hypnum inputs is no group (R243). -/
def cbadvFault (b : CircBuf) (producer : Bool) (n : Nat) : Option TrapInfo :=
  firstTrap [
    (b.cap == 0, engTrap 0x12),
    (if producer then b.pside != .groups || b.hin != 0 else b.cside != .groups, engTrap 0x13),
    (decide (b.cap < n), engTrap 0x11)]

/-- A form of `cbadv`: its checks, nothing for a count of 0, and its effect. -/
def State.cbadv (s : State) (i : Instr) (d : BitVec 6) (producer : Bool) (rest : Nat → Out) : Out :=
  let n := bits (s.scal i .A).toNat 0 16
  match cbadvFault ((s.crewOf s.cur.g).buf d.toNat) producer n with
  | some t => .next (s.fault i s.cur.lanes t false)
  | none => if n == 0 then .next s else rest n

/-- The pointers moved by `put` or `get`, once the release is performed. -/
def State.cbadvMove (s : State) (i : Instr) (d : BitVec 6) (ok : CircBuf → Bool) (f : CircBuf → CircBuf) : Out :=
  let c := (s.grp s.cur.g).crew
  let b := (s.crew c).buf d.toNat
  if ok b then .next (s.modCrew c fun cr => cr.setBuf d.toNat (f b)) else .next (s.fault i s.cur.lanes (engTrap 0x11) false)

def execCbadvWroom (sc : BitVec 3) (d a : BitVec 6) (s : State) : Out :=
  let i : Instr := .cbadvWroom sc d a
  s.issue i fun s => s.cbadv i d true fun _ => s.waitThen i fun s => .next (s.acquireLanes 1)

def execCbadvPut (sc : BitVec 3) (d a : BitVec 6) (s : State) : Out :=
  let i : Instr := .cbadvPut sc d a
  s.issue i fun s => s.cbadv i d true fun n => s.releaseThen i 1 fun s =>
    s.cbadvMove i d (fun b => roomMet b n) fun b => { b with pp := b.pp + BitVec.ofNat 32 n }

def execCbadvWdata (sc : BitVec 3) (d a : BitVec 6) (s : State) : Out :=
  let i : Instr := .cbadvWdata sc d a
  s.issue i fun s => s.cbadv i d false fun _ => s.waitThen i fun s => .next (s.acquireLanes 1)

def execCbadvGet (sc : BitVec 3) (d a : BitVec 6) (s : State) : Out :=
  let i : Instr := .cbadvGet sc d a
  s.issue i fun s => s.cbadv i d false fun n => s.releaseThen i 1 fun s =>
    s.cbadvMove i d (fun b => dataMet b n) fun b => { b with cp := b.cp + BitVec.ofNat 32 n }

/-! ## tdef (R61, R247) -/

/-- The descriptor breaks a rule of its fields. -/
def Tensor.invalid (t : Tensor) : Bool :=
  let n := t.dims
  (List.range 4).any (fun d => if d < n then t.ext d == 0 else t.ext d != 1) ||
    t.base % 16 != 0 || (List.range 3).any (fun d => t.stride (d + 1) % 16 != 0) ||
    bits (t.word 0) 56 8 != 0 || bits (t.word 1) 52 12 != 0 || (List.range 3).any (fun d => bits (t.word (4 + d)) 48 16 != 0) ||
    bits (t.word 7) 34 30 != 0 || (decodeF 0 t.xv).nonFinite

/-- A descriptor in the crew's window. -/
def State.descriptor (s : State) (c off : Nat) : Tensor := Vector.ofFn fun j : Fin 8 => BitVec.ofNat 64 (Mem.num (s.crew c).scratch (off + 8 * j.val) 8)

def State.tdefFault (s : State) (o : Word) (t : Tensor) : Option TrapInfo :=
  firstTrap [
    (o.toNat % 64 != 0, addrTrap cALIGN 0x00 o),
    (decide ((s.crewOf s.cur.g).window < o.toNat + 64), addrTrap cPROT 0x04 o),
    (s.boxPoison (s.grp s.cur.g).crew o.toNat 64, addrTrap cPOISON 0x00 o),
    (t.fmt == 15, plainTrap cILLEGAL 0x06),
    (t.invalid, engTrap 0x40)]

def execTdef (sc : BitVec 3) (d a : BitVec 6) (s : State) : Out :=
  let i : Instr := .tdef sc d a
  s.issue i fun s =>
    let o := s.scal i .A
    let t := s.descriptor (s.grp s.cur.g).crew o.toNat
    match s.tdefFault o t with
    | some x => .next (s.fault i s.cur.lanes x false)
    | none =>
      let no := bits (s.scal i .D).toNat 0 16
      .next (s.modCtx (s.ctxNo s.cur.g) fun c => { c with tensors := put no t c.tensors })

/-! ## ectx (R240, R254) -/

/-- A form of `ectx` on a timeline: the trap of a parked context comes first (R240). -/
def State.ectx (s : State) (i : Instr) (d : BitVec 6) (rest : Nat → Timeline → Out) : Out :=
  match s.parkDue d.toNat with
  | some p => .next (s.takePark i d.toNat p)
  | none => rest (s.grp s.cur.g).crew ((s.crewOf s.cur.g).tline d.toNat)

def State.ectxBad (s : State) (i : Instr) (e : BitVec 8) : Out := .next (s.fault i s.cur.lanes (engTrap e) false)

/-- The engine that a field names. -/
def engOf (n : Nat) : Engine := match n with | 0 => .copy | 1 => .matrix | _ => .index

def execEctxBind (sc : BitVec 3) (d : BitVec 6) (e : BitVec 2) (s : State) : Out :=
  let i : Instr := .ectxBind sc d e
  s.issue i fun s => s.ectx i d fun c t =>
    match t.engine with
    | none => .next (s.modTl c d.toNat fun t => t.bind (engOf e.toNat))
    | some b => if b == engOf e.toNat then .next s else s.ectxBad i 0x15

/-- The `ectx.drain`s of a crew that wait for a timeline find it saved (R254). -/
def State.drained (s : State) (c tl : Nat) : State :=
  let mine (u : UnitRec) : Bool := match u.instr with | .ectxDrain _ d => d.toNat == tl | _ => false
  let note (u : UnitRec) : UnitRec := if mine u then { u with iss := { u.iss with rdone := true } } else u
  { s with groups := s.groups.map fun gr => if gr.crew == c then { gr with waits := gr.waits.map note } else gr }

def execEctxUnbind (sc : BitVec 3) (d : BitVec 6) (s : State) : Out :=
  let i : Instr := .ectxUnbind sc d
  s.issue i fun s => s.ectx i d fun c t =>
    if t.engine.isNone then .next s
    else if !t.cmds.isEmpty then .next (s.await i false)
    else .next ((s.modTl c d.toNat fun t =>
      { t with engine := none, resident := false, pinned := false, draining := false, aborted := false }).drained c d.toNat)

/-- `ectx.drain`: it retires when the context has been saved, whatever becomes of the context then. -/
def execEctxDrain (sc : BitVec 3) (d : BitVec 6) (s : State) : Out :=
  let i : Instr := .ectxDrain sc d
  s.issue i fun s => s.ectx i d fun c t =>
    if !t.resident || s.cur.rdone then .next s else .next ((s.modTl c d.toNat fun t => { t with draining := true }).await i false)

/-- Another context of the timeline's engine on the quad is pinned. -/
def State.otherPinned (s : State) (c tl : Nat) (e : Option Engine) : Bool :=
  s.crews.zipIdx.any fun p =>
    p.1.quad == (s.crew c).quad && !p.1.retired &&
      (List.range 8).any fun k => (p.2 != c || k != tl) && (p.1.tline k).engine == e && (p.1.tline k).pinned

def execEctxPin (sc : BitVec 3) (d : BitVec 6) (s : State) : Out :=
  let i : Instr := .ectxPin sc d
  s.issue i fun s => s.ectx i d fun c t =>
    if t.engine.isNone || s.otherPinned c d.toNat t.engine then s.ectxBad i 0x16
    else .next (s.modTl c d.toNat fun t => { t with pinned := true })

def execEctxUnpin (sc : BitVec 3) (d : BitVec 6) (s : State) : Out :=
  let i : Instr := .ectxUnpin sc d
  s.issue i fun s => s.ectx i d fun c t => if t.engine.isNone then .next s else .next (s.modTl c d.toNat fun t => { t with pinned := false })

/-- The parked command restarts at its step counter, without the check where NONFINITE parked it (R240, R270, R280). A context that has not been saved goes on where it
stands; a drain that an `ectx.drain` waits for goes on too. -/
def Timeline.resume (drains : Bool) (t : Timeline) : Timeline :=
  match t.parked with
  | none => t
  | some p =>
    let again (x : Cmd) : Cmd := { x.again with started := x.started && t.resident, noCheck := p.trap.cause == cNONFINITE }
    let free (x : Cmd) : Cmd := if x.stopped then { x.again with started := x.started && t.resident } else x
    { t.modCmd p.n again with cmds := (t.modCmd p.n again).cmds.map free, parked := none, draining := t.draining && (drains || !t.resident) }

/-- An `ectx.drain` of a crew waits for a timeline. -/
def State.drainWanted (s : State) (c tl : Nat) : Bool :=
  s.groups.any fun gr => gr.crew == c && gr.waits.any fun u => match u.instr with | .ectxDrain _ d => d.toNat == tl && !u.iss.rdone | _ => false

def execEctxResume (sc : BitVec 3) (d : BitVec 6) (s : State) : Out :=
  let i : Instr := .ectxResume sc d
  s.issue i fun s => s.ectx i d fun c t =>
    if t.parked.isNone then s.ectxBad i 0x16 else .next (s.modTl c d.toNat (Timeline.resume (s.drainWanted c d.toNat)))

def execEctxAbort (sc : BitVec 3) (d : BitVec 6) (s : State) : Out :=
  let i : Instr := .ectxAbort sc d
  s.issue i fun s => s.ectx i d fun c t =>
    if t.parked.isNone then s.ectxBad i 0x16 else .next (s.modCmds c fun cr => cr.abortTl d.toNat)

/-! ## estat (R255) -/

/-- The command that `estat` reports on: the parked one, or the lowest-numbered in progress. -/
def Timeline.shown (t : Timeline) : Option Cmd :=
  match t.parked with
  | some p => t.cmds.find? fun x => x.n == p.n
  | none => leastBy (fun x : Cmd => x.n) (t.cmds.filter fun x => x.started)

/-- An item of a timeline's state. -/
def Timeline.item (t : Timeline) (k : Nat) : Nat :=
  match k with
  | 0 => t.count
  | 1 => t.issued
  | 2 =>
    (match t.engine with | some e => engineNo e | none => 3) + 2 ^ 2 * t.resident.toNat + 2 ^ 3 * t.pinned.toNat +
      2 ^ 4 * t.parked.isSome.toNat + 2 ^ 5 * t.aborted.toNat + 2 ^ 6 * t.draining.toNat +
      2 ^ 16 * min (t.cmds.filter fun x => !x.started).length 0xFFFF
  | 3 => (t.shown.map fun x => x.step).getD 0
  | _ => (t.parked.map fun p => p.n).getD 0

def execEstat (sc : BitVec 3) (d a : BitVec 6) (n : BitVec 3) (s : State) : Out :=
  let i : Instr := .estat sc d a n
  s.issue i fun s =>
    let v := ((s.crewOf s.cur.g).tline d.toNat).item n.toNat
    .next (s.finish i a (uniResult (BitVec.ofNat 64 v)) s.cur.lanes)

end Sys2Proof.Machine
end

