-- ==== Sys2Proof/Machine/Coherence.lean ====
section
/-! DEFINITION. `sinv`, `swb` and `swb.inv` (R189), and the declaration of halo tiles (R190 to R192). -/

namespace Sys2Proof.Machine

/-! ## Self-invalidating copies (R189) -/

/-- The SI copy of a virtual line in the quad's L1. -/
def State.siLine (s : State) (a : Agent) (va : Nat) : Option CLine :=
  if 2 ^ 52 ≤ va then none
  else
    match s.xlate a.quad a.ctx va with
    | .page x => if x.attr == 1 then (s.siCopy a.quad (cachePart a.part x) (lineOf x.pa)).map (·.1) else none
    | _ => none

/-- The copy has dirty sectors. -/
def CLine.isDirty (c : CLine) : Bool := match c.kind with | .si _ m _ => m != 0 | _ => false

/-- A copy discarded, dirty sectors included. -/
def State.dropCopy (s : State) (c : CLine) : State := s.filterCache fun y => if y.same c then y.discard else some y

/-- What the three instructions do with the lines of their range: discard, write back, or both. The write-backs count toward the
group's outstanding acknowledgements. -/
def State.siRange (s : State) (i : Instr) (f : State → CLine → State) (back : Bool) : Out :=
  let b := s.sweepBase i 256
  let c := (s.scal i .D).toNat
  if b % 256 != 0 then s.misaligned i b
  else if 4096 < c then .next (s.fault i s.cur.lanes (addrTrap cPROT 0x04 (BitVec.ofNat 64 b)) false)
  else
    let a := s.agent s.cur.g
    .next ((List.range c).foldl (fun s k =>
      match s.siLine a ((b + 256 * k) % 2 ^ 64) with
      | some l => (f s l).modGrp a.g fun gr => { gr with acks := gr.acks ++ List.replicate (back && l.isDirty).toNat s.cur.cycle }
      | none => s) s)

def execSinv (pf : Option Pfx) (sc : BitVec 3) (d a : BitVec 6) (s : State) : Out :=
  let i : Instr := .sinv pf sc d a
  s.issue i fun s => s.siRange i State.dropCopy false

def execSwb (pf : Option Pfx) (sc : BitVec 3) (d a : BitVec 6) (s : State) : Out :=
  let i : Instr := .swb pf sc d a
  s.issue i fun s => s.siRange i (fun s c => s.flushCopy false c) true

def execSwbInv (pf : Option Pfx) (sc : BitVec 3) (d a : BitVec 6) (s : State) : Out :=
  let i : Instr := .swbInv pf sc d a
  s.issue i fun s => s.siRange i (fun s c => s.flushCopy true c) true

/-! ## Halo tiles (R190, R191) -/

/-- A tile as `hdef` describes it, without replicas. -/
def haloOf (base geo : Word) : Halo :=
  let b := geo.toNat
  { base := base, rows := bits b 0 12, rlen := bits b 12 12, pitch := bits b 24 16, dr := bits b 40 4, dc := bits b 44 4,
    dirs := BitVec.ofNat 4 (bits b 48 4), owner := bits b 52 8, replicas := [], stale := [] }

/-- Virtual sector number of a row and a sector of it. -/
def Halo.sector (h : Halo) (r c : Nat) : Nat := h.base.toNat / 32 + h.pitch * r + c

/-- The 64 KiB pages that a row touches, each by the first address of the row in it. -/
def Halo.rowPages (h : Halo) (r : Nat) : List Nat :=
  let lo := 32 * h.sector r 0
  let hi := lo + 32 * h.rlen - 1
  (List.range (hi / 65536 + 1 - lo / 65536)).map fun k => max lo (65536 * (lo / 65536 + k))
def Halo.pages (h : Halo) : List Nat := (List.range h.rows).flatMap h.rowPages

/-- The sectors of a strip: 0 N, 1 E, 2 S, 3 W. -/
def Halo.strip (h : Halo) (dir : Nat) : List Nat :=
  let rows (lo n : Nat) := (List.range n).flatMap fun r => (List.range h.rlen).map fun c => h.sector (lo + r) c
  let cols (lo n : Nat) := (List.range h.rows).flatMap fun r => (List.range n).map fun c => h.sector r (lo + c)
  match dir with
  | 0 => rows 0 h.dr
  | 1 => cols (h.rlen - h.dc) h.dc
  | 2 => rows (h.rows - h.dr) h.dr
  | _ => cols 0 h.dc

/-- The span of a row meets a span of bytes. -/
def spansMeet (a n b m : Nat) : Bool := decide (a < b + m) && decide (b < a + n)

/-- The interior meets a declared region or another tile. -/
def Context.haloMeets (c : Context) (h : Halo) : Bool :=
  (List.range h.rows).any fun r =>
    let lo := 32 * h.sector r 0
    c.regions.any (fun p => spansMeet lo (32 * h.rlen) p.2.base.toNat (256 * p.2.lines)) ||
      c.halos.any fun t => (List.range t.2.rows).any fun q => spansMeet lo (32 * h.rlen) (32 * t.2.sector q 0) (32 * t.2.rlen)

/-- What `hdef` raises of the interior's pages: an unmapped sector before an unsuitable page (R191). A sector beyond the 52 bits of a virtual
address counts as unmapped (DESIGN CHOICE, log entry 43). -/
def State.haloPages (s : State) (quad ctx : Nat) (h : Halo) : Except Nat (Option TrapInfo) :=
  let ws := h.pages.map fun va => (va, if 2 ^ 52 ≤ va then Walk.fault 0x01 else s.xlate quad ctx va)
  match ws.findSome? fun p => match p.2 with | .void pa => some pa | _ => none with
  | some pa => .error pa
  | none =>
    let page := ws.findSome? fun p => match p.2 with | .fault c => some (addrTrap cPAGE c (BitVec.ofNat 64 p.1)) | _ => none
    let prot := ws.findSome? fun p =>
      match p.2 with
      | .page x =>
        if x.attr != 0 then some (addrTrap cPROT 0x04 (BitVec.ofNat 64 p.1))
        else if !x.w then some (addrTrap cPROT 0x01 (BitVec.ofNat 64 p.1)) else none
      | _ => none
    .ok (page.orElse fun _ => prot)

/-- The tile's replicas, strip by strip, with the published contents: the neighbour of each kept direction that has one (R190, R191). -/
def State.haloReplicas (s : State) (ctx : Nat) (h : Halo) : List Replica :=
  let part := (s.ctx ctx).part
  (List.range 4).flatMap fun dir =>
    if !h.dirs.getLsbD dir then []
    else match s.neighbourIn part h.owner dir with
      | some q => (h.strip dir).map fun sec => ⟨q, sec, match s.tilePa ctx sec with | some pa => s.publishedData part pa | none => 0⟩
      | none => []

/-- The replica lines: quad, physical line. -/
def State.replicaLines (s : State) (ctx : Nat) (rs : List Replica) : List (Nat × Nat) :=
  rs.foldl (fun acc r =>
    match s.walk ctx (32 * r.sector) with
    | .page x => if acc.contains (r.quad, lineOf x.pa) then acc else acc ++ [(r.quad, lineOf x.pa)]
    | _ => acc) []

/-- The strip sectors whose latest write is not published at die scope: the next release pushes them (R192). -/
def State.unpublished (s : State) (ctx : Nat) (rs : List Replica) : List Nat :=
  (rs.map (·.sector)).foldl (fun acc sec =>
    match s.tilePa ctx sec with
    | some pa => (match look s.marks (sectorKey (s.ctx ctx).part pa) with | some m => if m.level < 3 then addNo sec acc else acc | none => acc)
    | none => acc) []

/-- The way of a quad's L1 that stands for a line: a copy of it, or the line of its replicas. -/
def State.wayOf (s : State) (quad part line : Nat) : Option CLine :=
  s.cache.find? fun y => y.cache == quad && y.part == part && y.line == line && (match y.kind with | .dt _ => true | .halo => true | _ => false)

/-- One replica line pinned in a neighbour's L1; `none`: refused under R175. The line takes a way, unless one stands for it already. -/
def State.pinReplica (s : State) (a : Agent) (quad line : Nat) : Option State :=
  let old := s.wayOf quad a.part line
  let count := match old with | some c => c.pins | none => 0
  let other := match old with | some c => c.pins != 0 && c.pinCtx != a.ctx | none => false
  if 6 ≤ s.pinnedWays quad (l1Set line) || bits (s.ctx a.ctx).pinq.toNat 0 16 ≤ s.pinnedLines quad a.ctx || other ||
      count == 255 || (old.isNone && (s.pickWay quad (l1Set line) a.ctx).isNone) then none
  else
    let s := match old with
      | some c => s.restamp c (a.clk.stamp a.ctx 15 false) c.kind
      | none => s.allocate quad (l1Set line) a.part line (a.clk.stamp a.ctx 15 false) .halo
    match s.wayOf quad a.part line with
    | some c => some { s with cache := s.cache.map fun y => if y.same c then { y with pins := y.pins + 1, pinCtx := a.ctx } else y }
    | none => none

/-- One pin of a replica line taken back; a line that only replicas kept goes with its last pin. -/
def State.unpinReplica (s : State) (ctx quad line : Nat) : State :=
  match s.cache.find? fun y => y.cache == quad && y.part == (s.ctx ctx).part && y.line == line && y.pins != 0 && y.pinCtx == ctx &&
      (match y.kind with | .dt _ => true | .halo => true | _ => false) with
  | some c =>
    s.filterCache fun y =>
      if !y.same c then some y
      else
        let z := { y with pins := y.pins - 1 }
        if z.pins == 0 && (z.kind == .halo || z.hollow) then none else some z
  | none => s

/-- A tile released: its replicas and their pins go. -/
def State.dropHalo (s : State) (ctx h : Nat) : State :=
  match look (s.ctx ctx).halos h with
  | none => s
  | some t =>
    let lines := s.replicaLines ctx t.replicas
    let s := s.modCtx ctx fun c => { c with halos := drop h c.halos }
    lines.foldl (fun s l => s.unpinReplica ctx l.1 l.2) s

/-- The geometry of a tile fails the first check of R191. -/
def State.haloBad (s : State) (part : Nat) (h : Halo) (geo : Word) : Bool :=
  bits geo.toNat 60 4 != 0 || h.rlen == 0 || decide (h.pitch < h.rlen) || decide (h.rows < h.dr) || decide (h.rlen < h.dc) ||
    !(s.part part).dies.getLsbD (dieOfQuad h.owner)

/-- `hdef` (R190, R191). A base that is not 32-byte aligned raises ALIGN (log entry 11). -/
def execHdef (sc : BitVec 3) (d a b : BitVec 6) (s : State) : Out :=
  let i : Instr := .hdef sc d a b
  s.issue i fun s =>
    let ag := s.agent s.cur.g
    let no := d.toNat
    let h := haloOf (s.scal i .A) (s.scal i .B)
    let s := s.dropHalo ag.ctx no
    let bad (s : State) (t : TrapInfo) : Out := .next (s.fault i s.cur.lanes t false)
    if h.rows == 0 then .next s
    else if h.base.toNat % 32 != 0 then s.misaligned i h.base.toNat
    else if s.haloBad ag.part h (s.scal i .B) then bad s (plainTrap cENGINE 0x20)
    else
      match s.haloPages ag.quad ag.ctx h with
      | .error pa => .fault (.noDram pa)
      | .ok (some t) => bad s t
      | .ok none =>
        if (s.ctx ag.ctx).haloMeets h then bad s (plainTrap cENGINE 0x22)
        else
          let rs := s.haloReplicas ag.ctx h
          let pinned := (s.replicaLines ag.ctx rs).foldl (fun t l => t.bind fun t => t.pinReplica ag l.1 l.2) (some s)
          match pinned with
          | none => bad s (plainTrap cENGINE 0x21)
          | some t =>
            let t := if t.poison.isEmpty then t else rs.foldl (fun t r => t.replicaMark ag.ctx r.quad r.sector) t
            .next (t.modCtx ag.ctx fun c => { c with halos := put no { h with replicas := rs, stale := s.unpublished ag.ctx rs } c.halos })

end Sys2Proof.Machine
end

