-- ==== Sys2Proof/Machine/Copies.lean ====
section
/-! DEFINITION. The copy engine: `cpy` and `cpyx` at issue, and their steps, one destination sector each (R248 to R251). -/

namespace Sys2Proof.Machine

/-! ## The control word (R248) -/

/-- FOL names a timeline that is bound to another engine than the matrix engine (R251). -/
def State.followBad (s : State) (x : Cmd) : Bool :=
  match x.follows with
  | some ft => s.boundElsewhere ft .matrix
  | none => false

/-- A copy with FOL binds its follow-on timeline where it is unbound (R251). -/
def State.bindFollow (x : Cmd) (s : State) : State :=
  match x.follows with
  | some ft => s.modTl (s.grp s.cur.g).crew ft fun t => if t.engine.isNone then t.bind .matrix else t
  | none => s

/-- Bytes written to the scratchpad are counted into the copy's sync word (R233, R248). -/
def State.countSync (s : State) (c : Nat) (en swn n : Nat) : State := if en == 1 then s.modSync c swn (SyncWord.arrive n) else s

/-! ## cpy (R249) -/

/-- Space and address of an end. -/
def endSpace (w : Nat) : Nat := bits w 52 3
def endAddr (w : Nat) : Nat := bits w 0 52
def Cmd.cpyLen (x : Cmd) : Nat := x.f 2 16 32

/-- The checks of one end in the order of R249: window, constant store, buffer. -/
def State.cpyEnd (s : State) (c : Nat) (w len : Nat) (dst : Bool) : List (Bool × TrapInfo) :=
  let a := endAddr w
  let b := (s.crew c).buf (a % 16)
  let sp := endSpace w
  [(sp == 1 && decide ((s.crew c).window < a + len), engTrap 0x14),
   (sp == 2 && decide (131072 < a + len), engTrap 0x43),
   (sp == 3 && b.cap == 0, engTrap 0x12),
   (sp == 3 && len % b.elem != 0, engTrap 0x43),
   (sp == 3 && (if dst then b.pside != .copy || b.hin != 0 else b.cside != .copy), engTrap 0x13)]

def State.cpyFault (s : State) (x : Cmd) : Option TrapInfo :=
  let c := (s.grp s.cur.g).crew
  let src := x.w 0
  let dst := x.w 1
  let len := x.cpyLen
  let odd (w : Nat) : Bool := endSpace w < 3 && endAddr w % 4 != 0
  let res (w : Nat) : Bool := bits w 55 9 != 0 || (endSpace w == 3 && bits w 4 48 != 0)
  firstTrap (
    [(len == 0 || len % 4 != 0 || odd src || odd dst, engTrap 0x43),
     (decide (4 ≤ endSpace src) || decide (4 ≤ endSpace dst) || endSpace src == 2, engTrap 0x43)] ++
    s.cpyEnd c src len false ++ s.cpyEnd c dst len true ++
    [(res src || res dst || x.f 2 15 1 != 0 || x.f 2 48 16 != 0, engTrap 0x43), (s.followBad x, engTrap 0x15)])

def execCpy (sc : BitVec 3) (d a b : BitVec 6) (s : State) : Out :=
  let i : Instr := .cpy sc d a b
  s.issue i fun s =>
    let x := s.newCmd i (s.block i .A 2 ++ s.block i .B 1) none none
    s.submit i d.toNat .copy (s.cpyFault x) x (State.bindFollow x)

/-- The bytes of the run that destination sector k of a `cpy` takes. -/
def Cmd.cpyRange (x : Cmd) : Nat × Nat :=
  let da := if endSpace (x.w 1) == 3 then 0 else endAddr (x.w 1)
  (if x.step == 0 then 0 else 32 * (da / 32 + x.step) - da, min x.cpyLen (32 * (da / 32 + x.step + 1) - da))

/-- Elements of one side of a copy, in bytes; 1 for a side that is no buffer. -/
def State.cpyElem (s : State) (c : Nat) (b : Option Nat) : Nat := match b with | some n => ((s.crew c).buf n).elem | none => 1

/-- The bytes that one step moves at a time: an element of the larger side (R242). -/
def State.cpyUnit (s : State) (c : Nat) (x : Cmd) : Nat := max (s.cpyElem c x.inBuf) (s.cpyElem c x.outBuf)

/-- The output buffer has room for the element being written. -/
def State.cpyRoom (s : State) (c tl : Nat) (x : Cmd) (lo hi : Nat) : Bool :=
  !s.sideHeld c tl x Cmd.outBuf &&
    (match x.outBuf with | some b => streamReady ((s.crew c).buf b).free (s.cpyElem c x.outBuf) (s.cpyUnit c x) lo hi | none => true)

/-- The input buffer holds the element being read. -/
def State.cpyThere (s : State) (c tl : Nat) (x : Cmd) : Bool :=
  !s.sideHeld c tl x Cmd.inBuf &&
    (match x.inBuf with | some b => streamReady ((s.crew c).buf b).occ (s.cpyElem c x.inBuf) (s.cpyUnit c x) x.pos (x.pos + 32) | none => true)

/-- Where a copy's source stands among the sectors it reads: its base and the address of byte 0. -/
def Cmd.cpyFrom (x : Cmd) : Nat × Nat :=
  match endSpace (x.w 0) with
  | 0 => (memBase, endAddr (x.w 0))
  | 1 => (scratchBase, endAddr (x.w 0))
  | _ => (streamBase, 0)

/-- The source sectors of the j-th step from the next one on. -/
def Cmd.cpyKeys (x : Cmd) (j : Nat) : List Nat :=
  let (lo, hi) := { x with step := x.step + j }.cpyRange
  keysAt x.cpyFrom.1 (x.cpyFrom.2 + lo) (hi - lo)

/-- The next sector of a copy's input stream, taken where the destination sector needs it. -/
def State.cpyTake (s : State) (c tl : Nat) (x : Cmd) (hi : Nat) (rest : State → Cmd → Out) : Out :=
  match x.inBuf with
  | none => rest s x
  | some b =>
    if hi ≤ x.pos then rest s x
    else if !s.cpyThere c tl x then .next s
    else
      match s.bufPoison c ((s.crew c).buf b) x.pos 32 with
      | some st => s.stopCmd c tl x st
      | none =>
        let (s, bs) := s.takeBuf c x b x.pos (x.pos + 32)
        let s := s.modCmd c tl x.n fun y =>
          { y with got := (streamBase + y.pos / 32, BitVec.ofNat 256 (leNat bs)) :: y.got, pos := y.pos + 32 }
        rest s ((s.cmdAt c tl x.n).getD x)

/-- What stops the writing of a destination sector. -/
def State.cpyStop (s : State) (c : Nat) (a : Agent) (x : Cmd) (lo n : Nat) : Option Stop :=
  let da := endAddr (x.w 1) + lo
  match endSpace (x.w 1) with
  | 0 => s.engCheck a .store da n
  | 1 => s.partStop (.scratch c) da n
  | 2 => s.partStop (.const a.quad) da n
  | _ => none

/-- The destination sector of a step. -/
def State.cpyWrite (s : State) (c : Nat) (a : Agent) (x : Cmd) (lo : Nat) (bs : List Byte) : State :=
  let da := endAddr (x.w 1)
  match endSpace (x.w 1) with
  | 0 => s.engWrite a (da + lo) bs
  | 1 => (s.writeScratch c (da + lo) bs).countSync c (x.f 2 10 1) (x.f 2 6 4) bs.length
  | 2 => s.writeConst a.quad (da + lo) bs
  | _ => (s.putBuf c (da % 16) lo bs).countSync c (x.f 2 10 1) (x.f 2 6 4) bs.length

/-- One step of a `cpy`: its source sectors are read, once each, and a destination sector is written. -/
def State.cpyStep (s : State) (c tl : Nat) (x : Cmd) : Out :=
  let a := s.agent x.g
  let (lo, hi) := x.cpyRange
  let n := hi - lo
  let (base, sa) := x.cpyFrom
  let nud := x.f 2 0 4
  if !s.cpyRoom c tl x lo hi then .next s
  else
    s.gather c tl x (State.fetchFor c tl x nud) x.cpyKeys fun s x =>
      s.cpyTake c tl x hi fun s x =>
        match s.cpyStop c a x lo n with
        | some st => s.stopCmd c tl x st
        | none =>
          let s := if endSpace (x.w 1) == 0 then State.fetchFor c tl x nud s (lineStarts (endAddr (x.w 1) + lo) n) else s
          let s := s.cpyWrite c a x lo (x.read base (sa + lo) n)
          .next (s.modCmd c tl x.n fun y =>
            { y with step := y.step + 1, done := hi == x.cpyLen, got := y.got.filter fun p => decide (base + (sa + hi) / 32 ≤ p.1) })

/-! ## cpyx (R250) -/

def Cmd.tr (x : Cmd) : Bool := x.f 2 24 1 == 1
def Cmd.pad (x : Cmd) : Bool := x.f 2 25 1 == 1
def Cmd.gath (x : Cmd) : Bool := x.f 2 26 1 == 1
def Cmd.xRows (x : Cmd) : Nat := x.f 2 28 12 + 1
def Cmd.xCols (x : Cmd) : Nat := x.f 2 40 12 + 1
def Cmd.xStep (x : Cmd) : Nat := x.f 2 52 12
def Cmd.doff (x : Cmd) : Nat := x.f 3 0 20
def Cmd.toBuf (x : Cmd) : Bool := x.f 3 20 1 == 1
def Cmd.pitch (x : Cmd) : Nat := 16 * x.f 3 21 16
def Cmd.idxOff (x : Cmd) : Nat := x.f 3 37 20
/-- Rows of the image, and the elements and bytes of one of them. -/
def Cmd.imgRows (x : Cmd) : Nat := if x.tr then x.xCols else x.xRows
def Cmd.imgCols (x : Cmd) : Nat := if x.tr then x.xRows else x.xCols
def Cmd.tens (x : Cmd) : Tensor := x.ent.getD Tensor.zero
def Cmd.rowBytes (x : Cmd) : Nat := x.imgCols * x.tens.width / 8

def State.cpyxFault (s : State) (x : Cmd) : Option TrapInfo :=
  let c := (s.grp s.cur.g).crew
  let win := (s.crew c).window
  let b := (s.crew c).buf (x.doff % 16)
  firstTrap [
    (x.f 2 15 1 != 0 || x.f 2 27 1 != 0 || x.f 3 57 7 != 0 || (x.xStep == 0 && !x.gath), engTrap 0x43),
    (x.ent.isNone, engTrap 0x41),
    (decide (8 * x.pitch < x.imgCols * x.tens.width), engTrap 0x43),
    (x.tens.width == 4 && x.imgCols % 2 == 1, engTrap 0x43),
    (x.idxOff % 4 != 0, engTrap 0x43),
    (x.gath && decide (win < x.idxOff + 4 * x.xRows), engTrap 0x14),
    (x.toBuf && x.doff / 16 != 0, engTrap 0x43),
    (x.toBuf && b.cap == 0, engTrap 0x12),
    (x.toBuf && (b.pside != .copy || b.hin != 0), engTrap 0x13),
    (!x.toBuf && decide (win < x.doff + (x.imgRows - 1) * x.pitch + x.rowBytes), engTrap 0x14),
    (x.toBuf && x.imgRows * x.pitch % b.elem != 0, engTrap 0x43),
    (s.followBad x, engTrap 0x15)]

def execCpyx (sc : BitVec 3) (d a b : BitVec 6) (s : State) : Out :=
  let i : Instr := .cpyx sc d a b
  s.issue i fun s =>
    let blk := s.block i .A 2 ++ s.block i .B 2
    let x := s.newCmd i blk (s.tensor s.cur.g (bits (blk.getD 2 0).toNat 16 8)) none
    s.submit i d.toNat .copy (s.cpyxFault x) x (State.bindFollow x)

/-- The row of the source that code q of image row r comes from. -/
def Cmd.xRow (x : Cmd) (r q : Nat) : Nat := if x.tr then q else r

/-- The coordinates of code q of image row r. -/
def Cmd.xCoord (x : Cmd) (r q : Nat) : Nat × Nat :=
  let row := x.xRow r q
  let c1 := if x.gath then x.readNum scratchBase (x.idxOff + 4 * row) 4 else x.f 0 32 32 + row * x.xStep
  (x.f 0 0 32 + (if x.tr then r else q), c1)

/-- The codes that byte o of an image row takes. -/
def Cmd.codesAt (x : Cmd) (o : Nat) : List Nat := if x.tens.width == 4 then [2 * o, 2 * o + 1] else [8 * o / x.tens.width]

/-- Whether a code is read from memory, its address and its bytes. -/
def Cmd.xElem (x : Cmd) (r q : Nat) : Bool × Nat × Nat :=
  let (c0, c1) := x.xCoord r q
  (x.tens.inside c0 c1 (x.f 1 0 32) (x.f 1 32 32), x.tens.addr c0 c1 (x.f 1 0 32) (x.f 1 32 32), max 1 (x.tens.width / 8))

/-- A code may be read: it lies inside the extents, or PAD gives it. -/
def Cmd.xOk (x : Cmd) (p : Nat × Nat) : Bool := (x.xElem p.1 p.2).1 || x.pad

/-- The sectors of a code. -/
def Cmd.xKeys (x : Cmd) (p : Nat × Nat) : List Nat := let (ins, va, n) := x.xElem p.1 p.2; if ins then keysAt memBase va n else []

/-- A code, 0 outside the extents. -/
def Cmd.xCode (x : Cmd) (r q : Nat) : Nat :=
  let (ins, va, n) := x.xElem r q
  if !ins then 0
  else if x.tens.width == 4 then bits (x.readNum memBase va 1) (4 * ((x.xCoord r q).1 % 2)) 4
  else x.readNum memBase va n

/-- Byte o of image row r. -/
def Cmd.xByte (x : Cmd) (r o : Nat) : Byte :=
  match x.codesAt o with
  | [q] => BitVec.ofNat 8 (x.xCode r q / 2 ^ (8 * (o % (x.tens.width / 8))))
  | q :: p :: _ => BitVec.ofNat 8 (x.xCode r q + 16 * x.xCode r p)
  | [] => 0

/-- The lowest sector from a number on that meets one of some byte ranges. -/
def nextSector (rows : List (Nat × Nat)) (pos : Nat) : Option Nat :=
  leastBy (fun n : Nat => n) (rows.filterMap fun r => if 32 * pos < r.2 then some (max pos (r.1 / 32)) else none)

/-- The byte ranges of the image in the scratchpad. -/
def Cmd.imgRanges (x : Cmd) : List (Nat × Nat) :=
  (List.range x.imgRows).map fun r => (x.doff + r * x.pitch, x.doff + r * x.pitch + x.rowBytes)

/-- The bytes of the next step: address in the window or the image, row and byte in the row. -/
def Cmd.xBytes (x : Cmd) : List (Nat × Nat × Nat) :=
  if x.toBuf then (List.range 32).map fun j => (x.pos + j, (x.pos + j) / x.pitch, (x.pos + j) % x.pitch)
  else
    match nextSector x.imgRanges x.pos with
    | none => []
    | some sec =>
      (List.range 32).filterMap fun j =>
        let at_ := 32 * sec + j
        let d := at_ - x.doff
        if x.doff ≤ at_ && d / x.pitch < x.imgRows && d % x.pitch < x.rowBytes then some (at_, d / x.pitch, d % x.pitch) else none

/-- The bytes of a step written into the scratchpad, run by run. -/
def State.writeBytesAt (s : State) (c : Nat) (bs : List (Nat × Byte)) : State :=
  if bs.length == 32 then s.writeScratch c ((bs.head?.map (·.1)).getD 0) (bs.map (·.2)) else bs.foldl (fun s p => s.writeScratch c p.1 [p.2]) s

/-- The bytes of a step of a `cpyx` written, and the step counted. -/
def State.cpyxWrite (s : State) (c tl : Nat) (x : Cmd) (bytes : List (Nat × Nat × Nat)) : Out :=
  match (if x.toBuf || bytes.length == 32 then none else s.partStop (.scratch c) ((bytes.head?.map (·.1)).getD 0) 1) with
  | some st => s.stopCmd c tl x st
  | none =>
    let vals := bytes.map fun p => (p.1, if p.2.2 < x.rowBytes then x.xByte p.2.1 p.2.2 else 0)
    let s := if x.toBuf then s.putBuf c (x.doff % 16) x.pos (vals.map (·.2)) else s.writeBytesAt c vals
    let s := s.countSync c (x.f 2 10 1) (x.f 2 6 4) vals.length
    let pos := if x.toBuf then x.pos + 32 else match nextSector x.imgRanges x.pos with | some n => n + 1 | none => x.pos
    let done := if x.toBuf then pos == x.imgRows * x.pitch else (nextSector x.imgRanges pos).isNone
    .next (s.modCmd c tl x.n fun y => { y with step := y.step + 1, pos := pos, done := done })

/-- The codes of the next step, as row and place. -/
def Cmd.xCodes (x : Cmd) : List (Nat × Nat) :=
  (x.xBytes.filter fun p => p.2.1 < x.imgRows && p.2.2 < x.rowBytes).flatMap fun p => (x.codesAt p.2.2).map fun q => (p.2.1, q)

/-- The sectors that hold the index of a code's row. -/
def Cmd.xIndex (x : Cmd) (p : Nat × Nat) : List Nat := if x.gath then keysAt scratchBase (x.idxOff + 4 * x.xRow p.1 p.2) 4 else []

/-- What the j-th step from the next one on reads: indices, and the sectors of the codes whose index is known. -/
def Cmd.cpyxKeys (x : Cmd) (j : Nat) : List Nat :=
  let codes := { x with pos := if x.toBuf then x.pos + 32 * j else x.pos + j }.xCodes
  codes.flatMap x.xIndex ++ (codes.filter fun p => (x.lacks (x.xIndex p)).isEmpty).flatMap x.xKeys

/-- One step of a `cpyx`: the indices of its rows and the sectors of its codes are read, up to a code outside the extents, and a destination
sector is written. -/
def State.cpyxStep (s : State) (c tl : Nat) (x : Cmd) : Out :=
  let b := (s.crew c).buf (x.doff % 16)
  let bytes := x.xBytes
  let fetch := State.fetchFor c tl x (x.f 2 0 4)
  if x.toBuf && (s.sideHeld c tl x Cmd.outBuf || !streamReady b.free b.elem b.elem x.pos (x.pos + 32)) then .next s
  else
    match s.prefetch c tl x fetch x.cpyxKeys with
    | (true, t) => .next t
    | (false, t) =>
      let codes := x.xCodes
      t.readAll c tl x fetch (codes.flatMap x.xIndex) fun s x =>
        s.readAll c tl x fetch ((codes.takeWhile x.xOk).flatMap x.xKeys) fun s x =>
          if codes.all x.xOk then s.cpyxWrite c tl x bytes else s.stopCmd c tl x (.park cENGINE 0x42 0)

end Sys2Proof.Machine
end

