-- ==== Sys2Proof/Machine/Matrix.lean ====
section
/-! DEFINITION. The matrix engine: `mld`, `mma`, `mmas`, `mwb` and `mclr` at issue, their steps, and the K-step (R73, R74, R76, R78, R257 to
R272). -/

namespace Sys2Proof.Machine

/-! ## Formats (R260) -/

/-- The row of the table of operand pairs that a format stands in. -/
def pairRow : Nat → Option Nat
  | 3 => some 0 | 4 => some 0 | 5 => some 1 | 6 => some 2 | 7 => some 3 | 11 => some 3 | 2 => some 4 | 1 => some 5 | _ => none

/-- Elements of a 128-byte K-block. -/
def ktOf : Nat → Nat
  | 5 => 256 | 1 => 64 | 2 => 64 | _ => 128

/-- The row allows A from the north. -/
def northOk (f : Nat) : Bool := pairRow f == some 0 || pairRow f == some 2 || pairRow f == some 3

/-- An i32 tile belongs to the row. -/
def intRow (f : Nat) : Bool := pairRow f == some 3

/-- The value of a code of a tensor or slot: E2M1 code 0x8 is the extra value, MXINT8 takes its exponent byte (R66, R67). -/
def engVal (fmt xv exp code : Nat) : FVal := if fmt == 5 && code == 8 then decodeF 0 xv else decodeAny fmt code exp

def fZero : FVal := .fin false 0 0
def fOne : FVal := .fin false 1 0
def oneCode : BitVec 32 := 0x3F800000

/-- An exact sum; a zero has no sign (R74, R267). -/
def exactSum (l : List FVal) : FVal := let v := FVal.sum false l; if v.isZero then fZero else v

/-- The worst of two operands: a NaN, an infinity, or a finite value. -/
def worse (a b : FVal) : FVal := if a.isNan || b.isNan then .nan else if a.isInf || b.isInf then .inf false else fZero

/-! ## Tiles and slots -/

def Tile.get (t : Tile) (i j : Nat) : BitVec 32 := (look t.elems (128 * i + j)).getD 0
def Tile.set (t : Tile) (i j : Nat) (v : BitVec 32) : Tile :=
  { t with elems := if v == 0 then drop (128 * i + j) t.elems else put (128 * i + j) v t.elems }
/-- The value of an element. -/
def Tile.val (t : Tile) (i j : Nat) : FVal :=
  let c := (t.get i j).toNat
  if t.isInt then ofIntExp (sext 32 c) 0 else decodeF 0 c
def MatCtx.tile (m : MatCtx) (k : Nat) : Tile := m.acc[k]?.getD (Tile.zero false)
def MatCtx.setTile (m : MatCtx) (k : Nat) (t : Tile) : MatCtx := { m with acc := m.acc.setIfInBounds k t }
def MatCtx.slot (m : MatCtx) (k : Nat) : WSlot := m.w[k]?.getD WSlot.empty
def MatCtx.setSlot (m : MatCtx) (k : Nat) (w : WSlot) : MatCtx := { m with w := m.w.setIfInBounds k w }

/-- w(k, j) of a slot: 0 outside the extents, whatever the exponent of its block (R262). -/
def WSlot.val (w : WSlot) (k j : Nat) : FVal :=
  if decide (w.rows ≤ k) || decide (w.cols ≤ j) then fZero
  else engVal w.fmt w.xv.toNat (((look w.exps (4 * j + k / 32)).map (·.toNat)).getD 127) ((look w.codes (128 * k + j)).getD 0)

def State.modMat (s : State) (c tl : Nat) (f : MatCtx → MatCtx) : State := s.modTl c tl fun t => { t with mat := f t.mat }

/-! ## The block (R264, R267, R268) -/

def Cmd.src (x : Cmd) : Bool := x.f 0 6 1 == 1
def Cmd.ws (x : Cmd) : Nat := x.f 0 7 1
def Cmd.acc (x : Cmd) : Nat := x.f 0 8 2
def Cmd.cb (x : Cmd) : Nat := x.f 0 24 4
def Cmd.rows (x : Cmd) : Nat := x.f 0 32 7 + 1
def Cmd.nud (x : Cmd) : Nat := x.f 0 0 4
def Cmd.wtens (x : Cmd) : Tensor := x.ent2.getD Tensor.zero

/-- FMT is neither `.tid` nor the tensor's format. -/
def fmtDiffers (f : BitVec 4) (t : Tensor) : Bool := f != 15 && f.toNat != t.fmt

/-- Bits of the control word that a command must leave 0. -/
def mldZero (w : Nat) : Bool := bits w 8 8 == 0 && bits w 28 36 == 0
def mmaZero (w : Nat) : Bool := bits w 10 6 == 0 && bits w 28 4 == 0 && bits w 39 25 == 0
def mwbZero (w : Nat) : Bool := bits w 14 2 == 0 && bits w 28 4 == 0

/-- CB without SRC or DST. -/
def Cmd.strayBuf (x : Cmd) : Bool := !x.src && x.cb != 0

/-- The buffer checks of R264: declared, on the matrix engine's side, ELEM dividing the bytes moved (log entry 27). -/
def State.matBuf (s : State) (x : Cmd) (producer : Bool) (bytes : Nat) : List (Bool × TrapInfo) :=
  let b := (s.crewOf x.g).buf x.cb
  [(x.src && b.cap == 0, engTrap 0x12),
   (x.src && (if producer then b.pside != .matrix || b.hin != 0 else b.cside != .matrix), engTrap 0x13),
   (x.src && bytes % b.elem != 0, engTrap 0x63)]

def State.matCmd (s : State) (i : Instr) (n : Nat) : Cmd :=
  let blk := s.block i .A n
  s.newCmd i blk (s.tensor s.cur.g (bits (blk.getD 0 0).toNat 16 8)) none

def execMld (sc : BitVec 3) (d a : BitVec 6) (f : BitVec 4) (s : State) : Out :=
  let i : Instr := .mld sc d a f
  s.issue i fun s =>
    let x := s.matCmd i 2
    let bad := firstTrap ([
      (!mldZero (x.w 0) || x.strayBuf, engTrap 0x60),
      (x.ent.isNone, engTrap 0x41),
      (fmtDiffers f x.tens || (pairRow x.tens.fmt).isNone, engTrap 0x60)] ++ s.matBuf x false 16384)
    s.submit i d.toNat .matrix bad x id

def execMma (sc : BitVec 3) (d a : BitVec 6) (f : BitVec 4) (r : BitVec 1) (s : State) : Out :=
  let i : Instr := .mma sc d a f r
  s.issue i fun s =>
    let x := s.matCmd i 2
    let bad := firstTrap ([
      (!mmaZero (x.w 0) || x.strayBuf, engTrap 0x60),
      (x.ent.isNone, engTrap 0x41),
      (fmtDiffers f x.tens || (pairRow x.tens.fmt).isNone || (r == 1 && !northOk x.tens.fmt), engTrap 0x60)] ++
      s.matBuf x false (128 * x.rows))
    s.submit i d.toNat .matrix bad x id

/-- An 8-bit operand format of `mmas`. -/
def sparseOk (f : Nat) : Bool := f == 7 || f == 11 || f == 3 || f == 4 || f == 6

def Cmd.abmp (x : Cmd) : Nat := x.f 2 8 20
def Cmd.bbmp (x : Cmd) : Nat := x.f 2 28 20

def execMmas (sc : BitVec 3) (d a : BitVec 6) (f : BitVec 4) (s : State) : Out :=
  let i : Instr := .mmas sc d a f
  s.issue i fun s =>
    let y := s.matCmd i 3
    let x := { y with ent2 := s.tensor s.cur.g (y.f 2 0 8) }
    let win := (s.crewOf s.cur.g).window
    let bad := firstTrap ([
      (!mmaZero (x.w 0) || x.ws != 0 || x.strayBuf || x.abmp % 16 != 0 || x.bbmp % 16 != 0, engTrap 0x60),
      (x.ent.isNone || x.ent2.isNone, engTrap 0x41),
      (fmtDiffers f x.tens || !sparseOk x.tens.fmt || !sparseOk x.wtens.fmt, engTrap 0x60),
      (decide (win < x.abmp + 16 * x.rows) || decide (win < x.bbmp + 2048), engTrap 0x14)] ++ s.matBuf x false (128 * x.rows))
    s.submit i d.toNat .matrix bad x id

def Cmd.clip (x : Cmd) : Bool := x.f 0 7 1 == 1
def Cmd.clr (x : Cmd) : Bool := x.f 0 10 1 == 1
def Cmd.mwbRm (x : Cmd) : Nat := x.f 0 11 3

/-- A destination that `mwb` refuses (R268). -/
def Cmd.mwbRefused (x : Cmd) : Bool :=
  let f := x.tens.fmt
  f == 6 || f == 10 || f == 14 || (x.clip && decide (7 ≤ f)) || (f == 5 && (x.f 1 32 1 == 1 || x.tens.ext 0 % 2 == 1))

def execMwb (sc : BitVec 3) (d a : BitVec 6) (f : BitVec 4) (s : State) : Out :=
  let i : Instr := .mwb sc d a f
  s.issue i fun s =>
    let x := s.matCmd i 2
    let bad := firstTrap ([
      (!mwbZero (x.w 0) || x.strayBuf || decide (5 ≤ x.mwbRm), engTrap 0x60),
      (x.ent.isNone, engTrap 0x41),
      (fmtDiffers f x.tens || x.mwbRefused, engTrap 0x60)] ++ s.matBuf x true (2048 * x.tens.width))
    s.submit i d.toNat .matrix bad x id

def execMclr (sc : BitVec 3) (d : BitVec 6) (t : BitVec 1) (m : BitVec 4) (s : State) : Out :=
  let i : Instr := .mclr sc d t m
  s.issue i fun s => s.submit i d.toNat .matrix none (s.newCmd i [] none none) id

/-! ## The interlock of slots and tiles (R259) -/

/-- The slot that a command uses, and whether it writes it. -/
def Cmd.slotUse (x : Cmd) : Option (Nat × Bool) :=
  match x.instr with
  | .mld _ _ _ _ => some (x.ws, true)
  | .mma _ _ _ _ _ => some (x.ws, false)
  | _ => none

/-- The command uses a tile, and whether it writes it. -/
def Cmd.tileUse (x : Cmd) (k : Nat) : Option Bool :=
  match x.instr with
  | .mma _ _ _ _ _ | .mmas _ _ _ _ => if x.acc == k then some true else none
  | .mwb _ _ _ _ => if x.acc == k && x.tile.isNone then some x.clr else none
  | .mclr _ _ _ m => if m.getLsbD k then some true else none
  | _ => none

/-- Two commands must not use their slots and tiles at the same time. -/
def clash (x y : Cmd) : Bool :=
  (match x.slotUse, y.slotUse with | some a, some b => a.1 == b.1 && (a.2 || b.2) | _, _ => false) ||
    (List.range 4).any fun k => match x.tileUse k, y.tileUse k with | some a, some b => a || b | _, _ => false

/-- A lower-numbered command has still to finish with what this one uses. -/
def Timeline.held (t : Timeline) (x : Cmd) : Bool := t.cmds.any fun y => decide (y.n < x.n) && !y.done && clash x y

/-! ## Operands (R73, R262) -/

/-- The pins of the lines that a step has fetched (R175, R262): the pinned lines of the command afterwards. -/
def State.pinLines (s : State) (a : Agent) (pins : List (Nat × Nat)) (vas : List Nat) : State × List (Nat × Nat) :=
  vas.foldl (fun acc va =>
    match acc.1.reach a.quad a.ctx a.user .load va with
    | .ok x =>
      let key := (cachePart a.part x, lineOf x.pa)
      if x.host || acc.2.contains key then acc
      else
        let vs := acc.1.pinLevels a x 0
        if firstRefusal (acc.1.pinRefusal a x) vs != 0 then acc
        else (vs.foldl (fun s v => s.modCopy v.cache a.part key.2 fun c => { c with pins := c.pins + 1, pinCtx := a.ctx }) acc.1, acc.2 ++ [key])
    | _ => acc) (s, pins)

/-- The lines of a step requested and pinned, and noted in the command. -/
def State.fetchPinned (c tl : Nat) (x : Cmd) (s : State) (vas : List Nat) : State :=
  let a := s.agent x.g
  let x := (s.cmdAt c tl x.n).getD x
  let (s, lines) := s.request a x.nud x.lines vas
  let (s, pins) := s.pinLines a x.pins vas
  s.modCmd c tl x.n fun y => { y with lines := lines, pins := pins }

/-- The elements of a run of up to `most` from (c0, c1) that lie inside the extents. -/
def Tensor.runIn (t : Tensor) (c0 c1 most : Nat) : Nat := if c1 < t.ext 1 then min most (t.ext 0 - c0) else 0

/-- Address and length of n elements from (c0, c1). -/
def Tensor.runAt (t : Tensor) (c0 c1 n : Nat) : Nat × Nat := (t.addr c0 c1 0 0, (n * t.width + 7) / 8)

/-- The address of the exponent byte of an MXINT8 block: one per 32 elements, row by row; none without a scale base (R67). -/
def Tensor.expAt (t : Tensor) (block c1 : Nat) : Option Nat :=
  if t.fmt == 6 && t.scale != 0 then some (t.scale + c1 * ((t.ext 0 + 31) / 32) + block) else none

/-- The tensor carries FP32 block scales. -/
def Tensor.scaled (t : Tensor) : Bool := (t.fmt == 3 || t.fmt == 4 || t.fmt == 5) && t.scale != 0

/-- Addresses of an activation scale and of a weight-tile scale (R73). -/
def Tensor.scaleA (t : Tensor) (row kb : Nat) : Nat := t.scale + 4 * (row * (((t.ext 0 * t.width + 7) / 8 + 127) / 128) + kb)
def Tensor.scaleB (t : Tensor) (kb nb : Nat) : Nat := t.scale + 4 * (kb * ((t.ext 1 + 127) / 128) + nb)

/-- The sectors of some ranges of device memory. -/
def rangeKeys (rs : List (Nat × Nat)) : List Nat := rs.flatMap fun r => keysAt memBase r.1 r.2

/-! ## Operands from a buffer (R242, R262; log entry 48) -/

/-- Bytes lo to lo + n − 1 of an operand are there: a buffer that can hold the operand must hold all of it. -/
def State.operandThere (s : State) (c tl : Nat) (x : Cmd) (lo n total : Nat) : Bool :=
  let b := (s.crew c).buf x.cb
  !s.sideHeld c tl x Cmd.inBuf && (if b.fits total then decide (total / b.elem ≤ b.occ) else streamReady b.occ b.elem b.elem lo (lo + n))

/-- Those bytes read. From a buffer too small for the operand they are taken: CP passes each element as it is read. -/
def State.operandRead (s : State) (c : Nat) (x : Cmd) (lo n total : Nat) : State × List Byte :=
  let b := (s.crew c).buf x.cb
  if b.fits total then (s, s.streamBytes c x b 0 lo n) else s.takeBuf c x x.cb lo (lo + n)

/-- A sector of those bytes is poisoned (R193). -/
def State.operandPoison (s : State) (c : Nat) (x : Cmd) (lo n total : Nat) : Option Stop :=
  let b := (s.crew c).buf x.cb
  if b.fits total then
    (if !s.poison.isEmpty && ((pieces lo n).any fun p => s.poison.contains (.scratch c (b.place b.cp 0 p.1 / 32))) then some (.park cPOISON 0x00 0) else none)
  else s.bufPoison c b lo n

/-- The sectors of n bytes of an operand image from byte lo on, of a command that reads it through a buffer. -/
def Cmd.imageKeys (x : Cmd) (lo n : Nat) : List Nat := if x.src then keysAt streamBase lo n else []

/-- The addresses of the lines of some ranges. -/
def rangeStarts (rs : List (Nat × Nat)) : List Nat := rs.flatMap fun r => lineStarts r.1 r.2

/-! ## What a command still reads (R262, R263, R265 to R267) -/

/-- What step k of an `mld` reads: blocks of the tile, column, quarter of its 128 bytes, elements inside, and the ranges of memory. -/
structure MldPlan where
  kb : Nat × Nat
  col : Nat
  q : Nat
  c0 : Nat
  n : Nat
  data : List (Nat × Nat)
  exp : List (Nat × Nat)
  scale : List (Nat × Nat)
deriving DecidableEq, Repr

def Cmd.mldPlan (x : Cmd) : MldPlan :=
  let t := x.tens
  let kt := ktOf t.fmt
  let q := x.step % 4
  let c1 := x.f 1 32 32 * 128 + x.step / 4
  let c0 := x.f 1 0 32 * kt + q * (kt / 4)
  let n := t.runIn c0 c1 (kt / 4)
  { kb := (x.f 1 0 32, x.f 1 32 32), col := x.step / 4, q := q, c0 := c0, n := n
    data := if n == 0 || x.src then [] else [t.runAt c0 c1 n]
    exp := if n == 0 then [] else ((t.expAt (x.f 1 0 32 * 4 + q) c1).map fun p => (p, 1)).toList
    scale := if x.step == 511 && t.scaled then [(t.scaleB (x.f 1 0 32) (x.f 1 32 32), 4)] else [] }

/-- What the j-th step from the next one on reads. -/
def Cmd.mldKeys (x : Cmd) (j : Nat) : List Nat :=
  let y := { x with step := x.step + j }
  let p := y.mldPlan
  if decide (512 ≤ y.step) then [] else rangeKeys (p.data ++ p.exp ++ p.scale) ++ x.imageKeys (32 * y.step) 32

/-- The scales of the rows of A, and where they are read; a row wholly outside the extents takes 1 (R262). -/
def Cmd.scaleRanges (x : Cmd) : List (Option Nat) :=
  (List.range x.rows).map fun i =>
    let r := x.f 1 0 32 + i
    if x.tens.scaled && r < x.tens.ext 1 && x.f 1 32 32 * ktOf x.tens.fmt < x.tens.ext 0 then some (x.tens.scaleA r (x.f 1 32 32)) else none

/-- The scales of a K-step: A's, and the weights' where they are read at an address. -/
def Cmd.scaleKeys (x : Cmd) (sbAt : Option Nat) : List Nat := rangeKeys ((x.scaleRanges.filterMap id ++ sbAt.toList).map fun p => (p, 4))

/-- The elements of row i of A in the K-block that lie inside the extents, and what is read of it: data and exponents. -/
def Cmd.rowRun (x : Cmd) (i : Nat) : Nat := x.tens.runIn (x.f 1 32 32 * ktOf x.tens.fmt) (x.f 1 0 32 + i) (ktOf x.tens.fmt)
def Cmd.rowData (x : Cmd) (i : Nat) : Option (Nat × Nat) :=
  if x.rowRun i == 0 || x.src then none else some (x.tens.runAt (x.f 1 32 32 * ktOf x.tens.fmt) (x.f 1 0 32 + i) (x.rowRun i))
def Cmd.rowExps (x : Cmd) (i : Nat) : List (Nat × Nat) :=
  ((List.range 4).filter fun q => 32 * q < x.rowRun i).filterMap fun q => (x.tens.expAt (x.f 1 32 32 * 4 + q) (x.f 1 0 32 + i)).map fun p => (p, 1)
def Cmd.rowKeys (x : Cmd) (i : Nat) : List Nat := rangeKeys ((x.rowData i).toList ++ x.rowExps i)

/-- What the j-th row of an `mma` from the next one on reads; the scales come after the rows. -/
def Cmd.mmaKeys (x : Cmd) (j : Nat) : List Nat :=
  let i := x.step + j
  if i < x.rows then x.rowKeys i ++ x.imageKeys (128 * i) 128 else if i == x.rows then x.scaleKeys none else []

/-- Bit (i, k) of A's bitmap and bit (n, k) of the weights', in the bytes that the command has read. -/
def Cmd.aBit (x : Cmd) (i k : Nat) : Bool := (x.held.getD (16 * i + k / 8) 0).getLsbD (k % 8)
def Cmd.bBit (x : Cmd) (n k : Nat) : Bool := (x.held.getD (16 * x.rows + 16 * n + k / 8) 0).getLsbD (k % 8)

/-- The steps S. -/
def Cmd.sparse (x : Cmd) : List Nat :=
  (List.range 128).filter fun k => ((List.range x.rows).any fun i => x.aBit i k) && (List.range 128).any fun n => x.bBit n k

/-- One element of an outer-product step: its memory, and its exponent's. -/
def Tensor.elemRanges (t : Tensor) (c0 c1 : Nat) (mem : Bool) : List (Nat × Nat) :=
  if t.inside c0 c1 0 0 then (if mem then [(t.addr c0 c1 0 0, 1)] else []) ++ ((t.expAt (c0 / 32) c1).map fun p => (p, 1)).toList else []

/-- The sectors of the step for contraction index k. -/
def Cmd.outerKeys (x : Cmd) (k : Nat) : List Nat :=
  let c0 := x.f 1 32 32 * 128 + k
  let ai := (List.range x.rows).filter fun i => x.aBit i k
  let bn := (List.range 128).filter fun n => x.bBit n k
  rangeKeys ((ai.flatMap fun i => x.tens.elemRanges c0 (x.f 1 0 32 + i) (!x.src)) ++
    bn.flatMap fun n => x.wtens.elemRanges c0 (x.f 2 48 16 * 128 + n) true)

/-- The address of the weights' scale, where it has one. -/
def Cmd.sparseScale (x : Cmd) : Option Nat := if x.wtens.scaled then some (x.wtens.scaleB (x.f 1 32 32) (x.f 2 48 16)) else none

/-- What the j-th step of an `mmas` from the next one on reads: its bitmaps first; then the elements of each step, the rows of A in a buffer,
and the scales. -/
def Cmd.mmasKeys (x : Cmd) (j : Nat) : List Nat :=
  if x.held.isEmpty then
    (if j == 0 then keysAt scratchBase x.abmp (16 * x.rows) ++ keysAt scratchBase x.bbmp 2048 else [])
  else
    let row := x.pos + 128 * j
    (match x.sparse[x.step + j]? with
      | some k => x.outerKeys k
      | none => if x.step + j == x.sparse.length then x.scaleKeys x.sparseScale else []) ++
      (if row < 128 * x.rows then x.imageKeys row 128 else [])

/-- The sectors that a command in progress has still to read, before its operands-consumed point. -/
def Cmd.restKeys (x : Cmd) : List Nat :=
  if x.done || x.pos == operandsGone then []
  else
    x.lacks (match x.instr with
      | .mld _ _ _ _ => (List.range (512 - x.step)).flatMap x.mldKeys
      | .mma _ _ _ _ _ => (List.range (x.rows + 1 - x.step)).flatMap x.mmaKeys
      | .mmas _ _ _ _ => (List.range (x.sparse.length + 1 - x.step)).flatMap x.mmasKeys
      | _ => [])

/-- A command needs bytes of a line of a context. -/
def State.needsLine (s : State) (x : Cmd) (key : Nat × Nat) : Bool :=
  let a := s.agent x.g
  x.restKeys.any fun k => decide (k < scratchBase) && (match s.reach a.quad a.ctx a.user .load (32 * k) with
    | .ok y => (cachePart a.part y, lineOf y.pa) == key
    | _ => false)

/-- Another command in progress of a context that needs bytes of a line, and has no pin of its own on it: crew, timeline and number. -/
def State.pinHeir (s : State) (ctx : Nat) (me : Nat × Nat × Nat) (key : Nat × Nat) : Option (Nat × Nat × Nat) :=
  let all := s.crews.zipIdx.flatMap fun q => if q.1.ctx == ctx && !q.1.retired then q.1.allCmds.map fun p => ((q.2, p.1, p.2.n), p.2) else []
  (all.find? fun p => p.1 != me && p.2.started && !p.2.pins.contains key && s.needsLine p.2 key).map (·.1)

/-- A command's pins go at its operands-consumed point; a line that another command in progress needs stays pinned for that one (R262). -/
def State.unpinAll (s : State) (c tl : Nat) (x : Cmd) : State :=
  let ctx := (s.crew c).ctx
  let s := x.pins.foldl (fun s k =>
    match s.pinHeir ctx (c, tl, x.n) k with
    | some (d, u, n) => s.modCmd d u n fun y => { y with pins := y.pins ++ [k] }
    | none => s.unpinHome ctx k) s
  s.modCmd c tl x.n fun y => { y with pins := [] }

/-- The operands-consumed point: CP passes the operand's elements, and the command's pins go (R262). -/
def State.consumed (s : State) (c tl : Nat) (x : Cmd) (total : Nat) : State :=
  let b := (s.crew c).buf x.cb
  let s := if x.src && b.fits total then s.modCrew c fun cr => cr.setBuf x.cb { b with cp := b.cp + BitVec.ofNat 32 (total / b.elem) } else s
  s.unpinAll c tl ((s.cmdAt c tl x.n).getD x)

/-! ## mld (R265) -/

/-- A slot with one sector of its tile. -/
def WSlot.load (w : WSlot) (t : Tensor) (p : MldPlan) (bs : List Byte) (exp : Nat) : WSlot :=
  let kt := ktOf t.fmt
  let putCode (cs : List (Nat × Nat)) (e : Nat) : List (Nat × Nat) :=
    let key := 128 * (p.q * (kt / 4) + e) + p.col
    let v := if e < p.n then codeIn bs (e * t.width) t.width else 0
    if v == 0 then drop key cs else put key v cs
  { w with rows := min kt (t.ext 0 - kt * p.kb.1), cols := min 128 (t.ext 1 - 128 * p.kb.2)
           codes := (List.range (kt / 4)).foldl putCode w.codes
           exps := if t.fmt == 6 then put (4 * p.col + p.q) (BitVec.ofNat 8 exp) w.exps else w.exps }

/-- One step of an `mld`: a sector of the tile received into the slot; the last completes the slot (log entry 29). -/
def State.mldStep (s : State) (c tl : Nat) (x : Cmd) : Out :=
  let t := x.tens
  let p := x.mldPlan
  let lo := 32 * x.step
  if ((s.crew c).tline tl).held x || (x.src && !s.operandThere c tl x lo 32 16384) then .next s
  else
    match (if x.src then s.operandPoison c x lo 32 16384 else none) with
    | some st => s.stopCmd c tl x st
    | none =>
      s.gather c tl x (State.fetchPinned c tl x) x.mldKeys fun s x =>
        let read (l : List (Nat × Nat)) : Option Nat := l.head?.map fun r => x.readNum memBase r.1 r.2
        let exp := (read p.exp).getD 127
        let sb := ((read p.scale).map fun v => BitVec.ofNat 32 v).getD oneCode
        let (s, bs) := if x.src then s.operandRead c x lo 32 16384 else (s, leBytes 32 ((read p.data).getD 0))
        let last := x.step == 511
        let s := s.modMat c tl fun m =>
          let w := (m.slot x.ws).load t p bs exp
          m.setSlot x.ws (if last then
            { w with loaded := true, fmt := t.fmt, xv := BitVec.ofNat 32 t.xv, tid := x.f 0 16 8, sb := sb } else w)
        let s := s.modCmd c tl x.n fun y => { y with step := y.step + 1, done := last }
        .next (if last then s.consumed c tl x 16384 else s)

/-! ## Promotion (R76, R78) -/

/-- One element of a promotion: the new code, and the sub-cause of a non-finite one. Accumulator, operands and scales all count as
operands (R270). -/
def promoteElem (t : Tile) (i j : Nat) (p : FVal × FVal) (sa sb : FVal) : BitVec 32 × BitVec 8 :=
  let acc := t.val i j
  if t.isInt then (BitVec.ofNat 32 (wrap 32 ((roundInt 1 (FVal.add false acc p.1)).1)), 0)
  else
    let r := roundF 0 0 (FVal.add false acc (FVal.mul (FVal.mul p.1 sa) sb))
    (BitVec.ofNat 32 r.code, nonFiniteSub [acc, sa, sb, p.2] (decodeF 0 r.code))

/-- A K-step's rows promoted: element codes and sub-causes, row by row. -/
def promoteRows (t : Tile) (part : List (List (FVal × FVal))) (sa : List FVal) (sb : FVal) : List (List (BitVec 32 × BitVec 8)) :=
  part.mapIdx fun i row => row.mapIdx fun j p => promoteElem t i j p (sa.getD i fOne) sb

/-- The first non-finite element, by row and then by column. -/
def firstBad (rs : List (List (BitVec 32 × BitVec 8))) : Option (Nat × Nat × BitVec 8) :=
  (rs.zipIdx.flatMap fun r => r.1.zipIdx.map fun e => (r.2, e.2, e.1.2)).find? fun x => x.2.2 != 0

def Tile.setRows (t : Tile) (rs : List (List (BitVec 32 × BitVec 8))) : Tile :=
  (rs.zipIdx.flatMap fun r => r.1.zipIdx.map fun e => (r.2, e.2, e.1.1)).foldl (fun t x => t.set x.1 x.2.1 x.2.2) t

/-- The promotion of a K-step whose partial sums are complete; the weights' scale is read at an address, or given. The last operand byte has
been read before the check of R78 (log entry 29). -/
def State.promote (s : State) (c tl : Nat) (x : Cmd) (sbAt : Option Nat) (sb0 : FVal) : Out :=
  s.readAll c tl x (State.fetchPinned c tl x) (x.scaleKeys sbAt) fun s x =>
    let s := if x.pos == operandsGone then s else (s.consumed c tl x (128 * x.rows)).modCmd c tl x.n fun y => { y with pos := operandsGone }
    let m := ((s.crew c).tline tl).mat
    let num (p : Nat) : FVal := decodeF 0 (x.readNum memBase p 4)
    let sa := x.scaleRanges.map fun p => (p.map num).getD fOne
    let sb := (sbAt.map num).getD sb0
    let t := m.tile x.acc
    let out := promoteRows t m.part sa sb
    match (if x.nft && !x.noCheck then firstBad out else none) with
    | some (i, j, sub) => .next (s.parkAs c tl x cNONFINITE sub cNONFINITE sub 0 i j (x.f 1 32 32))
    | none =>
      let s := s.modMat c tl fun m => { m.setTile x.acc (t.setRows out) with part := [] }
      .next (s.modCmd c tl x.n fun y => { y with done := true })

/-! ## mma (R266) -/

/-- The values of A's row i in the K-block, from its bytes and exponents. -/
def Cmd.aRow (x : Cmd) (n : Nat) (bs : List Byte) (exps : List Nat) : List FVal :=
  let t := x.tens
  (List.range (ktOf t.fmt)).map fun k =>
    if k < n then engVal t.fmt t.xv (exps.getD (k / 32) 127) (codeIn bs (k * t.width) t.width) else fZero

/-- Row i of the partial sums: `.w` contracts over K, `.n` over the weight columns. -/
def partRow (w : WSlot) (north : Bool) (av : List FVal) : List (FVal × FVal) :=
  (List.range 128).map fun j =>
    let ws := (List.range av.length).map fun k => if north then w.val j k else w.val k j
    (exactSum (List.zipWith FVal.mul av ws), (av ++ ws).foldl worse fZero)

/-- The next row of an `mma` read and multiplied; then the rest of the K-step. -/
def State.mmaRow (s : State) (c tl : Nat) (x : Cmd) (north : Bool) (rest : State → Out) : Out :=
  let i := x.step
  let lo := 128 * i
  let total := 128 * x.rows
  if x.src && !s.operandThere c tl x lo 128 total then .next s
  else
    match (if x.src then s.operandPoison c x lo 128 total else none) with
    | some st => s.stopCmd c tl x st
    | none =>
      s.readAll c tl x (State.fetchPinned c tl x) (x.rowKeys i) fun s x =>
        let w := ((s.crew c).tline tl).mat.slot x.ws
        let ev := (x.rowExps i).map fun p => x.readNum memBase p.1 1
        let (s, bs) := if x.src then s.operandRead c x lo 128 total else (s, match x.rowData i with | some p => x.read memBase p.1 p.2 | none => [])
        let row := partRow w north (x.aRow (x.rowRun i) bs ev)
        rest ((s.modMat c tl fun m => { m with part := m.part ++ [row] }).modCmd c tl x.n fun y => { y with step := y.step + 1 })

/-- The rows of an `mma` one after another, and the promotion. -/
def State.mmaRows (s : State) (c tl n : Nat) (north : Bool) : Nat → Out
  | 0 =>
    match s.liveCmd c tl n with
    | none => .next s
    | some x =>
      let m := ((s.crew c).tline tl).mat
      s.promote c tl x none (decodeF 0 (m.slot x.ws).sb.toNat)
  | k + 1 =>
    match s.liveCmd c tl n with
    | none => .next s
    | some x => s.mmaRow c tl x north fun t => State.mmaRows t c tl n north k

/-- The K-step of an `mma`. -/
def State.mmaStep (s : State) (c tl : Nat) (x : Cmd) (north : Bool) : Out :=
  let m := ((s.crew c).tline tl).mat
  let w := m.slot x.ws
  if !w.loaded then s.stopCmd c tl x (.park cENGINE 0x62 0)
  else if pairRow w.fmt != pairRow x.tens.fmt || (m.tile x.acc).isInt != intRow x.tens.fmt then s.stopCmd c tl x (.park cENGINE 0x61 0)
  else
    match s.prefetch c tl x (State.fetchPinned c tl x) x.mmaKeys with
    | (true, t) => .next t
    | (false, t) => t.mmaRows c tl x.n north (x.rows - x.step)

/-! ## mmas (R267) -/

/-- Its value, from the sectors that the command has read, or from a byte of its input buffer. -/
def Cmd.elemVal (x : Cmd) (t : Tensor) (c0 c1 : Nat) (byte : Option Byte) : FVal :=
  if !t.inside c0 c1 0 0 then fZero
  else
    let code := match byte with | some b => b.toNat | none => x.readNum memBase (t.addr c0 c1 0 0) 1
    engVal t.fmt t.xv (((t.expAt (c0 / 32) c1).map fun p => x.readNum memBase p 1).getD 127) code

/-- One outer-product step, and the rest. -/
def State.mmasOuter (s : State) (c tl : Nat) (x : Cmd) (rest : State → Out) : Out :=
  let k := x.sparse.getD x.step 0
  let c0 := x.f 1 32 32 * 128 + k
  s.readAll c tl x (State.fetchPinned c tl x) (x.outerKeys k) fun s x =>
    let img (i : Nat) : Option Byte := if x.src then some (x.held.getD (16 * x.rows + 2048 + 128 * i + k) 0) else none
    let av := (List.range x.rows).map fun i => if x.aBit i k then x.elemVal x.tens c0 (x.f 1 0 32 + i) (img i) else fZero
    let bv := (List.range 128).map fun n => if x.bBit n k then x.elemVal x.wtens c0 (x.f 2 48 16 * 128 + n) none else fZero
    let add (i : Nat) (row : List (FVal × FVal)) : List (FVal × FVal) :=
      row.mapIdx fun j p =>
        let u := av.getD i fZero
        let v := bv.getD j fZero
        (exactSum [p.1, FVal.mul u v], worse p.2 (worse u v))
    rest ((s.modMat c tl fun m => { m with part := m.part.mapIdx add }).modCmd c tl x.n fun y => { y with step := y.step + 1 })

/-- The steps of an `mmas` one after another, and the promotion. -/
def State.mmasSteps (s : State) (c tl n : Nat) : Nat → Out
  | 0 =>
    match s.liveCmd c tl n with
    | none => .next s
    | some x => s.promote c tl x x.sparseScale fOne
  | k + 1 =>
    match s.liveCmd c tl n with
    | none => .next s
    | some x => s.mmasOuter c tl x fun t => State.mmasSteps t c tl n k

/-- The rows of A taken from a buffer, as far as they are there; then the rest of the K-step. -/
def State.mmasFill (s : State) (c tl n : Nat) (rest : State → Out) : Nat → Out
  | 0 => rest s
  | k + 1 =>
    match s.liveCmd c tl n with
    | none => .next s
    | some x =>
      let lo := x.pos
      let total := 128 * x.rows
      if lo == total || x.pos == operandsGone then rest s
      else if !s.operandThere c tl x lo 128 total then .next s
      else
        match s.operandPoison c x lo 128 total with
        | some st => s.stopCmd c tl x st
        | none =>
          let (s, bs) := s.operandRead c x lo 128 total
          State.mmasFill (s.modCmd c tl n fun y => { y with held := y.held ++ bs, pos := y.pos + 128 }) c tl n rest k

/-- The bitmaps are read first; then the rest of the K-step. -/
def State.mmasBegin (s : State) (c tl : Nat) (x : Cmd) (rest : State → Cmd → Out) : Out :=
  if !x.held.isEmpty then rest s x
  else
    s.gather c tl x (fun s _ => s) x.mmasKeys fun s x =>
      let maps := x.read scratchBase x.abmp (16 * x.rows) ++ x.read scratchBase x.bbmp 2048
      let s := (s.modMat c tl fun m => { m with part := List.replicate x.rows (List.replicate 128 (fZero, fZero)) }).modCmd c tl x.n fun y =>
        { y with held := maps }
      rest s ((s.cmdAt c tl x.n).getD x)

/-- The K-step of an `mmas`. -/
def State.mmasStep (s : State) (c tl : Nat) (x : Cmd) : Out :=
  let m := ((s.crew c).tline tl).mat
  if pairRow x.wtens.fmt != pairRow x.tens.fmt || (m.tile x.acc).isInt != intRow x.tens.fmt then s.stopCmd c tl x (.park cENGINE 0x61 0)
  else
    s.mmasBegin c tl x fun s x =>
      let steps (s : State) : Out := s.mmasSteps c tl x.n (x.sparse.length - x.step)
      match s.prefetch c tl x (State.fetchPinned c tl x) x.mmasKeys with
      | (true, t) => .next t
      | (false, t) => if x.src then t.mmasFill c tl x.n steps (x.rows + 1) else steps t

/-! ## The array (R258) -/

def isKstep (i : Instr) : Bool := match i with | .mma _ _ _ _ _ | .mmas _ _ _ _ => true | _ => false

/-- The data of a K-step's buffer is there: all of it, or, from a buffer too small for it, its next row. -/
def State.kData (s : State) (c tl : Nat) (x : Cmd) : Bool :=
  let lo := match x.instr with | .mma _ _ _ _ _ => 128 * x.step | _ => x.pos
  !x.src || decide (128 * x.rows ≤ lo) || s.operandThere c tl x lo 128 (128 * x.rows)

/-- A K-step may start or go on: its context is resident, it is the lowest-numbered of its context, its tile and slot are free, and its
data is there. -/
def State.kReady (s : State) (c tl : Nat) (x : Cmd) : Bool :=
  let t := (s.crew c).tline tl
  t.resident && isKstep x.instr && !t.held x && s.kData c tl x && !t.cmds.any fun y => isKstep y.instr && decide (y.n < x.n) && !y.done

/-- A K-step of another context of the quad's array. -/
def State.otherKstep (s : State) (c tl : Nat) (p : Nat → Nat → Cmd → Bool) : Bool :=
  s.crews.zipIdx.any fun q =>
    q.1.quad == (s.crew c).quad && !q.1.retired && (List.range 8).any fun k =>
      (q.2 != c || k != tl) && (q.1.tline k).cmds.any fun y => isKstep y.instr && (s.liveCmd q.2 k y.n).isSome && p q.2 k y

/-- The other resident context has a K-step that may start, and its last K-step is older (R258). -/
def State.otherTurn (s : State) (c tl : Nat) : Bool :=
  let mine := ((s.crew c).tline tl).kturn
  s.otherKstep c tl fun d k y => decide (((s.crew d).tline k).kturn < mine) && s.kReady d k y

/-- The array is at a K-step of the other context: one that has begun and is not parked; of two that have begun, the one that began later,
since the other was parked then (R240, R258). -/
def State.arrayTaken (s : State) (c tl : Nat) (x : Cmd) : Bool :=
  let mine := ((s.crew c).tline tl).kturn
  s.otherKstep c tl fun d k y => y.opened && (!x.opened || decide (mine < ((s.crew d).tline k).kturn))

/-- A K-step begins: its sums are empty, and its context has had its turn (R258). -/
def State.openKstep (s : State) (c tl : Nat) (x : Cmd) : State :=
  if x.opened then s
  else
    let s := { s with seq := s.seq + 1 }
    s.modTl c tl fun t => { t.modCmd x.n fun y => { y with opened := true } with kturn := s.seq, mat := { t.mat with part := [] } }

/-- One K-step of the array: one that has begun and is not parked comes first; then the other resident context, where it is its turn (R258). -/
def State.kstep (s : State) (c tl : Nat) (x : Cmd) : Out :=
  if !s.kReady c tl x || s.arrayTaken c tl x || (!x.opened && s.otherTurn c tl) then .next s
  else
    let s := s.openKstep c tl x
    let x := (s.cmdAt c tl x.n).getD x
    match x.instr with
    | .mma _ _ _ _ r => s.mmaStep c tl x (r == 1)
    | _ => s.mmasStep c tl x

/-! ## mwb and mclr (R268, R269) -/

/-- The code that `mwb` writes for element (i, j), and the sub-cause of a non-finite source or output (R76, R78). -/
def Cmd.mwbOut (x : Cmd) (t : Tile) (i j : Nat) : Nat × BitVec 8 :=
  let f := x.tens.fmt
  let acc := t.val i j
  let sc := decodeF 0 (x.f 0 32 32)
  let v := FVal.mul acc sc
  if decide (7 ≤ f) then
    ((toIntSat (decide (11 ≤ f)) (fmtWidth f) x.mwbRm v).code, if acc.nonFinite then 0x04 else 0)
  else
    let r := roundClamp f x.mwbRm x.clip v
    let out := decodeF f r.code
    let bad := acc.nonFinite || out.nonFinite
    let conv := f == 5 || x.clip
    (r.code, if !bad then 0 else if conv && (acc.nonFinite || sc.nonFinite) then 0x04 else nonFiniteSub [acc, sc] out)

/-- The first element that R78 refuses. -/
def Cmd.mwbBad (x : Cmd) (t : Tile) : Option (Nat × Nat × BitVec 8) :=
  ((List.range 128).flatMap fun i => (List.range 128).map fun j => (i, j, (x.mwbOut t i j).2)).find? fun e => e.2.2 != 0

/-- The byte ranges of the rows that lie inside the destination. -/
def Cmd.mwbRanges (x : Cmd) : List (Nat × Nat) :=
  (List.range 128).map fun i =>
    let n := x.tens.runIn (x.f 1 32 32) (x.f 1 0 32 + i) 128
    let va := x.tens.addr (x.f 1 32 32) (x.f 1 0 32 + i) 0 0
    if n == 0 then (0, 0) else (va, va + n * x.tens.width / 8)

/-- Byte o of row i of the image. -/
def Cmd.mwbByte (x : Cmd) (t : Tile) (i o : Nat) : Byte :=
  let w := x.tens.width
  if w == 4 then BitVec.ofNat 8 ((x.mwbOut t i (2 * o)).1 + 16 * (x.mwbOut t i (2 * o + 1)).1)
  else BitVec.ofNat 8 ((x.mwbOut t i (8 * o / w)).1 / 2 ^ (8 * (o % (w / 8))))

/-- The byte that the rows give an address; rows that overlap leave the highest row's. -/
def Cmd.mwbAt (x : Cmd) (t : Tile) (va : Nat) : Option Byte :=
  ((x.mwbRanges.zipIdx.filter fun r => r.1.1 ≤ va && va < r.1.2).getLast?).map fun r => x.mwbByte t r.2 (va - r.1.1)

/-- Some bytes of one sector written: at once where they make up the whole sector. -/
def State.engWriteSome (s : State) (a : Agent) (bs : List (Nat × Byte)) : State :=
  if bs.length == 32 then (match bs.head? with | some p => s.engWritePiece a p.1 (bs.map (·.2)) | none => s)
  else bs.foldl (fun s p => s.engWritePiece a p.1 [p.2]) s

/-- The sector of the next step in device memory. -/
def State.mwbSector (s : State) (c tl : Nat) (x : Cmd) (t : Tile) : Out :=
  let a := s.agent x.g
  match nextSector x.mwbRanges x.pos with
  | none => .next (s.modCmd c tl x.n fun y => { y with done := true })
  | some sec =>
    let bs := (List.range 32).filterMap fun j => (x.mwbAt t (32 * sec + j)).map fun v => (32 * sec + j, v)
    match s.engPiece a .store ((bs.head?.map (·.1)).getD 0, bs.length) with
    | some st => s.stopCmd c tl x st
    | none =>
      let s := State.fetchFor c tl x x.nud s [32 * sec]
      let s := s.engWriteSome a bs
      .next (s.modCmd c tl x.n fun y =>
        { y with step := y.step + 1, pos := sec + 1, done := (nextSector x.mwbRanges (sec + 1)).isNone })

/-- The sector of the next step in a buffer. -/
def State.mwbBuf (s : State) (c tl : Nat) (x : Cmd) (t : Tile) : Out :=
  let b := (s.crew c).buf x.cb
  let rb := 16 * x.tens.width
  if s.sideHeld c tl x Cmd.outBuf || !streamReady b.free b.elem b.elem x.pos (x.pos + 32) then .next s
  else
    let bs := (List.range 32).map fun j => x.mwbByte t ((x.pos + j) / rb) ((x.pos + j) % rb)
    let s := s.putBuf c x.cb x.pos bs
    .next (s.modCmd c tl x.n fun y => { y with step := y.step + 1, pos := y.pos + 32, done := y.pos + 32 == 128 * rb })

/-- One step of an `mwb`: the tile is read once, checked and cleared; then the destination is written sector by sector. -/
def State.mwbStep (s : State) (c tl : Nat) (x : Cmd) : Out :=
  let m := ((s.crew c).tline tl)
  match x.tile with
  | some t => if x.src then s.mwbBuf c tl x t else s.mwbSector c tl x t
  | none =>
    if m.held x then .next s
    else
      let t := m.mat.tile x.acc
      match (if x.nft && !x.noCheck then x.mwbBad t else none) with
      | some (i, j, sub) => .next (s.parkAs c tl x cNONFINITE sub cNONFINITE sub 0 i j 0xFFFFFFFF)
      | none =>
        let s := if x.clr then s.modMat c tl fun k => k.setTile x.acc (Tile.zero t.isInt) else s
        .next (s.modCmd c tl x.n fun y => { y with tile := some t })

/-- The step of an `mclr`. -/
def State.mclrStep (s : State) (c tl : Nat) (x : Cmd) (t : BitVec 1) (mask : BitVec 4) : Out :=
  if ((s.crew c).tline tl).held x then .next s
  else
    let s := s.modMat c tl fun m => { m with acc := m.acc.mapIdx fun k a => if mask.getLsbD k then Tile.zero (t == 1) else a }
    .next (s.modCmd c tl x.n fun y => { y with done := true })

end Sys2Proof.Machine
end

