-- ==== Sys2Proof/Machine/Index.lean ====
section
/-! DEFINITION. The index engine: `ixg` and `ixs` at issue, their steps, and the sector adds (R277 to R282). -/

namespace Sys2Proof.Machine

/-! ## The block (R277, R278) -/

def Cmd.cnt (x : Cmd) : Nat := x.f 0 32 16 + 1
def Cmd.ixIdx (x : Cmd) : Nat := x.f 1 0 20
def Cmd.ixOff (x : Cmd) : Nat := x.f 1 20 20
def Cmd.jrn (x : Cmd) : Nat := x.f 2 0 20
def Cmd.jen (x : Cmd) : Bool := x.f 2 20 1 == 1

/-- Bytes of a table row, and of a source row of `ixs`. -/
def Tensor.rowSize (t : Tensor) : Nat := t.ext 0 * t.width / 8
def Tensor.srcSize (t : Tensor) : Nat := 4 * t.ext 0

/-- The table breaks R277. -/
def Tensor.tableBad (t : Tensor) : Bool :=
  t.dims < 2 || t.ext 0 * t.width % 256 != 0 || decide (16384 < t.rowSize)

/-- Reserved and unused fields of the two words that both commands have. -/
def Cmd.ixStray (x : Cmd) : Bool :=
  x.f 0 7 1 != 0 || x.f 0 13 3 != 0 || x.f 0 28 4 != 0 || x.f 0 48 16 != 0 || x.f 1 40 24 != 0 || x.strayBuf || (x.src && x.ixOff != 0)

def Cmd.ixMisaligned (x : Cmd) : Bool := x.ixIdx % 4 != 0 || x.ixOff % 32 != 0

/-- The checks that both commands make, in order; `row` is the size of an image row (log entry 27). -/
def State.indexFault (s : State) (x : Cmd) (f : BitVec 4) (stray tableBad : Bool) (row : Nat) (producer : Bool) : Option TrapInfo :=
  let c := s.crewOf x.g
  let b := c.buf x.cb
  firstTrap [
    (x.ixStray || stray || x.ixMisaligned, engTrap 0x70),
    (x.ent.isNone, engTrap 0x41),
    (fmtDiffers f x.tens || x.tens.tableBad || tableBad, engTrap 0x70),
    (decide (c.window < x.ixIdx + 4 * x.cnt) || (!x.src && decide (c.window < x.ixOff + x.cnt * row)) ||
      (x.jen && decide (c.window < x.jrn + 32 * ((x.cnt + 255) / 256))), engTrap 0x14),
    (x.src && b.cap == 0, engTrap 0x12),
    (x.src && (if producer then b.pside != .index || b.hin != 0 else b.cside != .index), engTrap 0x13),
    (x.src && row % b.elem != 0, engTrap 0x73)]

def execIxg (sc : BitVec 3) (d a : BitVec 6) (f : BitVec 4) (s : State) : Out :=
  let i : Instr := .ixg sc d a f
  s.issue i fun s =>
    let x := s.matCmd i 2
    s.submit i d.toNat .index (s.indexFault x f false false x.tens.rowSize true) x id

def execIxs (sc : BitVec 3) (d a : BitVec 6) (f : BitVec 4) (s : State) : Out :=
  let i : Instr := .ixs sc d a f
  s.issue i fun s =>
    let x := s.matCmd i 3
    let stray := x.f 0 8 5 != 0 || x.f 2 21 43 != 0 || (x.jen && x.jrn % 32 != 0)
    s.submit i d.toNat .index (s.indexFault x f stray (x.tens.fmt != 0 && x.tens.fmt != 2) x.tens.srcSize false) x id

/-! ## ixg (R279) -/

def padIndex : Nat := 0xFFFFFFFF

/-- Where index k of the list stands, and the index, once it has been read. -/
def Cmd.indexKeys (x : Cmd) (k : Nat) : List Nat := keysAt scratchBase (x.ixIdx + 4 * k) 4
def Cmd.indexAt (x : Cmd) (k : Nat) : Nat := x.readNum scratchBase (x.ixIdx + 4 * k) 4

/-- The next image sector of an `ixg` written, and its place counted. -/
def State.ixgWrite (s : State) (c tl : Nat) (x : Cmd) (bs : List Byte) : State :=
  let row := x.tens.rowSize
  let s := if x.src then s.putBuf c x.cb x.pos bs else s.writeScratch c (x.ixOff + x.step * row + x.pos) bs
  let s := s.countSync c (x.f 0 12 1) (x.f 0 8 4) 32
  s.modCmd c tl x.n fun y =>
    if y.pos + 32 == row then { y with step := y.step + 1, pos := 0, done := y.step + 1 == y.cnt } else { y with pos := y.pos + 32 }

/-- The sector of the table that byte p of image row k takes, where the row's index is known and names a row. -/
def Cmd.ixgRow (x : Cmd) (k p : Nat) : List Nat :=
  let idx := x.indexAt k
  if !(x.lacks (x.indexKeys k)).isEmpty || idx == padIndex || decide (x.tens.ext 1 ≤ idx) then []
  else keysAt memBase (x.tens.base + idx * x.tens.stride 1 + p) 32

/-- What the j-th step from the next one on reads. -/
def Cmd.ixgKeys (x : Cmd) (j : Nat) : List Nat :=
  let row := x.tens.rowSize
  let k := x.step + (x.pos + 32 * j) / row
  if decide (x.cnt ≤ k) then [] else x.indexKeys k ++ x.ixgRow k ((x.pos + 32 * j) % row)

/-- One step of an `ixg`: a sector of an image row (R279). -/
def State.ixgStep (s : State) (c tl : Nat) (x : Cmd) : Out :=
  let b := (s.crew c).buf x.cb
  let fetch := State.fetchFor c tl x x.nud
  if x.src && (s.sideHeld c tl x Cmd.outBuf || !streamReady b.free b.elem x.tens.rowSize x.pos (x.pos + 32)) then .next s
  else
    match s.prefetch c tl x fetch x.ixgKeys with
    | (true, t) => .next t
    | (false, t) =>
      t.readAll c tl x fetch (x.indexKeys x.step) fun s x =>
        let idx := x.indexAt x.step
        if idx == padIndex then .next (s.ixgWrite c tl x (List.replicate 32 0))
        else if decide (x.tens.ext 1 ≤ idx) then s.stopCmd c tl x (.park cENGINE 0x71 0)
        else
          let va := x.tens.base + idx * x.tens.stride 1 + x.pos
          s.readAll c tl x fetch (x.ixgRow x.step x.pos) fun s x => .next (s.ixgWrite c tl x (x.read memBase va 32))

/-! ## ixs (R280 to R282) -/

/-- The journal sector that covers update k. -/
def Cmd.jrnOff (x : Cmd) (k : Nat) : Nat := x.jrn + 32 * (k / 256)

/-- The journal sector that covers update k read, where the command has not read it. -/
def State.readJournal (s : State) (c tl : Nat) (x : Cmd) (k : Nat) : State :=
  let off := x.jrnOff k
  if !x.jen || (look x.journal off).isSome then s
  else s.modCmd c tl x.n fun y => { y with journal := put off (BitVec.ofNat 256 (Mem.num (s.crew c).scratch off 32)) y.journal }

/-- The journal sector that covers update k, where it has still to be read. -/
def Cmd.journalKeys (x : Cmd) (k : Nat) : List Nat :=
  if x.jen && (look x.journal (x.jrnOff k)).isNone then [scratchBase + x.jrnOff k / 32] else []

/-- The journal says that update k has been applied. -/
def Cmd.applied (x : Cmd) (k : Nat) : Bool := x.jen && ((look x.journal (x.jrnOff k)).any fun j => j.getLsbD (k % 256))

/-- Updates that may be in flight at once (R281). -/
def Cmd.depth (x : Cmd) : Nat := if x.jen then 16 else 1

/-- The step counter: the largest m such that every update below m has been applied or skipped (R282). `pos` is the next to be taken up. -/
def Cmd.settle (x : Cmd) : Cmd :=
  let m := match leastBy (fun u : Upd => u.k) x.ups with | some u => u.k | none => x.pos
  { x with step := m, noCheck := x.noCheck && m == x.step, done := m == x.cnt }

/-- An update has been applied or skipped: it is in flight no more. -/
def State.dropUpdate (s : State) (c tl : Nat) (x : Cmd) (k : Nat) : State :=
  s.modCmd c tl x.n fun y => { y with ups := y.ups.filter fun u => u.k != k }.settle

/-- An update whose adds are acknowledged: its bit is set, and the journal sector written whole (R281). -/
def State.endUpdate (s : State) (c tl : Nat) (x : Cmd) (k : Nat) : State :=
  let off := x.jrnOff k
  let s := match look x.journal off with
    | some bits =>
      let new := bits ||| BitVec.ofNat 256 (2 ^ (k % 256))
      (s.writeScratch c off (leBytes 32 new.toNat)).modCmd c tl x.n fun y => { y with journal := put off new y.journal }
    | none => s
  s.dropUpdate c tl x k

/-- A piece of a table row for an add: translated, in no region, on a DT page (R280). -/
def State.addReach (s : State) (a : Agent) (va : Nat) : Stop ⊕ Xl :=
  match s.engReach a .atomic va with
  | .inl st => .inl st
  | .inr x => if x.host || x.attr != 0 then .inl (.park cENGINE 0x72 0) else .inr x

/-- The first stop of a whole row. -/
def State.addCheck (s : State) (a : Agent) (va n : Nat) : Option Stop :=
  (pieces va n).findSome? fun p => match s.addReach a p.1 with | .inl st => some st | .inr _ => none

/-- The new code of element e of a row whose old code is given, with the sub-cause of a non-finite result. -/
def Cmd.addElem (x : Cmd) (src : List Byte) (e old : Nat) : Nat × BitVec 8 :=
  let f := x.tens.fmt
  let o := decodeF f old
  let u := decodeF 0 (codeIn ((src.drop (4 * e)).take 4) 0 32)
  let r := roundF f 0 (FVal.add false o u)
  (r.code, nonFiniteSub [o, u] (decodeF f r.code))

/-- The lowest element of a row that an update would make non-finite. -/
def State.badAdd (s : State) (a : Agent) (x : Cmd) (va : Nat) (src : List Byte) : Option (Nat × BitVec 8) :=
  let es := x.tens.width / 8
  ((List.range (x.tens.ext 0)).map fun e => (e, (x.addElem src e (s.engNum a (va + e * es) es)).2)).find? fun p => p.2 != 0

/-- The row's table address for an index. -/
def Cmd.rowAt (x : Cmd) (idx : Nat) : Nat := x.tens.base + idx * x.tens.stride 1

/-- A row translated: its pieces, with their physical addresses. -/
def State.addPieces (s : State) (a : Agent) (va n : Nat) : List (Nat × Nat × Nat) :=
  (pieces va n).filterMap fun p => match s.addReach a p.1 with | .inr y => some (p.1, p.2, y.pa) | .inl _ => none

/-- The context parks on the fault of an update, once every update in flight has been completed; those not begun are taken up again when the
command is resumed (R282). -/
def State.parkUpdate (s : State) (c tl : Nat) (x : Cmd) : Out :=
  match x.fail with
  | none => .next s
  | some (_, cause, sub, faddr) => .next ((s.modCmd c tl x.n fun y => { y with fail := none }).park c tl x cause sub faddr)

/-- An update cannot be performed, or not completed: the least-numbered such update names the park, and the whole update is made again
when the command is resumed (R282). -/
def State.failUpdate (s : State) (c tl : Nat) (x : Cmd) (k : Nat) (cause sub : BitVec 8) (faddr : Nat) : State :=
  s.modCmd c tl x.n fun y =>
    { y with
      ups := y.ups.map fun u => if u.k == k then { u with row := none, next := 0 } else u
      fail := match y.fail with | some f => if f.1 ≤ k then some f else some (k, cause, sub, faddr) | none => some (k, cause, sub, faddr) }

/-- An update stops at its index, its source row or its table row. -/
def State.failStop (s : State) (c tl : Nat) (x : Cmd) (k : Nat) (st : Stop) : Out :=
  match st with
  | .park cause sub faddr => .next (s.failUpdate c tl x k cause sub faddr)
  | .void pa => .fault (.noDram pa)

/-- The source row of update k taken from a buffer. -/
def State.takeRow (s : State) (c tl : Nat) (x : Cmd) (k : Nat) (rest : State → List Byte → Out) : Out :=
  let b := (s.crew c).buf x.cb
  let n := x.tens.srcSize
  if s.sideHeld c tl x Cmd.inBuf || !streamReady b.occ b.elem b.elem (k * n) (k * n + n) then .next s
  else
    match s.bufPoison c b (k * n) n with
    | some st => s.failStop c tl x k st
    | none => let (s, src) := s.takeBuf c x x.cb (k * n) (k * n + n); rest s src

/-- What the j-th update from the next one on reads: its index and its source row. -/
def Cmd.ixsKeys (x : Cmd) (j : Nat) : List Nat :=
  let k := x.pos + j
  let n := x.tens.srcSize
  if decide (x.cnt ≤ k) then []
  else x.indexKeys k ++ keysAt (if x.src then streamBase else scratchBase) (if x.src then k * n else x.ixOff + k * n) n

/-- The next update is taken up: its index and its source row are read, and its journal sector before them (R280, R281). -/
def State.openUpdate (s : State) (c tl : Nat) (x : Cmd) : Out :=
  let k := x.pos
  let n := x.tens.srcSize
  let keys := (x.ixsKeys 0).filter fun q => decide (q < streamBase)
  let none_ (s : State) (_ : List Nat) : State := s
  let add (s : State) (src : List Byte) : Out :=
    .next (s.modCmd c tl x.n fun y => { y with ups := y.ups ++ [⟨k, src, none, 0, 0⟩], pos := k + 1 })
  match (x.journalKeys k ++ x.lacks keys).findSome? (s.sourceStop c x) with
  | some st => s.failStop c tl x k st
  | none =>
    let s := s.readJournal c tl x k
    s.gather c tl ((s.cmdAt c tl x.n).getD x) none_ x.ixsKeys fun s x =>
      if x.src then s.takeRow c tl x k add else add s (x.read scratchBase (x.ixOff + k * n) n)

/-- An update that has not begun may still begin: none above one that has failed does, and the journal, a pad or an index outside the table
leave it without adds. -/
def Cmd.mayAdd (x : Cmd) (v : Upd) : Bool :=
  (match x.fail with | some f => decide (v.k < f.1) | none => true) && !x.applied v.k && decide (x.indexAt v.k < x.tens.ext 1)

/-- The sectors of memory that an update in flight has still to add into; those of one that has not begun, as its row is translated now. -/
def State.addSectors (s : State) (a : Agent) (x : Cmd) (v : Upd) : List Nat :=
  let pieces : List (Nat × Nat × Nat) := match v.row with
    | some r => r.drop v.next
    | none => if x.mayAdd v then s.addPieces a (x.rowAt (x.indexAt v.k)) x.tens.rowSize else []
  (pieces.map fun q => q.2.2 / 32).eraseDups

/-- A lower-numbered update in flight has still to add into one of some sectors of memory (R74, R280). -/
def State.rowBusy (s : State) (a : Agent) (x : Cmd) (u : Upd) (secs : List Nat) : Bool :=
  x.ups.any fun v => decide (v.k < u.k) && (s.addSectors a x v).any secs.contains

/-- An update begun: skipped, a pad, or translated, with its adds to follow (R280, R281). -/
def State.beginUpdate (s : State) (c tl : Nat) (x : Cmd) (u : Upd) : Out :=
  match (x.journalKeys u.k).findSome? (s.sourceStop c x) with
  | some st => s.failStop c tl x u.k st
  | none =>
  let s := s.readJournal c tl x u.k
  let x := (s.cmdAt c tl x.n).getD x
  let a := s.agent x.g
  let idx := x.indexAt u.k
  let va := x.rowAt idx
  let n := x.tens.rowSize
  let checked := x.nft && !(x.noCheck && u.k == x.step)
  if x.applied u.k then .next (s.dropUpdate c tl x u.k)
  else if idx == padIndex then .next (s.endUpdate c tl x u.k)
  else if decide (x.tens.ext 1 ≤ idx) then .next (s.failUpdate c tl x u.k cENGINE 0x71 0)
  else
    match s.addCheck a va n with
    | some st => s.failStop c tl x u.k st
    | none =>
      if checked && s.rowBusy a x u ((s.addPieces a va n).map fun q => q.2.2 / 32) then .next s
      else
        match (if checked then s.badAdd a x va u.src else none) with
        | some (e, sub) => .next (s.failUpdate c tl x u.k cNONFINITE sub e)
        | none =>
          .next (s.modCmd c tl x.n fun y =>
            { y with ups := y.ups.map fun v => if v.k == u.k then { v with row := some (s.addPieces a va n), begun := s.now } else v })

/-- An `ixs` before this one on its timeline has not finished (R280). -/
def Timeline.earlierIxs (t : Timeline) (x : Cmd) : Bool :=
  t.cmds.any fun y => decide (y.n < x.n) && !y.done && (match y.instr with | .ixs _ _ _ _ => true | _ => false)

/-- The updates that may be begun now: none above one that has failed. -/
def Cmd.toBegin (x : Cmd) : List Upd := x.ups.filter fun u => u.row.isNone && (match x.fail with | some f => decide (u.k < f.1) | none => true)

/-- One step of an `ixs`: an update is taken up or begun, or the context parks (R280 to R282). With several updates in flight, the machine may
begin them in another order, or take up more of them first (log entries 1 and 14). -/
def State.ixsStep (s : State) (c tl : Nat) (x : Cmd) : Out :=
  let ready := x.toBegin
  let more := x.fail.isNone && decide (x.pos < x.cnt) && decide (x.ups.length < x.depth)
  if ((s.crew c).tline tl).earlierIxs x then .next s
  else
    match ready with
    | [] =>
      if more then s.openUpdate c tl x
      else if x.fail.isSome && x.ups.all fun u => u.row.isNone then s.parkUpdate c tl x
      else .next s
    | u :: _ =>
      if ready.length == 1 && !more then s.beginUpdate c tl x u
      else
        let (m, t) := if x.jen then s.popSplit else (0, s)
        match ready[m]? with
        | some v => t.beginUpdate c tl x v
        | none => if more then t.openUpdate c tl x else t.beginUpdate c tl x u

/-- One sector's add at its home slice, indivisible as an atomic at scope die is (R214, R280): no mark is set. -/
def State.addSector (s : State) (a : Agent) (x : Cmd) (va : Nat) (p : Nat × Nat × Nat) (src : List Byte) : State :=
  let es := x.tens.width / 8
  let old := s.homeRead a.part p.2.2 p.2.1
  let new := (List.range (p.2.1 / es)).flatMap fun j =>
    leBytes es (x.addElem src ((p.1 - va) / es + j) (codeIn ((old.drop (es * j)).take es) 0 (8 * es))).1
  let s := s.invalidate (fun _ => true) a.part (lineOf p.2.2)
  (s.homeWrite a.part p.2.2 new).noteStale a p.1

/-- The next piece of an update in flight that may be added: adds to one sector follow the order of the updates, whichever rows and pages show
it (R74, R280). -/
def State.nextAdd (s : State) (a : Agent) (x : Cmd) (u : Upd) : Option (Nat × Nat × Nat) :=
  (u.row.bind fun r => r[u.next]?).filter fun p => !s.rowBusy a x u [p.2.2 / 32]

/-- The next sector add of an update under way: only poison, or a home lost since its translation, can stop it now (R193, R194, R280, R282).
The machine picks among the updates in flight (log entry 14). -/
def State.ixsAdd (s : State) (c tl : Nat) (x : Cmd) : Out :=
  let a := s.agent x.g
  let cands := x.ups.filterMap fun u => (s.nextAdd a x u).map fun p => (u, p)
  match cands with
  | [] => .next s
  | first :: _ =>
    let (m, s) := if cands.length ≤ 1 then (0, s) else s.popSplit
    let (u, p) := (cands[m]?).getD first
    let va := x.rowAt (x.indexAt u.k)
    if s.lostHome a.part p.2.2 then .next (s.failUpdate c tl x u.k cHOMELOST 0x00 0)
    else if s.poisoned a.part p.2.2 then .next (s.failUpdate c tl x u.k cPOISON 0x00 (p.1 / 32 * 32))
    else
      let s := State.fetchFor c tl x x.nud s [p.1]
      let s := s.addSector a x va p u.src
      let last := (u.row.any fun r => u.next + 1 == r.length)
      let s := s.modCmd c tl x.n fun y => { y with ups := y.ups.map fun v => if v.k == u.k then { v with next := v.next + 1 } else v }
      .next (if last then s.endUpdate c tl ((s.cmdAt c tl x.n).getD x) u.k else s)

end Sys2Proof.Machine
end

