-- ==== Sys2Proof/Machine/Collect.lean ====
section
/-! DEFINITION. Collectives and remote writes: `rred`, `rcat` and `lput` at issue, their steps, and what an acknowledgement does
(R289 to R294). -/

namespace Sys2Proof.Machine

/-! ## Blocks (R291, R293, R294) -/

/-- Rows of the collectives. -/
def isCollective (i : Instr) : Bool :=
  match i with
  | .rredRs _ _ _ _ _ | .rredAr _ _ _ _ _ | .rcat _ _ _ => true
  | _ => false

def Cmd.ringNo (x : Cmd) : Nat := x.f 0 6 4
/-- Packets of 256 bytes in a chunk. -/
def Cmd.units (x : Cmd) : Nat := x.f 0 16 16 + 1

/-- Opcode, FORM, RM and EF, on which matched commands agree (R290). -/
def Cmd.header (x : Cmd) : Nat × Nat × Nat × Bool :=
  match x.instr with
  | .rredRs _ _ _ e r => (0x120, 0, r.toNat, e == 1)
  | .rredAr _ _ _ e r => (0x120, 1, r.toNat, e == 1)
  | _ => (0x121, 0, 0, false)

/-- The ring words read at issue, kept after the block. -/
def Cmd.ringEnt (x : Cmd) : Option RingEnt :=
  let k := if x.header.1 == 0x121 then 3 else 4
  ringOf (x.blk.getD k 0, x.blk.getD (k + 1) 0)

/-- Fields of word 0 that a collective does not use, and address words with high bits. -/
def Cmd.collStray (x : Cmd) (words : Nat) : Bool :=
  x.f 0 4 1 != 0 || x.f 0 10 6 != 0 || x.f 0 32 32 != 0 || (List.range words).any fun j => x.f (j + 1) 52 12 != 0

/-- The number that a new command of a ring takes in matching order: commands of one crew issued in one cycle stand in ascending `cid` (R237,
R290). -/
def State.ringNumber (s : State) (part r cid : Nat) : Nat :=
  let c := s.crew (s.grp s.cur.g).crew
  let later := (c.allCmds.map (·.2)).filter fun y =>
    isCollective y.instr && y.ringNo == r && y.queued == s.now && decide (cid < (s.grp y.g).cid)
  match leastBy (fun y : Cmd => y.nth) later with
  | some y => y.nth
  | none => (s.part part).ringNth[r]?.getD 0 + 1

/-- The newest command of a ring of a partition keeps number n: the others at n or above move up. -/
def State.ringPlace (s : State) (part r n : Nat) : State :=
  let up (y : Cmd) : Cmd :=
    if isCollective y.instr && y.ringNo == r && decide (n ≤ y.nth) && y.g != s.cur.g then { y with nth := y.nth + 1 } else y
  let s := if n == (s.part part).ringNth[r]?.getD 0 + 1 then s
    else { s with crews := s.crews.map fun (c : Crew) =>
      if (s.ctx c.ctx).part == part then { c with tl := c.tl.map fun (t : Timeline) => { t with cmds := t.cmds.map up } } else c }
  s.modPart part fun p => { p with ringNth := p.ringNth.setIfInBounds r (p.ringNth[r]?.getD 0 + 1) }

/-- A command on a ring at issue: its checks, its number in matching order, and its place in the queue (R289, R290). -/
def State.issueColl (s : State) (i : Instr) (d : BitVec 6) (blk : List Word) (bad : Cmd → Bool) : Out :=
  let part := s.partNo s.cur.g
  let r := bits (blk.getD 0 0).toNat 6 4
  let e := (s.part part).rings[r]?.getD (0, 0)
  let n := s.ringNumber part r (s.grp s.cur.g).cid
  let x : Cmd := { s.newCmd i (blk ++ [e.1, e.2]) none none with nth := n }
  let t := if bad x || (ringOf e).isNone then some (engTrap 0x80) else none
  s.submit i d.toNat .copy t x fun s => s.ringPlace part r n

def Cmd.rredBad (x : Cmd) (ef : Bool) : Bool :=
  x.collStray 3 || x.f 1 0 8 != 0 || x.f 2 0 8 != 0 || (if ef then x.f 3 0 2 != 0 else x.w 3 != 0)

def execRredRs (sc : BitVec 3) (d a : BitVec 6) (e r : BitVec 1) (s : State) : Out :=
  let i : Instr := .rredRs sc d a e r
  s.issue i fun s => s.issueColl i d (s.block i .A 4) fun x => x.rredBad (e == 1)

def execRredAr (sc : BitVec 3) (d a : BitVec 6) (e r : BitVec 1) (s : State) : Out :=
  let i : Instr := .rredAr sc d a e r
  s.issue i fun s => s.issueColl i d (s.block i .A 4) fun x => x.rredBad (e == 1)

def execRcat (sc : BitVec 3) (d a : BitVec 6) (s : State) : Out :=
  let i : Instr := .rcat sc d a
  s.issue i fun s => s.issueColl i d (s.block i .A 3) fun x => x.collStray 2 || x.f 1 0 5 != 0 || x.f 2 0 5 != 0

/-! ## Ring order (R290) -/

/-- An unfinished command before this one on the same ring of the partition. -/
def State.ringHeld (s : State) (part : Nat) (x : Cmd) : Bool :=
  s.crews.any fun c => (s.ctx c.ctx).part == part && c.allCmds.any fun p =>
    isCollective p.2.instr && p.2.ringNo == x.ringNo && decide (p.2.nth < x.nth)

/-! ## Packets -/

/-- The packet of a command's number k, to be sent at hop h. -/
def State.collPacket (s : State) (c tl : Nat) (x : Cmd) (h k : Nat) (bs : List Byte) : Packet :=
  let (op, form, rm, ef) := x.header
  { s.blank .collective x.ringNo with
    nth := x.nth, opcode := op, form := form, rm := rm, ef := ef, chunk := x.units, hop := h, crew := c, tl := tl, addr := k, payload := bs }

/-- Packet k goes out on the (k mod m)-th port toward the next member (R287). -/
def State.sendColl (s : State) (c tl : Nat) (x : Cmd) (r : RingEnt) (h k : Nat) (bs : List Byte) : State :=
  s.send (r.tx.getD (k % r.tx.length) 0) (s.collPacket c tl x h k bs)

/-- A received packet is one of a command's ring and number. -/
def Cmd.mine (x : Cmd) (r : RingEnt) (p : Nat × Packet) : Bool :=
  p.2.kind == .collective && p.2.ring == x.ringNo && p.2.nth == x.nth && r.rx.contains p.1

/-- A header agrees with the command's own (R290). -/
def Cmd.agrees (x : Cmd) (p : Packet) : Bool :=
  let (op, form, rm, ef) := x.header
  p.opcode == op && p.form == form && p.rm == rm && p.ef == ef && p.chunk == x.units

/-- The payload of received packet k. -/
def State.received (s : State) (x : Cmd) (r : RingEnt) (k : Nat) : Option (List Byte) :=
  (s.pkg.inbox.find? fun p => x.mine r p && p.2.addr == k).map fun p => p.2.payload

/-- Packet k is used up. -/
def State.useUp (s : State) (x : Cmd) (r : RingEnt) (k : Nat) : State :=
  s.modPkg fun p => { p with inbox := p.inbox.filter fun q => !(x.mine r q && q.2.addr == k) }

/-! ## The work of a collective, unit by unit (R291, R293) -/

/-- One unit of a member's work: 256 bytes of BF16, or of bytes. `h` is the hop, `chunk` the chunk, `b` the unit in the chunk, `k` the
packet sent or received. -/
inductive CollUnit where
  /-- Reduce-scatter: form packet k, from packet k − P unless h is 0. -/
  | form (h chunk b k : Nat)
  /-- The last hop of this member's own chunk, from packet k, written to DST. -/
  | result (chunk b k : Nat)
  /-- The member's own source copied into its chunk. -/
  | copy (chunk b : Nat)
  /-- All-gather: send or receive a unit. -/
  | send (h chunk b k : Nat)
  | recv (chunk b k : Nat)
deriving DecidableEq, Repr

/-- Unit v of an all-gather whose first chunk sent is c0 and whose packets count from k0. -/
def gatherUnit (n p c0 k0 v : Nat) : CollUnit :=
  let h := v / (2 * p)
  let w := v % (2 * p)
  if w < p then .send h ((c0 + n - h) % n) w (k0 + h * p + w) else .recv ((c0 + 2 * n - 1 - h) % n) (w - p) (k0 + h * p + (w - p))

/-- Unit u of the command's work at a member. -/
def Cmd.unit (x : Cmd) (r : RingEnt) (u : Nat) : CollUnit :=
  let n := r.n
  let p := x.units
  if x.header.1 == 0x121 then (if u < p then .copy r.pos u else gatherUnit n p r.pos 0 (u - p))
  else if u < (n - 1) * p then .form (u / p) ((r.pos + n - u / p) % n) (u % p) u
  else if u < n * p then .result ((r.pos + 1) % n) (u - (n - 1) * p) (u - p)
  else gatherUnit n p (r.pos + 1) ((n - 1) * p) (u - n * p)

/-- Units of work in all, and packets formed in all. -/
def Cmd.allUnits (x : Cmd) (r : RingEnt) : Nat :=
  match x.header with
  | (0x121, _, _, _) => x.units + (r.n - 1) * (2 * x.units)
  | (_, 1, _, _) => r.n * x.units + (r.n - 1) * (2 * x.units)
  | _ => r.n * x.units
def Cmd.allPackets (x : Cmd) (r : RingEnt) : Nat :=
  match x.header with
  | (0x120, 1, _, _) => 2 * ((r.n - 1) * x.units)
  | _ => (r.n - 1) * x.units

/-- The command has done its work, and its packets are acknowledged. -/
def Cmd.collDone (x : Cmd) (r : RingEnt) : Bool := decide (x.allUnits r ≤ x.pos) && decide (x.allPackets r ≤ x.step)

/-- Codes of n bytes each in a run of bytes. -/
def codesOf (n : Nat) (bs : List Byte) (e : Nat) : Nat := leNat ((bs.drop (n * e)).take n)

/-- The hop of R291 on 128 elements from element e0 on: the codes sent, and the residuals left. -/
def hopAll (rm : Nat) (ef : Bool) (input : Option (List Byte)) (xs res : List Byte) : List Byte × List Byte :=
  let one (e : Nat) : Nat × Nat :=
    let v0 := FVal.add false (match input with | some bs => decodeF 2 (codesOf 2 bs e) | none => .fin true 0 0) (decodeF 0 (codesOf 4 xs e))
    let v := if ef then FVal.add false v0 (decodeF 0 (codesOf 4 res e)) else v0
    let b := (roundF 2 rm v).code
    (b, (roundF 0 0 (FVal.add false v (decodeF 2 b).neg)).code)
  let rs := (List.range 128).map one
  (rs.flatMap fun p => leBytes 2 p.1, if ef then rs.flatMap fun p => leBytes 4 p.2 else [])

/-- The address of unit b of a chunk in DST. -/
def Cmd.dstAt (x : Cmd) (c b : Nat) : Nat := x.f 2 0 52 + 256 * (c * x.units + b)

/-- What a hop reads and writes: address, length, kind of access. -/
def Cmd.hopRanges (x : Cmd) (c b : Nat) : List (Nat × Nat × Acc) :=
  let off := 512 * (c * x.units + b)
  (x.f 1 0 52 + off, 512, .load) :: if x.header.2.2.2 then [(x.f 3 0 52 + off, 512, .load), (x.f 3 0 52 + off, 512, .store)] else []

/-- The ranges that a unit reads and writes. -/
def Cmd.unitRanges (x : Cmd) : CollUnit → List (Nat × Nat × Acc)
  | .form _ c b _ => x.hopRanges c b
  | .result c b _ => x.hopRanges c b ++ [(x.dstAt c b, 256, .store)]
  | .copy c b => [(x.f 1 0 52 + 256 * b, 256, .load), (x.dstAt c b, 256, .store)]
  | .send _ c b _ => [(x.dstAt c b, 256, .load)]
  | .recv c b _ => [(x.dstAt c b, 256, .store)]

/-- The source of a unit: what a hop or a copy takes. -/
def Cmd.unitSource (x : Cmd) : CollUnit → List (Nat × Nat)
  | .form _ c b _ | .result c b _ => [(x.f 1 0 52 + 512 * (c * x.units + b), 512)]
  | .copy _ b => [(x.f 1 0 52 + 256 * b, 256)]
  | _ => []

/-- The source sectors of the j-th unit from the next one on, which a command reads as R275 says. -/
def Cmd.unitKeys (x : Cmd) (r : RingEnt) (j : Nat) : List Nat :=
  if x.pos + j < x.allUnits r then (x.unitSource (x.unit r (x.pos + j))).flatMap fun p => keysAt memBase p.1 p.2 else []

/-- How many of them, the first ones, are source reads, which carry NUD (R291). -/
def CollUnit.sources : CollUnit → Nat
  | .form _ _ _ _ | .result _ _ _ | .copy _ _ => 1
  | _ => 0

/-- The hop of a unit: its codes, with the residuals written (R291, R292). -/
def State.hop (s : State) (a : Agent) (x : Cmd) (input : Option (List Byte)) (c b : Nat) : State × List Byte :=
  let off := 512 * (c * x.units + b)
  let (_, _, rm, ef) := x.header
  let xs := x.read memBase (x.f 1 0 52 + off) 512
  let res := if ef then s.engRead a (x.f 3 0 52 + off) 512 else []
  let (bs, left) := hopAll rm ef input xs res
  (if ef then s.engWrite a (x.f 3 0 52 + off) left else s, bs)

/-- The packet that a unit waits for. -/
def Cmd.needs (x : Cmd) : CollUnit → Option Nat
  | .form h _ _ k => if h == 0 then none else some (k - x.units)
  | .result _ _ k => some k
  | .recv _ _ k => some k
  | _ => none

/-- A unit performed, with the payload it has received. -/
def State.doUnit (s : State) (c tl : Nat) (a : Agent) (x : Cmd) (r : RingEnt) (input : Option (List Byte)) (u : CollUnit) : State :=
  match u with
  | .form h ch b k =>
    let (s, bs) := s.hop a x input ch b
    s.sendColl c tl x r h k bs
  | .result ch b _ =>
    let (s, bs) := s.hop a x input ch b
    s.engWrite a (x.dstAt ch b) bs
  | .copy ch b => s.engWrite a (x.dstAt ch b) (x.read memBase (x.f 1 0 52 + 256 * b) 256)
  | .send h ch b k => s.sendColl c tl x r h k (s.engRead a (x.dstAt ch b) 256)
  | .recv ch b _ => s.engWrite a (x.dstAt ch b) (input.getD [])

/-- Whether a command that waits on a ring stops: a port is down, a packet has come poisoned, or an incoming header disagrees; the last is
passed on with a form that agrees with none (R193, R290, R296, log entry 15). -/
def State.collStop (s : State) (c tl : Nat) (x : Cmd) (r : RingEnt) : Option State :=
  if (r.tx ++ r.rx).any fun p => !(s.port p).up then some (s.park c tl x cENGINE 0x83 0)
  else if s.pkg.inbox.any fun p => x.mine r p && p.2.poison then some (s.park c tl x cPOISON 0x00 0)
  else if s.pkg.inbox.any fun p => x.mine r p && !x.agrees p.2 then
    let s := s.send (r.tx.headD 0) { s.collPacket c tl x 0 0 [] with form := 3 }
    let s := s.modPkg fun p => { p with inbox := p.inbox.filter fun q => !x.mine r q }
    some (s.park c tl x cENGINE 0x82 0)
  else none

/-- The unit that the command's step stands at, where it can be performed now. -/
def State.collReady (s : State) (x : Cmd) (r : RingEnt) : Bool :=
  decide (x.pos < x.allUnits r) && (match x.needs (x.unit r x.pos) with | some k => (s.received x r k).isSome | none => true)

/-- One step of a collective: the next unit of its work (R290, R291, R293). -/
def State.collStep (s : State) (c tl : Nat) (x : Cmd) : Out :=
  let a := s.agent x.g
  match x.ringEnt with
  | none => .next s
  | some r =>
    if s.ringHeld a.part x then .next s
    else
      match s.collStop c tl x r with
      | some t => .next t
      | none =>
        if !s.collReady x r then .next s
        else
          let u := x.unit r x.pos
          let others := (x.unitRanges u).drop u.sources
          s.gather c tl x (State.fetchFor c tl x (x.f 0 0 4)) (x.unitKeys r) fun s x =>
            match others.findSome? fun p => s.engCheck a p.2.2 p.1 p.2.1 with
            | some st => s.stopCmd c tl x st
            | none =>
              let input := (x.needs u).bind fun k => s.received x r k
              let s := State.fetchFor c tl x 15 s (others.flatMap fun p => lineStarts p.1 p.2.1)
              let s := s.doUnit c tl a x r input u
              let s := match x.needs u with | some k => s.useUp x r k | none => s
              let used := (x.unitSource u).flatMap fun p => keysAt memBase p.1 p.2
              .next (s.modCmd c tl x.n fun y =>
                let z := { y with pos := y.pos + 1, got := y.got.filter fun p => !used.contains p.1 }
                { z with done := z.collDone r })

/-! ## lput (R288, R294) -/

/-- A pod window that may be written. -/
def windowOk (w : Word × Word × Word) : Bool :=
  bitAt w.1.toNat 0 && bitAt w.1.toNat 1 && bits w.1.toNat 26 38 == 0 && bits w.2.1.toNat 52 12 == 0 && w.2.1.toNat % 32 == 0 &&
    bits w.2.2.toNat 48 16 == 0 && w.2.2.toNat % 32 == 0

def Cmd.putLen (x : Cmd) : Nat := x.f 0 16 32

def lputBad (x : Cmd) (w : Word × Word × Word) : Bool :=
  x.f 0 4 1 != 0 || x.f 0 6 4 != 0 || x.f 0 48 16 != 0 || x.f 1 52 12 != 0 || x.f 2 48 16 != 0 || !windowOk w ||
    x.putLen == 0 || x.putLen % 32 != 0 || x.f 1 0 5 != 0 || x.f 2 0 5 != 0 || decide (w.2.2.toNat < x.f 2 0 48 + x.putLen)

def execLput (sc : BitVec 3) (d a : BitVec 6) (s : State) : Out :=
  let i : Instr := .lput sc d a
  s.issue i fun s =>
    let blk := s.block i .A 3
    let w := ((s.ctxOf s.cur.g).podwins[bits (blk.getD 0 0).toNat 10 6]?).getD (0, 0, 0)
    let x := s.newCmd i (blk ++ [w.1, w.2.1, w.2.2]) none none
    s.submit i d.toNat .copy (if lputBad x w then some (engTrap 0x81) else none) x id

/-- The remote address of sector k. -/
def Cmd.putAddr (x : Cmd) (k : Nat) : Nat := (x.f 4 0 52 + x.f 2 0 48 + 32 * k) % 2 ^ 64

/-- The port number under which a package's own sectors are kept: no Yarrow port. -/
def ownPort : Nat := 16

/-- The port toward a package: the lowest that is up (log entry 15); none for the package itself. -/
def State.putPort (s : State) (pkg : Nat) : Option Nat :=
  if pkg == s.pkgNo then some ownPort else (List.range 16).find? fun p => (s.port p).up

/-- A packet sent on a port, or kept for the package itself. -/
def State.sendOn (s : State) (p : Nat) (pkt : Packet) : State :=
  if p == ownPort then s.modPkg fun k => { k with inbox := k.inbox ++ [(ownPort, pkt)] } else s.send p pkt

/-- The source sector of the j-th step of an `lput` from the next one on. -/
def Cmd.putKeys (x : Cmd) (j : Nat) : List Nat :=
  if 32 * (x.step + j) < x.putLen then keysAt memBase (x.f 1 0 52 + 32 * (x.step + j)) 32 else []

/-- One step of an `lput`: its next sector is sent, when the one before it has been acknowledged (R294). -/
def State.lputStep (s : State) (c tl : Nat) (x : Cmd) : Out :=
  let src := x.f 1 0 52 + 32 * x.step
  let pkg := x.f 3 2 8
  if x.pos != x.step then .next s
  else
    s.gather c tl x (State.fetchFor c tl x (x.f 0 0 4)) x.putKeys fun s x =>
      match s.putPort pkg with
      | none => .next (s.park c tl x cENGINE 0x83 0)
      | some p =>
        let s := s.sendOn p
          { s.blank .lput 0 with
            dst := pkg, hop := x.n, crew := c, tl := tl, ctx := BitVec.ofNat 16 (x.f 3 10 16), addr := x.putAddr x.step, payload := x.read memBase src 32 }
        .next (s.modCmd c tl x.n fun y => { y with pos := y.step + 1, got := y.got.filter fun p => p.1 != src / 32 })

/-- An acknowledgement or a refusal comes back, wherever the command's context stands: the step counter moves, or the context parks with the remote
cause (R294); one that is parked on another command already stops this one, which sends the sector again when it goes on (R240). -/
def State.lputReply (s : State) (p : Packet) : State :=
  match s.cmdAt p.crew p.tl p.hop with
  | none => s
  | some x =>
    if (match x.instr with | .lput _ _ _ => false | _ => true) || x.pos != x.step + 1 || p.addr != x.putAddr x.step then s
    else if p.kind == .lputRefusal then
      if ((s.crew p.crew).tline p.tl).stuck x.n then s else s.parkAs p.crew p.tl x cENGINE 0x84 p.cause p.sub 0 0 0 0
    else s.modCmd p.crew p.tl x.n fun y => { y with step := y.step + 1, heard := s.now, done := decide (y.putLen ≤ 32 * (y.step + 1)) }

/-- The remote package's work on a sector: the cause of its refusal, or the sector written and marked for nobody (R220, R294). -/
def State.putSector (s : State) (p : Packet) : State × (BitVec 8 × BitVec 8) ⊕ Nat :=
  match (findIx (fun c : Context => c.live && c.id == p.ctx) s.ctxs).map (·.1) with
  | none => .inl (s, (cPAGE, 0x00))
  | some cx =>
    let c := s.ctx cx
    match s.reach 0 cx (!c.isSys) .store p.addr with
    | .void pa => .inr pa
    | .fault a b => .inl (s, (a, b))
    | .ok x =>
      if (c.regionAt p.addr).isSome then .inl (s, (cENGINE, 0x47))
      else if !x.host && s.lostHome c.part x.pa then .inl (s, (cHOMELOST, 0x00))
      else if p.poison then .inl (s, (cPOISON, 0x00))
      else
        let cp := cachePart c.part x
        let s := if x.attr == 0 then s.invalidate (fun _ => true) cp (lineOf x.pa) else s
        let s := s.homeWrite cp x.pa p.payload
        let s := s.modCtx cx fun c => { c with halos := c.halos.map fun h => (h.1, h.2.noteStale (p.addr / 32)) }
        let s := s.setPoison (.home cp (x.pa / 32)) false
        .inl (if x.host then s else s.unmark c.part x.pa, (0, 0))

/-! ## Acknowledged packets (R286, R291) -/

/-- An acknowledged packet of a collective counts toward its command's step counter. -/
def State.collAcked (s : State) (p : Packet) : State :=
  if p.kind != .collective || p.form == 3 then s
  else
    let t := (s.crew p.crew).tline p.tl
    match t.cmds.find? fun x => isCollective x.instr && x.ringNo == p.ring && x.nth == p.nth with
    | none => s
    | some x =>
      s.modCmd p.crew p.tl x.n fun y =>
        let z := { y with step := y.step + 1, heard := s.now }
        { z with done := match y.ringEnt with | some r => z.collDone r | none => false }

end Sys2Proof.Machine
end

