-- ==== Sys2Proof/Machine/Special.lean ====
section
/-! DEFINITION. The special functions (R140, R141): the exact value to far more bits than a result holds, the results that the bound
admits, and the device's choice among them (log entry 6). Every approximation below differs from the exact value by less than
2^-300, or lies on the same side of every grid point. -/

namespace Sys2Proof.Machine

/-- An exact magnitude m·2^e, or one strictly between m·2^e and (m+1)·2^e. -/
structure Approx where
  neg : Bool
  m : Nat
  e : Int
  exact : Bool
deriving DecidableEq, Repr

/-! ## Whole-number arithmetic -/

/-- The integer square root, bit by bit from 2^k down. -/
def isqrtFrom (n : Nat) : Nat → Nat → Nat
  | 0, r => r
  | k + 1, r => let c := r + 2 ^ k; isqrtFrom n k (if c * c ≤ n then c else r)
def isqrt (n : Nat) : Nat := isqrtFrom n (bitLen n / 2 + 1) 0

/-- Fixed point with 320 fraction bits. -/
def fx : Nat := 2 ^ 320

/-- π with 512 fraction bits and ln 2 with 320. -/
def piFix : Nat :=
  0x3243f6a8885a308d313198a2e03707344a4093822299f31d0082efa98ec4e6c89452821e638d01377be5466cf34e90c6cc0ac29b7c97c50dd3f84d5b5b5470917
def ln2Fix : Nat := 0xb17217f7d1cf79abc9e3b39803f2f6af40f343267298b62d8a0d175b8baafa2be7b876206debac98

/-- Σ z^k / k! from a term on, for 0 ≤ z < 1 in fixed point. -/
def expTerms (z : Nat) : Nat → Nat → Nat → Nat
  | 0, _, _ => 0
  | n + 1, k, t => t + expTerms z n (k + 1) (t * z / fx / (k + 1))
def expFix (z : Nat) : Nat := expTerms z 80 0 fx

/-- The alternating series of sine and cosine from a term on; r2 is the square of the argument. -/
def trigTerms (r2 : Int) : Nat → Int → Int → Int
  | 0, _, _ => 0
  | n + 1, k, t => t + trigTerms r2 n (k + 2) (-(t * r2 / (fx : Int) / ((k + 1) * (k + 2))))
def sinFix (r : Int) : Int := trigTerms (r * r / (fx : Int)) 45 1 r
def cosFix (r : Int) : Int := trigTerms (r * r / (fx : Int)) 45 0 (fx : Int)

/-- Σ z^(2k+1) / (2k+1) from a term on. -/
def atanhTerms (z2 : Nat) : Nat → Nat → Nat → Nat
  | 0, _, _ => 0
  | n + 1, k, t => t / k + atanhTerms z2 n (k + 2) (t * z2 / fx)

/-! ## The functions on a positive finite magnitude m·2^e, m ≠ 0 -/

def ofFix (v : Int) : Approx := ⟨decide (v < 0), v.natAbs, -320, false⟩

/-- The magnitude is below 2^-40, where the first terms of the series decide every rounding. -/
def tiny (m : Nat) (e : Int) : Bool := decide (e + (bitLen m : Int) ≤ -40)

/-- The value in fixed point, rounded down. -/
def toFix (m : Nat) (e : Int) : Nat := if 0 ≤ e + 320 then m * 2 ^ (e + 320).toNat else m / 2 ^ (-(e + 320)).toNat

/-- A little less than a magnitude, and a little more. -/
def below (m : Nat) (e : Int) : Approx := ⟨false, m * 2 ^ 64 - 1, e - 64, false⟩
def above (m : Nat) (e : Int) : Approx := ⟨false, m * 2 ^ 64, e - 64, false⟩

def rcpApprox (m : Nat) (e : Int) : Approx :=
  let k := bitLen m + 64
  ⟨false, 2 ^ k / m, -(k : Int) - e, 2 ^ k % m == 0⟩

def rsqApprox (m : Nat) (e : Int) : Approx :=
  let (m, e) := if e % 2 == 0 then (m, e) else (2 * m, e - 1)
  let r := isqrt (2 ^ 200 / m)
  ⟨false, r, -100 - e / 2, r * r * m == 2 ^ 200⟩

/-- The square root as an exact value with a sticky bit below it, which rounds as the root does. -/
def sqrtVal (m : Nat) (e : Int) : FVal :=
  let (m, e) := if e % 2 == 0 then (m, e) else (2 * m, e - 1)
  let n := m * 2 ^ 80
  let r := isqrt n
  .fin false (2 * r + (if r * r == n then 0 else 1)) (e / 2 - 41)

/-- 2^x for a finite x of either sign. -/
def exp2Approx (neg : Bool) (m : Nat) (e : Int) : Approx :=
  let sgn (v : Int) : Int := if neg then -v else v
  let whole := decide (0 ≤ e) || m % 2 ^ (-e).toNat == 0
  if decide (400 ≤ e + (bitLen m : Int) - 1) || decide (10 < e + (bitLen m : Int)) then ⟨false, 1, sgn 400, true⟩
  else if whole then ⟨false, 1, sgn (if 0 ≤ e then m * 2 ^ e.toNat else m / 2 ^ (-e).toNat), true⟩
  else if tiny m e then (if neg then below 1 0 else above 1 0)
  else
    let v : Int := sgn (toFix m e)
    let i := v / (fx : Int)
    let f := (v - i * (fx : Int)).toNat
    ⟨false, expFix (f * ln2Fix / fx), i - 320, false⟩

def log2Approx (m : Nat) (e : Int) : Approx :=
  let l := bitLen m - 1
  let p := e + (l : Int)
  if m == 2 ^ l then ⟨decide (p < 0), p.natAbs, 0, true⟩
  else
    let y := m * fx / 2 ^ l
    let z := (y - fx) * fx / (y + fx)
    let ln := 2 * atanhTerms (z * z / fx) 120 1 z
    ofFix (p * (fx : Int) + ((ln * fx / ln2Fix : Nat) : Int))

/-- Sine or cosine: the argument is reduced by multiples of π/2 without loss. -/
def trigApprox (cos : Bool) (m : Nat) (e : Int) : Approx :=
  if tiny m e then (if cos then below 1 0 else below m e)
  else
    let x := m * 2 ^ (e + 512).toNat
    let half := piFix / 2
    let k := (2 * x + half) / (2 * half)
    let r := ((x : Int) - (k * piFix / 2 : Nat)) / ((2 ^ 192 : Nat) : Int)
    ofFix (match (k + (if cos then 1 else 0)) % 4 with
      | 0 => sinFix r
      | 1 => cosFix r
      | 2 => -(sinFix r)
      | _ => -(cosFix r))

def tanhApprox (m : Nat) (e : Int) : Approx :=
  if tiny m e then below m e
  else if decide (6 < e + (bitLen m : Int)) then below 1 0
  else
    let z := 2 * toFix m e
    let n := z / ln2Fix
    let t := fx * fx / expFix (z - n * ln2Fix) / 2 ^ n
    ⟨false, (fx - t) * fx / (fx + t), -320, false⟩

/-! ## A result within the bound (R140) -/

/-- The functions other than `fsqt`, by their opcodes. -/
inductive Spec where
  | rcp | rsq | exp2 | log2 | sin | cos | tanh
deriving DecidableEq, Repr

def Spec.code : Spec → Nat
  | .rcp => 0x068 | .rsq => 0x069 | .exp2 => 0x06B | .log2 => 0x06C | .sin => 0x06D | .cos => 0x06E | .tanh => 0x06F

/-- The multiples of the last place that the bound admits around a magnitude: the least, the nearest and the greatest. -/
def admitted (n half : Nat) (exact : Bool) (bound : Nat) : Nat × Nat × Nat :=
  if exact then (n - bound, n, n + bound)
  else (n + 1 - bound, if half == 2 || (half == 1 && n % 2 == 1) then n + 1 else n, n + bound)

/-- The result of a magnitude in a format, whose sign it keeps where it overflows, though R140 says +∞ (DEDUCED, log entry 6): the nearest one moved by the device's offset, kept within the bound. `fixed` says that an
exact value is returned as it is; `top` that 1 is not exceeded. Above the binade of the exact value only every second multiple is a code;
the one towards the exact value is taken, which keeps the bound. -/
def Approx.result (a : Approx) (f bound : Nat) (off : Int) (fixed top : Bool) : FRes :=
  if a.m == 0 then roundF f 0 (.fin a.neg 0 0)
  else
    let q := max (a.e + (bitLen a.m : Int) - 1 - (manBits f : Int)) (minExp f)
    let d := (q - a.e).toNat
    let m := if q < a.e then a.m * 2 ^ (a.e - q).toNat else a.m
    let n := m / 2 ^ d
    let r := m % 2 ^ d
    let exact := a.exact && r == 0
    let half := if 2 * r < 2 ^ d then 0 else if a.exact && 2 * r == 2 ^ d then 1 else 2
    let (lo, near, hi) := admitted n half exact bound
    let c := (max (lo : Int) (min (hi : Int) ((near : Int) + off))).toNat
    let c := if exact && fixed then n else c
    let c := if top && FVal.lt (.fin false 1 0) (.fin false c q) then 2 ^ (-q).toNat else c
    let c := if 2 ^ (manBits f + 1) < c then c - c % 2 else c
    let res := roundF f 0 (.fin a.neg c q)
    let same := exact && c == n
    ⟨res.code, res.flags ||| (if same then 0 else fNX) ||| (if !same && decide (q = minExp f) && decide (c < 2 ^ manBits f) then fUF else 0)⟩

/-- One element of a special function (R140). -/
def specialElem (k : Spec) (f : Nat) (low : Bool) (code : Nat) : FRes :=
  let sign := 2 ^ (expBits f + manBits f)
  let bound := if low then 4 else 1
  let odd := k == .sin || k == .tanh || k == .cos
  let off := Config.specialUlps k.code f low (if odd then code % sign else code)
  let give (a : Approx) (fixed top : Bool) : FRes := a.result f bound off fixed top
  let one (neg : Bool) : Nat := (roundF f 0 (.fin neg 1 0)).code
  let nan : FRes := ⟨nanCode f, fNV⟩
  match k, decodeF f code with
  | _, .nan => ⟨nanCode f, 0⟩
  | .rcp, .inf s => ⟨signBit f s, 0⟩
  | .rsq, .inf s => if s then nan else ⟨0, 0⟩
  | .exp2, .inf s => if s then ⟨0, 0⟩ else ⟨infCode f false, 0⟩
  | .log2, .inf s => if s then nan else ⟨infCode f false, 0⟩
  | .sin, .inf _ => nan
  | .cos, .inf _ => nan
  | .tanh, .inf s => ⟨one s, 0⟩
  | k, .fin s m e =>
    if m == 0 then
      match k with
      | .rcp | .rsq => ⟨infCode f s, fDZ⟩
      | .exp2 | .cos => ⟨one false, 0⟩
      | .log2 => ⟨infCode f true, fDZ⟩
      | .sin | .tanh => ⟨signBit f s, 0⟩
    else
      match k with
      | .rcp => give { rcpApprox m e with neg := s } false false
      | .rsq => if s then nan else give (rsqApprox m e) false false
      | .exp2 => give (exp2Approx s m e) true false
      | .log2 => if s then nan else give (log2Approx m e) true false
      | .sin => let a := trigApprox false m e; give { a with neg := a.neg != s } false false
      | .cos => give (trigApprox true m e) false false
      | .tanh => give { tanhApprox m e with neg := s } false true

/-- One element of `fsqt`, correctly rounded (R140). -/
def sqrtElem (f rm code : Nat) : FRes :=
  match decodeF f code with
  | .nan => ⟨nanCode f, 0⟩
  | .inf s => if s then ⟨nanCode f, fNV⟩ else ⟨infCode f false, 0⟩
  | .fin s m e =>
    if m == 0 then ⟨signBit f s, 0⟩
    else if s then ⟨nanCode f, fNV⟩
    else roundF f rm (sqrtVal m e)

end Sys2Proof.Machine
end

