-- ==== Sys2Proof/Machine/Vector.lean ====
section
/-! DEFINITION. The floating, special-function and tiny matrix instructions (R131 to R145). -/

namespace Sys2Proof.Machine

/-! ## Shared forms -/

/-- A floating result for D: the lanes that raise NONFINITE write nothing, the others write, with their flags (R72, R77, R133). -/
def State.giveFloat (s : State) (i : Instr) (d : BitVec 6) (w : Nat) (f : Nat → Elem) : Out :=
  let unit := s.unitRec i
  let all := fun _ => true
  let (bad, trap) := s.nonFinite i w s.cur.lanes all f
  let ok := s.cur.lanes &&& ~~~bad
  let s := s.finishWith i d (s.result i w ok fun e => (f e).code) ok (laneFlagList ok (s.laneFlags i w all f))
  .next (s.faultRec unit bad trap)

/-- The format and mode of the class (R132). -/
def fmtOf (i : Instr) : Nat := i.x % 8
def isClamp (i : Instr) : Bool := i.x / 8 == 1

/-- An operation on exact values, rounded once (R134). -/
def State.floatOp (s : State) (i : Instr) (d : BitVec 6) (op : Nat → FVal → FVal → FVal → FVal) (three : Bool) : Out :=
  let f := fmtOf i
  let w := fmtWidth f
  let rm := s.rm i
  let a := s.src i .A
  let b := s.src i .B
  let c := s.src i .C
  s.giveFloat i d w fun e =>
    let x := decodeF f (el w e a)
    let y := decodeF f (el w e b)
    let z := decodeF f (el w e c)
    Elem.round f rm (isClamp i) (if three then [x, y, z] else [x, y]) (op rm x y z)

/-! ## Arithmetic (R134) -/

def execFadd (pf : Option Pfx) (sc : BitVec 3) (d a b : BitVec 6) (s : State) : Out :=
  let i : Instr := .fadd pf sc d a b
  s.issue i fun s => s.floatOp i d (fun rm x y _ => FVal.add (rm == 3) x y) false

def execFsub (pf : Option Pfx) (sc : BitVec 3) (d a b : BitVec 6) (s : State) : Out :=
  let i : Instr := .fsub pf sc d a b
  s.issue i fun s => s.floatOp i d (fun rm x y _ => FVal.add (rm == 3) x y.neg) false

def execFmul (pf : Option Pfx) (sc : BitVec 3) (d a b : BitVec 6) (s : State) : Out :=
  let i : Instr := .fmul pf sc d a b
  s.issue i fun s => s.floatOp i d (fun _ x y _ => FVal.mul x y) false

def execFfma (pf : Option Pfx) (sc : BitVec 3) (d a b : BitVec 6) (s : State) : Out :=
  let i : Instr := .ffma pf sc d a b
  s.issue i fun s => s.floatOp i d (fun rm x y z => FVal.add (rm == 3) (FVal.mul x y) z) true

/-- A value times 2^k. -/
def FVal.scale (v : FVal) (k : Int) : FVal :=
  match v with
  | .fin n m e => .fin n m (e + k)
  | v => v

/-- `fscl`: B is an integer. Beyond ±600 every finite value has long overflowed or vanished, so k is cut off there. -/
def execFscl (pf : Option Pfx) (sc : BitVec 3) (d a b : BitVec 6) (s : State) : Out :=
  let i : Instr := .fscl pf sc d a b
  s.issue i fun s =>
    let f := fmtOf i
    let w := fmtWidth f
    let rm := s.rm i
    let x := s.src i .A
    let y := s.src i .B
    s.giveFloat i d w fun e =>
      let v := decodeF f (el w e x)
      Elem.round f rm (isClamp i) [v] (FVal.scale v (max (-600) (min 600 (sext w (el w e y)))))

/-- `fmin` and `fmax` do not round and set no flag. -/
def State.minMax (s : State) (i : Instr) (d : BitVec 6) (greater : Bool) : Out :=
  let f := fmtOf i
  let w := fmtWidth f
  let a := s.src i .A
  let b := s.src i .B
  s.giveFloat i d w fun e =>
    let c := fMinMax f greater (el w e a) (el w e b)
    ⟨c, 0, nonFiniteSub [decodeF f (el w e a), decodeF f (el w e b)] (decodeF f c)⟩

def execFmin (pf : Option Pfx) (sc : BitVec 3) (d a b : BitVec 6) (s : State) : Out :=
  let i : Instr := .fmin pf sc d a b
  s.issue i fun s => s.minMax i d false

def execFmax (pf : Option Pfx) (sc : BitVec 3) (d a b : BitVec 6) (s : State) : Out :=
  let i : Instr := .fmax pf sc d a b
  s.issue i fun s => s.minMax i d true

/-! ## Comparison and classification (R135, R136) -/

/-- The condition of `fcmp`. -/
def fcmpHolds (m : Nat) (x y : FVal) : Bool :=
  let un := x.isNan || y.isNan
  match m with
  | 0 => !un && FVal.eqv x y
  | 1 => un || !FVal.eqv x y
  | 2 => !un && FVal.lt x y
  | 3 => !un && !FVal.lt y x
  | 4 => !un && FVal.lt y x
  | 5 => !un && !FVal.lt x y
  | 6 => un
  | _ => !un

def execFcmp (pf : Option Pfx) (sc k : BitVec 3) (a b : BitVec 6) (s : State) : Out :=
  let i : Instr := .fcmp pf sc k a b
  s.issue i fun s =>
    let f := fmtOf i
    let w := fmtWidth f
    let x := s.src i .A
    let y := s.src i .B
    let test (e : Nat) : Bool := fcmpHolds (i.x / 8) (decodeF f (el w e x)) (decodeF f (el w e y))
    .next (s.finishMask i k.toNat (s.maskResult i w s.cur.lanes test) [])

/-- The class of a code. -/
def classOf (f c : Nat) : Nat :=
  match decodeF f c with
  | .nan => 8
  | .inf n => if n then 0 else 7
  | .fin n m _ =>
    if m == 0 then (if n then 3 else 4)
    else if m < 2 ^ manBits f then (if n then 2 else 5)
    else if n then 1 else 6

def execFclass (pf : Option Pfx) (sc : BitVec 3) (d a : BitVec 6) (s : State) : Out :=
  let i : Instr := .fclass pf sc d a
  s.issue i fun s =>
    let f := fmtOf i
    let w := fmtWidth f
    let x := s.src i .A
    .next (s.finish i d (s.result i w s.cur.lanes fun e => classOf f (el w e x)) s.cur.lanes)

/-! ## Dot products (R137) -/

def execFdot (pf : Option Pfx) (sc : BitVec 3) (d a b : BitVec 6) (s : State) : Out :=
  let i : Instr := .fdot pf sc d a b
  s.issue i fun s =>
    let f := fmtOf i
    let w := fmtWidth f
    let n := 32 / w
    let rm := s.rm i
    let x := s.src i .A
    let y := s.src i .B
    let z := s.src i .C
    s.giveFloat i d 32 fun e =>
      let xs := (List.range n).map fun j => decodeF f (el w (n * e + j) x)
      let ys := (List.range n).map fun j => decodeF f (el w (n * e + j) y)
      let c := decodeF 0 (el 32 e z)
      Elem.round 0 rm (isClamp i) (c :: xs ++ ys) (FVal.sum (rm == 3) (c :: List.zipWith FVal.mul xs ys))

/-! ## Conversion (R138, R139) -/

/-- One conversion: `mx` is the exponent byte of the block (R67, R139). An out-of-range source of an integer or MXINT8 sets NV alone
(DESIGN CHOICE, log entry 23). -/
def convert (df sf rm : Nat) (clamp : Bool) (mx code : Nat) : Elem :=
  let v := decodeAny sf code mx
  let nf : BitVec 8 := if v.nonFinite then 0x04 else 0
  if df ≤ 5 then
    let e := Elem.round df rm clamp [v] v
    if df == 5 then { e with nf := nf } else e
  else if df == 6 then
    if mx == 255 then ⟨0, fNV, nf⟩
    else
      match v with
      | .nan => ⟨0, fNV, nf⟩
      | .inf n => ⟨if n then 0x81 else 0x7F, fNV, nf⟩
      | .fin n m e =>
        let (r, exact) := roundInt rm (.fin n m (e - ((mx : Int) - 127)))
        let c := max (-127) (min 127 r)
        ⟨wrap 8 c, if c != r then fNV else if exact then 0 else fNX, 0⟩
  else
    let r := toIntSat (decide (11 ≤ df)) (fmtWidth df) rm v
    ⟨r.code, r.flags, nf⟩

/-- A destination element of `fcvt`, by its place in the lane: the source element, if the conversion writes it. -/
def cvtSource (ns nd p j : Nat) : Option Nat :=
  if ns < nd then (if p * ns ≤ j && j < p * ns + ns then some (j - p * ns) else none)
  else if nd < ns then some (p * nd + j)
  else some j

def execFcvt (pf : Option Pfx) (sc : BitVec 3) (d a : BitVec 6) (l q : BitVec 1) (r : BitVec 4) (s : State) : Out :=
  let i : Instr := .fcvt pf sc d a l q r
  s.issue i fun s =>
    let df := i.x % 16
    let sf := r.toNat
    let wd := fmtWidth df
    let ws := fmtWidth sf
    let nd := 64 / wd
    let ns := 64 / ws
    let p := fcvtPart i.x q
    let rm := s.rm i
    let x := s.src i .A
    let c := s.src i .C
    let on (e : Nat) : Bool := (cvtSource ns nd p (e % nd)).isSome
    let f (e : Nat) : Elem :=
      match cvtSource ns nd p (e % nd) with
      | some j => convert df sf rm (l == 1) (el 64 (4 * (e / nd / 4)) c % 256) (el ws (ns * (e / nd) + j) x)
      | none => Elem.plain 0
    let unit := s.unitRec i
    let (bad, trap) := s.nonFinite i wd s.cur.lanes on f
    let ok := s.cur.lanes &&& ~~~bad
    let fl := laneFlagList ok (s.laneFlags i wd on f)
    let k := s.wmask i
    let touched (e : Nat) : Bool := ok.getLsbD (laneIx wd e) && on e
    let res : Result :=
      ⟨build wd fun e => if touched e && (i.zeroFill || enabled k wd e) then 2 ^ wd - 1 else 0,
       build wd fun e => if touched e && enabled k wd e then (f e).code else 0⟩
    .next ((s.finishWith i d res ok fl).faultRec unit bad trap)

/-! ## Special functions (R140, R141) -/

/-- One function on every enabled element of A. -/
def State.special (s : State) (i : Instr) (d : BitVec 6) (fn : Nat → Nat → FRes) : Out :=
  let f := fmtOf i
  let w := fmtWidth f
  let a := s.src i .A
  s.giveFloat i d w fun e =>
    let r := fn f (el w e a)
    ⟨r.code, r.flags, nonFiniteSub [decodeF f (el w e a)] (decodeF f r.code)⟩

def execFrcp (pf : Option Pfx) (sc : BitVec 3) (d a : BitVec 6) (s : State) : Out :=
  let i : Instr := .frcp pf sc d a
  s.issue i fun s => s.special i d fun f c => specialElem .rcp f s.cur.lowacc c

def execFrsq (pf : Option Pfx) (sc : BitVec 3) (d a : BitVec 6) (s : State) : Out :=
  let i : Instr := .frsq pf sc d a
  s.issue i fun s => s.special i d fun f c => specialElem .rsq f s.cur.lowacc c

def execFsqt (pf : Option Pfx) (sc : BitVec 3) (d a : BitVec 6) (s : State) : Out :=
  let i : Instr := .fsqt pf sc d a
  s.issue i fun s => s.special i d fun f c => sqrtElem f (s.rm i) c

def execFexp2 (pf : Option Pfx) (sc : BitVec 3) (d a : BitVec 6) (s : State) : Out :=
  let i : Instr := .fexp2 pf sc d a
  s.issue i fun s => s.special i d fun f c => specialElem .exp2 f s.cur.lowacc c

def execFlog2 (pf : Option Pfx) (sc : BitVec 3) (d a : BitVec 6) (s : State) : Out :=
  let i : Instr := .flog2 pf sc d a
  s.issue i fun s => s.special i d fun f c => specialElem .log2 f s.cur.lowacc c

def execFsin (pf : Option Pfx) (sc : BitVec 3) (d a : BitVec 6) (s : State) : Out :=
  let i : Instr := .fsin pf sc d a
  s.issue i fun s => s.special i d fun f c => specialElem .sin f s.cur.lowacc c

def execFcos (pf : Option Pfx) (sc : BitVec 3) (d a : BitVec 6) (s : State) : Out :=
  let i : Instr := .fcos pf sc d a
  s.issue i fun s => s.special i d fun f c => specialElem .cos f s.cur.lowacc c

def execFtanh (pf : Option Pfx) (sc : BitVec 3) (d a : BitVec 6) (s : State) : Out :=
  let i : Instr := .ftanh pf sc d a
  s.issue i fun s => s.special i d fun f c => specialElem .tanh f s.cur.lowacc c

/-! ## Tiny matrix-vector products (R142 to R144) -/

/-- The shape and coding of a `tmv`: M, N, bytes of a weight. -/
def tmvBytes (i : Instr) : Nat := if bitAt i.x 6 then 2 else 4
def tmvSpan (i : Instr) : Nat := (tmvM i.x * tmvN i.x + tmvM i.x) * tmvBytes i

/-- A constant of a lane's block as a value, from the sectors read. -/
def tmvConst (secs : List (Nat × Nat)) (i : Instr) (o j : Nat) : FVal :=
  let b := tmvBytes i
  let at_ := o + j * b
  decodeF (if b == 2 then 2 else 0) (bits ((look secs (at_ / 32)).getD 0) (8 * (at_ % 32)) (8 * b))

/-- Output i of a lane, before the mask (R143). -/
def State.tmvOut (s : State) (secs : List (Nat × Nat)) (ins : Instr) (o : Nat) (xs : List FVal) (i : Nat) : Elem :=
  let m := tmvM ins.x
  let n := tmvN ins.x
  let rm := s.rm ins
  let ws := (List.range n).map fun j => tmvConst secs ins o (n * i + j)
  let b := tmvConst secs ins o (m * n + i)
  let ops := b :: ws ++ xs
  let y := Elem.round 0 rm false ops (FVal.sum (rm == 3) (b :: List.zipWith FVal.mul ws xs))
  match ins.x / 16 % 4 with
  | 0 => y
  | 1 =>
    let v := decodeF 0 y.code
    let c := if v.isNan then y.code else if v.isZero || v.isNeg then 0 else y.code
    ⟨c, y.flags, nonFiniteSub ops (decodeF 0 c)⟩
  | _ =>
    let t := specialElem .tanh 0 s.cur.lowacc y.code
    ⟨t.code, y.flags ||| t.flags, nonFiniteSub ops (decodeF 0 t.code)⟩

/-- The sectors of the constant store that a continuation lane's block touches (R103, R144). -/
def tmvSectors (i : Instr) (o : Nat) : List Sector :=
  (List.range ((o % 32 + tmvSpan i + 31) / 32)).map fun k => ⟨2, o / 32 + k⟩

/-- The load set of a continuation lane with sectors added. -/
def Lane.withLoads (x : Lane) (secs : List Sector) : List Sector :=
  x.loadSet ++ secs.filter fun z => !x.loadSet.contains z

/-- Sectors of the constant store read: each once, some of those still missing now where the unit completes later than it issues, since
the blocks may be read in any mix of moments (R144). The sectors that are left are answered too. A `tmv` of a continuation reads the store
itself, and not what the lane's held `sst` will bring there (DESIGN CHOICE, log entry 60). -/
def State.tmvRead (s : State) (need : List Nat) : State × List Nat :=
  let miss := need.filter fun k => (look s.cur.got k).isNone
  let (m, s) := if s.cur.late then s.popSplit else (0, s)
  let now := if s.cur.late then picked m miss else miss
  let q := s.quadOf s.cur.g
  ({ s with cur := { s.cur with got := s.cur.got ++ now.map fun k => (k, leNat (s.readConst q (32 * k) 32)) } }, miss.filter fun k => !now.contains k)

/-- `tmv` (R143): per lane an address check, then M outputs; a lane that traps writes nothing. -/
def execTmv (pf : Option Pfx) (sc : BitVec 3) (d a b : BitVec 6) (s : State) : Out :=
  let i : Instr := .tmv pf sc d a b
  s.issue i fun s =>
    let g := s.cur.g
    let lanes := s.cur.lanes
    let unit := s.unitRec i
    let m := tmvM i.x
    let n := tmvN i.x
    let off (l : Nat) : Nat := (s.srcLane i .B l).toNat
    let misaligned := lanesWhere fun l => lanes.getLsbD l && off l % 16 != 0
    let beyond := lanesWhere fun l => lanes.getLsbD l && off l % 16 == 0 && decide (131072 < off l + tmvSpan i)
    let full := lanesWhere fun l => (s.grp g).shadow.isSome && lanes.getLsbD l &&
      decide (64 < ((s.lane g l).withLoads (tmvSectors i (off l))).length)
    let sound := lanes &&& ~~~(misaligned ||| beyond)
    let marked (l : Nat) : Bool := (tmvSectors i (off l)).any fun k => s.poison.contains (.const (s.quadOf g) k.no)
    let poisoned := lanesWhere fun l => !s.poison.isEmpty && sound.getLsbD l && marked l
    let run := sound &&& ~~~(full ||| poisoned)
    let need := (lanesOf run).foldl (fun acc l => (tmvSectors i (off l)).foldl (fun acc k => addNo k.no acc) acc) []
    let (s, left) := s.tmvRead need
    if !left.isEmpty then .next (s.keepUnit { unit with iss := s.cur })
    else
    let secs := s.cur.got
    let ins := (List.range (n / 2)).map fun j => s.srcAt i .A j
    let inputs (l : Nat) : List FVal := (List.range n).map fun j => decodeF 0 (el 32 (2 * l + j % 2) (ins.getD (j / 2) 0))
    let outs := (List.range 32).map fun l =>
      if run.getLsbD l then (List.range m).map (fun j => s.tmvOut secs i (off l) (inputs l) j) else []
    let out (l j : Nat) : Elem := (outs.getD l []).getD j (Elem.plain 0)
    let k := s.wmask i
    let on (l j : Nat) : Bool := run.getLsbD l && enabled k 32 (2 * l + j % 2)
    let nft := s.cur.nft
    let trapAt (l j : Nat) : Bool := nft && on l j && (out l j).nf != 0
    let bad := lanesWhere fun l => (List.range m).any fun j => trapAt l j
    let ok := run &&& ~~~bad
    let flags (l : Nat) : BitVec 5 := (List.range m).foldl (fun (acc : BitVec 5) j => if on l j then acc ||| (out l j).flags else acc) 0
    let s := s.addFlags g ok flags
    let s := if (s.grp g).shadow.isSome then s.modLanes g ok fun l x => { x with loadSet := x.withLoads (tmvSectors i (off l)) } else s
    let s := (List.range (m / 2)).foldl (fun s r =>
      s.writeReg g (d + BitVec.ofNat 6 r) (s.result i 32 ok fun e => (out (e / 2) (2 * r + e % 2)).code)) s
    let s := s.holdBoundary full
    let first : Option TrapInfo := (List.range (32 * m)).findSome? fun x =>
      if trapAt (x / m) (x % m) then some ⟨cNONFINITE, (out (x / m) (x % m)).nf, BitVec.ofNat 64 x, none⟩ else none
    let addr (ls : Lanes) (c sub : BitVec 8) : Option TrapInfo :=
      if ls == 0 then none else some (addrTrap c sub (BitVec.ofNat 64 (off (lowest ls))))
    let s := s.faultRec unit misaligned (addr misaligned cALIGN 0x00)
    let s := s.faultRec unit beyond (addr beyond cPROT 0x04)
    let s := s.faultRec unit poisoned (addr poisoned cPOISON 0x00)
    .next (s.faultRec unit bad first)

end Sys2Proof.Machine
end

