-- ==== Sys2Proof/Machine/CrossLane.lean ====
section
/-! DEFINITION. The cross-lane instructions (R146 to R156). Elements are numbered across the whole register. -/

namespace Sys2Proof.Machine

/-! ## Shared parts -/

/-- Format and operation of the type layout (R149). -/
def tyOf (i : Instr) : Nat := i.x % 16
def opOf (i : Instr) : Nat := i.x / 16

/-- The identity of an operation in a format (R150). -/
def identityOf (ty op : Nat) : Nat :=
  let w := fmtWidth ty
  if fmtIsFloat ty then
    (match op with | 0 => signBit ty true | 1 => infCode ty false | _ => infCode ty true)
  else
    let u := decide (11 ≤ ty)
    match op with
    | 1 => wrap w (hiOf u w)
    | 2 => wrap w (loOf u w)
    | 3 => 2 ^ w - 1
    | _ => 0

/-- One combination of two codes (R150). -/
def combineOp (ty op rm a b : Nat) : FRes :=
  let w := fmtWidth ty
  if fmtIsFloat ty then
    match op with
    | 0 =>
      let x := decodeF ty a
      let y := decodeF ty b
      let v := FVal.add (rm == 3) x y
      let r := roundF ty rm v
      ⟨r.code, r.flags ||| invalid [x, y] v⟩
    | 1 => ⟨fMinMax ty false a b, 0⟩
    | _ => ⟨fMinMax ty true a b, 0⟩
  else
    let u := decide (11 ≤ ty)
    match op with
    | 0 => ⟨(a + b) % 2 ^ w, 0⟩
    | 1 => ⟨if ext u w a ≤ ext u w b then a else b, 0⟩
    | 2 => ⟨if ext u w a ≤ ext u w b then b else a, 0⟩
    | 3 => ⟨Nat.land a b, 0⟩
    | 4 => ⟨Nat.lor a b, 0⟩
    | _ => ⟨Nat.xor a b, 0⟩

/-- A running value: code, flags of the roundings that formed it, and whether a non-finite term, and a NaN, entered it. -/
structure Acc3 where
  code : Nat
  flags : BitVec 5
  nonFin : Bool
  nanIn : Bool
deriving DecidableEq, Repr

/-- A code of a floating format is non-finite. -/
def codeNonFinite (ty c : Nat) : Bool := fmtIsFloat ty && (decodeF ty c).nonFinite

def Acc3.of (ty c : Nat) : Acc3 := ⟨c, 0, codeNonFinite ty c, fmtIsFloat ty && (decodeF ty c).isNan⟩
def Acc3.join (ty op rm : Nat) (a b : Acc3) : Acc3 :=
  let r := combineOp ty op rm a.code b.code
  ⟨r.code, a.flags ||| b.flags ||| r.flags, a.nonFin || b.nonFin, a.nanIn || b.nanIn⟩

/-- The element a running value yields, a NaN in its canonical form (R63), with the sub-cause it would raise (R77, R150): a NaN that no
NaN term led to comes from non-NaN operands. -/
def Acc3.elem (ty : Nat) (a : Acc3) : Elem :=
  let v := decodeF ty a.code
  ⟨if fmtIsFloat ty && v.isNan then nanCode ty else a.code, a.flags,
   if !codeNonFinite ty a.code then 0 else if v.isNan && !a.nanIn then 0x01 else if a.nonFin then 0x03 else 0x02⟩

/-! ## shfl, bcast (R151) -/

def execShfl (pf : Option Pfx) (sc : BitVec 3) (d a b : BitVec 6) (s : State) : Out :=
  let i : Instr := .shfl pf sc d a b
  s.issue i fun s =>
    let w := i.width
    let n := 64 / w
    let x := s.src i .A
    let y := s.src i .B
    let res := s.result i w s.cur.lanes fun e =>
      let l := e / n
      el w (((laneOf y l).toNat + e % n) % (32 * n)) x
    .next (s.finish i d res s.cur.lanes)

def execBcast (pf : Option Pfx) (sc : BitVec 3) (d a b : BitVec 6) (s : State) : Out :=
  let i : Instr := .bcast pf sc d a b
  s.issue i fun s =>
    let w := i.width
    let x := s.src i .A
    let b := s.scal i .B
    if 2048 / w ≤ b.toNat then .next (s.fault i s.cur.lanes (addrTrap cINDEX 0x03 b) false)
    else .next (s.finish i d (s.result i w s.cur.lanes fun _ => el w b.toNat x) s.cur.lanes)

/-! ## rix (R152) -/

/-- The lanes with an enabled index beyond the table, and the trap they raise. -/
def State.rixBad (s : State) (i : Instr) (w t : Nat) (idx : Img) (sub : BitVec 8) : Lanes × Option TrapInfo :=
  let bad (e : Nat) : Bool := s.takesPart i w e && decide (t ≤ el w e idx)
  let n := 64 / w
  (lanesWhere fun l => (List.range n).any fun j => bad (n * l + j),
   ((List.range (2048 / w)).find? bad).map fun e => ⟨cINDEX, sub, BitVec.ofNat 64 e, none⟩)

def execRixG (pf : Option Pfx) (sc : BitVec 3) (d a b : BitVec 6) (s : State) : Out :=
  let i : Instr := .rixG pf sc d a b
  s.issue i fun s =>
    let w := i.width
    let n := 2048 / w
    let r := rixRun i.x
    let idx := s.src i .B
    let unit := s.unitRec i
    let table := (List.range r).map fun j => s.srcAt i .A j
    let (bad, trap) := s.rixBad i w (r * n) idx 0x01
    let ok := s.cur.lanes &&& ~~~bad
    let res := s.result i w ok fun e => el w (el w e idx % n) (table.getD (el w e idx / n) 0)
    .next ((s.finish i d res ok).faultRec unit bad trap)

/-- The writes of `rix.s` in ascending order of the elements, by element of the table. -/
def rixWrites (w : Nat) (part : Nat → Bool) (idx val : Img) : List (Nat × Nat) :=
  (List.range (2048 / w)).foldl (fun acc e => if part e then put (el w e idx) (el w e val) acc else acc) []

def execRixS (pf : Pfx) (sc : BitVec 3) (d a b : BitVec 6) (s : State) : Out :=
  let i : Instr := .rixS pf sc d a b
  s.issue i fun s =>
    let w := i.width
    let n := 2048 / w
    let r := rixRun i.x
    let idx := s.src i .B
    let val := s.src i .A
    let unit := s.unitRec i
    let (bad, trap) := s.rixBad i w (r * n) idx 0x02
    let part (e : Nat) : Bool := s.takesPart i w e && !bad.getLsbD (laneIx w e)
    let ws := rixWrites w part idx val
    let s := (List.range r).foldl (fun s q =>
      let hit (e : Nat) : Option Nat := look ws (q * n + e)
      let res : Result := ⟨build w fun e => if (hit e).isSome then 2 ^ w - 1 else 0, build w fun e => (hit e).getD 0⟩
      s.writeReg s.cur.g (d + BitVec.ofNat 6 q) res) s
    .next (s.faultRec unit bad trap)

/-! ## redl, scan (R153, R75) -/

/-- One level of the pairwise tree, and the whole of it. -/
def treeLevel (ty op rm : Nat) : List Acc3 → List Acc3
  | a :: b :: t => Acc3.join ty op rm a b :: treeLevel ty op rm t
  | l => l
def treeOf (ty op rm : Nat) : Nat → List Acc3 → Acc3
  | 0, l => l.headD (Acc3.of ty 0)
  | k + 1, l => treeOf ty op rm k (treeLevel ty op rm l)

/-- The running values s_0, s_1, … of a list of terms. -/
def scanFrom (ty op rm : Nat) : Acc3 → List Acc3 → List Acc3
  | a, [] => [a]
  | a, b :: t => a :: scanFrom ty op rm (Acc3.join ty op rm a b) t

/-- The terms: elements that take part, and the identity elsewhere. -/
def State.terms (s : State) (i : Instr) (ty op : Nat) : List Acc3 :=
  let w := fmtWidth ty
  let a := s.src i .A
  (List.range (2048 / w)).map fun e => Acc3.of ty (if s.takesPart i w e then el w e a else identityOf ty op)

def execRedl (pf : Option Pfx) (sc : BitVec 3) (d a : BitVec 6) (s : State) : Out :=
  let i : Instr := .redl pf sc d a
  s.issue i fun s =>
    let ty := tyOf i
    let op := opOf i
    let r := (treeOf ty op (s.rm i) 8 (s.terms i ty op)).elem ty
    s.giveFloat i d (fmtWidth ty) fun _ => r

def execScan (pf : Option Pfx) (sc : BitVec 3) (d a : BitVec 6) (x : BitVec 1) (s : State) : Out :=
  let i : Instr := .scan pf sc d a x
  s.issue i fun s =>
    let ty := tyOf i
    let op := opOf i
    let none_ := Acc3.of ty (identityOf ty op)
    let run := match s.terms i ty op with | [] => [] | t :: ts => scanFrom ty op (s.rm i) t ts
    let vals := if x == 1 then none_ :: run else run
    s.giveFloat i d (fmtWidth ty) fun e => (vals.getD e none_).elem ty

/-! ## redmi (R154) -/

/-- The order of values: that of `fmin`, a NaN above +∞. -/
def valueLt (ty a b : Nat) : Bool :=
  if fmtIsFloat ty then
    let x := decodeF ty a
    let y := decodeF ty b
    if x.isNan then false
    else if y.isNan then true
    else FVal.lt x y || (x.isZero && y.isZero && x.isNeg && !y.isNeg)
  else decide (ext (decide (11 ≤ ty)) (fmtWidth ty) a < ext (decide (11 ≤ ty)) (fmtWidth ty) b)

def pairLt (ty : Nat) (p q : Nat × Nat) : Bool := valueLt ty p.1 q.1 || (!valueLt ty q.1 p.1 && decide (p.2 < q.2))

/-- The greatest value of a type, which a position that takes no part contributes. -/
def maximumOf (ty : Nat) : Nat := identityOf ty 1

def execRedmi (pf : Option Pfx) (sc : BitVec 3) (d a b : BitVec 6) (s : State) : Out :=
  let i : Instr := .redmi pf sc d a b
  s.issue i fun s =>
    let ty := tyOf i
    let w := fmtWidth ty
    let x := s.src i .A
    let y := s.src i .B
    let pair (e : Nat) : Nat × Nat := if s.takesPart i w e then (el w e x, el w e y) else (maximumOf ty, 2 ^ w - 1)
    let best := (List.range (2048 / w)).foldl (fun p e => if pairLt ty (pair e) p then pair e else p) (pair 0)
    let v := if fmtIsFloat ty && (decodeF ty best.1).isNan then nanCode ty else best.1
    let ls := s.cur.lanes
    let r0 := s.result i w ls fun _ => v
    let r1 := s.result i w ls fun _ => best.2
    .next ((s.writeReg s.cur.g d r0).writeReg s.cur.g (d + 1) r1)

/-! ## cfd, comb (R155, R156) -/

/-- The mask written by `cfd` and `comb`: whole elements of the lanes that complete, ones where a test holds. -/
def conflictMask (w : Nat) (lanes : Lanes) (first : Nat → Bool) : Mask × Mask :=
  (buildMask fun b => lanes.getLsbD (b / 8), buildMask fun b => lanes.getLsbD (b / 8) && first (8 * b / w))

/-- For each element of a list of keys, the largest earlier participating element with its key. -/
def lastWith (w : Nat) (part : Nat → Bool) (keys : Img) (e : Nat) : Option Nat :=
  ((List.range e).filter fun p => part p && el w p keys == el w e keys).getLast?

def execCfd (pf : Option Pfx) (sc : BitVec 3) (d a : BitVec 6) (s : State) : Out :=
  let i : Instr := .cfd pf sc d a
  s.issue i fun s =>
    let w := i.width
    let keys := s.src i .A
    let part (e : Nat) : Bool := s.takesPart i w e
    let prev := (List.range (2048 / w)).map fun e => lastWith w part keys e
    let at_ (e : Nat) : Option Nat := (prev.getD e none)
    let ls := s.cur.lanes
    let m := conflictMask w ls fun e => part e && (at_ e).isNone
    let s := s.finish i d (s.result i w ls fun e => (at_ e).getD e) ls
    .next (s.finishMask i (i.x / 16) m [])

/-- The running sums of `comb`, by key: first element, key, value. -/
def combRun (ty rm w : Nat) (part : Nat → Bool) (keys vals : Img) : List (Nat × Nat × Acc3) :=
  (List.range (2048 / w)).foldl (fun acc e =>
    if !part e then acc
    else
      let k := el w e keys
      let v := Acc3.of ty (el w e vals)
      if acc.any fun p => p.2.1 == k then
        acc.map fun p => if p.2.1 == k then (p.1, k, Acc3.join ty 0 rm p.2.2 v) else p
      else acc ++ [(e, k, v)]) []

def execComb (pf : Option Pfx) (sc : BitVec 3) (d a b : BitVec 6) (s : State) : Out :=
  let i : Instr := .comb pf sc d a b
  s.issue i fun s =>
    let ty := tyOf i
    let w := fmtWidth ty
    let part (e : Nat) : Bool := s.takesPart i w e
    let sums := combRun ty (s.rm i) w part (s.src i .B) (s.src i .A)
    let sum (e : Nat) : Option Acc3 := (sums.find? fun p => p.1 == e).map (·.2.2)
    let f (e : Nat) : Elem := match sum e with | some x => x.elem ty | none => Elem.plain (identityOf ty 0)
    let all := fun _ => true
    let unit := s.unitRec i
    let (bad, trap) := s.nonFinite i w s.cur.lanes all f
    let ok := s.cur.lanes &&& ~~~bad
    let s := s.addFlags s.cur.g ok (s.laneFlags i w all f)
    let m := conflictMask w ok fun e => part e && (sum e).isSome
    let s := s.finish i d (s.result i w ok fun e => (f e).code) ok
    .next ((s.finishMask i (i.x / 16) m []).faultRec unit bad trap)

end Sys2Proof.Machine
end

