-- ==== Sys2Proof/Machine/EngineEvents.lean ====
section
/-! DEFINITION. The events of engine contexts: the start, the steps and the finish of commands, drains, and silence of a peer
(R238 to R242, R258, R290, R296). -/

namespace Sys2Proof.Machine

/-! ## Starting (R238, R239, R251) -/

/-- The ORD bit of a command; `mclr` has none. -/
def Cmd.ord (x : Cmd) : Bool :=
  match x.instr with
  | .cpy _ _ _ _ | .cpyx _ _ _ _ => x.f 2 5 1 == 1
  | .mclr _ _ _ _ => false
  | _ => x.f 0 5 1 == 1

/-- The crew's engine contexts stand on its quad, and its partition is not swapped out (R328, R342). -/
def State.engineRuns (s : State) (c : Nat) : Bool := !(s.part (s.ctx (s.crew c).ctx).part).swapped && s.crewStands c

/-- A command that has finished: it stands on its timeline no more. -/
def Crew.gone (c : Crew) (p : Nat × Nat) : Bool := !(c.tline p.1).cmds.any fun x => x.n == p.2

/-- The command of a timeline that starts next, its context's residence apart. -/
def State.startable (s : State) (c tl : Nat) : Option Cmd :=
  let cr := s.crew c
  let t := cr.tline tl
  match leastBy (fun x : Cmd => x.n) (t.cmds.filter fun x => !x.started) with
  | none => none
  | some x =>
    let first := (leastBy (fun y : Cmd => y.n) t.cmds).any fun y => y.n == x.n
    let ok := t.parked.isNone && !t.draining && s.engineRuns c && decide (x.queued < s.now) && (!x.ord || first) &&
      x.links.all cr.gone && decide ((t.cmds.filter fun y => y.started).length < 4)
    if ok then some x else none

/-- The contexts of the engine of a timeline on its quad, as crew and timeline. -/
def State.sameEngine (s : State) (c tl : Nat) : List (Nat × Nat) :=
  let e := ((s.crew c).tline tl).engine
  s.crews.zipIdx.flatMap fun p =>
    if p.1.quad == (s.crew c).quad && !p.1.retired && e.isSome then
      ((List.range 8).filter fun k => (p.1.tline k).engine == e).map fun k => (p.2, k)
    else []

/-- The resident contexts among them. -/
def State.residents (s : State) (c tl : Nat) : List (Nat × Nat) := (s.sameEngine c tl).filter fun p => ((s.crew p.1).tline p.2).resident

/-- ENGINE_COMMAND_START: the next command of a timeline starts, its context made resident (R238, R239). -/
def execEngineCommandStart (c tl : Nat) (s : State) : Out :=
  match s.startable c tl with
  | none => .next s
  | some x =>
    let t := (s.crew c).tline tl
    if !t.resident && decide (2 ≤ (s.residents c tl).length) then .next s
    else
      let s := { s with seq := s.seq + 1 }
      .next (s.modTl c tl fun t =>
        { t.modCmd x.n fun y => { y with started := true, heard := s.now } with
          resident := true, served := t.served && t.resident, lastStart := s.seq })

/-! ## Steps -/

/-- One step of a command, but for the K-steps of the array and the adds of `ixs`. -/
def State.stepCmd (s : State) (c tl : Nat) (x : Cmd) : Out :=
  match x.instr with
  | .cpy _ _ _ _ => s.cpyStep c tl x
  | .cpyx _ _ _ _ => s.cpyxStep c tl x
  | .mld _ _ _ _ => s.mldStep c tl x
  | .mwb _ _ _ _ => s.mwbStep c tl x
  | .mclr _ _ t m => s.mclrStep c tl x t m
  | .ixg _ _ _ _ => s.ixgStep c tl x
  | .ixs _ _ _ _ => s.ixsStep c tl x
  | .rredRs _ _ _ _ _ | .rredAr _ _ _ _ _ | .rcat _ _ _ => s.collStep c tl x
  | .lput _ _ _ => s.lputStep c tl x
  | _ => .next s

/-- A step of a live command; a step that has moved it makes its context the one that started a step last, unless it is one that a drain
completes (R239). -/
def State.engineAct (s : State) (c tl n : Nat) (f : Cmd → Out) : Out :=
  match s.liveCmd c tl n with
  | none => .next s
  | some x =>
    if !s.engineRuns c then .next s
    else
      match f x with
      | .next t =>
        if t.cmdAt c tl n == some x || ((t.crew c).tline tl).draining then .next t
        else .next ({ t with seq := t.seq + 1 }.modTl c tl fun u => { u with lastStart := t.seq + 1 })
      | o => o

/-- ENGINE_STEP (R242). -/
def execEngineStep (c tl n : Nat) (s : State) : Out := s.engineAct c tl n fun x => s.stepCmd c tl x

/-- MATRIX_KSTEP (R266). -/
def execMatrixKstep (c tl n : Nat) (s : State) : Out := s.engineAct c tl n fun x => if isKstep x.instr then s.kstep c tl x else .next s

/-- IXS_SECTOR_ADD (R280). -/
def execIxsSectorAdd (c tl n : Nat) (s : State) : Out :=
  s.engineAct c tl n fun x => match x.instr with | .ixs _ _ _ _ => s.ixsAdd c tl x | _ => .next s

/-! ## Finishing and draining -/

/-- The next command of a ring begins to listen when its predecessor has finished (R290, R296). -/
def State.ringTurn (s : State) (part : Nat) (x : Cmd) : State :=
  if !isCollective x.instr then s
  else
    let fix (y : Cmd) : Cmd := if isCollective y.instr && y.ringNo == x.ringNo then { y with heard := s.now } else y
    { s with crews := s.crews.map fun (c : Crew) =>
        if (s.ctx c.ctx).part == part then { c with tl := c.tl.map fun (t : Timeline) => { t with cmds := t.cmds.map fix } } else c }

/-- COMMAND_FINISH: a command that has made every step leaves its timeline, and COUNT follows (R238). -/
def execCommandFinish (c tl n : Nat) (s : State) : Out :=
  match s.cmdAt c tl n with
  | none => .next s
  | some x =>
    if !x.done then .next s
    else .next ((s.modCmds c fun cr => cr.modTl tl fun t => t.finish n).ringTurn (s.ctx (s.crew c).ctx).part x)

/-- The commands of a context in progress that cannot go on before a parked one does: the parked ones, those that the interlock of slots and
tiles holds behind them, later K-steps of the array, and later scatter-adds (R240, R258, R259, R280). -/
def Timeline.blocked (t : Timeline) : List Nat :=
  (sortBy (fun x : Cmd => x.n) (t.cmds.filter fun x => x.started)).foldl (fun acc x =>
    let behind (y : Cmd) : Bool := acc.contains y.n && (clash x y || (isKstep x.instr && isKstep y.instr && decide (y.n < x.n)) || (t.earlierIxs x && (match x.instr with | .ixs _ _ _ _ => true | _ => false)))
    if t.stuck x.n || t.cmds.any behind then acc ++ [x.n] else acc) []

/-- Commands of a context in progress that its drain still completes; the others are saved as they stand (R239, R240). -/
def Timeline.inProgress (t : Timeline) : Bool :=
  let b := t.blocked
  t.cmds.any fun x => x.started && !b.contains x.n

/-- A context waits to become resident while both places are taken. -/
def State.wantsPlace (s : State) (p : Nat × Nat) : Bool := !((s.crew p.1).tline p.2).resident && (s.startable p.1 p.2).isSome

/-- The resident context that a forced drain takes: of those neither pinned nor parked that may be chosen, the one that last started a step
earliest, though its drain has begun already (R239). -/
def State.victim (s : State) (c tl : Nat) : Option (Nat × Nat) :=
  let cands := (s.residents c tl).filter fun p =>
    let t := (s.crew p.1).tline p.2
    !t.pinned && t.parked.isNone && (t.served || t.cmds.isEmpty)
  leastBy (fun p : Nat × Nat => ((s.crew p.1).tline p.2).lastStart) cands

/-- A forced drain of a context begins. -/
def State.mustLeave (s : State) (c tl : Nat) : Bool :=
  decide (2 ≤ (s.residents c tl).length) && (s.sameEngine c tl).any s.wantsPlace && s.victim c tl == some (c, tl)

/-- CONTEXT_DRAIN: a drain is forced, or one under way is complete (R239). -/
def execContextDrain (c tl : Nat) (s : State) : Out :=
  let t := (s.crew c).tline tl
  if t.draining then
    if t.inProgress then .next s else .next ((s.modTl c tl Timeline.saved).drained c tl)
  else if t.resident && s.mustLeave c tl then .next (s.modTl c tl fun t => { t with draining := true })
  else .next s

/-! ## Silence (R296) -/

def silenceLimit : Nat := 2 ^ 26

/-- A command that waits for a peer. -/
def State.listening (s : State) (c : Nat) (x : Cmd) : Bool :=
  match x.instr with
  | .lput _ _ _ => x.pos != x.step
  | i => isCollective i && !s.ringHeld (s.ctx (s.crew c).ctx).part x

/-- The command of a timeline that has heard nothing for too long. -/
def State.silentCmd (s : State) (c tl : Nat) : Option Cmd :=
  ((s.crew c).tline tl).cmds.find? fun x =>
    (s.liveCmd c tl x.n).isSome && s.listening c x && decide (silenceLimit ≤ s.now - x.heard)

/-- A pod barrier that waits for its peers too long. -/
def State.silentBar (s : State) (k : Nat) : Option BarInst :=
  (s.bars[k]?).filter fun b => b.scope == 4 && b.reached && decide (silenceLimit ≤ s.now - b.since)

/-- The units that wait for a pod barrier, with their groups. -/
def State.podWaiters (s : State) (b : BarInst) : List (Nat × UnitRec) :=
  s.groups.zipIdx.flatMap fun p =>
    if (s.crew p.1.crew).task != b.task then []
    else
      (p.1.waits.filter fun u =>
        match u.instr with
        | .barSync _ d _ c | .barWait _ d _ c => c == 4 && d.toNat == b.id
        | _ => false).map fun u => (p.2, u)

/-- PEER_SILENT_TIMEOUT: a command parks, or, for timeline 8, the units that wait for pod barrier number c take the fault. -/
def execPeerSilentTimeout (c tl : Nat) (s : State) : Out :=
  if tl == 8 then
    match s.silentBar c with
    | none => .next s
    | some b =>
      let t := addrTrap cENGINE 0x85 (BitVec.ofNat 64 b.id)
      let s := { s with bars := modAt (fun q : BarInst => { q with since := s.now }) c s.bars }
      .next ((s.podWaiters b).foldl (fun s p =>
        let s := s.modGrp p.1 fun gr => { gr with waits := gr.waits.filter fun v => v != p.2 }
        { s with cur := p.2.iss }.faultUnit p.2 p.2.iss.lanes t true) s)
  else
    match s.silentCmd c tl with
    | some x => .next (s.park c tl x cENGINE 0x85 0)
    | none => .next s

end Sys2Proof.Machine
end

