-- ==== Sys2Proof/Machine/ForkCalls.lean ====
section
/-! DEFINITION. The forkable calls: `fcall`, `ret`, `fsync` and `fhint` (R99 to R114). -/

namespace Sys2Proof.Machine

/-! ## fcall -/

/-- The lanes of an `fcall` that may fork, the shadow slot apart (R99, R111). -/
def State.mayFork (s : State) (g : Nat) (ok : Lanes) : Lanes :=
  let cfg := (s.ctxOf g).forkcfg
  lanesWhere fun l =>
    let x := s.lane g l
    ok.getLsbD l && cfg.getLsbD 0 && x.mode == .running && decide (x.fd < bits cfg.toNat 1 3)

/-- The prediction of a forking lane: its hint, or the predictor's (R102). -/
def State.predictLane (s : State) (g l : Nat) : State × Word × Word :=
  let x := s.lane g l
  if x.hintValid then (s, x.hint0, x.hint1) else s.predict (s.grp g).core s.cur.addr (s.ctxOf g).forkcfg

/-- One lane forks: the copy in the shadow slot with the predicted values, and the record of the original (R100, steps 1, 2, 4, 5). -/
def State.forkLane (s : State) (g inst shadow : Nat) (r1 r2 : BitVec 6) (l : Nat) : State :=
  let (s, p1, p2) := s.predictLane g l
  let x := s.lane g l
  let link := s.cur.addr + 4
  let one := laneBits (oneLane l)
  let s := s.modGrp shadow fun sh =>
    (((s.grp g).copyLane sh l).setReg r1 one (splat p1)).setReg r2 one (splat p2)
  let s := s.modLane shadow l fun _ =>
    { Lane.start link with ready := s.now + 5, fd := x.fd + 1, recs := x.recs, base := x.recs.length }
  s.modLane g l fun y =>
    { y with fd := y.fd + 1
             recs := ⟨link, r1, r2, (if r1 == 58 then 0 else p1), (if r2 == 58 then 0 else p2), 0, inst, false, false⟩ :: y.recs }

/-- A set of lanes forks into a shadow slot: one instance (R99, R100). -/
def State.forkLanes (s : State) (g slot : Nat) (r1 r2 : BitVec 6) (ls : Lanes) : State :=
  let s := s.flush g
  let gr := s.grp g
  let inst := s.forks.length
  let shadow := s.groups.length
  let sh : Group :=
    { Group.fresh gr.crew gr.cid gr.nregs gr.core slot gr.gtag 0 (gr.fpmode &&& 0x1F) gr.prio with
      lanes := Vector.replicate 32 { Lane.start 0 with mode := .absent }
      shadow := some inst }
  let s := { s with groups := s.groups ++ [sh]
                    forks := s.forks ++ [⟨g, shadow, ls, s.cur.addr, r1, r2, [], false, lowest ls, true⟩] }
  (lanesOf ls).foldl (fun s l => s.forkLane g inst shadow r1 r2 l) s

/-- `fcall` (R99, R100, R106, R114). -/
def execFcall (sc : BitVec 3) (d a b : BitVec 6) (s : State) : Out :=
  let i : Instr := .fcall sc d a b
  s.issue i fun s =>
    if s.cur.regOnly then .next (s.writeLink 55 s.cur.lanes)
    else
      let g := s.cur.g
      let bad := s.badTargets i
      let ok := s.cur.lanes &&& ~~~bad
      let target := s.src i .A
      let unit := s.unitRec i
      let want := s.mayFork g ok
      let slot := s.shadowSlot g
      let fork : Lanes := if slot.isSome then want else 0
      let plain := ok &&& ~~~fork
      let s := match slot with
        | some k => if fork == 0 then s else s.forkLanes g k d b fork
        | none => s
      let s := s.modLanes g ok fun l x => { x with hintValid := false, pc := laneOf target l }
      let s := (s.writeLink 55 ok).nestLanes g plain
      let s := s.countFork g fkPLAIN (lanesOf plain).length
      .next ((s.stay bad).faultUnit unit bad (addrTrap cALIGN 0x00 (laneOf target (lowest bad))) false)

/-! ## ret -/

/-- What a `ret` does in a lane (R106). -/
inductive RetCase where
  /-- As `jmpl`: no record. -/
  | plain
  /-- A nested return: NEST is lowered. -/
  | nested
  /-- A squashed record is popped, and the return is plain. -/
  | pop
  /-- The record resolves in the lane's disfavour, with the cause counted. -/
  | squash (cause : Nat)
  | commit
  /-- A continuation lane waits (R104, R107). -/
  | hold
deriving DecidableEq, Repr

/-- A write set and a load set meet (R106). -/
def meets (f : ForkInst) (acq : Bool) (loads : List Sector) : Bool :=
  !loads.isEmpty && (f.overflow || acq || loads.any f.writes.contains)

/-- The case of a lane whose target is given, by the state before any lane changes (R101, R104, R106, R107). A held store that would meet
a fault at its point of execution, the commit, squashes the continuation; the store raises its fault where it is executed again (R222; DESIGN
CHOICE, log entry 46). -/
def State.retCase (s : State) (g l : Nat) (target : Word) : RetCase :=
  let x := s.lane g l
  match x.recs with
  | [] => .plain
  | r :: _ =>
    if r.nest != 0 then .nested
    else if r.squashed then .pop
    else if x.recs.length ≤ x.base then .hold
    else
      let gr := s.grp g
      let val (spec : BitVec 6) : Word := if spec == 58 then 0 else laneOf (gr.reg 64 spec) l
      let f := s.inst r.inst
      if target != r.link then .squash fkOTHER
      else if val r.r1 != r.pred1 || val r.r2 != r.pred2 then .squash fkVALUE
      else if meets f r.acq (s.lane f.shadow l).loadSet then .squash fkMEM
      else if gr.shadow.isNone && s.heldFaults g l (s.lane f.shadow l).storeBuf then .squash fkOTHER
      else if s.commitFits g l r.inst then .commit
      else .hold

/-- The predictor learns from the lowest forking lane of an instance (R102). -/
def State.learnFrom (s : State) (g l : Nat) (r : ForkRec) : State :=
  let f := s.inst r.inst
  if l != f.first then s
  else
    let gr := s.grp g
    let val (spec : BitVec 6) : Word := if spec == 58 then 0 else laneOf (gr.reg 64 spec) l
    s.learn gr.core f.site (val r.r1) (val r.r2)

/-- The case carried out. A squash leaves the callee's registers, o7 among them: where the callee has overwritten o7 and returns through
another register, R109's table (the link) and R108 (the callee's registers) differ (DESIGN CHOICE, log entry 41). -/
def State.retLane (s : State) (g l : Nat) (target : Word) (c : RetCase) : State :=
  let move (s : State) : State := s.modLane g l fun x => { x with pc := target }
  match c, (s.lane g l).recs with
  | .hold, _ => s.holdBoundary (oneLane l)
  | .nested, r :: t => (s.modLane g l fun x => { x with recs := { r with nest := r.nest - 1 } :: t, pc := target })
  | .pop, _ => s.modLane g l fun x => { x.popRec with pc := target }
  | .squash cause, r :: _ =>
    let s := (s.learnFrom g l r).discardLane cause 8 r.inst l
    s.modLane g l fun x => { x.popRec with fd := x.fd - 1, pc := target }
  | .commit, r :: _ => (s.learnFrom g l r).commitLane g l r.inst
  | _, _ => move s

/-- `ret` (R92, R106 to R109). -/
def execRet (sc : BitVec 3) (a : BitVec 6) (s : State) : Out :=
  let i : Instr := .ret sc a
  s.issue i fun s =>
    if s.cur.regOnly then .next s
    else
      let g := s.cur.g
      let bad := s.badTargets i
      let ok := s.cur.lanes &&& ~~~bad
      let target := s.src i .A
      let unit := s.unitRec i
      let cases := (lanesOf ok).map fun l => (l, s.retCase g l (laneOf target l))
      let s := cases.foldl (fun s p => s.retLane g p.1 (laneOf target p.1) p.2) s
      .next ((s.stay bad).faultUnit unit bad (addrTrap cALIGN 0x00 (laneOf target (lowest bad))) false)

/-! ## fsync, fhint -/

/-- `fsync`: a boundary in a continuation, nothing elsewhere (R104, R114). -/
def execFsync (sc : BitVec 3) (s : State) : Out := s.issue (.fsync sc) fun s => .next s

/-- `fsync.sq`: each lane's innermost live record is squashed (R108, R114). -/
def execFsyncSq (sc : BitVec 3) (s : State) : Out :=
  s.issue (.fsyncSq sc) fun s =>
    .next ((lanesOf s.cur.lanes).foldl (fun s l =>
      match (s.lane s.cur.g l).liveRec with
      | some j => s.squashEarly s.cur.g l j
      | none => s) s)

/-- `fhint` (R114). -/
def execFhint (sc : BitVec 3) (a b : BitVec 6) (s : State) : Out :=
  let i : Instr := .fhint sc a b
  s.issue i fun s =>
    let h0 := s.src i .A
    let h1 := s.src i .B
    .next (s.modLanes s.cur.g s.cur.lanes fun l x => { x with hintValid := true, hint0 := laneOf h0 l, hint1 := laneOf h1 l })

end Sys2Proof.Machine
end

