-- ==== Sys2Proof/Machine/Launch.lean ====
section
/-! DEFINITION. The instructions that feed Bracken: `launch`, `gnode`, `tape`, `tcut`, `prio` (R310 to R314). -/

namespace Sys2Proof.Machine

/-! ## Operands and packets -/

/-- Offset and TRY of A, and its reserved bits. -/
def boxOff (a : Nat) : Nat := bits a 0 20
def boxTry (a : Nat) : Bool := bitAt a 32
def boxStray (a : Nat) : Bool := bits a 20 12 != 0 || bits a 33 31 != 0

/-- The unit's bytes of the scratchpad, read once, at its issue. -/
def State.readBox (s : State) (i : Instr) (n : Nat) : State :=
  if s.cur.data.isEmpty then
    let o := boxOff (s.scal i .A).toNat
    { s with cur := { s.cur with data := s.readScratch (s.grp s.cur.g).crew o n } }
  else s

/-- The checks of an offset: its alignment, the window, and poison, before anything has been read (R193) (log entry 30). -/
def State.boxChecks (s : State) (i : Instr) (align n : Nat) : List (Bool × TrapInfo) :=
  let o := BitVec.ofNat 64 (boxOff (s.scal i .A).toNat)
  [(o.toNat % align != 0, addrTrap cALIGN 0x00 o), (decide ((s.crewOf s.cur.g).window < o.toNat + n), addrTrap cPROT 0x04 o),
   (s.boxPoison (s.grp s.cur.g).crew o.toNat n, addrTrap cPOISON 0x00 o)]

/-- The checks of a queue: valid, filled by `launch` where that is asked, of the issuing context (R310, R312) (log entries 30 and 45). -/
def State.queueChecks (s : State) (part : Nat) (d : QDesc) (prod : Bool) : List (Bool × TrapInfo) :=
  let ok := s.queueValid part d
  [(!ok, engTrap 0x90), (prod && !d.prod, engTrap 0x91), (d.ctxid != (s.ctxOf s.cur.g).id.toNat, engTrap 0x92)]

/-- The status that TRY writes where there is no room. -/
def tryStatus : Word := 0x8000000000000000

/-- The queue that D names. -/
def State.queueNo (s : State) (i : Instr) : Nat := bits (s.scal i .D).toNat 0 16

/-- Release, checks, and then the rest; a unit whose release part is done has passed its checks. -/
def State.submitThen (s : State) (i : Instr) (checks : State → List (Bool × TrapInfo)) (rest : State → Out) : Out :=
  s.releaseThen i 3 fun s =>
    if s.cur.rdone then rest s
    else match firstTrap (checks s) with | some t => .next (s.fault i s.cur.lanes t false) | none => rest s

/-! ## launch (R310) -/

def execLaunch (sc : BitVec 3) (d a b : BitVec 6) (s : State) : Out :=
  let i : Instr := .launch sc d a b
  s.issue i fun s =>
    let s := s.readBox i 64
    let part := s.partNo s.cur.g
    let q := s.queueNo i
    let p := launchOf s.cur.data
    let v := (s.scal i .A).toNat
    let checks (s : State) : List (Bool × TrapInfo) :=
      s.boxChecks i 64 64 ++ [(boxStray v || p.malformed, engTrap 0x93)] ++ s.queueChecks part (s.queue part q) true
    s.submitThen i checks fun s =>
      let d := s.queue part q
      if d.full then
        if boxTry v then .next (s.finish i b (uniResult tryStatus) s.cur.lanes) else .next (s.await i true)
      else
        match s.ringVoid part d d.wptr with
        | some pa => .fault (.noDram pa)
        | none =>
          let bs := s.cur.data
          let s := (s.putPacket part d d.wptr bs).putQueueWord part q 3 (d.wptr + 1)
          .next (s.finish i b (uniResult (BitVec.ofNat 64 d.wptr)) s.cur.lanes)

/-! ## gnode (R311) -/

/-- The operands and the predecessors of a node record. -/
def nodeOps (bs : List Byte) : List Word := (List.range 8).map fun j => BitVec.ofNat 64 (leNat ((bs.drop (64 + 8 * j)).take 8))
def nodePreds (bs : List Byte) : List Nat := (List.range 8).map fun j => leNat ((bs.drop (128 + 4 * j)).take 4)

/-- Two operands name one tile, and one of them is written. -/
def tileMeets (a b : Word) : Bool := bitAt a.toNat 0 && bitAt b.toNat 0 && bits a.toNat 8 56 == bits b.toNat 8 56 && (bitAt a.toNat 1 || bitAt b.toNat 1)

/-- The nodes of the pool that a new node of a context waits on. -/
def Partition.nodeWaits (p : Partition) (ctx : Nat) (ops : List Word) (preds : List Nat) : List (Nat × Nat) :=
  (p.nodes.filter fun n =>
    preds.any (fun h => h != 0xFFFFFFFF && bits h 0 14 == n.idx && bits h 14 18 == n.gen % 2 ^ 18) ||
      (n.ctx == ctx && ops.any fun a => n.ops.any fun b => tileMeets a b)).map fun n => (n.idx, n.gen)

/-- `gnode`. Its checks are those of R310, with that of PROD among them, though the table of sub-causes names `launch` alone there (DEDUCED, log
entry 45) (log entry 45). -/
def execGnode (sc : BitVec 3) (d a b : BitVec 6) (s : State) : Out :=
  let i : Instr := .gnode sc d a b
  s.issue i fun s =>
    let s := s.readBox i 160
    let part := s.partNo s.cur.g
    let q := s.queueNo i
    let bs := s.cur.data
    let p := launchOf bs
    let ops := nodeOps bs
    let v := (s.scal i .A).toNat
    let bad := boxStray v || p.malformed || p.ordq || ops.any fun o => bits o.toNat 2 6 != 0
    let checks (s : State) : List (Bool × TrapInfo) :=
      s.boxChecks i 32 160 ++ [(bad, engTrap 0x93)] ++ s.queueChecks part (s.queue part q) true
    s.submitThen i checks fun s =>
      match (s.part part).freeNode with
      | none => if boxTry v then .next (s.finish i b (uniResult tryStatus) s.cur.lanes) else .next (s.await i true)
      | some k =>
        let gen := (s.part part).genOf k
        let ctx := s.ctxNo s.cur.g
        let level := (s.queue part q).level
        let s := s.modPart part fun r =>
          { r with
            nodes := r.nodes ++ [⟨k, gen, ctx, level, r.nodeCount, p, ops, r.nodeWaits ctx ops (nodePreds bs), false, none⟩]
            nodeCount := r.nodeCount + 1 }
        .next (s.finish i b (uniResult (BitVec.ofNat 64 (k + 2 ^ 14 * (gen % 2 ^ 18)))) s.cur.lanes)

/-! ## tape and tcut (R312) -/

def tapeOff (c : Context) : Bool := c.tapeLog == 0

def execTapePush (sc : BitVec 3) (a : BitVec 6) (s : State) : Out :=
  let i : Instr := .tapePush sc a
  s.issue i fun s =>
    let s := s.readBox i 64
    let p := launchOf s.cur.data
    let v := (s.scal i .A).toNat
    let checks (s : State) : List (Bool × TrapInfo) :=
      let c := s.ctxOf s.cur.g
      s.boxChecks i 64 64 ++
        [(boxStray v || boxTry v || p.malformed || p.ordq, engTrap 0x93), (tapeOff c, engTrap 0x98),
         (c.tapeDepth == 2 ^ c.tapeLog, engTrap 0x97), (c.tapeRun.isSome, engTrap 0x96)]
    s.submitThen i checks fun s =>
      let c := s.ctxOf s.cur.g
      let pa := c.tapeAt c.tapeDepth
      match s.beyond c.part pa 64 with
      | some pa => .fault (.noDram pa)
      | none =>
        let s := s.physWrite c.part pa s.cur.data
        .next (s.modCtx (s.ctxNo s.cur.g) fun c => { c with tapeDepth := c.tapeDepth + 1 })

def execTapeRun (sc : BitVec 3) (d a : BitVec 6) (s : State) : Out :=
  let i : Instr := .tapeRun sc d a
  s.issue i fun s =>
    let c := s.ctxOf s.cur.g
    let m := (s.scal i .A).toNat
    let q := s.queue c.part (s.queueNo i)
    let checks :=
      [(tapeOff c, engTrap 0x98), (decide (c.tapeDepth < m), engTrap 0x95), (c.tapeRun.isSome, engTrap 0x96)] ++ s.queueChecks c.part q false
    match firstTrap checks with
    | some t => .next (s.fault i s.cur.lanes t false)
    | none =>
      let run : Option TapeRun := if m == c.tapeDepth then none else some ⟨m, q.level, none⟩
      .next (s.modCtx (s.ctxNo s.cur.g) fun c => { c with tapeRun := run })

def execTapeDepth (sc : BitVec 3) (a : BitVec 6) (s : State) : Out :=
  let i : Instr := .tapeDepth sc a
  s.issue i fun s =>
    let c := s.ctxOf s.cur.g
    if tapeOff c then .next (s.fault i s.cur.lanes (engTrap 0x98) false)
    else .next (s.finish i a (uniResult (BitVec.ofNat 64 c.tapeDepth)) s.cur.lanes)

def execTcut (sc : BitVec 3) (a : BitVec 6) (s : State) : Out :=
  let i : Instr := .tcut sc a
  s.issue i fun s =>
    let c := s.ctxOf s.cur.g
    let m := (s.scal i .A).toNat
    match firstTrap [(tapeOff c, engTrap 0x98), (c.tapeRun.isSome, engTrap 0x96)] with
    | some t => .next (s.fault i s.cur.lanes t false)
    | none => .next (s.modCtx (s.ctxNo s.cur.g) fun c => { c with tapeDepth := min c.tapeDepth m })

/-! ## prio (R313) -/

def execPrio (sc : BitVec 3) (a : BitVec 6) (s : State) : Out :=
  let i : Instr := .prio sc a
  s.issue i fun s =>
    let sub := bits (s.scal i .A).toNat 0 3
    .next (s.modGrp s.cur.g fun gr => { gr with prio := BitVec.ofNat 64 (bits gr.prio.toNat 0 5 + 2 ^ 5 * sub) })

end Sys2Proof.Machine
end

