-- ==== Sys2Proof/Machine/RoomCalls.lean ====
section
/-! DEFINITION. The room instructions: `rdecl`, `enter`, `enter.try`, `leave`, `rstat` (R197 to R204), and the end of a wait at a
room entry by a trap (R208, R210). -/

namespace Sys2Proof.Machine

/-- The unit being issued for some of its lanes only. -/
def State.only (s : State) (ls : Lanes) : State := { s with cur := { s.cur with lanes := ls } }

/-! ## rdecl (R197, R198, R216) -/

/-- The entry that `rdecl` describes. -/
def regionOf (d base b : Word) : Region :=
  let x := b.toNat
  { base := base, lines := bits x 0 16 + 1, modes := BitVec.ofNat 5 (bits x 16 5), etype := bits x 21 2, aop := bits x 23 3,
    sent := BitVec.ofNat 32 (bits d.toNat 32 32), w := bits x 26 16, tmo := bits x 42 16, open_ := none, admitting := false,
    window := none, demands := [], head := 0, tail := 0, incomplete := false, broken := false, drain := false }

/-- A field of the declaration is reserved and not zero, or names no element type or operator. -/
def regionBad (d b : Word) (r : Region) : Bool :=
  let queue := r.modes.getLsbD 1 || r.modes.getLsbD 2 || r.modes.getLsbD 3
  bits d.toNat 16 16 != 0 || bits b.toNat 58 6 != 0 ||
    (queue && (r.etype == 3 || decide (5 < r.aop) || (r.etype == 2 && decide (2 < r.aop))))

/-- The first page of a span of lines that may not hold a region, in the order of the checks: an unmapped page anywhere before an
unsuitable one. -/
def State.spanFault (s : State) (quad ctx base lines : Nat) : Except Nat (Option TrapInfo) :=
  let n := (base + 256 * lines - 1) / 65536 + 1 - base / 65536
  let at_ := (List.range n).map fun k => max base (65536 * (base / 65536 + k))
  let ws := at_.map fun va => (va, if 2 ^ 52 ≤ va then Walk.fault 0x01 else s.xlate quad ctx va)
  match ws.findSome? fun p => match p.2 with | .void pa => some pa | _ => none with
  | some pa => .error pa
  | none =>
    let page := ws.findSome? fun p => match p.2 with | .fault c => some (addrTrap cPAGE c (BitVec.ofNat 64 p.1)) | _ => none
    let prot := ws.findSome? fun p =>
      match p.2 with
      | .page x =>
        if x.attr != 0 then some (addrTrap cPROT 0x04 (BitVec.ofNat 64 p.1))
        else if !x.w then some (addrTrap cPROT 0x01 (BitVec.ofNat 64 p.1)) else none
      | _ => none
    .ok (page.orElse fun _ => prot)

/-- A span of bytes meets another declared region of the context, or a tile's interior. -/
def Context.spanTaken (c : Context) (no lo n : Nat) : Bool :=
  c.regions.any (fun p => p.1 != no && decide (lo < p.2.base.toNat + 256 * p.2.lines) && decide (p.2.base.toNat < lo + n)) ||
    c.halos.any fun t => (List.range t.2.rows).any fun q =>
      let a := t.2.base.toNat + 32 * t.2.pitch * q
      decide (lo < a + 32 * t.2.rlen) && decide (a < lo + n)

/-- The trap that a declaration raises (R198). -/
def State.rdeclFault (s : State) (quad ctx no : Nat) (d b : Word) (r : Region) : Except Nat (Option TrapInfo) :=
  let cx := s.ctx ctx
  if r.base.toNat % 256 != 0 then .ok (some (addrTrap cALIGN 0x00 r.base))
  else if regionBad d b r then .ok (some (plainTrap cENGINE 0x30))
  else if s.occupants ctx no != 0 || (cx.region no).any (fun q => !q.demands.isEmpty) then .ok (some (plainTrap cENGINE 0x31))
  else
    match s.spanFault quad ctx r.base.toNat r.lines with
    | .error pa => .error pa
    | .ok (some t) => .ok (some t)
    | .ok none => .ok (if cx.spanTaken no r.base.toNat (256 * r.lines) then some (plainTrap cENGINE 0x32) else none)

/-- The sectors of a span of virtual lines carry no marks (R220). -/
def State.unmarkSpan (s : State) (ctx base lines : Nat) : State :=
  let runs := s.spanRuns ctx base lines
  let part := (s.ctx ctx).part
  { s with marks := s.marks.filter fun m => m.1 / 2 ^ 43 != part || !inRuns runs (m.1 % 2 ^ 43 / 8) }

/-- The entry replaced or released: the open room drains first (R198, R216); the lines declared keep no marks (R220). -/
def State.install (s : State) (ctx no : Nat) (r : Region) : State :=
  let s := if ((s.ctx ctx).region no).any (fun q => q.open_.isSome) then s.drainRegion ctx no else s
  let s := s.modCtx ctx fun c => { c with regions := if r.modes == 0 then drop no c.regions else put no r c.regions }
  let s := if r.modes == 0 then s else s.unmarkSpan ctx r.base.toNat r.lines
  s.invalidateSpan ctx r.base.toNat r.lines

def execRdecl (sc : BitVec 3) (d a b : BitVec 6) (s : State) : Out :=
  let i : Instr := .rdecl sc d a b
  s.issue i fun s =>
    let g := s.cur.g
    if !s.cur.rdone && !s.mayRelease i then .next (s.await i false)
    else
      let s := if s.cur.rdone then s else s.release g 3
      let ag := s.agent g
      let dv := s.scal i .D
      let no := bits dv.toNat 0 16
      let r := regionOf dv (s.scal i .A) (s.scal i .B)
      match s.rdeclFault ag.quad ag.ctx no dv (s.scal i .B) r with
      | .error pa => .fault (.noDram pa)
      | .ok (some t) => .next (s.fault i s.cur.lanes t false)
      | .ok none => .next (s.install ag.ctx no r)

/-! ## enter (R202) -/

/-- What `enter` of a region makes of a lane. -/
inductive Entry where
  | fault (cause sub : BitVec 8)
  /-- The status to be written. -/
  | status (n : Nat)
  | letIn
  | park
deriving DecidableEq, Repr

/-- The outcome of an entry, in the order of R202. -/
def State.entryOf (s : State) (ctx g l : Nat) (r : Nat) (mode : Nat) (try_ : Bool) : Entry :=
  let holds := (s.lane g l).holds
  match (s.ctx ctx).region r with
  | none => .fault cROOMMODE 0x02
  | some q =>
    if !q.modes.getLsbD mode then .fault cROOMMODE 0x02
    else if 4 ≤ holds.length then .fault cROOMHOLDS 0x01
    else if holds.any fun h => decide (r ≤ h.region) then .fault cROOMORDER 0x01
    else if q.broken then (if try_ then .status 2 else .fault cROOMBROKEN 0x01)
    else if s.admits ctx r mode then .letIn
    else if try_ then .status 1
    else .park

/-- The limit of a wait, as it begins (R208). -/
def State.waitLimit (s : State) (ctx r : Nat) : Nat :=
  match (s.ctx ctx).region r with
  | some q => if q.tmo == 0 then bits (s.ctx ctx).roomtmo.toNat 0 32 else 1024 * q.tmo
  | none => 0

/-- A lane parks at a room entry (R80, R202). -/
def State.parkLane (s : State) (ctx g l r mode : Nat) (d : BitVec 6) (u : UnitRec) : State :=
  let limit := s.waitLimit ctx r
  let s := s.modLane g l fun x =>
    { x with mode := .parked, park := some ⟨r, mode, d, u.narrow (oneLane l), 0, limit, x.mode == .handler⟩ }
  s.demand ctx r g l mode

/-- What the entries of a unit come to: the state, the statuses, and the faults. -/
structure Entries where
  s : State
  done : List (Nat × Nat)
  bad : List (Nat × BitVec 8 × BitVec 8)

/-- One lane's entry. -/
def Entries.step (i : Instr) (u : UnitRec) (d : BitVec 6) (mode : Nat) (try_ : Bool) (acc : Entries) (l : Nat) : Entries :=
  let s := acc.s
  let g := s.cur.g
  let ctx := s.ctxNo g
  let r := (s.srcLane i .A l).toNat
  match s.entryOf ctx g l r mode try_ with
  | .fault c e => { acc with bad := acc.bad ++ [(l, c, e)] }
  | .status n => { acc with done := acc.done ++ [(l, n)] }
  | .letIn => { acc with s := (s.openFor ctx r mode).admitLane ctx r g l mode, done := acc.done ++ [(l, 0)] }
  | .park => { acc with s := s.parkLane ctx g l r mode d u }

/-- `enter` and `enter.try`, lane by lane in ascending order. -/
def State.enterOp (s : State) (i : Instr) (d : BitVec 6) (mode : Nat) (try_ : Bool) : Out :=
  let g := s.cur.g
  let u := s.unitRec i
  let acc := (lanesOf s.cur.lanes).foldl (Entries.step i u d mode try_) ⟨s, [], []⟩
  let done := lanesWhere fun l => (look acc.done l).isSome
  let bad := lanesWhere fun l => acc.bad.any fun b => b.1 == l
  let t := acc.s.acquireMarks g (s.cur.lanes &&& ~~~bad)
  let t := t.writeReg g d (laneResult done fun l => BitVec.ofNat 64 ((look acc.done l).getD 0))
  .next (t.faultRec u bad (acc.bad.head?.map fun b => addrTrap b.2.1 b.2.2 (s.srcLane i .A b.1)))

def execEnter (sc : BitVec 3) (d a : BitVec 6) (m : BitVec 3) (s : State) : Out :=
  let i : Instr := .enter sc d a m
  s.issue i fun s => s.enterOp i d m.toNat false

def execEnterTry (sc : BitVec 3) (d a : BitVec 6) (m : BitVec 3) (s : State) : Out :=
  let i : Instr := .enterTry sc d a m
  s.issue i fun s => s.enterOp i d m.toNat true

/-! ## leave, rstat (R203, R204) -/

def execLeave (sc : BitVec 3) (a : BitVec 6) (s : State) : Out :=
  let i : Instr := .leave sc a
  s.issue i fun s =>
    let g := s.cur.g
    let ctx := s.ctxNo g
    let u := s.unitRec i
    let bad := lanesWhere fun l => s.cur.lanes.getLsbD l && ((s.lane g l).holdOf (s.srcLane i .A l).toNat).isNone
    let ok := s.cur.lanes &&& ~~~bad
    let trap := if bad == 0 then none else some (addrTrap cROOMLESS 0x02 (s.srcLane i .A (lowest bad)))
    let all := s.cur.lanes
    let t :=
      if ok == 0 then s
      else if !s.cur.rdone && !(s.only ok).mayRelease i then ((s.only ok).await i false).only all
      else
        let t := if s.cur.rdone then s else s.release g 3
        (lanesOf ok).foldl (fun t l => t.leaveRoom ctx (s.srcLane i .A l).toNat g l) t
    .next (t.faultRec u bad trap)

def execRstat (sc : BitVec 3) (d a : BitVec 6) (s : State) : Out :=
  let i : Instr := .rstat sc d a
  s.issue i fun s =>
    let ctx := s.ctxNo s.cur.g
    .next (s.writeReg s.cur.g d (laneResult s.cur.lanes fun l => s.roomReport ctx (s.srcLane i .A l).toNat))

/-! ## Waits that end in a trap (R208, R209, R210) -/

/-- A parked lane's demand is withdrawn, and the lane raises a cause at its `enter`. -/
def State.unpark (s : State) (g l : Nat) (cause sub : BitVec 8) : State :=
  match (s.lane g l).park with
  | none => s
  | some p =>
    let s := s.withdraw (s.ctxNo g) p.region g l
    let i := p.unit.iss
    s.raise ⟨g, oneLane l, addrTrap cause sub (BitVec.ofNat 64 p.region), some p.unit, true, true, i.word, i.pword, i.addr⟩

/-- ROOMWAIT_TIMEOUT: the limit of a resident group's parked lane is reached (R208). -/
def execRoomwaitTimeout (g lane : Nat) (s : State) : Out :=
  match (s.lane g lane).park with
  | some p =>
    if (s.grp g).place == .resident && p.limit != 0 && decide (p.limit ≤ p.count) then .next (s.unpark g lane cROOMWAIT 0x01) else .next s
  | none => .next s

end Sys2Proof.Machine
end

