-- ==== Sys2Proof/Machine/Scoreboard.lean ====
section
/-! DEFINITION. What holds a unit at its issue, and in which order the units in flight are performed (R52, R83, R100, R106, R145, R147,
R162, R163, R201, R215, R226, R227, R316; log entries 4 and 39). -/

namespace Sys2Proof.Machine

/-! ## Units in flight -/

/-- The units that may complete later than they issue: special functions, `fdot`, `tmv`, the cross-lane units of variable latency, and
the accesses of memory (R51, R316). -/
def deferrable (i : Instr) : Bool :=
  let l := i.laneOp
  let u := i.uniOp
  !i.rt && ((0x068 ≤ l && l ≤ 0x06F) || l == 0x071 || l == 0x073 || l == 0x0A1 || l == 0x0A3 || l == 0x0A5 || l == 0x0A6 ||
    (0x0C0 ≤ l && l ≤ 0x0C5) || (0x0E0 ≤ l && l ≤ 0x0E2) || u == 0x0C0 || u == 0x0C1)

/-- The units that can be held after their issue: those, and what else reads and writes memory, scratchpad or buffers, the room instructions, and
the engine, collective and scheduling commands (R316). -/
def holdable (i : Instr) : Bool :=
  deferrable i || (engineOf i).isSome || (match i with
    | .prf _ _ _ _ _ | .pin _ _ _ _ _ | .unpin _ _ _ _ _ | .sinv _ _ _ _ | .swb _ _ _ _ | .swbInv _ _ _ _ => true
    | .pbarInit _ _ _ | .tdef _ _ _ | .cbdef _ _ _ _ | .cbadvPut _ _ _ | .cbadvGet _ _ _ => true
    | .enter _ _ _ _ | .enterTry _ _ _ _ | .leave _ _ | .rstat _ _ _ | .rdecl _ _ _ _ | .hdef _ _ _ _ => true
    | .launch _ _ _ _ | .gnode _ _ _ _ | .tapePush _ _ | .tapeRun _ _ _ | .tapeDepth _ _ | .tcut _ _ | .prio _ _ => true
    | .ectxBind _ _ _ | .ectxUnbind _ _ | .ectxDrain _ _ | .ectxPin _ _ | .ectxUnpin _ _ | .ectxResume _ _ | .ectxAbort _ _ => true
    | _ => false)

/-- A load or a prefetch, which is not held by an older unit that may still fault (R316). -/
def readsOnly (i : Instr) : Bool :=
  match i with
  | .ld _ _ _ _ _ _ | .ldl _ _ _ _ _ _ | .lds _ _ _ _ _ | .ldc _ _ _ _ _ | .prf _ _ _ _ _ | .sld _ _ _ _ _ | .tmv _ _ _ _ _ => true
  | _ => false

/-- A store, an atomic, a room instruction, a command, or another unit with an effect outside its lanes: it is not performed while an
older unit of its lanes may still fault (R316). -/
def heldByOlder (i : Instr) : Bool := reachesOut i && !readsOnly i

/-- A unit whose faults are not decided may still fault: every one but a computation without NFT (R77, R316). -/
def mayFault (u : UnitRec) : Bool :=
  let l := u.instr.laneOp
  u.iss.left.isNone && (!((0x068 ≤ l && l ≤ 0x06F) || l == 0x071) || u.iss.nft)

/-! ## Footprints (R163, R201, R227) -/

/-- What a unit reads or writes of a space: some sectors, or, where `secs` is absent, any. -/
structure Foot where
  space : Nat
  secs : Option (List Nat)
  write : Bool
deriving DecidableEq, Repr

/-- The numbers under which sectors of a space are compared: in device memory within the smallest page, since two addresses may name one
sector. -/
def footSecs (space : Nat) (secs : List Nat) : List Nat := if space == 0 then secs.map fun n => n % 2048 else secs

/-- Elements as a footprint; those in a declared region may take or append ring elements (R201). -/
def State.eltFoot (s : State) (space : Nat) (write : Bool) (elts : List Elt) : List Foot :=
  if elts.isEmpty then []
  else if space == 0 && elts.any fun x => ((s.ctx (s.ctxNo s.cur.g)).regionAt x.va).isSome then [⟨0, none, true⟩]
  else [⟨space, some (footSecs space (sectorsOf elts)), write⟩]

/-- The footprints of a unit, by the operands captured at its issue. A prefetch is no access (R166), and a `tmv` may go ahead of an `sst`
that it has not acquired (R144; DESIGN CHOICE, log entry 60). -/
def State.foot (s : State) (u : UnitRec) : List Foot :=
  let s := { s with cur := u.iss }
  let i := u.instr
  match formOf i with
  | some f => s.eltFoot f.space f.load.isNone (s.formElts i f)
  | none =>
    match i with
    | .sld _ _ _ _ _ | .sst _ _ _ _ _ =>
      (match spaceOf (s.scal i .A) with
       | some sp => s.eltFoot sp (i.uniOp == 0x0C1) [s.uniElt (s.scal i .A) 0]
       | none => [])
    | .atom _ _ _ _ _ _ | .acas _ _ _ _ _ _ | .abinc _ _ _ _ _ _ => s.eltFoot 0 true (s.atomicElts i)
    | .pin _ _ _ _ _ | .unpin _ _ _ _ _ =>
      [⟨0, some (footSecs 0 ((List.range 8).map fun k => s.pinAddr i / 256 * 8 + k)), true⟩]
    | .rett _ => [⟨0, none, false⟩]
    | .sinv _ _ _ _ | .swb _ _ _ _ | .swbInv _ _ _ _ | .hdef _ _ _ _ | .rdecl _ _ _ _ => [⟨0, none, true⟩]
    | .pbarInit _ _ _ | .pbarArrive _ _ | .pbarWait _ _ _ | .tdef _ _ _ | .cbdef _ _ _ _ => [⟨1, none, true⟩]
    | .launch _ _ _ _ | .gnode _ _ _ _ | .tapePush _ _ => [⟨1, none, false⟩]
    | _ => if i.rt && i.consumers.getLsbD 1 then [⟨1, none, true⟩] else []

/-- Two footprints of units that keep their order: any accesses of scratchpad (R227), and accesses of one sector elsewhere (R163). -/
def Foot.clash (a b : Foot) : Bool :=
  a.space == b.space && (a.space == 1 || (match a.secs, b.secs with | some x, some y => x.any y.contains | _, _ => true))

/-- The accesses of two units keep their order: they meet, and the units are not of two sets that issued in one cycle (R163, R227). -/
def State.accessesMeet (s : State) (v u : UnitRec) : Bool :=
  !(v.iss.lanes &&& u.iss.lanes == 0 && v.iss.cycle == u.iss.cycle) && (let b := s.foot u; !b.isEmpty && (s.foot v).any fun x => b.any x.clash)

/-- A unit is performed after an older one in flight. -/
def State.mustFollow (s : State) (v u : UnitRec) : Bool :=
  (v.iss.lanes &&& u.iss.lanes != 0 && heldByOlder u.instr && mayFault v) || s.accessesMeet v u

/-- A unit is performed after an older wait: of its lanes, that may still fault; or an arrival at a barrier word, which has still to write
the scratchpad (R218, R227). -/
def State.followsWait (s : State) (w u : UnitRec) : Bool :=
  (w.iss.lanes &&& u.iss.lanes != 0 && holdsOf w == .follow && heldByOlder u.instr) ||
    (match w.instr with | .pbarArrive _ _ => s.accessesMeet w u | _ => false)

/-- A unit must let older ones of its group go first. -/
def State.mustQueue (s : State) (u : UnitRec) : Bool :=
  let gr := s.grp u.iss.g
  gr.units.any (fun v => s.mustFollow v u) || gr.waits.any fun w => s.followsWait w u

/-- The units in flight that can be performed now, the oldest first. -/
def State.eligible (s : State) (g : Nat) : List UnitRec :=
  let gr := s.grp g
  if gr.place != .resident then []
  else
    gr.units.filter fun u =>
      u.iss.left.isSome ||
        !(gr.units.any (fun v => decide (v.iss.seq < u.iss.seq) && s.mustFollow v u) ||
          gr.waits.any fun w => decide (w.iss.seq < u.iss.seq) && s.followsWait w u)

/-- The unit that completes next: the one that the head of the list of picks names, the oldest by default (log entry 1). -/
def State.nextUnit (s : State) (g : Nat) : Option UnitRec :=
  let us := s.eligible g
  match us[(s.sched.picks.head?).getD 0 % (max us.length 1)]? with
  | some u => some u
  | none => us.head?

/-! ## Interlocks -/

/-- The registers of an operand. -/
def Operand.regs (o : Operand) : List Nat := (List.range o.run).map fun j => o.spec.toNat + j

/-- A unit in flight, or a wait, still writes a register or mask that a unit reads or writes (R52). -/
def regHazard (v : UnitRec) (i : Instr) : Bool :=
  let d := v.instr.dests.flatMap Operand.regs
  let r := (i.sources ++ i.dests).flatMap Operand.regs
  let md := v.instr.maskDest
  d.any (fun x => x < 56 && r.contains x) || (md != 0 && (i.maskDest == md || i.maskSources.contains md)) ||
    (match i with | .call _ _ | .fcall _ _ _ _ => d.contains 55 | _ => false)

/-- An earlier write of a mask register that a unit reads or writes is not yet performed (R52). -/
def Group.maskHazard (gr : Group) (now : Nat) (i : Instr) : Bool :=
  gr.fix.any fun p => decide (now < p.avail) &&
    (match p.dest with
     | .mask k => k != 0 && (i.maskDest == k || i.maskSources.contains k)
     | .reg _ => false)

/-- A pipe that a unit needs is occupied: the cross-lane network, or the vector pipe by a `tmv` of another group (R145, R147). -/
def State.pipeHazard (s : State) (g : Nat) (i : Instr) : Bool :=
  let ls := (s.grp g).laneSet
  i.latency.isSome && s.busy.any fun b => b.laneSet == ls && decide (s.now < b.till) &&
    (if b.vector then i.pipe == .vector && b.g != g else netCycles i != 0)

/-- The unsettled units of a group: in flight, waiting, and parked at a room entry (R316). -/
def Group.unsettled (gr : Group) : Nat :=
  let parks := (List.range 32).filterMap fun l => (gr.lane l).park.map fun p => p.unit.iss.seq
  gr.units.length + gr.waits.length + (parks.foldl (fun acc n => addNo n acc) []).length

/-- A unit in flight, or a wait, may still write a register or mask of some lanes. -/
def mayWrite (v : UnitRec) (lanes : Lanes) : Bool :=
  (v.iss.lanes &&& lanes != 0 || decide (v.instr.uniOp < 0x400)) && (!v.instr.dests.isEmpty || v.instr.maskDest != 0)

/-- A `ret` that may resolve a live record waits for every outstanding write to its return registers (R52, R106), and for every unit of the
lane in flight or waiting: its stores come before the held ones, its acquires mark the record, and no write of it lands in the committed
lane (R106, R107, R109, R110). -/
def Group.retHazard (gr : Group) (now : Nat) (lanes : Lanes) : Bool :=
  (lanesOf lanes).any fun l =>
    match (gr.lane l).recs with
    | [] => false
    | r :: _ =>
      let is (spec : BitVec 6) : Bool := spec.toNat < 56 && (spec == r.r1 || spec == r.r2)
      !r.squashed && r.nest == 0 &&
        (gr.fix.any (fun p => decide (now < p.avail) && (match p.dest with | .reg d => is d | .mask _ => false)) ||
          (gr.units ++ gr.waits).any fun u => u.iss.lanes.getLsbD l || mayWrite u (oneLane l))

/-- The end of a lane, and the copy that a fork makes of it, wait for every unit that may still write the lane (R97, R100). -/
def endHazard (v : UnitRec) (i : Instr) (lanes : Lanes) : Bool :=
  match i with
  | .exit _ | .fcall _ _ _ _ => v.iss.lanes &&& lanes != 0 || mayWrite v lanes
  | _ => false

/-- The copy that a fork makes waits for the results of waiting units too (R52, R100). -/
def copyHazard (w : UnitRec) (i : Instr) (lanes : Lanes) : Bool := match i with | .fcall _ _ _ _ => mayWrite w lanes | _ => false

/-- A room instruction that is held after its issue: a later unit of its lanes waits behind an `enter`, which may park them, and a later room
instruction behind a `leave` (R202, R215). -/
def roomHazard (v : UnitRec) (i : Instr) : Bool :=
  match v.instr with
  | .enter _ _ _ _ | .enterTry _ _ _ _ => true
  | .leave _ _ => isRoom i
  | _ => false

/-- The tensor entries that a command names (R246). -/
def State.tensorsNamed (s : State) (i : Instr) : List Nat :=
  match i with
  | .cpyx _ _ _ _ => [bits (s.scalAt i .B 0).toNat 16 8]
  | .mmas _ _ _ _ => [bits (s.scalAt i .A 0).toNat 16 8, bits (s.scalAt i .A 2).toNat 0 8]
  | .mld _ _ _ _ | .mma _ _ _ _ _ | .mwb _ _ _ _ | .ixg _ _ _ _ | .ixs _ _ _ _ => [bits (s.scalAt i .A 0).toNat 16 8]
  | _ => []

/-- The buffers that an instruction names (R242 to R245). -/
def State.bufsNamed (s : State) (i : Instr) : List Nat :=
  let a (j : Nat) : Nat := (s.scalAt i .A j).toNat
  match i with
  | .cbadvWroom _ d _ | .cbadvPut _ d _ | .cbadvWdata _ d _ | .cbadvGet _ d _ | .cbdef _ d _ _ => [d.toNat]
  | .cpy _ _ _ _ => ([a 0, a 1].filter fun w => bits w 52 3 == 3).map fun w => bits w 0 4
  | .cpyx _ _ _ _ => let w := (s.scalAt i .B 1).toNat; if bitAt w 20 then [bits w 0 4] else []
  | .mld _ _ _ _ | .mma _ _ _ _ _ | .mmas _ _ _ _ | .mwb _ _ _ _ | .ixg _ _ _ _ | .ixs _ _ _ _ => if bitAt (a 0) 6 then [bits (a 0) 24 4] else []
  | _ => if i.rt && i.consumers.getLsbD 1 then [i.rawX] else []

/-- A `tdef` or `cbdef` of the group whose entry is not yet installed holds every later instruction that names the same tensor or buffer
(R274). -/
def State.nameHazard (s : State) (v u : UnitRec) : Bool :=
  match v.instr with
  | .tdef _ _ _ =>
    let t := bits (({ s with cur := v.iss }).scal v.instr .D).toNat 0 16
    let at_ := { s with cur := u.iss }
    (at_.tensorsNamed u.instr).contains t || (match u.instr with | .tdef _ _ _ => bits (at_.scal u.instr .D).toNat 0 16 == t | _ => false)
  | .cbdef _ d _ _ => (({ s with cur := u.iss }).bufsNamed u.instr).contains d.toNat
  | _ => false

/-- A unit about to issue is held (R52, R83). The register that a parked `enter` has still to write is interlocked like any other (R146). -/
def State.held (s : State) (u : UnitRec) : Bool :=
  let gr := s.grp u.iss.g
  let i := u.instr
  let ls := u.iss.lanes
  gr.maskHazard s.now i || s.pipeHazard u.iss.g i ||
    gr.units.any (fun v => regHazard v i || endHazard v i ls || s.nameHazard v u || (v.iss.lanes &&& ls != 0 && roomHazard v i)) ||
    gr.waits.any (fun w => regHazard w i || copyHazard w i ls || (w.iss.lanes &&& ls != 0 && holdsNext w i)) ||
    gr.lanes.any (fun x => x.park.any fun p => regHazard p.unit i) ||
    (i.latency.isNone && decide (8 ≤ gr.unsettled)) || (match i with | .ret _ _ => gr.retHazard s.now ls | _ => false) ||
    (!holdable i && s.mustQueue u)

/-- Nothing of the group can hold a unit. -/
def State.free (s : State) (g : Nat) : Bool :=
  let gr := s.grp g
  gr.fix.isEmpty && gr.units.isEmpty && gr.waits.isEmpty && s.busy.isEmpty && (gr.inMode .parked) == 0

/-! ## Issue of a unit that completes later -/

/-- The store of a callee lane joins the write sets when it issues (R106). -/
def State.joinAtIssue (s : State) (i : Instr) : State :=
  match formOf i with
  | some f => if f.load.isNone then s.joinStore s.cur.g f.space i.eb s.cur.lanes (s.formElts i f) else s
  | none =>
    match i with
    | .sst _ _ _ _ z =>
      (match spaceOf (s.scal i .A) with
       | some sp => (lanesOf s.cur.lanes).foldl (fun t l => t.joinWrites s.cur.g l (eltSectors sp (2 ^ z.toNat) [s.uniElt (s.scal i .A) 0])) s
       | none => s)
    | _ => s

/-- The elements by which an access reaches device memory. -/
def State.memElts (s : State) (i : Instr) : List Elt :=
  match formOf i with
  | some f => if f.space == 0 then s.formElts i f else []
  | none =>
    match i with
    | .prf _ _ _ _ _ => s.sweep i (s.sweepBase i i.eb) 0
    | .atom _ _ _ _ _ _ | .acas _ _ _ _ _ _ | .abinc _ _ _ _ _ _ => s.atomicElts i
    | .pin _ _ _ _ _ | .unpin _ _ _ _ _ => [⟨0, 0, s.pinAddr i, 0⟩]
    | .sld _ _ _ _ _ | .sst _ _ _ _ _ => if spaceOf (s.scal i .A) == some 0 then [s.uniElt (s.scal i .A) 0] else []
    | _ => []

/-- The translations of the lines that a unit touches, taken at its issue (R182). -/
def State.unitWalks (s : State) (i : Instr) : List (Nat × Walk) :=
  let a := s.agent s.cur.g
  ((eltLines (s.memElts i)).filter fun ln => decide (256 * ln < 2 ^ 52)).map fun ln => (ln, s.xlate a.quad a.ctx (256 * ln))

/-- A unit that issues now and is performed later (R316), with the tensor entries that it names as they stand now (R246); `none` where its gate
does not let it pass. -/
def State.deferUnit (s : State) (i : Instr) : Option State :=
  let s := s.begin i
  match s.gate i with
  | .pass =>
    if i.rt then none
    else
      let u := s.unitRec i
      let s := (s.passed i).joinAtIssue i
      let w := s.unitWalks i
      let ents := (s.tensorsNamed i).map fun t => (t, look (s.ctxOf s.cur.g).tensors t)
      some (s.modGrp s.cur.g fun gr => { gr with units := gr.units ++ [{ u with iss := { u.iss with late := true, walks := w, ents := ents } }] })
  | _ => none

end Sys2Proof.Machine
end

