-- ==== Sys2Proof/Machine/System.lean ====
section
/-! DEFINITION. Software traps, the return from a trap, the trap mask, the system registers, the decode table and `sysc` (R322, R323, R329 to
R335). -/

namespace Sys2Proof.Machine

/-! ## trap, rett, tmask (R322, R331, R332) -/

def execTrap (sc : BitVec 3) (c : BitVec 8) (s : State) : Out :=
  let i : Instr := .trap sc c
  s.issue i fun s => .next (s.breakTrap i cSWTRAP 3 c)

def execRett (sc : BitVec 3) (s : State) : Out :=
  let i : Instr := .rett sc
  s.issue i fun s =>
    if (s.lane s.cur.g (lowest s.cur.lanes)).inHandler then s.returnTrap i s.cur.lanes
    else .next (s.fault i s.cur.lanes (plainTrap cILLEGAL 0x06) false)

/-- A form of `tmask`: the new mask from the old one and A, and the old one for D. -/
def State.tmask (s : State) (i : Instr) (d : BitVec 6) (f : Word → Word → Word) : State :=
  let old := (s.grp s.cur.g).trapmask
  let a := s.scal i .A &&& 0xF#64
  let s := s.finish i d (laneResult s.cur.lanes fun _ => old) s.cur.lanes
  s.modGrp s.cur.g fun gr => { gr with trapmask := f old a &&& 0xF#64 }

def execTmaskSet (sc : BitVec 3) (d a : BitVec 6) (s : State) : Out :=
  let i : Instr := .tmaskSet sc d a
  s.issue i fun s => .next (s.tmask i d fun old a => old ||| a)

def execTmaskClr (sc : BitVec 3) (d a : BitVec 6) (s : State) : Out :=
  let i : Instr := .tmaskClr sc d a
  s.issue i fun s => .next (s.tmask i d fun old a => old &&& ~~~a)

def execTmaskWr (sc : BitVec 3) (d a : BitVec 6) (s : State) : Out :=
  let i : Instr := .tmaskWr sc d a
  s.issue i fun s => .next (s.tmask i d fun _ a => a)

/-! ## System registers (R329, R333) -/

/-- CREWNO (R306). -/
def State.crewno (s : State) (g : Nat) : Word :=
  let c := s.crewOf g
  BitVec.ofNat 64 (c.crewNo + 2 ^ 24 * ((s.task c.task).ncrews - 1))

/-- The value of a system register for a group. -/
def State.sysReg (s : State) (g n : Nat) : Word :=
  let gr := s.grp g
  let cr := s.crewOf g
  let cx := s.ctxOf g
  let p := s.part cx.part
  match n with
  | 0x000 => gr.fpmode
  | 0x001 => gr.unist
  | 0x002 => gr.wdog
  | 0x003 => gr.forkst
  | 0x004 => gr.prio
  | 0x005 => gr.trapmask
  | 0x100 => cr.clk
  | 0x101 => cr.pace.zeroExtend 64
  | 0x102 => s.crewno g
  | 0x200 => cx.ctxid
  | 0x201 => cx.sbchk
  | 0x202 => cx.unichk
  | 0x203 => cx.forkcfg
  | 0x204 => cx.roomtmo
  | 0x205 => cx.reusef
  | 0x206 => cx.reusest
  | 0x207 => cx.wayq
  | 0x208 => cx.pinq
  | 0x209 => cx.xlbase
  | 0x20A => cx.trapbase
  | 0x20B => cx.savebase
  | 0x20C => cx.tapebase
  | 0x300 => p.partid
  | 0x301 => s.pkg.podid
  | 0x302 => p.prebound
  | 0x303 => p.qosc
  | 0x304 => s.pkg.pwrst
  | 0x305 => p.qtbase
  | _ => 0

/-- The bits of v in a mask, and those of old outside it. -/
def setBits (old v m : Word) : Word := (v &&& m) ||| (old &&& ~~~m)
/-- Sticky bits, which software clears by writing 0 (R6). -/
def sticky (old v m : Word) : Word := old &&& (v ||| ~~~m)

/-- The least counter of the program vote; 0 where it has no lanes. A `wrsr` of WDOG finds its own lanes at the word after it (R87; DEDUCED, log
entry 18) (log entry 18). -/
def Group.voteMin (gr : Group) : Word :=
  let p := gr.inMode .running
  if p == 0 then 0 else (gr.lane (lowest (gr.lowSet p))).pc

/-- WDOG written: `none` where EN = 1 comes with WIN below 64 (R87, R88) (log entry 18). -/
def Group.writeWdog (gr : Group) (v : Word) : Option Group :=
  if v.getLsbD 32 && decide (bits v.toNat 0 32 < 64) then none
  else
    let w := setBits (sticky gr.wdog v 0x200000000#64) v 0x1FFFFFFFF#64
    some (if v.getLsbD 32 then { gr with wdog := w, wdM := gr.voteMin, wdN := 0 } else { gr with wdog := w })

/-- A register of the group written (R71, R85, R88, R113, R304, R323): `none` where the value fails its check. -/
def Group.writeSys (gr : Group) (n : Nat) (v : Word) : Option Group :=
  match n with
  | 0x000 => if 4 < bits v.toNat 0 3 then none else some { gr with fpmode := setBits (sticky gr.fpmode v 0x1F00#64) v 0x1F#64 }
  | 0x001 => some { gr with unist := sticky gr.unist v 1#64 }
  | 0x002 => gr.writeWdog v
  | 0x003 => some { gr with forkst := setBits gr.forkst v 0x0FFFFFFFFFFFFFFF#64 }
  | 0x004 => some { gr with prio := setBits gr.prio v 0xE0#64 }
  | 0x005 => some { gr with trapmask := setBits gr.trapmask v 0xF#64 }
  | _ => none

/-- A register of the context written (R53, R85, R113, R174, R178, R209, R312, R319). -/
def Context.writeSys (c : Context) (n : Nat) (v : Word) : Option Context :=
  let f (lo k : Nat) : Nat := bits v.toNat lo k
  match n with
  | 0x201 => some { c with sbchk := v &&& 1#64 }
  | 0x202 => some { c with unichk := v &&& 1#64 }
  | 0x203 => if f 1 3 == 0 || decide (4 < f 1 3) then none else some { c with forkcfg := v &&& 0x3F#64 }
  | 0x204 => some { c with roomtmo := v &&& 0xFFFFFFFF#64 }
  | 0x205 => if 4 < f 0 3 then none else some { c with reusef := v &&& 7#64 }
  | 0x207 => if 8 < f 0 4 || 16 < f 4 5 then none else some { c with wayq := v &&& 0x1FF#64 }
  | 0x208 => some { c with pinq := v &&& 0xFFFFFFFF#64 }
  | 0x209 => some { c with xlbase := v &&& 0xFFFFFFFF0001#64 }
  | 0x20A => some { c with trapbase := v &&& 0xFFFFFFFFFFFFD#64 }
  | 0x20B => some { c with savebase := v &&& 0xFFFFFFFFF0000#64 }
  | 0x20C => if 20 < f 48 5 then none else some { c with tapebase := v &&& 0x1FFFFFFFFFFFC0#64 }
  | _ => none

/-- A register of the partition written (R324, R352). -/
def Partition.writeSys (p : Partition) (n : Nat) (v : Word) : Option Partition :=
  let f (lo : Nat) : Nat := bits v.toNat lo 4
  match n with
  | 0x302 => some { p with prebound := v &&& 0xFFFFFFFF#64 }
  | 0x303 => if 16 < f 0 + f 4 + f 8 + f 12 || f 12 == 0 then none else some { p with qosc := v &&& 0xFFFF#64 }
  | _ => none

/-- A system register written by a group; `none` where the value fails its check or the register is read-only. -/
def State.writeSys (s : State) (g n : Nat) (v : Word) : Option State :=
  if n < 0x100 then ((s.grp g).writeSys n v).map fun x => s.modGrp g fun _ => x
  else if n < 0x300 then ((s.ctxOf g).writeSys n v).map fun x => s.modCtx (s.ctxNo g) fun _ => x
  else ((s.part (s.partNo g)).writeSys n v).map fun x => s.modPart (s.partNo g) fun _ => x

def execRdsr (sc : BitVec 3) (d : BitVec 6) (n : BitVec 12) (s : State) : Out :=
  let i : Instr := .rdsr sc d n
  s.issue i fun s => .next (s.finish i d (uniResult (s.sysReg s.cur.g n.toNat)) s.cur.lanes)

def execWrsr (sc : BitVec 3) (d : BitVec 6) (n : BitVec 12) (s : State) : Out :=
  let i : Instr := .wrsr sc d n
  s.issue i fun s =>
    match s.writeSys s.cur.g n.toNat (s.scal i .D) with
    | some t => .next t
    | none => .next (s.fault i s.cur.lanes (plainTrap cILLEGAL 0x06) false)

/-- WDOG_WRITE: the write that `wrsr` makes of a group's WDOG (R87). -/
def execWdogWrite (g : Nat) (v : Word) (s : State) : Out :=
  match (s.grp g).writeWdog v with
  | some x => .next (s.modGrp g fun _ => x)
  | none => .next s

/-! ## dtld (R56, R334) -/

/-- The shipping opcodes of a set, the prefix not among them (R58, R59). -/
def isShipping (uni : Bool) (op : Nat) : Bool :=
  let r (lo hi : Nat) : Bool := decide (lo ≤ op) && decide (op ≤ hi)
  if uni then
    r 0x000 0x004 || r 0x020 0x02E || r 0x0C0 0x0C2 || op == 0x0E0 || r 0x0F0 0x0F5 || r 0x100 0x10D || r 0x120 0x122 || r 0x130 0x134 || r 0x140 0x143
  else r 0x000 0x00A || r 0x020 0x03B || r 0x060 0x073 || r 0x0A0 0x0A7 || r 0x0C0 0x0CA || r 0x0E0 0x0E5 || r 0x140 0x142

/-- Entries of a decode table as words of 16 bits, with their set and opcode; the lane entry 0x3FF is left out. -/
def tableEntries (bs : List Byte) : List (Bool × Nat × Nat) :=
  ((List.range 2048).filter fun k => k != 0x3FF).map fun k => (decide (1024 ≤ k), k % 1024, leNat ((bs.drop (2 * k)).take 2))

def entryBadOp (e : Bool × Nat × Nat) : Bool := bitAt e.2.2 15 && !isShipping e.1 (bits e.2.2 0 10)
def entryStray (e : Bool × Nat × Nat) : Bool := bits e.2.2 10 5 != 0

/-- The entries that differ from the shipping map. -/
def tableDiff (es : List (Bool × Nat × Nat)) : List (Bool × Nat × Option Nat) :=
  es.filterMap fun e =>
    let m := if bitAt e.2.2 15 then some (bits e.2.2 0 10) else none
    if m == (if isShipping e.1 e.2.1 then some e.2.1 else none) then none else some (e.1, e.2.1, m)

def execDtld (sc : BitVec 3) (d a : BitVec 6) (s : State) : Out :=
  let i : Instr := .dtld sc d a
  s.issue i fun s =>
    let va := s.scal i .A
    let ag := s.agent s.cur.g
    let elts : List Elt := (List.range 128).map fun k => ⟨k, lowest s.cur.lanes, (va.toNat + 32 * k) % 2 ^ 64, 0⟩
    if va.toNat % 256 != 0 then .next (s.fault i s.cur.lanes (addrTrap cALIGN 0x00 va) false)
    else
      let p := s.plan ag .load 256 elts
      match p.void, p.trap with
      | some pa, _ => .fault (.noDram pa)
      | none, some t => .next (s.fault i s.cur.lanes t false)
      | none, none =>
        let (s, secs) := s.loadElts ag 32 15 elts
        let es := tableEntries (secs.flatMap fun x => leBytes 32 x.2)
        let status := if es.any entryBadOp then 1 else if es.any entryStray then 2 else 0
        let s := if status == 0 then s.modCtx (s.ctxNo s.cur.g) fun c => { c with decode := tableDiff es } else s
        .next (s.finish i d (uniResult (BitVec.ofNat 64 status)) s.cur.lanes)

/-! ## Shoot-downs (R182) -/

/-- Translation-cache entries of a context that overlap a range are removed. -/
def State.shoot (s : State) (ctx start len : Nat) : State :=
  { s with tlb := s.tlb.filter fun t => !(t.ctx == ctx && decide (t.base < start + len) && decide (start < t.base + 2 ^ t.log)) }

/-! ## sysc (R335) -/

/-- The eight words of a block in the crew's window, read at the unit's issue, or the trap of its offset. -/
def State.syscBlock (s : State) (i : Instr) (rest : State → (Nat → Word) → Out) : Out :=
  let o := bits (s.scal i .D).toNat 0 20
  let c := (s.grp s.cur.g).crew
  let bad (t : BitVec 8) (e : BitVec 8) : Out := .next (s.fault i s.cur.lanes (addrTrap t e (BitVec.ofNat 64 o)) false)
  if o % 64 != 0 then bad cALIGN 0x00
  else if (s.crew c).window < o + 64 then bad cPROT 0x04
  else if s.cur.data.isEmpty && s.boxPoison c o 64 then bad cPOISON 0x00
  else
    let s := if s.cur.data.isEmpty then { s with cur := { s.cur with data := s.readScratch c o 64 } } else s
    rest s fun j => BitVec.ofNat 64 (leNat ((s.cur.data.drop (8 * j)).take 8))

/-- A status written into all lanes of D, after an effect. -/
def State.status (s : State) (i : Instr) (d : BitVec 6) (n : Nat) : Out := .next (s.finish i d (uniResult (BitVec.ofNat 64 n)) s.cur.lanes)

/-- `sysc.shoot` retires when the shoot-down is complete (R182): the entries go at its issue, and what the walks under way have filled goes
at its end, when no access that was issued before it is in flight. -/
def execSyscShoot (sc : BitVec 3) (d : BitVec 6) (s : State) : Out :=
  let i : Instr := .syscShoot sc d
  s.issue i fun s => s.syscBlock i fun s w =>
    match s.findCtx (s.partNo s.cur.g) (w 0).toNat with
    | none => s.status i d 2
    | some c =>
      let s := s.shoot c (w 1).toNat (w 2).toNat
      if s.shootOpen then .next (s.await i true) else s.status i d 0

/-- The crew of a context's group with a tag. -/
def State.taggedCrew (s : State) (ctx tag : Nat) : Option Nat :=
  (s.groups.find? fun gr =>
    gr.shadow.isNone && (gr.place == .resident || gr.place == .evicted) && (s.crew gr.crew).ctx == ctx && gr.gtag == tag).map Group.crew

/-- Every group of a crew dies, and the crew releases at scope pkg (R221, R325); no room admits a lane of one while another dies (R210). -/
def State.terminate (s : State) (c : Nat) : State :=
  let gs := (s.crew c).groups
  let s := s.takeDemands (s.crew c).ctx gs
  let s := gs.foldl (fun s g => if (s.grp g).place == .resident || (s.grp g).place == .evicted then s.killGroup g else s) s
  match gs.head? with | some g => s.release g 3 | none => s

def execSyscTerm (sc : BitVec 3) (d : BitVec 6) (s : State) : Out :=
  let i : Instr := .syscTerm sc d
  s.issue i fun s => s.syscBlock i fun s w =>
    match (s.findCtx (s.partNo s.cur.g) (w 0).toNat).bind fun c => s.taggedCrew c (w 1).toNat with
    | none => s.status i d 2
    | some c => if c == (s.grp s.cur.g).crew then .next (s.terminate c) else (s.terminate c).status i d 0

def execSyscQdesc (sc : BitVec 3) (d : BitVec 6) (s : State) : Out :=
  let i : Instr := .syscQdesc sc d
  s.issue i fun s => s.syscBlock i fun s w =>
    let part := s.partNo s.cur.g
    let q := (w 0).toNat
    let level := bits (w 1).toNat 2 5
    let sys := match s.findCtx part (bits (w 1).toNat 16 16) with | some c => (s.ctx c).isSys | none => false
    if 65536 ≤ q || 23 < level || (level < 3 && !sys) then s.status i d 1
    else ((List.range 5).foldl (fun s j => s.putQueueWord part q j (w (j + 1)).toNat) s).status i d 0

def execSyscLevel (sc : BitVec 3) (d : BitVec 6) (s : State) : Out :=
  let i : Instr := .syscLevel sc d
  s.issue i fun s => s.syscBlock i fun s w =>
    if 24 ≤ (w 0).toNat || 64 < (w 1).toNat then s.status i d 1
    else (s.modPart (s.partNo s.cur.g) fun p => { p with levels := p.levels.setIfInBounds (w 0).toNat (w 1) }).status i d 0

def execSyscRing (sc : BitVec 3) (d : BitVec 6) (s : State) : Out :=
  let i : Instr := .syscRing sc d
  s.issue i fun s => s.syscBlock i fun s w =>
    if 16 ≤ (w 0).toNat then s.status i d 1
    else (s.modPart (s.partNo s.cur.g) fun p => { p with rings := p.rings.setIfInBounds (w 0).toNat (w 1, w 2) }).status i d 0

def execSyscPodwin (sc : BitVec 3) (d : BitVec 6) (s : State) : Out :=
  let i : Instr := .syscPodwin sc d
  s.issue i fun s => s.syscBlock i fun s w =>
    match s.findCtx (s.partNo s.cur.g) (w 0).toNat with
    | none => s.status i d 2
    | some c =>
      if 64 ≤ (w 1).toNat then s.status i d 1
      else (s.modCtx c fun x => { x with podwins := x.podwins.setIfInBounds (w 1).toNat (w 2, w 3, w 4) }).status i d 0

def execSyscFpdef (sc : BitVec 3) (d : BitVec 6) (s : State) : Out :=
  let i : Instr := .syscFpdef sc d
  s.issue i fun s => s.syscBlock i fun s w =>
    match s.findCtx (s.partNo s.cur.g) (w 0).toNat with
    | none => s.status i d 2
    | some c =>
      if 32 ≤ (w 1).toNat || 4 < bits (w 1).toNat 0 3 then s.status i d 1
      else (s.modCtx c fun x => { x with fpdef := w 1 }).status i d 0

/-- Quad, core, slot and tag of a group. -/
def State.whereIs (s : State) (g : Nat) : Word :=
  let gr := s.grp g
  BitVec.ofNat 64 (s.quadOf g + 2 ^ 8 * (gr.core % 4) + 2 ^ 10 * gr.slot + 2 ^ 16 * gr.gtag)

def execSyscWhere (sc : BitVec 3) (d : BitVec 6) (s : State) : Out :=
  let i : Instr := .syscWhere sc d
  s.issue i fun s => .next (s.finish i d (uniResult (s.whereIs s.cur.g)) s.cur.lanes)

end Sys2Proof.Machine
end

