-- ==== Sys2Proof/Machine/GroupEvents.lean ====
section
/-! DEFINITION. The events of a group: results that arrive late, consumers, acknowledgements, the ends of waits, the watchdog, traps that
are taken, and the fill of an instruction buffer (R16, R49, R52, R81, R86, R87, R214, R226, R244, R317). -/

namespace Sys2Proof.Machine

/-! ## Consumers (R49, R244) -/

/-- The result image of a stalled unit exists: its write has been performed (R49). -/
def State.resultReady (s : State) (g : Nat) (u : UnitRec) : Bool :=
  !(s.grp g).fix.any fun p => p.seq == u.iss.seq && decide (s.now < p.avail)

/-- Consumer c of a stalled unit accepts now: the register when its write is performed, a buffer when it has room (R49). -/
def State.canAccept (s : State) (g : Nat) (u : UnitRec) (c : Nat) : Bool :=
  s.resultReady g u && (c == 0 || (s.accepts g u.instr.rawX c).isSome)

/-- A consumer of a stalled unit accepts its image, if it can; the unit retires with the last of them, and the group's next unit issues
in the next cycle at the earliest (R49). -/
def State.acceptOne (s : State) (g : Nat) (u : UnitRec) (c : Nat) : State :=
  match u.iss.res with
  | none => s
  | some img =>
    let s := s.settle g
    let (t, ok) := if c == 0 then (s, true) else s.offer g u.instr.rawX c img
    if !ok then s
    else
      let dlv := u.iss.dlv ||| BitVec.ofNat 6 (2 ^ c)
      let v : UnitRec := { u with iss := { u.iss with dlv := dlv } }
      if (pendingConsumers u.instr.consumers dlv).isEmpty then
        let t := t.modGrp g fun gr => { gr with waits := gr.waits.filter fun w => w != u }
        t.modLanes g allLanes fun _ x => { x with ready := max x.ready (s.now + 1) }
      else t.modGrp g fun gr => { gr with waits := gr.waits.map fun w => if w == u then v else w }

/-- The first pending consumer of a group's stalled units that accepts now. -/
def State.readyConsumer (s : State) (g : Nat) : Option (UnitRec × Nat) :=
  if (s.grp g).place != .resident then none
  else
    ((s.grp g).waits.filter fun u => u.instr.rt).findSome? fun u =>
      ((pendingConsumers u.instr.consumers u.iss.dlv).find? fun c => s.canAccept g u c).map fun c => (u, c)

/-- CONSUMER_ACCEPT (R49). -/
def execConsumerAccept (g : Nat) (s : State) : Out :=
  match s.readyConsumer g with
  | some (u, c) => .next (s.acceptOne g u c)
  | none => .next s

/-- The group and unit whose image waits at an input of a quad, named by its side: 0 N, 1 E, 2 S, 3 W. -/
def State.atInput (s : State) (quad dir : Nat) : Option (Nat × UnitRec × Nat) :=
  let c := inputOf dir + 2
  match neighbour quad dir with
  | none => none
  | some nb =>
    s.groups.zipIdx.findSome? fun p =>
      if p.1.place == .resident && quadOfCore p.1.core == nb then
        (p.1.waits.find? fun u => u.instr.rt && (pendingConsumers u.instr.consumers u.iss.dlv).contains c && s.canAccept p.2 u c).map
          fun u => (p.2, u, c)
      else none

/-- HYPNUM_IMAGE_ACCEPT (R244). -/
def execHypnumImageAccept (quad : Nat) (dir : BitVec 2) (s : State) : Out :=
  match s.atInput quad dir.toNat with
  | some (g, u, c) => .next (s.acceptOne g u c)
  | none => .next s

/-! ## Units that complete later than they issue (R52, R214, R316) -/

/-- An atomic. -/
def isAtomic (i : Instr) : Bool := match i with | .atom _ _ _ _ _ _ | .acas _ _ _ _ _ _ | .abinc _ _ _ _ _ _ => true | _ => false

/-- A unit that has issued performed: the result of a unit of variable latency, an access, a held command, or a wait that goes on. -/
def performUnit (i : Instr) (s : State) : Out :=
  match i with
  | .atom pf sc d a n z => execAtom pf sc d a n z s
  | .acas pf sc d a n z => execAcas pf sc d a n z s
  | .abinc pf sc d a n z => execAbinc pf sc d a n z s
  | .frcp pf sc d a => execFrcp pf sc d a s
  | .frsq pf sc d a => execFrsq pf sc d a s
  | .fsqt pf sc d a => execFsqt pf sc d a s
  | .fexp2 pf sc d a => execFexp2 pf sc d a s
  | .flog2 pf sc d a => execFlog2 pf sc d a s
  | .fsin pf sc d a => execFsin pf sc d a s
  | .fcos pf sc d a => execFcos pf sc d a s
  | .ftanh pf sc d a => execFtanh pf sc d a s
  | .fdot pf sc d a b => execFdot pf sc d a b s
  | .tmv pf sc d a b => execTmv pf sc d a b s
  | .rixG pf sc d a b => execRixG pf sc d a b s
  | .rixS pf sc d a b => execRixS pf sc d a b s
  | .redmi pf sc d a b => execRedmi pf sc d a b s
  | .cfd pf sc d a => execCfd pf sc d a s
  | .scan pf sc d a e => execScan pf sc d a e s
  | .redl pf sc d a => execRedl pf sc d a s
  | .bcast pf sc d a b => execBcast pf sc d a b s
  | .shfl pf sc d a b => execShfl pf sc d a b s
  | .comb pf sc d a b => execComb pf sc d a b s
  | .ld pf sc d a n z => execLd pf sc d a n z s
  | .st pf sc d a n z => execSt pf sc d a n z s
  | .ldl pf sc d a n z => execLdl pf sc d a n z s
  | .lds pf sc d a z => execLds pf sc d a z s
  | .sts pf sc d a z => execSts pf sc d a z s
  | .ldc pf sc d a z => execLdc pf sc d a z s
  | .sld sc d a n z => execSld sc d a n z s
  | .sst sc d a n z => execSst sc d a n z s
  | .prf pf sc a n z => execPrf pf sc a n z s
  | .pin pf sc d a z => execPin pf sc d a z s
  | .unpin pf sc d a z => execUnpin pf sc d a z s
  | .sinv pf sc d a => execSinv pf sc d a s
  | .swb pf sc d a => execSwb pf sc d a s
  | .swbInv pf sc d a => execSwbInv pf sc d a s
  | .pbarInit sc a b => execPbarInit sc a b s
  | .tdef sc d a => execTdef sc d a s
  | .cbdef sc d a b => execCbdef sc d a b s
  | .fence sc c m => execFence sc c m s
  | .barSync sc d a c => execBarSync sc d a c s
  | .barArrive sc d a c => execBarArrive sc d a c s
  | .barWait sc d a c => execBarWait sc d a c s
  | .pbarArrive sc a => execPbarArrive sc a s
  | .pbarWait sc a b => execPbarWait sc a b s
  | .tlwait sc d a => execTlwait sc d a s
  | .swwait sc d a => execSwwait sc d a s
  | .cbadvWroom sc d a => execCbadvWroom sc d a s
  | .cbadvPut sc d a => execCbadvPut sc d a s
  | .cbadvWdata sc d a => execCbadvWdata sc d a s
  | .cbadvGet sc d a => execCbadvGet sc d a s
  | .enter sc d a m => execEnter sc d a m s
  | .enterTry sc d a m => execEnterTry sc d a m s
  | .leave sc a => execLeave sc a s
  | .rstat sc d a => execRstat sc d a s
  | .hdef sc d a b => execHdef sc d a b s
  | .rdecl sc d a b => execRdecl sc d a b s
  | .exit sc => execExit sc s
  | .launch sc d a b => execLaunch sc d a b s
  | .gnode sc d a b => execGnode sc d a b s
  | .tapePush sc a => execTapePush sc a s
  | .tapeRun sc d a => execTapeRun sc d a s
  | .tapeDepth sc a => execTapeDepth sc a s
  | .tcut sc a => execTcut sc a s
  | .prio sc a => execPrio sc a s
  | .ectxBind sc d e => execEctxBind sc d e s
  | .ectxPin sc d => execEctxPin sc d s
  | .ectxUnpin sc d => execEctxUnpin sc d s
  | .ectxResume sc d => execEctxResume sc d s
  | .ectxAbort sc d => execEctxAbort sc d s
  | .ectxUnbind sc d => execEctxUnbind sc d s
  | .ectxDrain sc d => execEctxDrain sc d s
  | .cpy sc d a b => execCpy sc d a b s
  | .cpyx sc d a b => execCpyx sc d a b s
  | .mld sc d a f => execMld sc d a f s
  | .mma sc d a f r => execMma sc d a f r s
  | .mmas sc d a f => execMmas sc d a f s
  | .mwb sc d a f => execMwb sc d a f s
  | .mclr sc d t m => execMclr sc d t m s
  | .ixg sc d a f => execIxg sc d a f s
  | .ixs sc d a f => execIxs sc d a f s
  | .rredRs sc d a e r => execRredRs sc d a e r s
  | .rredAr sc d a e r => execRredAr sc d a e r s
  | .rcat sc d a => execRcat sc d a s
  | .lput sc d a => execLput sc d a s
  | .syscShoot sc d => execSyscShoot sc d s
  | _ => .next s

/-- The machine about to perform a unit that leaves the units in flight. -/
def State.takeUnit (s : State) (g : Nat) (u : UnitRec) : State :=
  { s.modGrp g fun gr => { gr with units := gr.units.filter fun v => v != u } with
    cur := u.iss, sched := { s.sched with picks := s.sched.picks.drop 1 } }

/-- A unit in flight performed, as far as it goes: a part of an access whose faults are decided, or the unit (R162, R316). -/
def State.completeUnit (s : State) (g : Nat) (u : UnitRec) : Out :=
  let s := s.takeUnit g u
  if u.iss.left.isSome then
    let (m, s) := s.popSplit
    .next (s.goOn u m)
  else performUnit u.instr s

/-- VARIABLE_RESULT_WRITE (R52). -/
def execVariableResultWrite (g : Nat) (s : State) : Out :=
  match s.nextUnit g with
  | some u => if isAtomic u.instr then .next s else s.completeUnit g u
  | none => .next s

/-- ATOMIC_EXECUTE (R214). -/
def execAtomicExecute (g : Nat) (s : State) : Out :=
  match s.nextUnit g with
  | some u => if isAtomic u.instr then s.completeUnit g u else .next s
  | none => .next s

/-! ## Acknowledgements and waits (R16, R226) -/

/-- WRITE_ACK: the oldest write that is not acknowledged (R16). -/
def execWriteAck (g : Nat) (s : State) : Out := .next (s.modGrp g fun gr => { gr with acks := gr.acks.drop 1 })

/-- The first wait of a resident group that can go on (R226). -/
def State.readyWait (s : State) (g : Nat) : Option UnitRec :=
  if (s.grp g).place == .resident then (s.grp g).waits.find? s.canProgress else none

/-- WAIT_RELEASE (R226). -/
def execWaitRelease (g : Nat) (s : State) : Out :=
  match s.readyWait g with
  | some u => performUnit u.instr { s.modGrp g fun gr => { gr with waits := gr.waits.filter fun w => w != u } with cur := u.iss }
  | none => .next s

/-! ## The watchdog and traps (R86, R87, R317, R323) -/

/-- The watchdog of a group has reached its window. -/
def Group.watchdogOver (gr : Group) : Bool :=
  gr.place == .resident && gr.wdog.getLsbD 32 && gr.inMode .running != 0 && decide (bits gr.wdog.toNat 0 32 ≤ gr.wdN)

/-- WATCHDOG_EXPIRY (R87): EN falls and FIRED rises; the lanes at the minimum of the program vote trap, unless the mask forbids it. -/
def execWatchdogExpiry (g : Nat) (s : State) : Out :=
  let gr := s.grp g
  if !gr.watchdogOver then .next s
  else
    let t := s.modGrp g fun x => { x with wdog := (x.wdog ||| 0x200000000#64) &&& ~~~0x100000000#64 }
    if gr.trapmask.getLsbD 2 then .next t
    else
      let ls := gr.lowSet (gr.inMode .running)
      .next (t.raise ⟨g, ls, plainTrap cWDOG 0x00, none, false, false, 0, 0, (gr.lane (lowest ls)).pc⟩)

/-- Lanes of a resident group that share a vote and a counter. -/
def Group.oneSet (gr : Group) (ls : Lanes) : Bool :=
  let l0 := gr.lane (lowest ls)
  gr.place == .resident && ls != 0 && (l0.mode == .running || l0.mode == .handler) &&
    (lanesOf ls).all fun l => (gr.lane l).mode == l0.mode && (gr.lane l).pc == l0.pc

/-- A lane waits at a room entry whose demand its broken region has withdrawn; an `rdecl` meanwhile takes nothing back (R210). -/
def State.strandedAt (s : State) (g l : Nat) : Bool :=
  (s.grp g).place == .resident && (match (s.lane g l).park with
    | some p => (match (s.ctxOf g).region p.region with | some r => !r.demands.any fun d => d.g == g && d.lane == l | none => true)
    | none => false)

/-- A code of the cause table (R10); the hardware writes no other (log entry 58). -/
def causeUsed (c : BitVec 8) : Bool :=
  let n := c.toNat
  (0x01 ≤ n && n ≤ 0x07) || (0x10 ≤ n && n ≤ 0x16) || n == 0x20 || n == 0x21 || (0x30 ≤ n && n ≤ 0x35) || (0x40 ≤ n && n ≤ 0x42)

/-- TRAP_ENTRY: lanes that raise a cause at their counter, before any unit issues there, or a parked lane whose region is broken
(R210, R317) (log entry 58). -/
def execTrapEntry (g : Nat) (lanes : Lanes) (cause sub : BitVec 8) (faddr : Word) (s : State) : Out :=
  let gr := s.grp g
  if gr.oneSet lanes && causeUsed cause then .next (s.raise ⟨g, lanes, addrTrap cause sub faddr, none, false, false, 0, 0, (gr.lane (lowest lanes)).pc⟩)
  else if s.strandedAt g (lowest lanes) then .next (s.unpark g (lowest lanes) cROOMBROKEN 0x01)
  else .next s

/-- HELD_TRAP_TAKE (R86). -/
def execHeldTrapTake (g : Nat) (s : State) : Out := .next (if (s.grp g).heldReady then s.takeHeld g else s)

/-! ## Instruction buffers (R81) -/

/-- INSTRUCTION_BUFFER_FILL: the line of an address, in the context of the group whose set is being fetched. -/
def execInstructionBufferFill (core : Nat) (line : Word) (s : State) : Out :=
  let b : BufLine := ⟨core, s.ctxNo s.cur.g, line.toNat / 256⟩
  .next (if s.ibuf.contains b then s else { s with ibuf := b :: s.ibuf })

end Sys2Proof.Machine
end

