-- ==== Sys2Proof/Machine/Integer.lean ====
section
/-! DEFINITION. The integer instructions of the lane set (R115 to R127). -/

namespace Sys2Proof

/-- U and MODE of the extension value of the integer class (R116). -/
def Instr.uBit (i : Instr) : Bool := Machine.bitAt i.x 3
def Instr.mode (i : Instr) : Nat := i.x / 16

end Sys2Proof

namespace Sys2Proof.Machine

/-! ## Shared forms -/

/-- A result of elements of width w for D, in the active lanes. -/
def State.giveLane (s : State) (i : Instr) (d : BitVec 6) (w : Nat) (f : Nat → Nat) : Out :=
  .next (s.finish i d (s.result i w s.cur.lanes f) s.cur.lanes)

/-- An element-by-element operation on exact values, with its saturating and widening modes (R118). C is read where the row takes it. -/
def State.intOp (s : State) (i : Instr) (d : BitVec 6) (op : Int → Int → Int → Int) : Out :=
  let w := i.width
  let u := i.uBit
  let m := i.mode
  let a := s.src i .A
  let b := s.src i .B
  let c := s.src i .C
  if m == 2 || m == 3 then
    let n := 64 / w
    let h := if m == 3 then n / 2 else 0
    s.giveLane i d (2 * w) fun e =>
      let q := n * (e / (n / 2)) + h + e % (n / 2)
      wrap (2 * w) (op (ext u w (el w q a)) (ext u w (el w q b)) (ext u (2 * w) (el (2 * w) e c)))
  else
    s.giveLane i d w fun e =>
      let r := op (ext u w (el w e a)) (ext u w (el w e b)) (ext u w (el w e c))
      wrap w (if m == 1 then clampInt u w r else r)

/-- A bitwise or other operation on the elements as codes. -/
def State.bitOp (s : State) (i : Instr) (d : BitVec 6) (op : Nat → Nat → Nat → Nat) : Out :=
  let w := i.width
  let a := s.src i .A
  let b := s.src i .B
  s.giveLane i d w fun e => op w (el w e a) (el w e b)

/-! ## Moves and arithmetic (R118, R119, R120) -/

def execMov (pf : Option Pfx) (sc : BitVec 3) (d a : BitVec 6) (s : State) : Out :=
  let i : Instr := .mov pf sc d a
  s.issue i fun s => s.bitOp i d fun _ x _ => x

def execMovi (pf : Option Pfx) (sc : BitVec 3) (d : BitVec 6) (n : BitVec 12) (s : State) : Out :=
  let i : Instr := .movi pf sc d n
  s.issue i fun s => s.giveLane i d i.width fun _ => wrap i.width (ext (i.uBit) 12 n.toNat)

def execIadd (pf : Option Pfx) (sc : BitVec 3) (d a b : BitVec 6) (s : State) : Out :=
  let i : Instr := .iadd pf sc d a b
  s.issue i fun s => s.intOp i d fun x y _ => x + y

def execIsub (pf : Option Pfx) (sc : BitVec 3) (d a b : BitVec 6) (s : State) : Out :=
  let i : Instr := .isub pf sc d a b
  s.issue i fun s => s.intOp i d fun x y _ => x - y

def execImul (pf : Option Pfx) (sc : BitVec 3) (d a b : BitVec 6) (s : State) : Out :=
  let i : Instr := .imul pf sc d a b
  s.issue i fun s => s.intOp i d fun x y _ => x * y

def execImad (pf : Option Pfx) (sc : BitVec 3) (d a b : BitVec 6) (s : State) : Out :=
  let i : Instr := .imad pf sc d a b
  s.issue i fun s => s.intOp i d fun x y z => x * y + z

/-- `imulh`: bits [2w−1:w] of the exact product. -/
def execImulh (pf : Option Pfx) (sc : BitVec 3) (d a b : BitVec 6) (s : State) : Out :=
  let i : Instr := .imulh pf sc d a b
  s.issue i fun s => s.intOp i d fun x y _ => x * y / ((2 ^ i.width : Nat) : Int)

def execImin (pf : Option Pfx) (sc : BitVec 3) (d a b : BitVec 6) (s : State) : Out :=
  let i : Instr := .imin pf sc d a b
  s.issue i fun s => s.intOp i d fun x y _ => min x y

def execImax (pf : Option Pfx) (sc : BitVec 3) (d a b : BitVec 6) (s : State) : Out :=
  let i : Instr := .imax pf sc d a b
  s.issue i fun s => s.intOp i d fun x y _ => max x y

def execIabs (pf : Option Pfx) (sc : BitVec 3) (d a : BitVec 6) (s : State) : Out :=
  let i : Instr := .iabs pf sc d a
  s.issue i fun s => s.intOp i d fun x _ _ => (x.natAbs : Int)

/-- `iaddc`: sum, carry out or overflow with a carry in (R119). -/
def execIaddc (pf : Option Pfx) (sc : BitVec 3) (d a b : BitVec 6) (s : State) : Out :=
  let i : Instr := .iaddc pf sc d a b
  s.issue i fun s =>
    let w := i.width
    let x := s.src i .A
    let y := s.src i .B
    let z := s.src i .C
    s.giveLane i d w fun e =>
      let cin := el w e z % 2
      let t := el w e x + el w e y + cin
      let v := sext w (el w e x) + sext w (el w e y) + (cin : Int)
      match i.mode with
      | 0 => t % 2 ^ w
      | 1 => if 2 ^ w ≤ t then 1 else 0
      | _ => if v < loOf false w || hiOf false w < v then 1 else 0

/-- `idot`: two sums of products to each lane (R120). -/
def execIdot (pf : Option Pfx) (sc : BitVec 3) (d a b : BitVec 6) (s : State) : Out :=
  let i : Instr := .idot pf sc d a b
  s.issue i fun s =>
    let w := i.width
    let u := i.uBit
    let x := s.src i .A
    let y := s.src i .B
    let z := s.src i .C
    let n := 32 / w
    s.giveLane i d 32 fun e =>
      let r := ext u 32 (el 32 e z) + ((List.range n).map fun j => ext u w (el w (n * e + j) x) * ext u w (el w (n * e + j) y)).sum
      wrap 32 (if i.mode == 1 then clampInt u 32 r else r)

/-! ## Logic, shifts and selection (R121 to R123) -/

def execIand (pf : Option Pfx) (sc : BitVec 3) (d a b : BitVec 6) (s : State) : Out :=
  let i : Instr := .iand pf sc d a b
  s.issue i fun s => s.bitOp i d fun _ x y => Nat.land x y

def execIor (pf : Option Pfx) (sc : BitVec 3) (d a b : BitVec 6) (s : State) : Out :=
  let i : Instr := .ior pf sc d a b
  s.issue i fun s => s.bitOp i d fun _ x y => Nat.lor x y

def execIxor (pf : Option Pfx) (sc : BitVec 3) (d a b : BitVec 6) (s : State) : Out :=
  let i : Instr := .ixor pf sc d a b
  s.issue i fun s => s.bitOp i d fun _ x y => Nat.xor x y

/-- `shl`: shifted out to zero, or the exact product clamped under `.sat`; a count of at least w leaves no bit. -/
def shlElem (u sat : Bool) (w x c : Nat) : Nat :=
  if sat then
    let v := ext u w x
    wrap w (clampInt u w (if c < w then v * ((2 ^ c : Nat) : Int) else v * ((2 ^ w : Nat) : Int)))
  else if c < w then x * 2 ^ c % 2 ^ w else 0

def execShl (pf : Option Pfx) (sc : BitVec 3) (d a b : BitVec 6) (s : State) : Out :=
  let i : Instr := .shl pf sc d a b
  s.issue i fun s => s.bitOp i d fun w x c => shlElem (i.uBit) (i.mode == 1) w x c

def execShr (pf : Option Pfx) (sc : BitVec 3) (d a b : BitVec 6) (s : State) : Out :=
  let i : Instr := .shr pf sc d a b
  s.issue i fun s => s.bitOp i d fun w x c => if c < w then x / 2 ^ c else 0

def execSar (pf : Option Pfx) (sc : BitVec 3) (d a b : BitVec 6) (s : State) : Out :=
  let i : Instr := .sar pf sc d a b
  s.issue i fun s => s.bitOp i d fun w x c => wrap w (sext w x / ((2 ^ min c w : Nat) : Int))

/-- The condition of `icmp` (R122). -/
def icmpHolds (m : Nat) (x y : Int) : Bool :=
  match m with
  | 0 => x == y
  | 1 => x != y
  | 2 => decide (x < y)
  | 3 => decide (x ≤ y)
  | 4 => decide (y < x)
  | _ => decide (y ≤ x)

def execIcmp (pf : Option Pfx) (sc k : BitVec 3) (a b : BitVec 6) (s : State) : Out :=
  let i : Instr := .icmp pf sc k a b
  s.issue i fun s =>
    let w := i.width
    let x := s.src i .A
    let y := s.src i .B
    let test (e : Nat) : Bool := icmpHolds (i.mode) (ext (i.uBit) w (el w e x)) (ext (i.uBit) w (el w e y))
    .next (s.finishMask i k.toNat (s.maskResult i w s.cur.lanes test) [])

/-- `isel`: the mask ks stands in X[6:4] (R123). -/
def execIsel (pf : Option Pfx) (sc : BitVec 3) (d a b : BitVec 6) (s : State) : Out :=
  let i : Instr := .isel pf sc d a b
  s.issue i fun s =>
    let w := i.width
    let ks := s.smask (smaskNo i)
    let all := smaskNo i == 0
    let x := s.src i .A
    let y := s.src i .B
    s.giveLane i d w fun e => if all || enabled ks w e then el w e x else el w e y

/-! ## Bit fields and counts (R124, R125) -/

/-- Position and length of a field, by an element of B (R124). -/
def fieldOf (w b : Nat) : Nat × Nat :=
  let h := min 8 (w / 2)
  let pos := bits b 0 h
  let len := bits b h h
  (pos, if pos < w then min len (w - pos) else 0)

def execBfx (pf : Option Pfx) (sc : BitVec 3) (d a b : BitVec 6) (s : State) : Out :=
  let i : Instr := .bfx pf sc d a b
  s.issue i fun s => s.bitOp i d fun w x y =>
    let (pos, n) := fieldOf w y
    if n == 0 then 0 else wrap w (ext (i.uBit) n (bits x pos n))

/-- Bits [pos + n − 1 : pos] replaced. -/
def putBits (x pos n v : Nat) : Nat := x - bits x pos n * 2 ^ pos + v % 2 ^ n * 2 ^ pos

def execBfi (pf : Option Pfx) (sc : BitVec 3) (d a b : BitVec 6) (s : State) : Out :=
  let i : Instr := .bfi pf sc d a b
  s.issue i fun s =>
    let w := i.width
    let x := s.src i .A
    let y := s.src i .B
    let z := s.src i .C
    s.giveLane i d w fun e =>
      let (pos, n) := fieldOf w (el w e y)
      putBits (el w e x) pos n (el w e z)

def popCount (w x : Nat) : Nat := ((List.range w).map fun j => x / 2 ^ j % 2).sum
def leadZeros (w x : Nat) : Nat := w - bitLen x
def revBits (w x : Nat) : Nat := buildNat 1 (fun j => x / 2 ^ (w - 1 - j) % 2) w

def execPopc (pf : Option Pfx) (sc : BitVec 3) (d a : BitVec 6) (s : State) : Out :=
  let i : Instr := .popc pf sc d a
  s.issue i fun s => s.bitOp i d fun w x _ => popCount w x

def execClz (pf : Option Pfx) (sc : BitVec 3) (d a : BitVec 6) (s : State) : Out :=
  let i : Instr := .clz pf sc d a
  s.issue i fun s => s.bitOp i d fun w x _ => leadZeros w x

def execBrev (pf : Option Pfx) (sc : BitVec 3) (d a : BitVec 6) (s : State) : Out :=
  let i : Instr := .brev pf sc d a
  s.issue i fun s => s.bitOp i d fun w x _ => revBits w x

/-! ## Addresses and packing (R126, R127) -/

def execLea (pf : Option Pfx) (sc : BitVec 3) (d a b : BitVec 6) (s : State) : Out :=
  let i : Instr := .lea pf sc d a b
  s.issue i fun s =>
    let x := s.src i .A
    let y := s.src i .B
    s.giveLane i d 64 fun e => (el 64 e x + el 64 e y * 2 ^ (i.x % 8)) % 2 ^ 64

/-- `pack`: the type names the wide format; the elements of A come first (R126). -/
def execPack (pf : Option Pfx) (sc : BitVec 3) (d a b : BitVec 6) (s : State) : Out :=
  let i : Instr := .pack pf sc d a b
  s.issue i fun s =>
    let w := i.width
    let u := i.uBit
    let n := 64 / w
    let x := s.src i .A
    let y := s.src i .B
    s.giveLane i d (w / 2) fun e =>
      let l := e / (2 * n)
      let j := e % (2 * n)
      let c := if j < n then el w (n * l + j) x else el w (n * l + j - n) y
      if i.mode == 1 then wrap (w / 2) (clampInt u (w / 2) (ext u w c)) else c % 2 ^ (w / 2)

/-- `unpk`: the lower or upper narrow elements of A, extended (R126). -/
def execUnpk (pf : Option Pfx) (sc : BitVec 3) (d a : BitVec 6) (s : State) : Out :=
  let i : Instr := .unpk pf sc d a
  s.issue i fun s =>
    let w := i.width
    let n := 64 / w
    let x := s.src i .A
    s.giveLane i d w fun e =>
      let l := e / n
      let j := e % n + (if i.mode == 1 then n else 0)
      wrap w (ext (i.uBit) (w / 2) (el (w / 2) (2 * n * l + j) x))

end Sys2Proof.Machine
end

