-- ==== Sys2Proof/Machine/LinkEvents.lean ====
section
/-! DEFINITION. The events of Yarrow links and of the pod: packets received and replayed, sectors of remote writes, ports retrained, and the
pod formed (R286, R287, R290, R294 to R296). -/

namespace Sys2Proof.Machine

/-! ## Receiving (R286) -/

/-- The acknowledgement of a packet sent on a port: it leaves the replay buffer; replays count for the packet at its head (R286). -/
def State.linkAck (s : State) (port seq : Nat) : State :=
  match (s.port port).buffer.find? fun q => q.seq == seq with
  | none => s
  | some q =>
    let head := ((s.port port).buffer.head?).any fun y => y.seq == seq
    (s.modPort port fun x => { x with buffer := x.buffer.filter fun y => y.seq != seq, replays := if head then 0 else x.replays }).collAcked q

/-- A packet kept for the command or the barrier that waits for it. -/
def State.keepPacket (s : State) (port : Nat) (pkt : Packet) : State := s.modPkg fun p => { p with inbox := p.inbox ++ [(port, pkt)] }

/-- Something is heard of the commands that a packet is for: of its ring, with its number, and with its port among those they listen on
(R290, R296). -/
def State.hear (s : State) (port : Nat) (pkt : Packet) : State :=
  let mine (x : Cmd) : Bool := isCollective x.instr && x.ringEnt.any fun r => x.mine r (port, pkt)
  let note (x : Cmd) : Cmd := if mine x then { x with heard := s.now } else x
  { s with crews := s.crews.map fun (c : Crew) => { c with tl := c.tl.map fun (t : Timeline) => { t with cmds := t.cmds.map note } } }

/-- A barrier packet goes on round its ring, until every other member has had it (log entry 13). -/
def State.passNotice (s : State) (port : Nat) (pkt : Packet) : State :=
  (List.range 4).foldl (fun s part =>
    match s.ring part pkt.ring with
    | some r => if r.rx.contains port && pkt.hop + 1 < r.n - 1 then s.send (r.tx.headD 0) { pkt with hop := pkt.hop + 1 } else s
    | none => s) s

/-- What a packet in its sequence does. -/
def State.takePacket (s : State) (port : Nat) (pkt : Packet) : State :=
  match pkt.kind with
  | .collective => (s.keepPacket port pkt).hear port pkt
  | .barrier =>
    let s := (s.keepPacket port pkt).passNotice port pkt
    (List.range s.bars.length).foldl State.podCheck s
  | .lput => s.keepPacket port pkt
  | .lputAck | .lputRefusal => s.lputReply pkt
  | .linkAck => s

/-- An uncorrectable error of a link: the receiver that finds it logs it, and the packet's payload carries the mark (R193). -/
def State.logLink (s : State) (port : Nat) (pkt : Packet) : State := if pkt.poison then s.rasEntry 2 (BitVec.ofNat 16 port) 0 else s

/-- The acknowledgement that a receiver sends back for a packet: acknowledgements are not kept in the replay buffer (R286). -/
def State.acknowledge (s : State) (port seq : Nat) : State := s.modPort port fun x => { x with acked := seq :: x.acked }

/-- YARROW_PACKET_RECEIVE: a packet in its sequence is taken and acknowledged; one that has come before is acknowledged again; one with a bad
CRC, or ahead of its sequence, changes nothing, and comes again (R286). -/
def execYarrowPacketReceive (port : Nat) (pkt : Packet) (s : State) : Out :=
  let q := s.port port
  if 16 ≤ port || !q.up || !pkt.crcOk then .next s
  else if pkt.kind == .linkAck then .next (s.linkAck port pkt.seq)
  else if pkt.seq < q.rxSeq then .next (s.acknowledge port pkt.seq)
  else if pkt.seq != q.rxSeq then .next s
  else .next ((((s.modPort port fun x => { x with rxSeq := x.rxSeq + 1 }).acknowledge port pkt.seq).logLink port pkt).takePacket port pkt)

/-- YARROW_REPLAY: the packet at the head of the replay buffer is sent again, unchanged; after the eighth replay that fails the port goes
down (R286) (log entry 34). -/
def execYarrowReplay (port : Nat) (s : State) : Out :=
  let q := s.port port
  if 16 ≤ port || !q.up || q.buffer.isEmpty then .next s
  else if q.replays < 8 then .next (s.modPort port fun x => { x with replays := x.replays + 1 })
  else .next ((s.modPort port fun x => { x with up := false }).rasEntry 3 (BitVec.ofNat 16 port) 0)

/-- YARROW_PORT_RETRAIN (R286) (log entry 34). -/
def execYarrowPortRetrain (port : Nat) (s : State) : Out :=
  .next (if (s.port port).up then s else s.modPort port fun x => { x with up := true, replays := 0 })

/-! ## Remote writes (R294) -/

/-- The answer to a sector of an `lput`: an acknowledgement, or a refusal with its cause. -/
def State.putAnswer (s : State) (pkt : Packet) (c d : BitVec 8) : Packet :=
  { s.blank (if c == 0 then .lputAck else .lputRefusal) 0 with
    dst := pkt.src, hop := pkt.hop, crew := pkt.crew, tl := pkt.tl, addr := pkt.addr, cause := c, sub := d }

/-- LPUT_SECTOR_RECEIVE: a sector that has come is written or refused, and the sender is told (R294). -/
def execLputSectorReceive (port : Nat) (pkt : Packet) (s : State) : Out :=
  if pkt.kind != .lput || !s.pkg.inbox.contains (port, pkt) then .next s
  else
    match s.putSector pkt with
    | .inr pa => .fault (.noDram pa)
    | .inl (t, c, d) =>
      let t := t.modPkg fun p => { p with inbox := p.inbox.erase (port, pkt) }
      let a := s.putAnswer pkt c d
      .next (if port == ownPort then t.lputReply a else t.send port a)

/-! ## The pod (R287) -/

/-- POD_FORMATION: Lupin firmware, once it runs, writes PODID. -/
def execPodFormation (pkg size : BitVec 8) (s : State) : Out :=
  .next (if s.pkg.boot == 2 then s.modPkg fun p => { p with podid := BitVec.ofNat 64 (pkg.toNat + 2 ^ 8 * size.toNat) } else s)

end Sys2Proof.Machine
end

