-- ==== Sys2Proof/Machine/MemoryEvents.lean ====
section
/-! DEFINITION. The events of rooms, reuse clocks, caches, translation and errors of memory (R169 to R173, R179, R182, R183, R193, R194, R200,
R205, R206, R220, R353). -/

namespace Sys2Proof.Machine

/-! ## Rooms (R200, R205, R206) -/

/-- DEMAND_ADMIT: an open room takes in its pending demands (R206). -/
def execDemandAdmit (ctx region : Nat) (s : State) : Out := .next (s.admitPending ctx region)

/-- The admission window of a region has passed (R205). -/
def Region.windowOver (r : Region) (now : Nat) : Bool := match r.window with | some w => decide (w ≤ now) | none => false

/-- ADMIT_WINDOW_EXPIRY (R205). -/
def execAdmitWindowExpiry (ctx region : Nat) (s : State) : Out :=
  let empty := s.occupants ctx region == 0
  .next (s.modRegion ctx region fun r =>
    if r.windowOver s.now then { r with admitting := false, window := none, drain := r.drain || (empty && r.competing) } else r)

/-- A drain can complete: it runs, and nobody is left in the room (R205). -/
def State.drainReady (s : State) (ctx region : Nat) : Bool :=
  match (s.ctx ctx).region region with | some r => r.drain && s.occupants ctx region == 0 | none => false

/-- DRAIN_COMPLETE (R205). -/
def execDrainComplete (ctx region : Nat) (s : State) : Out := .next (if s.drainReady ctx region then s.openNext ctx region else s)

/-- PARTIAL_FLUSH (R200). -/
def execPartialFlush (ctx region quad line : Nat) (s : State) : Out := .next (s.flushPartial ctx region quad line)

/-! ## Reuse clocks and stamps (R169, R171, R173) -/

/-- REUSE_EPOCH_TICK: the next epoch of 64 cycles begins; the epoch that ends counts for the crews that had a resident group in it (R169). -/
def execReuseEpochTick (s : State) : Out :=
  if s.now / 64 ≤ s.epoch then .next s
  else
    let crews := s.crews.mapIdx fun c x =>
      if x.paceSeen || s.crewResident c then { x with paceEpochs := x.paceEpochs + 1, paceSeen := false } else x
    .next { s with epoch := s.epoch + 1, crews := crews }.expireStamps

/-- CREWPACE_RECOMPUTE (R169). -/
def execCrewpaceRecompute (c : Nat) (s : State) : Out :=
  .next (s.modCrew c fun x =>
    if x.paceDue then { x with pace := BitVec.ofNat 16 (min (max x.paceEpochs 1) 0xFFFF), paceEpochs := 0, paceDue := false } else x)

/-- REUSEF_ADJUST (R173). -/
def execReusefAdjust (ctx : Nat) (s : State) : Out := .next (s.modCtx ctx fun c => if c.windowFull then c.adjustReuse else c)

/-- STAMP_SWEEP: an L1 by its quad, an L2 slice by 32·die + slice (R171). -/
def execStampSweep (l2 : Bool) (cache set : Nat) (s : State) : Out := .next (s.sweepSet (if l2 then 256 + cache else cache) set)

/-! ## Copies of DT lines (R183) -/

/-- A quad and a line between which a DT transaction can run: they belong to one partition, the home stands, and no SI copy of the line
exists. -/
def State.dtPossible (s : State) (quad part line : Nat) : Bool :=
  (s.part part).dies.getLsbD (dieOfQuad quad) && decide (256 * line < (s.part part).dramSize) && !s.lostHome part (256 * line) &&
    !s.cache.any fun c => c.cache < 256 && c.part == part && c.line == line && (match c.kind with | .si _ _ _ => true | _ => false)

/-- The state of a quad's copy of a line. -/
def State.dtState (s : State) (quad part line : Nat) : Moesi :=
  match s.copyIn quad part line with | some c => (match c.kind with | .dt m => m | _ => .I) | none => .I

/-- DT_READ_MISS, of the unit being issued (R183). -/
def execDtReadMiss (quad part line : Nat) (s : State) : Out :=
  let g := s.cur.g
  if s.dtPossible quad part line && s.dtState quad part line == .I then
    .next (s.touchDt quad part line ((s.clock (s.grp g).crew).stamp (s.ctxNo g) 15 false) false)
  else .next s

/-- DT_WRITE_OWNERSHIP, of the unit being issued (R183). -/
def execDtWriteOwnership (quad part line : Nat) (s : State) : Out :=
  let g := s.cur.g
  if s.dtPossible quad part line && s.dtState quad part line != .M then
    .next (s.touchDt quad part line ((s.clock (s.grp g).crew).stamp (s.ctxNo g) 15 false) true)
  else .next s

/-- DT_EVICTION: an unpinned copy leaves its L1; the home holds the data again (R183). -/
def execDtEviction (quad part line : Nat) (s : State) : Out :=
  match s.copyIn quad part line with
  | some c => (match c.kind with | .dt _ => .next (if c.pins == 0 then s.evictLine c else s) | _ => .next s)
  | none => .next s

/-! ## Translation (R179, R182) -/

/-- PAGE_WALK_COMPLETE (R179). -/
def execPageWalkComplete (quad ctx : Nat) (va : Word) (s : State) : Out :=
  .next (if (s.ctx ctx).live then s.fillTlb quad ctx va.toNat else s)

/-- SHOOTDOWN_COMPLETE, requested by Lupin: no access of the context that may have used a removed entry is in flight (R182). -/
def execShootdownComplete (ctx start len : Nat) (s : State) : Out := .next (if s.inFlight ctx s.now then s else s.shoot ctx start len)

/-! ## Errors (R193, R194, R353) -/

/-- The place holds a sector. -/
def State.spotStands (s : State) (x : Spot) : Bool :=
  match x with
  | .home part sec => decide (32 * sec < (s.part part).dramSize)
  | .si quad part sec => (s.siCopy quad part (sec / 8)).isSome
  | .copy quad part sec => decide (part < 4) && s.holdsDt quad part (32 * sec)
  | .accum ctx region quad sec => (s.ctx ctx).partials.any fun p => p.region == region && p.quad == quad && p.line == sec / 8
  | .replica ctx quad sec => (s.ctx ctx).halos.any fun h => h.2.replicas.any fun r => r.quad == quad && r.sector == sec
  | .scratch crew sec => !(s.crew crew).retired && decide (32 * sec < (s.crew crew).window)
  | .const quad sec => decide (quad < 256) && decide (32 * sec < 131072)

/-- The address field of the log entry of an uncorrectable error: the sector's physical address in DRAM, and what the event names elsewhere,
where R353 gives the field no layout (log entry 57). -/
def spotAddr (addr : Word) : Spot → Word
  | .home _ n => BitVec.ofNat 64 (32 * n)
  | .si _ _ _ | .copy _ _ _ | .accum _ _ _ _ | .replica _ _ _ | .scratch _ _ | .const _ _ => addr

/-- ECC_UNCORRECTABLE: a sector of DRAM, of a cache or of an SRAM is poisoned, and logged unless it was poisoned already (R193, R353) (log entry 57). -/
def execEccUncorrectable (spot : Spot) (source : BitVec 16) (addr : Word) (s : State) : Out :=
  if !s.spotStands spot || s.poison.contains spot then .next s
  else .next ({ s with poison := spot :: s.poison }.rasEntry 2 source (spotAddr addr spot))

/-- A copy in an L1 of a line whose home stands beside a die (R194). -/
def State.homedAt (s : State) (die : Nat) (c : CLine) : Bool :=
  c.cache < 256 && c.part < 4 && s.homeDie c.part (256 * c.line) == die && (match c.kind with | .dt .I => false | .dt _ => true | _ => false)

/-- An M or O copy in a surviving L1 becomes orphaned: its data is kept for its quad, and its address is logged (R194, R354) (log entry 20). -/
def State.orphan (s : State) (c : CLine) : State :=
  let data := imgOf (s.readDram c.part (256 * c.line) 256)
  let s := { s with orphans := s.orphans ++ [(2 ^ 40 * c.part + c.line, c.cache, data)] }
  (s.modPkg fun p => { p with orphanLog := p.orphanLog ++ [(c.part, BitVec.ofNat 64 (256 * c.line))], orphn := p.orphn + 1 }).msi 2

/-- DIE_FAILURE (R194, R353) (log entry 20). -/
def execDieFailure (die : Nat) (s : State) : Out :=
  if 4 ≤ die || s.deadDies.contains die then .next s
  else
    let s := ({ s with deadDies := die :: s.deadDies }.rasEntry 4 (BitVec.ofNat 16 die) 0)
    let owned (c : CLine) : Bool := s.homedAt die c && dieOfQuad c.cache != die && (c.kind == .dt .M || c.kind == .dt .O)
    let t := (s.cache.filter owned).foldl State.orphan s
    .next (t.filterCache fun c => if owned c then none else if s.homedAt die c then c.lose else some c)

/-- A corrected error of the same location within 1 ms (R353). -/
def RasEnt.same (now limit : Nat) (source : BitVec 16) (loc : Word) (e : RasEnt) : Bool :=
  e.kind == 1 && e.source == source && e.addr == loc && decide (now - e.cycle ≤ limit)

/-- CORRECTED_ECC_ERROR: a new entry of the log, or a repeat counted in an entry (R353). -/
def execCorrectedEccError (source : BitVec 16) (loc : Word) (s : State) : Out :=
  match findIx (RasEnt.same s.now (1000 * s.cyclesPerUs) source loc) s.pkg.ras with
  | some (k, _) => .next (s.modPkg fun p => { p with ras := modAt (fun e : RasEnt => { e with repeats := e.repeats + 1 }) k p.ras })
  | none => .next (s.rasEntry 1 source loc)

/-! ## Writes from outside (R220, R346, R349) -/

/-- Bytes from an address up, cut at the ends of lines. -/
def cutLines : Nat → Nat → List Byte → List (Nat × List Byte)
  | 0, _, _ => []
  | _, _, [] => []
  | n + 1, a, bs => (a, bs.take (256 - a % 256)) :: cutLines n (a + (256 - a % 256)) (bs.drop (256 - a % 256))

/-- The strip sectors of a partition's tiles that a written sector is count as written (R192). -/
def State.noteStrips (s : State) (part pa : Nat) : State :=
  let at_ (k sec : Nat) : Bool := match s.walk k (32 * sec) with | .page x => !x.host && x.pa / 32 == pa / 32 | _ => false
  let note (k : Nat) (h : Halo) : Halo :=
    { h with stale := (h.replicas.map (·.sector)).foldl (fun acc sec => if at_ k sec then addNo sec acc else acc) h.stale }
  { s with ctxs := s.ctxs.mapIdx fun k c => if c.live && c.part == part then { c with halos := c.halos.map fun h => (h.1, note k h.2) } else c }

/-- A write into device memory: whole sectors lose their poison, and no sector carries a mark (R193, R220) (log entry 33). -/
def State.outerWrite (s : State) (part addr : Nat) (bs : List Byte) : State :=
  let s := (cutLines (bs.length + 1) addr bs).foldl (fun s p => s.physWrite part p.1 p.2) s
  let lo := addr / 32
  let secs := (List.range ((addr + bs.length + 31) / 32 - lo)).map fun k => lo + k
  let s := secs.foldl (fun s k => s.noteStrips part (32 * k)) s
  (secs.filter fun k => decide (addr ≤ 32 * k) && decide (32 * k + 32 ≤ addr + bs.length)).foldl (fun s k => s.clearPoison part (32 * k)) s

/-- The writable bytes of the mailbox, from offset 0x800 (R349). -/
def Mailbox.bytes (m : Mailbox) : List Byte := leBytes 8 m.cmd.toNat ++ leBytes 8 m.src.toNat ++ leBytes 8 m.len.toNat

/-- The mailbox with bytes written from an offset of BAR 4: it may be written only in recovery, and a command only while none runs; 1 and 2
start one (R349). -/
def Mailbox.write (m : Mailbox) (off : Nat) (bs : List Byte) : Mailbox :=
  let new := (List.range 24).map fun k =>
    if off ≤ 0x800 + k && 0x800 + k < off + bs.length then bs.getD (0x800 + k - off) 0 else m.bytes.getD k 0
  let w (j : Nat) : Nat := leNat ((new.drop (8 * j)).take 8)
  let m' : Mailbox := { m with src := BitVec.ofNat 64 (w 1), len := BitVec.ofNat 32 (w 2) }
  if off ≤ 0x800 && 0x800 < off + bs.length && m.state != 1 then
    let c := BitVec.ofNat 2 (w 0)
    if c == 1 || c == 2 then { m' with cmd := c, state := 1, fetch := m'.len, from_ := m'.src } else { m' with cmd := c }
  else m'

/-- The status block up to its last field: BOOT and PARTS, DROPQ, PWR, RASN, ORPHN (R345). -/
def State.statusBlock (s : State) : List Byte :=
  leBytes 8 (s.pkg.boot + 2 ^ 8 * (s.parts.filter Partition.live).length) ++ leBytes 8 s.pkg.dropq.toNat ++ leBytes 8 s.pkg.pwrst.toNat ++
    leBytes 8 s.pkg.rasn ++ leBytes 8 s.pkg.orphn

/-- A byte of BAR 4 as the host reads it: the status block, then the mailbox, which reads as zero outside recovery (R345, R349). -/
def State.bar4 (s : State) (off : Nat) : Byte :=
  if off < 0x800 then s.statusBlock.getD off 0
  else if s.pkg.boot == 3 then (s.pkg.mailbox.bytes ++ leBytes 8 s.pkg.mailbox.state.toNat).getD (off - 0x800) 0
  else 0

/-- A byte of BAR 2 as the host reads it: the queue descriptors of a partition, as Bracken knows them; the host cannot write there (R298, R343)
(log entry 33). -/
def State.bar2 (s : State) (part off : Nat) : Byte :=
  let d := s.queue part (off / 64)
  (leBytes 8 d.w0 ++ leBytes 8 d.w1 ++ leBytes 8 d.rptr ++ leBytes 8 d.wptr ++ leBytes 8 d.lastBad ++ leBytes 24 d.rest).getD (off % 64) 0

/-- Writes into the MSI-X table, 16 bytes for a vector, with its mask in bit 0 of the word at byte 12, as PCI Express has it (R343, R344)
(PRESUMED, log entry 33). -/
def State.msixWrite (s : State) (off : Nat) (bs : List Byte) : State :=
  bs.zipIdx.foldl (fun s p =>
    let at_ := off + p.2
    if at_ % 16 == 12 && at_ / 16 < 2048 then (if p.1.getLsbD 0 then s.msiMask (at_ / 16) else s.msiUnmask (at_ / 16)) else s) s

/-- What an atomic from outside makes of a value of n bytes: its operands are one value, or, for CAS, the value compared and the one to be stored
(R343). -/
def hostOpResult (op : HostOp) (n old : Nat) (bs : List Byte) : Nat :=
  match op with
  | .fetchAdd => (old + leNat bs) % 2 ^ (8 * n)
  | .swap => leNat bs
  | .cas => if old == leNat (bs.take n) then leNat (bs.drop n) else old
  | .write => old

/-- An atomic from outside on an aligned 32-bit or 64-bit value of device memory, which returns the old value (R343). -/
def State.outerAtomic (s : State) (part addr : Nat) (op : HostOp) (bs : List Byte) : State :=
  let n := if op == .cas then bs.length / 2 else bs.length
  if !(n == 4 || n == 8) || addr % n != 0 || (op == .cas && bs.length % 2 != 0) then s
  else
    let old := leNat (s.homeRead part addr n)
    (s.outerWrite part addr (leBytes n (hostOpResult op n old bs))).modPkg fun p => { p with replies := BitVec.ofNat 64 old :: p.replies }

/-- Lupin's I/O translation of an address of a context, for a device behind a root port: the walk of the context's table and its permission
checks (R176, R180, R346). -/
def State.ioReach (s : State) (ctx : Nat) (k : Kind) (va : Nat) : Reach :=
  let c := s.ctx ctx
  if 2 ^ 52 ≤ va then .fault cPROT 0x04
  else
    match s.permit ctx (!c.isSys) k (s.walk ctx va) with
    | .ok x => if !x.host && s.lostHome c.part x.pa then .fault cHOMELOST 0x00 else .ok x
    | r => r

/-- A write by a device through that translation: one that faults anywhere writes nothing (log entry 33). -/
def State.ioWrite (s : State) (ctx va : Nat) (bs : List Byte) : Out :=
  let ps := cutLines (bs.length + 1) va bs
  match ps.findSome? fun p => match s.ioReach ctx .store p.1 with | .void pa => some pa | _ => none with
  | some pa => .fault (.noDram pa)
  | none =>
    let found := ps.filterMap fun p => match s.ioReach ctx .store p.1 with | .ok x => some (x, p.2) | _ => none
    .next (if found.length != ps.length then s
      else found.foldl (fun s p => if p.1.host then s.homeWrite 4 p.1.pa p.2 else s.outerWrite (s.ctx ctx).part p.1.pa p.2) s)

/-- The bytes that a device reads through that translation; none where it faults. -/
def State.ioRead (s : State) (ctx va n : Nat) : Option (List Byte) :=
  let at_ (k : Nat) : Option Byte :=
    match s.ioReach ctx .load (va + k) with
    | .ok x => (s.homeRead (cachePart (s.ctx ctx).part x) x.pa 1).head?
    | _ => none
  (List.range n).foldl (fun acc k => acc.bind fun l => (at_ k).map fun b => l ++ [b]) (some [])

/-- HOST_MEMORY_WRITE: a write, or an atomic, from the host, from Lupin or from a device behind a root port (R187, R220, R343, R344, R346,
R349) (log entry 33). -/
def execHostMemoryWrite (dst : Outer) (addr : Nat) (bytes : List Byte) (s : State) : Out :=
  match dst with
  | .memory part op =>
    if (s.part part).dramSize < addr + bytes.length || bytes.isEmpty then .next s
    else .next (if op == .write then s.outerWrite part addr bytes else s.outerAtomic part addr op bytes)
  | .host => .next (if addr + bytes.length ≤ 2 ^ 48 then s.homeWrite 4 addr bytes else s)
  | .bar2 => .next s
  | .bar4 => .next (if s.pkg.boot == 3 then s.modPkg fun p => { p with mailbox := p.mailbox.write addr bytes } else s)
  | .msix => .next (s.msixWrite addr bytes)
  | .device part id =>
    match s.findCtx part id.toNat with
    | none => .next s
    | some c => s.ioWrite c addr bytes

end Sys2Proof.Machine
end

