-- ==== Sys2Proof/Machine/PackageEvents.lean ====
section
/-! DEFINITION. The events of the package: boot, recovery and attestation, the clock, MSI-X, contexts, partitions and their swap (R25,
R175, R216, R328, R338 to R354). -/

namespace Sys2Proof.Machine

/-! ## Boot, recovery, attestation (R347 to R350) -/

/-- BOOT changes (R344, R345). -/
def State.setBoot (s : State) (n : Nat) : State := (s.modPkg fun p => { p with boot := n }).msi 0

/-- The image in flash. -/
def Package.image (p : Package) : List Byte := p.flash.getD Config.firmwareImage

/-- What the ROM finds of an image, as STATE shows it: 2 verified, 3 signature rejected, 4 version below the fused minimum (R347, R349). -/
def verdict (image : List Byte) : BitVec 3 :=
  if !Config.imageSigned image then 3 else if Config.imageVersion image < Config.firmwareMinVersion then 4 else 2

/-- BOOT: the ROM verifies the image in flash, and runs it or enters recovery; the firmware that runs forms one partition of the four dies, with
its queue table, where none stands (R299, R347, R348; log entry 19). -/
def execBoot (qtbase : Word) (s : State) : Out :=
  if 2 ≤ s.pkg.boot then .next s
  else
    let s := if s.pkg.boot == 0 then s.setBoot 1 else s
    if verdict s.pkg.image != 2 then .next (s.setBoot 3)
    else
      let s := s.setBoot 2
      .next (if s.parts.any Partition.live then s else { s with parts := Partition.fresh 0 0xF qtbase :: List.replicate 3 Partition.reset })

/-- The length of the image that the mailbox's command fetches is one that it accepts. -/
def Mailbox.lenOk (m : Mailbox) : Bool := m.fetch.toNat % 4096 == 0 && decide (m.fetch.toNat ≤ 64 * 2 ^ 20)

/-- A recovery command ends: with what it has fetched verified and written to flash, whereupon the boot begins again, or with the image
rejected, the transfer failed or the length bad (R348, R349). -/
def State.recover (s : State) (cmd : BitVec 2) (fetched : Option (List Byte)) : State :=
  let m := s.pkg.mailbox
  if s.pkg.boot != 3 || m.cmd != cmd || m.state != 1 then s
  else
    match (if m.lenOk then fetched.filter fun b => b.length == m.fetch.toNat else none) with
    | none => s.modPkg fun p => { p with mailbox := { m with state := 5 } }
    | some image =>
      let r := verdict image
      let s := s.modPkg fun p => { p with mailbox := { m with state := r }, flash := if r == 2 then some image else p.flash }
      if r == 2 then s.setBoot 1 else s

/-- RECOVERY_FETCH_HOST: LEN bytes of host memory from SRC on; an image beyond the host window is a transfer error (R343, R349). -/
def execRecoveryFetchHost (failed : Bool) (s : State) : Out :=
  let m := s.pkg.mailbox
  let n := if m.lenOk then m.fetch.toNat else 0
  .next (s.recover 1 (if failed || decide (2 ^ 48 < m.from_.toNat + n) then none else some (Mem.read s.hostMem m.from_.toNat n)))

/-- RECOVERY_FETCH_NVME (R349). -/
def execRecoveryFetchNvme (image : Option (List Byte)) (s : State) : Out := .next (s.recover 2 image)

/-- The bytes that an attestation report signs: hash, version, minimum version, die masks, nonce (R350; log entry 8 for their layout). -/
def reportBytes (image : List Byte) (config : List (BitVec 4)) (nonce : List Byte) : List Byte :=
  Config.imageHash image ++ leBytes 8 (Config.imageVersion image) ++ leBytes 8 Config.firmwareMinVersion ++ config.map (fun m => m.zeroExtend 8) ++ nonce

/-- ATTESTATION_REPORT, on the image in flash: the nonce has 64 bytes (R350). -/
def execAttestationReport (nonce : List Byte) (s : State) : Out :=
  if s.pkg.boot != 2 || nonce.length != 64 then .next s
  else
    let im := s.pkg.image
    let config := (s.parts.filter Partition.live).map Partition.dies
    let r : Report := ⟨Config.imageHash im, Config.imageVersion im, Config.firmwareMinVersion, config, nonce, Config.signature (reportBytes im config nonce)⟩
    .next (s.modPkg fun p => { p with reports := r :: p.reports })

/-! ## The clock and MSI-X (R344, R351) -/

/-- CLOCK_STEP_CHANGE: step 3 is not used (R351). -/
def execClockStepChange (stepNo : BitVec 2) (pcap tcap : Bool) (s : State) : Out :=
  let v : Word := BitVec.ofNat 64 (stepNo.toNat + 2 ^ 2 * pcap.toNat + 2 ^ 3 * tcap.toNat)
  .next (if stepNo == 3 || v == s.pkg.pwrst then s else (s.modPkg fun p => { p with pwrst := v }).msi 5)

/-- MSIX_VECTOR_UNMASK: a pending event is raised (R344). The host masks a vector again by a write into the MSI-X table. -/
def execMsixVectorUnmask (vec : Nat) (s : State) : Out := .next (s.msiUnmask vec)

/-! ## Contexts (R25, R175, R216, R337) -/

/-- A context as the runtime sets it up (R25, R113, R174, R178, R209, R330, R337). -/
def Context.created (part image : Nat) (ctxid : BitVec 16) (sys : Bool) (root savebase : Word) : Context :=
  { Context.fresh part (BitVec.ofNat 64 (ctxid.toNat + 2 ^ 16 * sys.toNat)) with
    image := image
    xlbase := (root &&& 0xFFFFFFFF0000#64) ||| 1#64
    savebase := savebase &&& 0xFFFFFFFFF0000#64
    pinq := 0x20000800
    roomtmo := 0x04000000 }

/-- CONTEXT_CREATE: in a partition that accepts contexts, under an identifier that no context of it has. -/
def execContextCreate (part : Nat) (ctxid : BitVec 16) (sys : Bool) (root savebase : Word) (s : State) : Out :=
  let p := s.part part
  if s.pkg.boot != 2 || !p.live || p.quiesce.isSome || p.swapped || (s.findCtx part ctxid.toNat).isSome then .next s
  else .next { s with ctxs := s.ctxs ++ [Context.created part p.image ctxid sys root savebase] }

/-- Nothing of a context is under way: no crew, no task, no graph node. -/
def State.ctxIdle (s : State) (ctx : Nat) : Bool :=
  s.crews.all (fun c => c.retired || c.ctx != ctx) && s.tasks.all (fun t => t.complete || t.ctx != ctx) &&
    s.parts.all fun p => p.nodes.all fun n => n.ctx != ctx

/-- A way without its context: pins released, partial and replica lines gone, ways that only a pin kept given up (R175, R191, R216). -/
def CLine.release (ctx : Nat) (c : CLine) : Option CLine :=
  let c := if c.pinCtx == ctx then { c with pins := 0 } else c
  match c.kind with
  | .accum _ => if c.ctx == ctx then none else some c
  | .halo => if c.ctx == ctx then none else some c
  | .dt .I => if c.pins == 0 then none else some c
  | .si _ _ false => if c.pins == 0 then none else some c
  | _ => some c

/-- CONTEXT_DESTROY (R175, R216; log entry 19). -/
def execContextDestroy (ctx : Nat) (s : State) : Out :=
  if !(s.ctx ctx).live || !s.ctxIdle ctx then .next s
  else .next ((s.filterCache (CLine.release ctx)).modCtx ctx fun c =>
    { c with live := false, partials := [], regions := [], tensors := [], halos := [], tapeRun := none })

/-! ## Partitions (R338 to R342) -/

/-- One die, two adjacent dies, or four (R338). -/
def legalDies (m : BitVec 4) : Bool := [1, 2, 4, 8, 3, 12, 5, 10, 15].contains m.toNat

/-- A configuration: the die masks of partitions 0 to 3, 0 for none; they share no die and cover all four (R338). -/
def legalConfig (ms : List (BitVec 4)) : Bool :=
  ms.length == 4 && (ms.all fun m => m == 0 || legalDies m) && (ms.map fun m => m.toNat).sum == 15 &&
    (List.range 4).all fun d => (ms.filter fun m => m.getLsbD d).length == 1

/-- The partitions that a configuration changes. -/
def State.changed (s : State) (ms : List (BitVec 4)) : List Nat :=
  (List.range 4).filter fun k => (if (s.part k).live then (s.part k).dies else 0) != ms.getD k 0

/-- A queue has V = 0, or no packet and no placed crew (R341). -/
def State.queueIdle (s : State) (part q : Nat) : Bool :=
  let d := s.queue part q
  !bitAt d.w0 0 || (d.held == 0 && s.tasks.all fun t => t.complete || t.source != .queue part q)

/-- A partition is quiet: its queues are, and no crew of it is unfinished, whatever launched it (log entry 19). -/
def State.partQuiet (s : State) (part : Nat) : Bool :=
  ((s.listedQueues part).all fun q => s.queueIdle part q) && s.crews.all fun c => c.retired || (s.ctx c.ctx).part != part

/-- QTMO in cycles: 10 ms. -/
def State.qtmo (s : State) : Nat := 10000 * s.cyclesPerUs

/-- A place belongs to a partition: its DRAM, its quads' copies and constant stores, its contexts' replicas, its crews' scratchpads. -/
def State.spotIn (s : State) (part : Nat) (x : Spot) : Bool :=
  let mine (q : Nat) : Bool := (s.part part).dies.getLsbD (dieOfQuad q)
  match x with
  | .home p _ => p == part
  | .si q _ _ | .copy q _ _ => mine q
  | .accum ctx _ _ _ => (s.ctx ctx).part == part
  | .replica ctx _ _ => (s.ctx ctx).part == part
  | .scratch crew _ => (s.ctx (s.crew crew).ctx).part == part
  | .const q _ => mine q

/-- The DRAM, constant stores, caches, marks, poison, orphaned copies and logged orphans of a partition are gone, and its contexts with
their partials and regions (R216, R340, R354). -/
def State.wipe (s : State) (part : Nat) : State :=
  let dies := (s.part part).dies
  let mine (q : Nat) : Bool := dies.getLsbD (dieOfQuad q)
  let s := s.modPkg fun p => { p with orphanLog := p.orphanLog.filter fun o => o.1 != part }
  { s with
    dram := Mem.clear (dramKey part 0) (2 ^ 48) s.dram
    const := s.const.filter fun c => !mine (c.1 / 131072)
    cache := s.cache.filter fun c => !(if c.cache < 256 then mine c.cache else dies.getLsbD ((c.cache - 256) / 32))
    tlb := s.tlb.filter fun t => (s.ctx t.ctx).part != part
    marks := s.marks.filter fun m => m.1 / 2 ^ 43 != part
    poison := s.poison.filter fun k => !s.spotIn part k
    deadDies := s.deadDies.filter fun d => !dies.getLsbD d
    orphans := s.orphans.filter fun o => o.1 / 2 ^ 40 != part
    ibuf := s.ibuf.filter fun b => !mine (quadOfCore b.core)
    ctxs := s.ctxs.map fun c => if c.part == part then { c with live := false, partials := [], regions := [] } else c }

/-- Steps 3 to 5 of R341 for the partitions that change; each new one has its queue table (R299). -/
def State.reform (s : State) (ms : List (BitVec 4)) (bases : List Word) : State :=
  let ks := s.changed ms
  let s := ks.foldl State.wipe s
  let new (k : Nat) : Partition := if ms.getD k 0 == 0 then Partition.reset else Partition.fresh (BitVec.ofNat 2 k) (ms.getD k 0) (bases.getD k 0)
  let s := { s with parts := s.parts.mapIdx fun k p => if ks.contains k then new k else p }
  s.modPkg fun p => { p with reconfig := none }

/-- PARTITION_RECONFIG: a request begins the quiesce handshake; once the partitions it changes are quiet, it is carried out (R341). -/
def execPartitionReconfig (config : List (BitVec 4 × Word)) (s : State) : Out :=
  let masks := config.map Prod.fst
  match s.pkg.reconfig with
  | none =>
    if s.pkg.boot != 2 || !legalConfig masks || (s.changed masks).isEmpty then .next s
    else
      let ks := s.changed masks
      let ask (p : Partition) : Partition := { p with quiesce := some (s.now + s.qtmo) }
      let t := { s with parts := s.parts.mapIdx fun k p => if ks.contains k then ask p else p }
      .next (t.modPkg fun p => { p with reconfig := some ⟨masks, config.map Prod.snd, s.now⟩ })
  | some r => .next (if (s.changed r.masks).all s.partQuiet then s.reform r.masks r.bases else s)

/-- QTMO has run out before the partitions were quiet. -/
def State.quiesceOver (s : State) (r : Reconfig) : Bool :=
  !(s.changed r.masks).all s.partQuiet && s.parts.any fun p => match p.quiesce with | some q => decide (q ≤ s.now) | none => false

/-- QUIESCE_TIMEOUT: the request is refused, and dispatch resumes (R341). -/
def execQuiesceTimeout (s : State) : Out :=
  match s.pkg.reconfig with
  | none => .next s
  | some r =>
    if !s.quiesceOver r then .next s
    else
      let free (p : Partition) : Partition := { p with quiesce := none }
      let t := { s with parts := s.parts.map free }
      .next (t.modPkg fun p => { p with reconfig := none })

/-- The groups of a partition on its cores. -/
def State.groupsOf (s : State) (part : Nat) : List Nat :=
  (List.range s.groups.length).filter fun g => (s.grp g).place == .resident && (s.grp g).shadow.isNone && s.groupPart (s.grp g) == part

/-- The crew state of an image leaves for its reserved DRAM area: no crew of it keeps a window or an engine context on its quad (R328, R342;
log entry 53). -/
def State.storeImage (s : State) (part image : Nat) : State :=
  let mine (c : Crew) : Bool := let x := s.ctx c.ctx; !c.retired && x.part == part && x.image == image
  { s with crews := s.crews.map fun c => if mine c then { c with granules := [], tl := c.tl.map Timeline.saved } else c }

/-- The crew state of the image that is restored: crews whose groups have all exited come back with it, the others with a group of theirs
(R309, R328, R342). -/
def State.restoreImage (s : State) (part : Nat) : State :=
  (List.range s.crews.length).foldl (fun s c =>
    let x := s.crew c
    if (s.ctx x.ctx).part == part && s.crewStands c && x.granules.isEmpty then ((s.loadImage x.quad x.cimg).takeGranules c).getD s else s) s

/-- PARTITION_SWAP: out, every group is pre-empted and nothing of the partition runs; in, an image is restored: the same one, whose state goes
on, or another, whose contexts do (R342; log entry 53). A group whose pre-emption is deferred runs on until the deferral ends. -/
def execPartitionSwap (swap : Nat × Nat) (s : State) : Out :=
  let part := swap.1
  let old := (s.part part).image
  if !(s.part part).live then .next s
  else if !(s.part part).swapped then
    .next ((s.groupsOf part).foldl State.preemptGroup (s.modPart part fun p => { p with swapped := true }))
  else if !(s.groupsOf part).isEmpty then .next s
  else
    let t := s.modPart part fun p => { p with swapped := false, image := swap.2 }
    .next (if old == swap.2 then t else (t.storeImage part old).restoreImage part)

end Sys2Proof.Machine
end

