-- ==== Sys2Proof/Machine/Uniform.lean ====
section
/-! DEFINITION. The uniform integer instructions (R128, R129): one 64-bit scalar of the lowest active lane, for all 32 lanes. -/

namespace Sys2Proof.Machine

/-- A scalar result for every lane of D. -/
def State.giveAll (s : State) (i : Instr) (d : BitVec 6) (v : Word) : Out := .next (s.finish i d (uniResult v) s.cur.lanes)

/-- A result of A and B in the lowest active lane. -/
def State.uniOp2 (s : State) (i : Instr) (d : BitVec 6) (f : Word → Word → Word) : Out :=
  s.giveAll i d (f (s.scal i .A) (s.scal i .B))

/-- `smov` (R128). -/
def execSmov (sc : BitVec 3) (d : BitVec 6) (n : BitVec 12) (s : State) : Out :=
  let i : Instr := .smov sc d n
  s.issue i fun s => s.giveAll i d (n.signExtend 64)

def execSadd (sc : BitVec 3) (d a b : BitVec 6) (s : State) : Out :=
  let i : Instr := .sadd sc d a b
  s.issue i fun s => s.uniOp2 i d fun x y => x + y

def execSsub (sc : BitVec 3) (d a b : BitVec 6) (s : State) : Out :=
  let i : Instr := .ssub sc d a b
  s.issue i fun s => s.uniOp2 i d fun x y => x - y

def execSmul (sc : BitVec 3) (d a b : BitVec 6) (s : State) : Out :=
  let i : Instr := .smul sc d a b
  s.issue i fun s => s.uniOp2 i d fun x y => x * y

/-- `smad`: D is read as a source. -/
def execSmad (sc : BitVec 3) (d a b : BitVec 6) (s : State) : Out :=
  let i : Instr := .smad sc d a b
  s.issue i fun s => s.uniOp2 i d fun x y => x * y + s.scal i .D

def execSand (sc : BitVec 3) (d a b : BitVec 6) (s : State) : Out :=
  let i : Instr := .sand sc d a b
  s.issue i fun s => s.uniOp2 i d fun x y => x &&& y

def execSor (sc : BitVec 3) (d a b : BitVec 6) (s : State) : Out :=
  let i : Instr := .sor sc d a b
  s.issue i fun s => s.uniOp2 i d fun x y => x ||| y

def execSxor (sc : BitVec 3) (d a b : BitVec 6) (s : State) : Out :=
  let i : Instr := .sxor sc d a b
  s.issue i fun s => s.uniOp2 i d fun x y => x ^^^ y

/-- The shifts give 0 for a count of 64 or more. -/
def execSshl (sc : BitVec 3) (d a b : BitVec 6) (s : State) : Out :=
  let i : Instr := .sshl sc d a b
  s.issue i fun s => s.uniOp2 i d fun x y => if y.toNat < 64 then x <<< y.toNat else 0

def execSshr (sc : BitVec 3) (d a b : BitVec 6) (s : State) : Out :=
  let i : Instr := .sshr sc d a b
  s.issue i fun s => s.uniOp2 i d fun x y => if y.toNat < 64 then x >>> y.toNat else 0

def execSmin (sc : BitVec 3) (d a b : BitVec 6) (s : State) : Out :=
  let i : Instr := .smin sc d a b
  s.issue i fun s => s.uniOp2 i d fun x y => if x.toInt ≤ y.toInt then x else y

def execSmax (sc : BitVec 3) (d a b : BitVec 6) (s : State) : Out :=
  let i : Instr := .smax sc d a b
  s.issue i fun s => s.uniOp2 i d fun x y => if x.toInt ≤ y.toInt then y else x

/-- `scmp`: equal, less signed, less unsigned (R129). -/
def execScmp (sc : BitVec 3) (d a b : BitVec 6) (s : State) : Out :=
  let i : Instr := .scmp sc d a b
  s.issue i fun s => s.uniOp2 i d fun x y =>
    BitVec.ofNat 64 ((x == y).toNat + 2 * (decide (x.toInt < y.toInt)).toNat + 4 * (decide (x.toNat < y.toNat)).toNat)

/-- `ssel`: the old D is the condition (R129). -/
def execSsel (sc : BitVec 3) (d a b : BitVec 6) (s : State) : Out :=
  let i : Instr := .ssel sc d a b
  s.issue i fun s => s.uniOp2 i d fun x y => if s.scal i .D != 0 then x else y

def execSlea (sc : BitVec 3) (d a b : BitVec 6) (s : State) : Out :=
  let i : Instr := .slea sc d a b
  s.issue i fun s => s.uniOp2 i d fun x y => x + (y <<< (3 : Nat))

end Sys2Proof.Machine
end

