-- ==== Sys2Proof/Machine/Dispatch.lean ====
section
/-! DEFINITION. The dispatch: one arm per constructor of `Instr`, each a call of the meaning of that row. -/

namespace Sys2Proof.Machine

/-- What an instruction or an event does to the machine. -/
def exec (i : Instr) (s : State) : Host.Outcome State Fault Refusal :=
  match i with
  | .nop sc => Sys2Proof.Machine.execNop sc s
  | .brl sc k p => Sys2Proof.Machine.execBrl sc k p s
  | .jmpl sc a => Sys2Proof.Machine.execJmpl sc a s
  | .callv sc d a => Sys2Proof.Machine.execCallv sc d a s
  | .ret sc a => Sys2Proof.Machine.execRet sc a s
  | .fcall sc d a b => Sys2Proof.Machine.execFcall sc d a b s
  | .fsync sc => Sys2Proof.Machine.execFsync sc s
  | .fsyncSq sc => Sys2Proof.Machine.execFsyncSq sc s
  | .fhint sc a b => Sys2Proof.Machine.execFhint sc a b s
  | .voteAny sc d k j => Sys2Proof.Machine.execVoteAny sc d k j s
  | .voteAll sc d k j => Sys2Proof.Machine.execVoteAll sc d k j s
  | .voteBallot sc d k j => Sys2Proof.Machine.execVoteBallot sc d k j s
  | .brk sc c => Sys2Proof.Machine.execBrk sc c s
  | .exit sc => Sys2Proof.Machine.execExit sc s
  | .mov pf sc d a => Sys2Proof.Machine.execMov pf sc d a s
  | .movi pf sc d x => Sys2Proof.Machine.execMovi pf sc d x s
  | .iadd pf sc d a b => Sys2Proof.Machine.execIadd pf sc d a b s
  | .iaddc pf sc d a b => Sys2Proof.Machine.execIaddc pf sc d a b s
  | .isub pf sc d a b => Sys2Proof.Machine.execIsub pf sc d a b s
  | .imul pf sc d a b => Sys2Proof.Machine.execImul pf sc d a b s
  | .imulh pf sc d a b => Sys2Proof.Machine.execImulh pf sc d a b s
  | .imad pf sc d a b => Sys2Proof.Machine.execImad pf sc d a b s
  | .idot pf sc d a b => Sys2Proof.Machine.execIdot pf sc d a b s
  | .iand pf sc d a b => Sys2Proof.Machine.execIand pf sc d a b s
  | .ior pf sc d a b => Sys2Proof.Machine.execIor pf sc d a b s
  | .ixor pf sc d a b => Sys2Proof.Machine.execIxor pf sc d a b s
  | .shl pf sc d a b => Sys2Proof.Machine.execShl pf sc d a b s
  | .shr pf sc d a b => Sys2Proof.Machine.execShr pf sc d a b s
  | .sar pf sc d a b => Sys2Proof.Machine.execSar pf sc d a b s
  | .imin pf sc d a b => Sys2Proof.Machine.execImin pf sc d a b s
  | .imax pf sc d a b => Sys2Proof.Machine.execImax pf sc d a b s
  | .iabs pf sc d a => Sys2Proof.Machine.execIabs pf sc d a s
  | .icmp pf sc k a b => Sys2Proof.Machine.execIcmp pf sc k a b s
  | .isel pf sc d a b => Sys2Proof.Machine.execIsel pf sc d a b s
  | .bfx pf sc d a b => Sys2Proof.Machine.execBfx pf sc d a b s
  | .bfi pf sc d a b => Sys2Proof.Machine.execBfi pf sc d a b s
  | .popc pf sc d a => Sys2Proof.Machine.execPopc pf sc d a s
  | .clz pf sc d a => Sys2Proof.Machine.execClz pf sc d a s
  | .brev pf sc d a => Sys2Proof.Machine.execBrev pf sc d a s
  | .lea pf sc d a b => Sys2Proof.Machine.execLea pf sc d a b s
  | .pack pf sc d a b => Sys2Proof.Machine.execPack pf sc d a b s
  | .unpk pf sc d a => Sys2Proof.Machine.execUnpk pf sc d a s
  | .fadd pf sc d a b => Sys2Proof.Machine.execFadd pf sc d a b s
  | .fsub pf sc d a b => Sys2Proof.Machine.execFsub pf sc d a b s
  | .fmul pf sc d a b => Sys2Proof.Machine.execFmul pf sc d a b s
  | .ffma pf sc d a b => Sys2Proof.Machine.execFfma pf sc d a b s
  | .fmin pf sc d a b => Sys2Proof.Machine.execFmin pf sc d a b s
  | .fmax pf sc d a b => Sys2Proof.Machine.execFmax pf sc d a b s
  | .fcmp pf sc k a b => Sys2Proof.Machine.execFcmp pf sc k a b s
  | .fcvt pf sc d a l q r => Sys2Proof.Machine.execFcvt pf sc d a l q r s
  | .frcp pf sc d a => Sys2Proof.Machine.execFrcp pf sc d a s
  | .frsq pf sc d a => Sys2Proof.Machine.execFrsq pf sc d a s
  | .fsqt pf sc d a => Sys2Proof.Machine.execFsqt pf sc d a s
  | .fexp2 pf sc d a => Sys2Proof.Machine.execFexp2 pf sc d a s
  | .flog2 pf sc d a => Sys2Proof.Machine.execFlog2 pf sc d a s
  | .fsin pf sc d a => Sys2Proof.Machine.execFsin pf sc d a s
  | .fcos pf sc d a => Sys2Proof.Machine.execFcos pf sc d a s
  | .ftanh pf sc d a => Sys2Proof.Machine.execFtanh pf sc d a s
  | .fclass pf sc d a => Sys2Proof.Machine.execFclass pf sc d a s
  | .fdot pf sc d a b => Sys2Proof.Machine.execFdot pf sc d a b s
  | .fscl pf sc d a b => Sys2Proof.Machine.execFscl pf sc d a b s
  | .tmv pf sc d a b => Sys2Proof.Machine.execTmv pf sc d a b s
  | .shfl pf sc d a b => Sys2Proof.Machine.execShfl pf sc d a b s
  | .rixG pf sc d a b => Sys2Proof.Machine.execRixG pf sc d a b s
  | .rixS pf sc d a b => Sys2Proof.Machine.execRixS pf sc d a b s
  | .redl pf sc d a => Sys2Proof.Machine.execRedl pf sc d a s
  | .redmi pf sc d a b => Sys2Proof.Machine.execRedmi pf sc d a b s
  | .scan pf sc d a e => Sys2Proof.Machine.execScan pf sc d a e s
  | .cfd pf sc d a => Sys2Proof.Machine.execCfd pf sc d a s
  | .comb pf sc d a b => Sys2Proof.Machine.execComb pf sc d a b s
  | .bcast pf sc d a b => Sys2Proof.Machine.execBcast pf sc d a b s
  | .ld pf sc d a n z => Sys2Proof.Machine.execLd pf sc d a n z s
  | .st pf sc d a n z => Sys2Proof.Machine.execSt pf sc d a n z s
  | .ldl pf sc d a n z => Sys2Proof.Machine.execLdl pf sc d a n z s
  | .lds pf sc d a z => Sys2Proof.Machine.execLds pf sc d a z s
  | .sts pf sc d a z => Sys2Proof.Machine.execSts pf sc d a z s
  | .ldc pf sc d a z => Sys2Proof.Machine.execLdc pf sc d a z s
  | .prf pf sc a n z => Sys2Proof.Machine.execPrf pf sc a n z s
  | .pin pf sc d a z => Sys2Proof.Machine.execPin pf sc d a z s
  | .unpin pf sc d a z => Sys2Proof.Machine.execUnpin pf sc d a z s
  | .sinv pf sc d a => Sys2Proof.Machine.execSinv pf sc d a s
  | .swb pf sc d a => Sys2Proof.Machine.execSwb pf sc d a s
  | .swbInv pf sc d a => Sys2Proof.Machine.execSwbInv pf sc d a s
  | .atom pf sc d a n z => Sys2Proof.Machine.execAtom pf sc d a n z s
  | .acas pf sc d a n z => Sys2Proof.Machine.execAcas pf sc d a n z s
  | .abinc pf sc d a n z => Sys2Proof.Machine.execAbinc pf sc d a n z s
  | .enter sc d a m => Sys2Proof.Machine.execEnter sc d a m s
  | .enterTry sc d a m => Sys2Proof.Machine.execEnterTry sc d a m s
  | .leave sc a => Sys2Proof.Machine.execLeave sc a s
  | .rstat sc d a => Sys2Proof.Machine.execRstat sc d a s
  | .trap sc c => Sys2Proof.Machine.execTrap sc c s
  | .rett sc => Sys2Proof.Machine.execRett sc s
  | .tmaskSet sc d a => Sys2Proof.Machine.execTmaskSet sc d a s
  | .tmaskClr sc d a => Sys2Proof.Machine.execTmaskClr sc d a s
  | .tmaskWr sc d a => Sys2Proof.Machine.execTmaskWr sc d a s
  | .snop sc => Sys2Proof.Machine.execSnop sc s
  | .bra sc p => Sys2Proof.Machine.execBra sc p s
  | .brx sc a => Sys2Proof.Machine.execBrx sc a s
  | .call sc p => Sys2Proof.Machine.execCall sc p s
  | .yield sc a => Sys2Proof.Machine.execYield sc a s
  | .yieldX sc a => Sys2Proof.Machine.execYieldX sc a s
  | .smov sc d x => Sys2Proof.Machine.execSmov sc d x s
  | .sadd sc d a b => Sys2Proof.Machine.execSadd sc d a b s
  | .ssub sc d a b => Sys2Proof.Machine.execSsub sc d a b s
  | .smul sc d a b => Sys2Proof.Machine.execSmul sc d a b s
  | .smad sc d a b => Sys2Proof.Machine.execSmad sc d a b s
  | .sand sc d a b => Sys2Proof.Machine.execSand sc d a b s
  | .sor sc d a b => Sys2Proof.Machine.execSor sc d a b s
  | .sxor sc d a b => Sys2Proof.Machine.execSxor sc d a b s
  | .sshl sc d a b => Sys2Proof.Machine.execSshl sc d a b s
  | .sshr sc d a b => Sys2Proof.Machine.execSshr sc d a b s
  | .smin sc d a b => Sys2Proof.Machine.execSmin sc d a b s
  | .smax sc d a b => Sys2Proof.Machine.execSmax sc d a b s
  | .scmp sc d a b => Sys2Proof.Machine.execScmp sc d a b s
  | .ssel sc d a b => Sys2Proof.Machine.execSsel sc d a b s
  | .slea sc d a b => Sys2Proof.Machine.execSlea sc d a b s
  | .sld sc d a n z => Sys2Proof.Machine.execSld sc d a n z s
  | .sst sc d a n z => Sys2Proof.Machine.execSst sc d a n z s
  | .hdef sc d a b => Sys2Proof.Machine.execHdef sc d a b s
  | .rdecl sc d a b => Sys2Proof.Machine.execRdecl sc d a b s
  | .fence sc c m => Sys2Proof.Machine.execFence sc c m s
  | .barSync sc d a c => Sys2Proof.Machine.execBarSync sc d a c s
  | .barArrive sc d a c => Sys2Proof.Machine.execBarArrive sc d a c s
  | .barWait sc d a c => Sys2Proof.Machine.execBarWait sc d a c s
  | .pbarInit sc a b => Sys2Proof.Machine.execPbarInit sc a b s
  | .pbarArrive sc a => Sys2Proof.Machine.execPbarArrive sc a s
  | .pbarWait sc a b => Sys2Proof.Machine.execPbarWait sc a b s
  | .tlwait sc d a => Sys2Proof.Machine.execTlwait sc d a s
  | .swarm sc d a => Sys2Proof.Machine.execSwarm sc d a s
  | .swwait sc d a => Sys2Proof.Machine.execSwwait sc d a s
  | .cbdef sc d a b => Sys2Proof.Machine.execCbdef sc d a b s
  | .cbadvWroom sc d a => Sys2Proof.Machine.execCbadvWroom sc d a s
  | .cbadvPut sc d a => Sys2Proof.Machine.execCbadvPut sc d a s
  | .cbadvWdata sc d a => Sys2Proof.Machine.execCbadvWdata sc d a s
  | .cbadvGet sc d a => Sys2Proof.Machine.execCbadvGet sc d a s
  | .cpy sc d a b => Sys2Proof.Machine.execCpy sc d a b s
  | .cpyx sc d a b => Sys2Proof.Machine.execCpyx sc d a b s
  | .tdef sc d a => Sys2Proof.Machine.execTdef sc d a s
  | .mld sc d a f => Sys2Proof.Machine.execMld sc d a f s
  | .mma sc d a f r => Sys2Proof.Machine.execMma sc d a f r s
  | .mmas sc d a f => Sys2Proof.Machine.execMmas sc d a f s
  | .mwb sc d a f => Sys2Proof.Machine.execMwb sc d a f s
  | .mclr sc d t m => Sys2Proof.Machine.execMclr sc d t m s
  | .ixg sc d a f => Sys2Proof.Machine.execIxg sc d a f s
  | .ixs sc d a f => Sys2Proof.Machine.execIxs sc d a f s
  | .ectxBind sc d e => Sys2Proof.Machine.execEctxBind sc d e s
  | .ectxUnbind sc d => Sys2Proof.Machine.execEctxUnbind sc d s
  | .ectxDrain sc d => Sys2Proof.Machine.execEctxDrain sc d s
  | .ectxPin sc d => Sys2Proof.Machine.execEctxPin sc d s
  | .ectxUnpin sc d => Sys2Proof.Machine.execEctxUnpin sc d s
  | .ectxResume sc d => Sys2Proof.Machine.execEctxResume sc d s
  | .ectxAbort sc d => Sys2Proof.Machine.execEctxAbort sc d s
  | .estat sc d a x => Sys2Proof.Machine.execEstat sc d a x s
  | .rredRs sc d a e r => Sys2Proof.Machine.execRredRs sc d a e r s
  | .rredAr sc d a e r => Sys2Proof.Machine.execRredAr sc d a e r s
  | .rcat sc d a => Sys2Proof.Machine.execRcat sc d a s
  | .lput sc d a => Sys2Proof.Machine.execLput sc d a s
  | .launch sc d a b => Sys2Proof.Machine.execLaunch sc d a b s
  | .gnode sc d a b => Sys2Proof.Machine.execGnode sc d a b s
  | .tapePush sc a => Sys2Proof.Machine.execTapePush sc a s
  | .tapeRun sc d a => Sys2Proof.Machine.execTapeRun sc d a s
  | .tapeDepth sc a => Sys2Proof.Machine.execTapeDepth sc a s
  | .tcut sc a => Sys2Proof.Machine.execTcut sc a s
  | .prio sc a => Sys2Proof.Machine.execPrio sc a s
  | .rdsr sc d x => Sys2Proof.Machine.execRdsr sc d x s
  | .wrsr sc d x => Sys2Proof.Machine.execWrsr sc d x s
  | .wdogWrite g v => Sys2Proof.Machine.execWdogWrite g v s
  | .dtld sc d a => Sys2Proof.Machine.execDtld sc d a s
  | .syscShoot sc d => Sys2Proof.Machine.execSyscShoot sc d s
  | .syscTerm sc d => Sys2Proof.Machine.execSyscTerm sc d s
  | .syscQdesc sc d => Sys2Proof.Machine.execSyscQdesc sc d s
  | .syscLevel sc d => Sys2Proof.Machine.execSyscLevel sc d s
  | .syscRing sc d => Sys2Proof.Machine.execSyscRing sc d s
  | .syscPodwin sc d => Sys2Proof.Machine.execSyscPodwin sc d s
  | .syscFpdef sc d => Sys2Proof.Machine.execSyscFpdef sc d s
  | .syscWhere sc d => Sys2Proof.Machine.execSyscWhere sc d s
  | .consumerAccept g => Sys2Proof.Machine.execConsumerAccept g s
  | .variableResultWrite g => Sys2Proof.Machine.execVariableResultWrite g s
  | .writeAck g => Sys2Proof.Machine.execWriteAck g s
  | .waitRelease g => Sys2Proof.Machine.execWaitRelease g s
  | .watchdogExpiry g => Sys2Proof.Machine.execWatchdogExpiry g s
  | .trapEntry g lanes cause sub faddr => Sys2Proof.Machine.execTrapEntry g lanes cause sub faddr s
  | .heldTrapTake g => Sys2Proof.Machine.execHeldTrapTake g s
  | .preemptRequest g => Sys2Proof.Machine.execPreemptRequest g s
  | .preboundExpiry g => Sys2Proof.Machine.execPreboundExpiry g s
  | .doorbell part q v => Sys2Proof.Machine.execDoorbell part q v s
  | .queueMap part q => Sys2Proof.Machine.execQueueMap part q s
  | .sliceExpiry part q => Sys2Proof.Machine.execSliceExpiry part q s
  | .dispatch part => Sys2Proof.Machine.execDispatch part s
  | .eviction part => Sys2Proof.Machine.execEviction part s
  | .groupResume g => Sys2Proof.Machine.execGroupResume g s
  | .crewRetire c => Sys2Proof.Machine.execCrewRetire c s
  | .taskComplete t => Sys2Proof.Machine.execTaskComplete t s
  | .demandAdmit ctx region => Sys2Proof.Machine.execDemandAdmit ctx region s
  | .admitWindowExpiry ctx region => Sys2Proof.Machine.execAdmitWindowExpiry ctx region s
  | .drainComplete ctx region => Sys2Proof.Machine.execDrainComplete ctx region s
  | .roomwaitTimeout g lane => Sys2Proof.Machine.execRoomwaitTimeout g lane s
  | .partialFlush ctx region quad line => Sys2Proof.Machine.execPartialFlush ctx region quad line s
  | .reuseEpochTick => Sys2Proof.Machine.execReuseEpochTick s
  | .crewpaceRecompute c => Sys2Proof.Machine.execCrewpaceRecompute c s
  | .reusefAdjust ctx => Sys2Proof.Machine.execReusefAdjust ctx s
  | .stampSweep l2 cache set => Sys2Proof.Machine.execStampSweep l2 cache set s
  | .dtReadMiss quad part line => Sys2Proof.Machine.execDtReadMiss quad part line s
  | .dtWriteOwnership quad part line => Sys2Proof.Machine.execDtWriteOwnership quad part line s
  | .dtEviction quad part line => Sys2Proof.Machine.execDtEviction quad part line s
  | .atomicExecute g => Sys2Proof.Machine.execAtomicExecute g s
  | .pageWalkComplete quad ctx va => Sys2Proof.Machine.execPageWalkComplete quad ctx va s
  | .shootdownComplete ctx start len => Sys2Proof.Machine.execShootdownComplete ctx start len s
  | .eccUncorrectable spot source addr => Sys2Proof.Machine.execEccUncorrectable spot source addr s
  | .dieFailure die => Sys2Proof.Machine.execDieFailure die s
  | .hostMemoryWrite part addr bytes => Sys2Proof.Machine.execHostMemoryWrite part addr bytes s
  | .engineCommandStart c tl => Sys2Proof.Machine.execEngineCommandStart c tl s
  | .engineStep c tl n => Sys2Proof.Machine.execEngineStep c tl n s
  | .matrixKstep c tl n => Sys2Proof.Machine.execMatrixKstep c tl n s
  | .ixsSectorAdd c tl n => Sys2Proof.Machine.execIxsSectorAdd c tl n s
  | .commandFinish c tl n => Sys2Proof.Machine.execCommandFinish c tl n s
  | .contextDrain c tl => Sys2Proof.Machine.execContextDrain c tl s
  | .hypnumImageAccept quad dir => Sys2Proof.Machine.execHypnumImageAccept quad dir s
  | .yarrowPacketReceive port pkt => Sys2Proof.Machine.execYarrowPacketReceive port pkt s
  | .yarrowReplay port => Sys2Proof.Machine.execYarrowReplay port s
  | .lputSectorReceive port pkt => Sys2Proof.Machine.execLputSectorReceive port pkt s
  | .peerSilentTimeout c tl => Sys2Proof.Machine.execPeerSilentTimeout c tl s
  | .partitionReconfig config => Sys2Proof.Machine.execPartitionReconfig config s
  | .quiesceTimeout => Sys2Proof.Machine.execQuiesceTimeout s
  | .partitionSwap swap => Sys2Proof.Machine.execPartitionSwap swap s
  | .clockStepChange stepNo pcap tcap => Sys2Proof.Machine.execClockStepChange stepNo pcap tcap s
  | .boot verified => Sys2Proof.Machine.execBoot verified s
  | .recoveryFetchHost result => Sys2Proof.Machine.execRecoveryFetchHost result s
  | .recoveryFetchNvme result => Sys2Proof.Machine.execRecoveryFetchNvme result s
  | .attestationReport nonce => Sys2Proof.Machine.execAttestationReport nonce s
  | .contextCreate part ctxid sys root savebase => Sys2Proof.Machine.execContextCreate part ctxid sys root savebase s
  | .contextDestroy ctx => Sys2Proof.Machine.execContextDestroy ctx s
  | .yarrowPortRetrain port => Sys2Proof.Machine.execYarrowPortRetrain port s
  | .correctedEccError source loc => Sys2Proof.Machine.execCorrectedEccError source loc s
  | .msixVectorUnmask vec => Sys2Proof.Machine.execMsixVectorUnmask vec s
  | .podFormation pkg size => Sys2Proof.Machine.execPodFormation pkg size s
  | .instructionBufferFill core line => Sys2Proof.Machine.execInstructionBufferFill core line s

end Sys2Proof.Machine
end

