-- ==== Sys2Proof/Machine/Place.lean ====
section
/-! DEFINITION. A machine with one crew whose one group is about to fetch given bytes, as a runtime and a dispatch would have left it
(log entry 2): a system context, its table, a page of code at address 0, and a group of 48 registers on quad 0. -/

namespace Sys2Proof.Machine

/-- The table of the context, 64 KiB at 0x1_0000: one page of 64 KiB at address 0, mapped to 0x3_0000 with every permission (R176, R177). -/
def placeTable : List Host.Cell :=
  Mem.putNum 0x10000 8 (0x20000 + 1) (Mem.putNum 0x20000 8 (0x21000 + 1) (Mem.putNum 0x21000 8 (0x22000 + 1)
    (Mem.putNum 0x22000 8 (0x30000 + 0x1F) [])))

/-- The leaf of that page. -/
def placeLeaf : Word := 0x3001F

def soleCtx : Context :=
  { Context.fresh 0 0x10001 with xlbase := 0x10001, savebase := 0x40000 }

/-- A partition of die 0, its queue table above the code. -/
def solePart : Partition := Partition.fresh 0 1 0x400000

def soleCrew : Crew :=
  { ctx := 0, task := 0, quad := 0, crewNo := 0, groups := [0], window := 65536, granules := [(0, 0)], cimg := 0, scratch := [], clk := 0,
    clkIssues := 0, pace := 0x100, paceEpochs := 0, paceSeen := false, paceDue := false, sw := Vector.replicate 16 ⟨0, 0, 0⟩, cb := Vector.replicate 16 CircBuf.undeclared,
    tl := Vector.replicate 8 Timeline.unbound, retired := false, failed := false, atDeath := none }

/-- SUB is 4 at reset (R304). -/
def soleGroup : Group := Group.fresh 0 0 48 0 0 0 0 0 0x80

def soleTask : Task :=
  { ctx := 0, level := 0, source := .queue 0 0, pkt := Vector.replicate 8 0, kernel := ⟨1, 0, 0, [(0, 48)]⟩, ncrews := 1, placed := 1,
    retired := 0, failed := false, complete := false }

/-- The machine with those bytes as the next unit of its one group. -/
def State.placeCode (s : State) (bytes : List Byte) : State :=
  { s with
    epoch := s.now / 64
    groups := [soleGroup]
    crews := [soleCrew]
    ctxs := [soleCtx]
    parts := solePart :: List.replicate 3 Partition.reset
    tasks := [soleTask]
    forks := []
    bars := []
    dram := Mem.write (dramKey 0 0x30000) bytes placeTable
    tlb := [⟨0, 0, 0, 16, placeLeaf⟩, ⟨256, 0, 0, 16, placeLeaf⟩]
    ibuf := [⟨0, 0, 0⟩]
    pkg := { s.pkg with boot := 2, reconfig := none }
    sched := { Sched.idle with turns := [true] }
    issueQ := []
    co := none
    pair := none
    pipes := []
    busy := [] }

end Sys2Proof.Machine
end

