-- ==== Sys2Proof/Machine/Agenda.lean ====
section
/-! DEFINITION. Which events are due in this cycle, which ones the machine can perform by itself, and which ones end a cycle (log entry 1). An
event that is not listed here comes from the agenda alone. -/

namespace Sys2Proof.Machine

/-- The first of a list of numbers that passes a test, as an event. -/
def firstNo (n : Nat) (p : Nat → Bool) (e : Nat → Instr) : Option Instr := ((List.range n).find? p).map e

/-- The live partitions whose cores are not swapped out. -/
def State.liveParts (s : State) : List Nat := (List.range 4).filter fun k => (s.part k).live && !(s.part k).swapped

/-- The first of several candidates. -/
def firstOf : List (Unit → Option Instr) → Option Instr
  | [] => none
  | f :: t => match f () with | some e => some e | none => firstOf t

/-! ## Due events -/

/-- A stamp that the periodic visit of its set must have met by now: visits are at most 4,096 epochs apart (R171) (log entry 26). -/
def State.overdueStamp (s : State) : Option Instr :=
  (s.cache.find? fun c => decide (sext 16 (c.due - s.nowEpoch).toNat < -20480)).map fun c =>
    if c.cache < 256 then .stampSweep false c.cache c.set else .stampSweep true (c.cache - 256) c.set

/-- The window of a region that has passed. -/
def State.windowDue (s : State) : Option Instr :=
  s.ctxs.zipIdx.findSome? fun c => (c.1.regions.find? fun r => r.2.windowOver s.now).map fun r => .admitWindowExpiry c.2 r.1

/-- The slice of a mapped queue that has passed. -/
def State.sliceDue (s : State) : Option Instr :=
  s.parts.zipIdx.findSome? fun p => (p.1.slots.find? fun x => !x.expired && s.sliceOver p.2 x).map fun x => .sliceExpiry p.2 x.q

/-- A peer that has been silent for too long. -/
def State.silenceDue (s : State) : Option Instr :=
  firstOf [
    fun _ => s.crews.zipIdx.findSome? fun c => firstNo 8 (fun k => !(c.1.tline k).cmds.isEmpty && (s.silentCmd c.2 k).isSome) fun k => .peerSilentTimeout c.2 k,
    fun _ => firstNo s.bars.length (fun k => (s.silentBar k).isSome) fun k => .peerSilentTimeout k 8]

/-- The timed event that is due in this cycle (R87, R169, R171, R173, R205, R296, R303, R324, R341). -/
def State.dueEvent (s : State) : Option Instr :=
  firstOf [
    fun _ => if s.epoch < s.now / 64 then some .reuseEpochTick else none,
    fun _ => firstNo s.crews.length (fun c => (s.crew c).paceDue) .crewpaceRecompute,
    fun _ => firstNo s.ctxs.length (fun c => (s.ctx c).windowFull) .reusefAdjust,
    fun _ => s.overdueStamp,
    fun _ => firstNo s.groups.length (fun g => (s.grp g).watchdogOver) .watchdogExpiry,
    fun _ => s.windowDue,
    fun _ => firstNo s.groups.length (fun g => (s.grp g).preempt.isSome && (s.grp g).place == .resident && !s.defersPreempt g) .preboundExpiry,
    fun _ => s.sliceDue,
    fun _ => s.silenceDue,
    fun _ => match s.pkg.reconfig with | some r => if s.quiesceOver r then some .quiesceTimeout else none | none => none]

/-! ## Enabled events -/

/-- An event would change the machine, or meet an address without memory. -/
def State.moves (s : State) (o : Out) : Bool := match o with | .next t => t != s | _ => true

/-- An image accepted at the consumer where the first stalled unit of a group can deliver (R49, R244). -/
def State.consumerEvent (s : State) (g : Nat) : Option Instr :=
  (s.readyConsumer g).map fun p =>
    match (if p.2 < 2 then none else neighbour (s.quadOf g) (p.2 - 2)) with
    | some q => .hypnumImageAccept q (BitVec.ofNat 2 (inputOf (p.2 - 2)))
    | none => .consumerAccept g

/-- What a group can do besides issuing. -/
def State.groupEvent (s : State) (g : Nat) : Option Instr :=
  let gr := s.grp g
  firstOf [
    fun _ => if gr.heldReady then some (.heldTrapTake g) else none,
    fun _ => firstNo 32 (fun l => (gr.lane l).park.isSome && s.strandedAt g l) fun l => .trapEntry g (oneLane l) cROOMBROKEN 0x01 0,
    fun _ => if !gr.acks.isEmpty then some (.writeAck g) else none,
    fun _ => if gr.waits.isEmpty then none else s.consumerEvent g,
    fun _ => if gr.waits.isEmpty then none else (s.readyWait g).map fun _ => .waitRelease g,
    fun _ => if gr.units.isEmpty then none else (s.nextUnit g).map fun u => if isAtomic u.instr then .atomicExecute g else .variableResultWrite g]

/-- A demand that its open room can take in (R206). -/
def State.canAdmit (s : State) (ctx : Nat) (no : Nat) (r : Region) : Bool :=
  match r.open_ with
  | some m => r.admitting && !r.drain && (r.demands.any fun d => d.mode == m) && (m != 4 || s.occupants ctx no == 0)
  | none => false

/-- What the regions and the clock of a context can do. -/
def State.ctxEvent (s : State) (ctx : Nat) : Option Instr :=
  let c := s.ctx ctx
  firstOf [
    fun _ => (c.regions.find? fun r => s.drainReady ctx r.1).map fun r => .drainComplete ctx r.1,
    fun _ => (c.regions.find? fun r => s.canAdmit ctx r.1 r.2).map fun r => .demandAdmit ctx r.1]

/-- The step that a command can make. -/
def State.cmdEvent (s : State) (c tl n : Nat) : Option Instr :=
  firstOf [
    fun _ => if (s.cmdAt c tl n).any Cmd.done then some (.commandFinish c tl n) else none,
    fun _ => if s.moves (execEngineStep c tl n s) then some (.engineStep c tl n) else none,
    fun _ => if s.moves (execMatrixKstep c tl n s) then some (.matrixKstep c tl n) else none,
    fun _ => if s.moves (execIxsSectorAdd c tl n s) then some (.ixsSectorAdd c tl n) else none]

/-- What the engine context of a timeline can do: the context that made a step least recently comes first. -/
def State.timelineEvent (s : State) (c tl : Nat) : Option Instr :=
  let t := (s.crew c).tline tl
  firstOf [
    fun _ => if (t.draining && t.resident && !t.inProgress) || (t.resident && s.mustLeave c tl) then some (.contextDrain c tl) else none,
    fun _ => if (s.startable c tl).isSome && (t.resident || decide ((s.residents c tl).length < 2)) then some (.engineCommandStart c tl) else none,
    fun _ => t.cmds.findSome? fun x => s.cmdEvent c tl x.n]

/-- What a crew and its engines can do. -/
def State.crewEvent (s : State) (c : Nat) : Option Instr :=
  let cr := s.crew c
  let order := sortBy (fun k => (cr.tline k).lastStart) ((List.range 8).filter fun k => (cr.tline k).engine.isSome || (cr.tline k).resident)
  firstOf [
    fun _ => if s.crewDone c then some (.crewRetire c) else none,
    fun _ => order.findSome? fun k => s.timelineEvent c k]

/-- What Bracken can do in a partition (R302, R303, R309). -/
def State.brackenEvent (s : State) (part : Nat) : Option Instr :=
  let p := s.part part
  firstOf [
    fun _ => ((s.listedQueues part).find? fun q =>
      s.needsSlot part q && (decide (p.slots.length < 64) || (s.displaced part (s.queue part q).level).isSome)).map fun q => .queueMap part q,
    fun _ => (s.nextWork part).map fun w => match w.2.1 with | .resume g => .groupResume g | _ => .dispatch part,
    fun _ => if (s.nextPlan part).isSome then some (.eviction part) else none]

/-- An event that the machine can perform by itself. -/
def State.readyEvent (s : State) : Option Instr :=
  firstOf [
    fun _ => (List.range s.groups.length).findSome? s.groupEvent,
    fun _ => (List.range s.ctxs.length).findSome? s.ctxEvent,
    fun _ => (s.pkg.inbox.find? fun p => p.2.kind == .lput).map fun p => .lputSectorReceive p.1 p.2,
    fun _ => (List.range s.crews.length).findSome? s.crewEvent,
    fun _ => firstNo s.tasks.length (fun t => (s.task t).done) .taskComplete,
    fun _ => s.liveParts.findSome? s.brackenEvent]

/-- A parked lane reaches its limit at the end of a cycle in which it has not been admitted (R208). -/
def State.endEvent (s : State) : Option Instr :=
  s.groups.zipIdx.findSome? fun p =>
    if p.1.place != .resident then none
    else firstNo 32 (fun l => (p.1.lane l).park.any fun k => k.limit != 0 && decide (k.limit ≤ k.count)) fun l => .roomwaitTimeout p.2 l

end Sys2Proof.Machine
end

