-- ==== Sys2Proof/Machine/Select.lean ====
section
/-! DEFINITION. What the machine does next: due events, units to be performed again, events to come, and the arbitration of the
lane sets with fetch, decode and interlocks (R48, R52, R57, R60, R80 to R83, R304, R316, R355, R356). -/

namespace Sys2Proof.Machine

/-- What the next step does: it runs an instruction or an event, goes on at a state, or meets an address without memory. -/
inductive Act where
  | run (i : Instr) (s : State)
  | go (s : State)
  | stop (r : Fault)

/-! ## Sets (R80, R81, R83) -/

/-- The first and the second set of a group (R81). -/
def Group.sets (gr : Group) : Lanes × Lanes :=
  let h := gr.inMode .handler
  let p := gr.inMode .running
  if h != 0 then (gr.lowSet h, gr.lowSet p)
  else
    let a := gr.lowSet p
    (a, gr.lowSet (p &&& ~~~a))

/-- Every lane of a set is ready, its interlocks apart (R83). -/
def Group.lanesReady (gr : Group) (now : Nat) (ls : Lanes) : Bool := ls != 0 && (lanesOf ls).all fun l => decide ((gr.lane l).ready ≤ now)

/-! ## Fetch and decode (R48, R56, R60) -/

/-- What a fetch finds. -/
inductive Fetch where
  | unit (word pword : BitVec 32) (i : Except DecodeErr Instr)
  | missing (line : Nat)
  | fault (cause sub : BitVec 8)
  | void (pa : Nat)
deriving DecidableEq, Repr

/-- The word at an address: translated as a fetch, and present in the core's instruction buffer. A poisoned word is not executed (R193;
DEDUCED, log entry 49), and no line is brought in from a lost home (R194). -/
def State.fetchWord (s : State) (g : Nat) (addr : Word) : Fetch :=
  let a := s.agent g
  match s.reach a.quad a.ctx a.user .fetch addr.toNat with
  | .fault c d => .fault c d
  | .void pa => .void pa
  | .ok x =>
    let held := s.ibuf.any fun b => b.core == a.core && b.ctx == a.ctx && b.line == addr.toNat / 256
    if s.poison.contains (s.memSpot a x) then .fault cPOISON 0x00
    else if !held && !x.host && s.lostHome a.part x.pa && !(x.attr == 0 && s.orphaned a.quad a.part x.pa) then .fault cHOMELOST 0x00
    else if !held then .missing (addr.toNat / 256)
    else .unit (BitVec.ofNat 32 (leNat (s.readBytes a.quad a.part x 4))) 0 (.error .short)

/-- The unit of issue at an address: a word, or a prefix word and the word after it (R48). -/
def State.fetchUnit (s : State) (g : Nat) (addr : Word) : Fetch :=
  let m := (s.ctxOf g).opMap
  match s.fetchWord g addr with
  | .unit w _ _ =>
    if isPfxWord w.toNat then
      match s.fetchWord g (addr + 4) with
      | .unit w2 _ _ => .unit w2 w (decodeWords m w.toNat (some w2.toNat))
      | r => r
    else .unit w 0 (decodeWords m w.toNat none)
  | r => r

/-! ## Readiness (R52, R83) -/

/-- The words of a unit at the counters of a set, issued afresh. -/
def freshIssue (g : Nat) (lanes : Lanes) (addr : Word) (w pw : BitVec 32) : Issue :=
  { Issue.idle with g := g, lanes := lanes, addr := addr, word := w, pword := pw }

/-- The unit being issued as `State.held` judges it. -/
def State.asIssued (s : State) (i : Instr) : UnitRec := { s with cur := { s.cur with cycle := s.now, fp := (s.grp s.cur.g).fpmode } }.unitRec i

/-- The next unit of a set is held: by an interlock, by a wait of its lanes, or, where a fetch is at fault, by an older unit in flight
(R52, R83, R226, R316). -/
def State.setHeld (s : State) (g : Nat) (ls : Lanes) : Bool :=
  if s.free g then false
  else
    let s := s.settle g
    let gr := s.grp g
    let addr := (gr.lane (lowest ls)).pc
    let waits := gr.waits.any fun w => w.iss.lanes &&& ls != 0 && holdsOf w == .all
    let open_ := waits || gr.units.any fun u => u.iss.lanes &&& ls != 0
    if addr.toNat % 4 != 0 then open_
    else
      match s.fetchUnit g addr with
      | .unit w pw (.ok i) => s.held ({ s with cur := freshIssue g ls addr w pw }.asIssued i)
      | .unit _ _ (.error _) => waits
      | .missing _ => waits
      | _ => open_

/-- Every lane of a set is ready and nothing holds its next unit (R83). -/
def State.setReady (s : State) (g : Nat) (ls : Lanes) : Bool := (s.grp g).lanesReady s.now ls && !s.setHeld g ls

/-- The group may issue: it is resident, no unit stalls it as a whole, and no unit of it is to be performed first (R49, R237, R322). -/
def State.mayIssue (s : State) (g : Nat) : Bool :=
  let gr := s.grp g
  gr.place == .resident && !(gr.waits.any fun u => stallsGroup u.instr) && !(s.issueQ.any fun u => u.iss.g == g)

/-- The group may be selected: its first set is ready (R81, R304). -/
def State.selectable (s : State) (g : Nat) : Bool := s.mayIssue g && s.setReady g (s.grp g).sets.1

/-! ## Arbitration (R304, R355) -/

/-- The lane sets that have selected a group in this cycle. A group notes the cycle after its last selection. -/
def State.usedSets (s : State) : List Nat := (s.groups.filter fun gr => gr.lastSel == s.now + 1).map Group.laneSet

/-- The order of R304: a yielded turn last (R98), LEVEL, SUB, the least recently selected. -/
def Group.rank (gr : Group) : Nat × Nat × Nat × Nat :=
  (gr.yielded.toNat, bits gr.prio.toNat 0 5, bits gr.prio.toNat 5 3, gr.lastSel)

def rankLt (a b : Nat × Nat × Nat × Nat) : Bool :=
  if a.1 != b.1 then a.1 < b.1
  else if a.2.1 != b.2.1 then a.2.1 < b.2.1
  else if a.2.2.1 != b.2.2.1 then a.2.2.1 < b.2.2.1
  else a.2.2.2 < b.2.2.2

/-- The group selected next in this cycle: of the lowest lane set with a candidate, the one that comes first. -/
def State.selectGroup (s : State) : Option Nat :=
  let used := s.usedSets
  let cands := (s.groups.zipIdx.filter fun p => p.1.place == .resident && !used.contains p.1.laneSet && s.selectable p.2)
  match leastBy (fun p : Group × Nat => p.1.laneSet) cands with
  | none => none
  | some p0 =>
    let mine := cands.filter fun p => p.1.laneSet == p0.1.laneSet
    (mine.foldl (fun best p => match best with
      | none => some p
      | some b => if rankLt p.1.rank b.1.rank then some p else best) none).map (·.2)

/-! ## Issue of one set -/

/-- Lanes raise a cause at their counters before any unit issues, without an entry (R317). -/
def State.raiseAt (s : State) (g : Nat) (ls : Lanes) (t : TrapInfo) (pc : Word) : Act := .go (s.raise ⟨g, ls, t, none, false, false, 0, 0, pc⟩)

/-- A word that is no instruction traps, with itself as the entry (R60, R317). -/
def State.raiseWord (s : State) (g : Nat) (ls : Lanes) (addr : Word) (w pw : BitVec 32) (t : TrapInfo) : Act :=
  let iss := { freshIssue g ls addr w pw with replay := true, seq := s.seq + 1, cycle := s.now }
  let s := { s with cur := iss, seq := s.seq + 1 }
  let s := s.modLanes g ls fun _ x => { x with pc := addr + (if pw == 0 then 4 else 8), ready := s.now + 1 }
  .go (s.faultUnit ⟨.nop 0, iss, some t, true⟩ ls t true)

/-- The head of the list of deferrals. -/
def State.popDefer (s : State) : Bool × State :=
  match s.sched.defers with
  | [] => (false, s)
  | b :: t => (b, { s with sched := { s.sched with defers := t } })

/-- The heads of the list of pairs. -/
def State.popPair (s : State) : Bool × State :=
  match s.sched.pairs with
  | [] => (false, s)
  | b :: t => (b, { s with sched := { s.sched with pairs := t } })

/-- The unit being issued goes on its way: it is performed now, or later, where older units go first or the machine lets it complete
later (R316; log entries 1 and 4). -/
def State.startUnit (s : State) (i : Instr) : Act :=
  let g := s.cur.g
  let gr := s.grp g
  if gr.shadow.isSome || !holdable i then .run i s
  else
    let must := !(gr.units.isEmpty && gr.waits.isEmpty) && (s.settle g).mustQueue ((s.settle g).asIssued i)
    let (late, s) := if must || !deferrable i then (must, s) else s.popDefer
    match (if late then s.deferUnit i else none) with
    | some t => .go t
    | none => .run i s

/-- Units that may stand in a uniform-lane pair: none that moves counters in a way of its own, and no prefix pair (R54). -/
def pairable (i : Instr) : Bool :=
  !movesCounters i && i.pf?.isNone && (match i with | .exit _ | .yield _ _ | .yieldX _ _ => false | _ => true)

/-- A decoded unit of a set issues; where it has no stall count, its partner may follow in the same cycle (R54). -/
def State.issueUnit (s : State) (g : Nat) (ls : Lanes) (addr : Word) (w pw : BitVec 32) (i : Instr) : Act :=
  let s := { s with cur := freshIssue g ls addr w pw, pipes := i.pipe :: s.pipes }
  let (pair, s) := if i.stall == 0 && pairable i then s.popPair else (false, s)
  { s with pair := if pair then some ⟨g, ls, addr, i⟩ else none }.startUnit i

/-- The unit at the counter of a set issues; a line that the core's buffer lacks is brought in first (R81). -/
def State.issueSet (s : State) (g : Nat) (ls : Lanes) (missing : Nat → Act) : Act :=
  let addr := ((s.grp g).lane (lowest ls)).pc
  if addr.toNat % 4 != 0 then s.raiseAt g ls (addrTrap cALIGN 0x00 addr) addr
  else
    match s.fetchUnit g addr with
    | .fault c d => s.raiseAt g ls (addrTrap c d addr) addr
    | .void pa => .stop (.noDram pa)
    | .missing line => missing line
    | .unit w pw (.ok i) => s.issueUnit g ls addr w pw i
    | .unit w pw (.error e) => s.raiseWord g ls addr w pw (decodeTrap (s.ctxOf g).opMap w pw e)

/-- The words of a set's next unit stand in the buffer. -/
def State.buffered (s : State) (g : Nat) (ls : Lanes) : Bool :=
  match s.fetchUnit g ((s.grp g).lane (lowest ls)).pc with
  | .unit _ _ (.ok _) => true
  | _ => false

/-- The pipe of a set's next unit. -/
def State.pipeAt (s : State) (g : Nat) (ls : Lanes) : Option Pipe :=
  match s.fetchUnit g ((s.grp g).lane (lowest ls)).pc with
  | .unit _ _ (.ok i) => some i.pipe
  | _ => none

/-- The second set may issue in the cycle of the first (R81, R356). -/
def State.mayPair (s : State) (g : Nat) (first second : Lanes) : Bool :=
  s.setReady g second && s.buffered g second && s.pipeAt g first != s.pipeAt g second

/-- A selected group issues its first set; its second set is noted where it may follow in the same cycle. Where the first set's line is
missing, it is brought in, and a second set that is ready and buffered issues alone (R81). -/
def State.issueGroup (s : State) (g : Nat) : Act :=
  let (a, b) := (s.grp g).sets
  let s := { s with co := none, pair := none, pipes := [] }
  let t := s.modGrp g fun gr => { gr with lastSel := s.now + 1, yielded := false }
  let fill (s : State) (line : Nat) : Act :=
    .run (.instructionBufferFill (s.grp g).core (BitVec.ofNat 64 (256 * line))) { s with cur := freshIssue g a 0 0 0 }
  let miss (line : Nat) : Act :=
    if s.setReady g b && s.buffered g b then fill { t with co := some (g, b) } line else fill s line
  ({ t with co := if s.mayPair g a b then some (g, b) else none }).issueSet g a miss

/-- The lanes of a set of a group still run at one counter. -/
def Group.stands (gr : Group) (ls : Lanes) : Bool :=
  let l0 := gr.lane (lowest ls)
  gr.place == .resident && (lanesOf ls).all fun l => (gr.lane l).mode == l0.mode && (gr.lane l).pc == l0.pc &&
    (l0.mode == .running || l0.mode == .handler)

/-- The second set of the group selected last issues, if it still stands as it stood and its pipe is free (R81). -/
def State.issueSecond (s : State) (g : Nat) (ls : Lanes) : Act :=
  let s := { s with co := none }
  let free := match s.pipeAt g ls with | some p => !s.pipes.contains p | none => true
  if (s.grp g).stands ls && s.mayIssue g && s.setReady g ls && free then s.issueSet g ls fun _ => .go s else .go s

/-- The second unit neither reads nor writes what the first writes: registers, masks, last results (R54). -/
def independent (first second : Instr) : Bool :=
  let d := first.dests.flatMap Operand.regs
  let r := (second.sources ++ second.dests).flatMap Operand.regs
  let entersLast := first.laneOp < 0x400 && first.latency.isSome
  !d.any (fun x => x < 56 && r.contains x) && !(entersLast && (r.contains 56 || r.contains 57)) &&
    (first.maskDest == 0 || !(second.maskDest == first.maskDest || second.maskSources.contains first.maskDest))

/-- The unit after one that has issued in this cycle issues with it as a uniform-lane pair, where R54 allows it, its pipe is free and its
reads are covered already (DESIGN CHOICE, log entry 5). -/
def State.issuePartner (s : State) (p : PairRec) : Act :=
  let s := { s with pair := none }
  let gr := s.grp p.g
  let addr := (gr.lane (lowest p.lanes)).pc
  if !(gr.stands p.lanes && addr == p.addr + 4 && s.mayIssue p.g) then .go s
  else
    match s.fetchUnit p.g addr with
    | .unit w pw (.ok i) =>
      let t := { s with cur := { freshIssue p.g p.lanes addr w pw with second := true }, pipes := i.pipe :: s.pipes }
      let u := (t.settle p.g).asIssued i
      if decide (i.uniOp < 0x400) != decide (p.first.uniOp < 0x400) && pairable i && independent p.first i && !s.pipes.contains i.pipe &&
          !(t.settle p.g).uncovered i && !(t.settle p.g).held u then t.startUnit i
      else .go s
    | _ => .go s

/-! ## The clock (R4, R87, R208) -/

/-- The watchdog of a group at the end of a cycle (R87). -/
def Group.watch (gr : Group) : Group :=
  let p := gr.inMode .running
  if !gr.wdog.getLsbD 32 || p == 0 || gr.place != .resident || gr.shadow.isSome then gr
  else
    let m := (gr.lane (lowest (gr.lowSet p))).pc
    if gr.wdM.toNat < m.toNat then { gr with wdM := m, wdN := 0 } else { gr with wdN := gr.wdN + 1 }

/-- The wait at a room entry is counted while its group is resident (R208). -/
def Group.countParked (gr : Group) : Group :=
  if gr.place != .resident then gr
  else { gr with lanes := gr.lanes.map fun x => { x with park := x.park.map fun p => { p with count := p.count + 1 } } }

/-- A cycle passes (log entry 36). -/
def State.tick (s : State) : State :=
  { s with now := s.now + 1, co := none, pair := none, pipes := [], groups := s.groups.map fun gr => gr.watch.countParked }

/-! ## The order of acts -/

/-- The head of the list of turns. -/
def State.popTurn (s : State) : Bool × State :=
  match s.sched.turns with
  | [] => (false, s)
  | b :: t => (b, { s with sched := { s.sched with turns := t } })

/-- The first unit of the queue that nothing holds, with the others; the units of a group keep their order (R322). -/
def State.queueHead (s : State) (skip : List Nat) (before : List UnitRec) : List UnitRec → Option (UnitRec × List UnitRec)
  | [] => none
  | u :: rest =>
    let g := u.iss.g
    let go := u.iss.late || u.bad.isSome || (s.grp g).place != .resident || !((s.settle g).held { u with iss := { u.iss with cycle := s.now } })
    if !skip.contains g && go then some (u, before.reverse ++ rest) else s.queueHead (g :: skip) (u :: before) rest

/-- A unit of the queue is performed: one that has been decided completes, one that is at fault raises its trap, one whose issue goes on is
performed, and an entry of `rett` issues. -/
def State.perform (s : State) (u : UnitRec) : Act :=
  if (s.grp u.iss.g).place != .resident then .go s
  else
    let s := { s with cur := u.iss }
    match u.bad with
    | some t =>
      let u := if u.iss.late then u else { u with iss := { u.iss with seq := if u.iss.seq == 0 then s.seq + 1 else u.iss.seq, cycle := s.now } }
      .go ({ s with seq := s.seq + 1 }.faultUnit u u.iss.lanes t true)
    | none => if u.iss.left.isSome then .go (s.goOn u 0) else if u.iss.late then .run u.instr s else s.startUnit u.instr

/-- What the groups do in this cycle; when none can issue, the cycle passes. -/
def State.groupsAct (s : State) : Act :=
  match s.pair, s.co with
  | some p, _ => s.issuePartner p
  | none, some (g, ls) => s.issueSecond g ls
  | none, none =>
    match s.selectGroup with
    | some g => s.issueGroup g
    | none => match s.endEvent with | some e => .run e s | none => .go s.tick

/-- What the next step does (log entries 1 and 36). -/
def State.nextAct (s : State) : Act :=
  match s.dueEvent with
  | some e => .run e s
  | none =>
    match s.queueHead [] [] s.issueQ with
    | some (u, rest) => { s with issueQ := rest }.perform u
    | none =>
      match s.sched.agenda with
      | e :: rest =>
        let t := { s with sched := { s.sched with agenda := rest } }
        if e.isEvent then .run e t else .go t
      | [] =>
        match s.readyEvent with
        | none => s.groupsAct
        | some e => let (pass, t) := s.popTurn; if pass then t.groupsAct else .run e t

end Sys2Proof.Machine
end

