-- ==== Sys2Proof/Machine/Step.lean ====
section
/-! DEFINITION. One step of the machine, and the state in which a given word is fetched next. -/

namespace Sys2Proof.Machine

/-- One step: what `State.nextAct` picks is done. -/
def step (s : State) : Host.Outcome State Fault Refusal :=
  match s.nextAct with
  | .run i t => exec i t
  | .go t => .next t
  | .stop r => .fault r

/-- The state in which the next step fetches and runs the instruction with these bits (log entry 2). -/
def State.withFetchWord (s : State) (nbits w : Nat) : State := s.placeCode (tableBytes nbits w)

end Sys2Proof.Machine
end

