-- ==== Sys2Proof/Safety.lean ====
section
/-! DEFINITION. The terms in which claims are stated: the canonical form of every memory, a run without a stop, a unit that passes its checks, and what a
step leaves alone. -/

namespace Sys2Proof

/-! ## Values -/

/-- A finite value as a rational number. -/
def FVal.rat : FVal → ℚ
  | .fin n m e => (if n then -1 else 1) * m * 2 ^ e
  | _ => 0

end Sys2Proof

namespace Sys2Proof.Machine

/-! ## States and runs -/

/-- DRAM, the constant stores, the host window and every crew's scratchpad window are in canonical form. -/
def State.canonical (s : State) : Bool :=
  Mem.wf s.dram && Mem.wf s.const && Mem.wf s.hostMem && s.crews.all fun c => Mem.wf c.scratch

/-- A run of n steps that meets no stop. -/
def State.safeFor (s : State) (n : Nat) : Prop := ∃ t, Sys2Proof.core.run n s = .next t

/-! ## A unit of issue -/

/-- The unit noted in the state is at its first issue: it is no entry of a frame, its issue does not go on, no result of it waits, it has read
and translated nothing yet, and it has no place in the order of issue. -/
def Issue.isNew (u : Issue) : Prop :=
  u.replay = false ∧ u.late = false ∧ u.res = none ∧ u.got = [] ∧ u.data = [] ∧ u.walks = [] ∧ u.ents = [] ∧ u.left = none ∧ u.low = none ∧
    u.met = false ∧ u.seq = 0

/-- A unit at its first issue passes every check: it is no fork boundary of a continuation (R104), no check of R60 fails, and its consumers
are sound (R49). -/
def State.goes (s : State) (i : Instr) : Prop := s.cur.isNew ∧ (s.begin i).gate i = .pass

/-- The state that the effect of such a unit starts from: due writes performed, a disagreement noted, counters advanced, pipes occupied. -/
def State.issued (s : State) (i : Instr) : State := (s.begin i).passed i

/-! ## Results -/

/-- An element of a unit takes part: its lane is active, and the write mask enables it (R117). -/
def State.live (s : State) (i : Instr) (w e : Nat) : Prop :=
  s.cur.lanes.getLsbD (w * e / 64) = true ∧ (s.wmask i).getLsbD (w * e / 8) = true

/-- A result of elements of width w: each element that takes part is written whole, with a value that satisfies P; any other element of an
active lane is left, or is filled with zeros; other lanes are left (R47, R117). -/
def Result.lanewise (r : Result) (s : State) (i : Instr) (w : Nat) (P : Nat → Nat → Prop) : Prop :=
  ∀ e < 2048 / w,
    (s.live i w e → el w e r.en = 2 ^ w - 1 ∧ P e (el w e r.val)) ∧
    (¬ s.live i w e → s.cur.lanes.getLsbD (w * e / 64) = true → i.zeroFill = true → el w e r.en = 2 ^ w - 1 ∧ el w e r.val = 0) ∧
    (¬ s.live i w e → (s.cur.lanes.getLsbD (w * e / 64) = false ∨ i.zeroFill = false) → el w e r.en = 0)

/-- The unit completes with such a result for its destination D, all active lanes complete, and nothing else happens (R45, R49 to R52). -/
def State.gives (s : State) (i : Instr) (d : BitVec 6) (w : Nat) (P : Nat → Nat → Prop) : Prop :=
  ∃ r : Result, exec i s = .next ((s.issued i).finish i d r (s.issued i).cur.lanes) ∧ r.lanewise (s.issued i) i w P

/-- The flags that the lanes of a unit raise when its result is performed: those of their elements that take part (R71, R72). -/
def State.flagged (t : State) (i : Instr) (w : Nat) (f : Nat → FRes) (fl : List (Nat × BitVec 5)) : Prop :=
  ∀ l < 32, ∀ b < 5, ((look fl l).getD 0).getLsbD b = true ↔ ∃ e < 2048 / w, w * e / 64 = l ∧ t.live i w e ∧ (f e).flags.getLsbD b = true

/-- A unit outside a continuation with FPMODE.NFT = 0: it completes in all active lanes with one floating result for each element, and with the
flags of the elements that take part, which FPMODE gains as the result is performed (R72, R77, R133). -/
def State.givesFloat (s : State) (i : Instr) (d : BitVec 6) (w : Nat) (f : Nat → FRes) : Prop :=
  (s.grp s.cur.g).shadow = none → (s.grp s.cur.g).nft = false →
    let t := s.issued i
    ∃ (r : Result) (fl : List (Nat × BitVec 5)), exec i s = .next (t.finishWith i d r s.cur.lanes fl) ∧
      r.lanewise t i w (fun e v => v = (f e).code % 2 ^ w) ∧ t.flagged i w f fl

/-- The unit of a state raises a trap for some of its lanes; `entry` says that it becomes an entry of the frame (R317, R318). -/
def State.raises (t : State) (i : Instr) (ls : Lanes) (tr : TrapInfo) (entry : Bool) (o : Out) : Prop :=
  ∃ (u : UnitRec) (keep : Bool), u.instr = i ∧ u.iss.lanes = t.cur.lanes ∧
    o = .next (t.raise ⟨t.cur.g, ls, tr, some u, entry, keep, t.cur.word, t.cur.pword, t.cur.addr⟩)

/-- A lane is active in the unit. -/
def State.active (s : State) (l : Nat) : Prop := s.cur.lanes.getLsbD l = true

/-- The active lanes go to a target each; nothing else happens. -/
def State.jumpTo (s : State) (target : Nat → Word) : State :=
  s.modLanes s.cur.g s.cur.lanes fun l x => { x with pc := target l }

/-- The value of a source in the lowest active lane (R84). -/
def State.lead (s : State) (i : Instr) (f : Fld) : Word := laneOf (s.src i f) (lowest s.cur.lanes)

/-- One value for all 32 lanes (R84). -/
def Result.all (r : Result) (v : Word) : Prop := r.en = BitVec.allOnes 2048 ∧ ∀ l < 32, laneOf r.val l = v

/-- A value for each lane of a set, and nothing for the others. -/
def Result.inLanes (r : Result) (ls : Lanes) (f : Nat → Word) : Prop :=
  ∀ l < 32, laneOf r.en l = (if ls.getLsbD l then BitVec.allOnes 64 else 0) ∧ (ls.getLsbD l = true → laneOf r.val l = f l)

/-- No cache holds a copy whose eviction writes memory: every line is a directory-tracked one (R171, R183, R185, R200). -/
def State.onlyDt (s : State) : Prop := ∀ c ∈ s.cache, ∃ m, c.kind = .dt m

/-- The address of element e of a sweep (R160, R164). -/
def State.elAddr (t : State) (i : Instr) (unit e : Nat) : Nat := (t.sweepBase i unit + e * i.eb) % 2 ^ 64

/-- The translated address of a byte, as an access of the unit's group meets it: the page of its line, and its place in the line. -/
def State.placeOf (t : State) (k : Kind) (va : Nat) (x : Xl) : Prop :=
  ∃ y, t.reach (t.agent t.cur.g).quad (t.agent t.cur.g).ctx (t.agent t.cur.g).user k (256 * (va / 256)) = .ok y ∧ x = { y with pa := y.pa + va % 256 }

/-- No replica of a halo tile stands in for a sector of memory in the quad of the unit's group (R192). -/
def State.noReplica (t : State) : Prop :=
  ∀ h ∈ (t.ctxOf t.cur.g).halos, ∀ r ∈ h.2.replicas, r.quad ≠ t.quadOf t.cur.g

/-! ## What stays -/

/-- Every memory reads as before. -/
def State.sameMemory (s t : State) : Prop :=
  t.dram = s.dram ∧ t.const = s.const ∧ t.hostMem = s.hostMem ∧ ∀ c, (t.crew c).scratch = (s.crew c).scratch

/-- Only one group differs. -/
def State.onlyGroup (g : Nat) (s t : State) : Prop :=
  t = { s with groups := t.groups } ∧ t.groups.length = s.groups.length ∧ ∀ h, h ≠ g → t.grp h = s.grp h

/-- Every group but one stands as it stood. -/
def State.othersKept (g : Nat) (s t : State) : Prop := t.groups.length = s.groups.length ∧ ∀ h, h ≠ g → t.grp h = s.grp h

/-- The registers, masks and pending writes of a group stand as they stood. -/
def Group.sameRegs (x y : Group) : Prop :=
  y.v = x.v ∧ y.o = x.o ∧ y.la = x.la ∧ y.lb = x.lb ∧ y.laSeq = x.laSeq ∧ y.lbSeq = x.lbSeq ∧ y.k = x.k ∧ y.fix = x.fix

/-- The system registers of a group and its save slot stand as they stood. -/
def Group.sameSys (x y : Group) : Prop :=
  y.fpmode = x.fpmode ∧ y.unist = x.unist ∧ y.wdog = x.wdog ∧ y.forkst = x.forkst ∧ y.prio = x.prio ∧ y.trapmask = x.trapmask ∧ y.save = x.save

end Sys2Proof.Machine
end

