-- ==== Sys2Proof/Certificates/Slice0/Obligations.lean ====
section
/-! DEFINITION. The statements for the provers, from the numbered rules of the spec. A statement that gathers several parts names them, each with what it says. -/

open Sys2Proof Sys2Proof.Machine

/-! ## Encodings (R39, R40, R47, R56, R58, R59) -/

/-- Every well-formed instruction is read back from its own bytes, with every operand, whatever follows it in memory (R39, R47, R58, R59). -/
def Obligations.DecodeOfEncode : Prop :=
  ∀ (i : Instr) (rest : List Byte), i.WellFormed = true → i.isEvent = false → decode shippingMap (encodeBytes i ++ rest) = .ok (i, rest)

/-- A word, or a prefix word and the word after it, that decodes to an instruction is the encoding of that instruction: no bit of it is
dropped (R39, R42, R47). -/
def Obligations.EncodeOfDecode : Prop :=
  (∀ (w : BitVec 32) (i : Instr), decodeWords shippingMap w.toNat none = .ok i → encode i = [w]) ∧
  (∀ (p w : BitVec 32) (i : Instr), isPfxWord p.toNat = true → decodeWords shippingMap p.toNat (some w.toNat) = .ok i → encode i = [p, w])

/-- A few words written from the formats of R39, R40 and R47: S, OP, SC, D, A, B. -/
def Obligations.WordsDecode : Prop :=
  decodeWords shippingMap 0b0_0000100010_001_000011_000001_000010 none = .ok (.iadd none 1 3 1 2) ∧
  decodeWords shippingMap 0b1_0000000001_000_111111111111111110 none = .ok (.bra 0 (-2)) ∧
  decodeWords shippingMap 0b0_0011000000_000_000101_000110_1111_00 none = .ok (.ld none 0 5 6 15 0) ∧
  decodeWords shippingMap 0b0_1111111111_001_000_1_0_111010_0000001 (some 0b0_0000100010_000_000011_000001_000010) =
    .ok (.iadd (some ⟨1, 0, 1, 0, 58, 1⟩) 0 3 1 2) ∧
  decodeWords shippingMap 0b0_0000001011_000_000000_000000_000000 none = .error .unmapped

/-! ## A step (R48, R52, R57, R81, R316) -/

/-- The state in which the group selected issues a unit of its first set: the selection, the unit's group, lanes, address and words, and the
pipe it uses are noted. -/
def Sys2Proof.Machine.State.toIssue (s : State) (g : Nat) (a : Lanes) (w pw : BitVec 32) (i : Instr) (co : Option (Nat × Lanes)) : State :=
  { s with
    groups := modAt (fun gr => { gr with lastSel := s.now + 1, yielded := false }) g s.groups
    co := co, pair := none, pipes := [i.pipe]
    cur := freshIssue g a ((s.grp g).lane (lowest a)).pc w pw }

/-- The state once the events that are ready have been passed over, where there is one. -/
def Sys2Proof.Machine.State.past (s : State) : State := if s.readyEvent.isSome then s.popTurn.2 else s

/-- Where no event is due, nothing waits to be performed, the agenda is empty and no event is to be performed first (none is ready, or it is passed over), the group selected
issues the unit at the counter of its first set: the step is the meaning of the instruction that the words there decode to, with the unit's
group, lanes, address and words noted. A unit that older ones of the group must precede is kept for later, where it passes its checks (R316). -/
def Sys2Proof.Machine.StepRunsDecoded : Prop :=
  ∀ (s : State) (g : Nat) (a b : Lanes) (w pw : BitVec 32) (i : Instr),
    s.dueEvent = none → s.issueQ = [] → s.sched.agenda = [] → s.sched.defers = [] → s.sched.pairs = [] →
    (s.readyEvent = none ∨ s.sched.turns.head? = some true) → s.co = none →
    s.pair = none → s.selectGroup = some g →
    (s.grp g).sets = (a, b) → ((s.grp g).lane (lowest a)).pc.toNat % 4 = 0 →
    s.fetchUnit g ((s.grp g).lane (lowest a)).pc = .unit w pw (.ok i) →
    ∃ co, (co = none ∨ co = some (g, b)) ∧
      (let t := s.past.toIssue g a w pw i co
       let waits : Prop := (t.settle g).mustQueue ((t.settle g).asIssued i) = true ∧ holdable i = true ∧ (s.grp g).shadow = none
       (¬ waits → step s = exec i t) ∧ (waits → (∀ u, t.deferUnit i = some u → step s = .next u) ∧ (t.deferUnit i = none → step s = exec i t)))

/-- What a fetch reads from a sector without poison: the four bytes at the translated address, lowest first, through the decode table of the group's context; a prefix word
takes the word after it along (R39, R48, R56). -/
def Sys2Proof.Machine.FetchReadsBytes : Prop :=
  ∀ (s : State) (g : Nat) (pc : Word) (x : Xl) (w : BitVec 32),
    s.reach (s.agent g).quad (s.agent g).ctx (s.agent g).user .fetch pc.toNat = .ok x →
    (s.ibuf.any fun b => b.core == (s.agent g).core && b.ctx == (s.agent g).ctx && b.line == pc.toNat / 256) = true →
    s.memSpot (s.agent g) x ∉ s.poison → s.readBytes (s.agent g).quad (s.agent g).part x 4 = wordBytes w →
    (isPfxWord w.toNat = false → s.fetchUnit g pc = .unit w 0 (decodeWords (s.ctxOf g).opMap w.toNat none)) ∧
    (∀ (y : Xl) (w2 : BitVec 32), isPfxWord w.toNat = true →
      s.reach (s.agent g).quad (s.agent g).ctx (s.agent g).user .fetch (pc + 4).toNat = .ok y →
      (s.ibuf.any fun b => b.core == (s.agent g).core && b.ctx == (s.agent g).ctx && b.line == (pc + 4).toNat / 256) = true →
      s.memSpot (s.agent g) y ∉ s.poison → s.readBytes (s.agent g).quad (s.agent g).part y 4 = wordBytes w2 →
      s.fetchUnit g pc = .unit w2 w (decodeWords (s.ctxOf g).opMap w.toNat (some w2.toNat)))

/-- Where no event is due, nothing waits to be performed, the agenda is empty and no event is to be performed first (none is ready, or it is passed over), the
group selected issues the unit at the counter of its first set: the step is the meaning of the instruction that the words there decode to, with the unit's
group, lanes, address and words noted. A unit that older ones of the group must precede is kept for later, where it passes its checks (R316). What a fetch
reads from a sector without poison: the four bytes at the translated address, lowest first, through the decode table of the group's context; a prefix word
takes the word after it along (R39, R48, R56). -/
def Obligations.StepRunsFetched : Prop := Sys2Proof.Machine.StepRunsDecoded ∧ Sys2Proof.Machine.FetchReadsBytes

/-! ## Reset and invariants -/

/-- What the machine holds right after reset: no group runs, DRAM reads as zero, no partition stands, and the registers that the spec gives a
reset value hold it; so do those of a group, a crew and a context as they begin, a group with its context's FPMODE and its source's level in PRIO
(R53, R71, R85, R88, R113, R169, R173, R174, R178, R287, R304, R319, R323, R324, R340, R345, R351, R352). That the cycle
count starts at 0 is the model's choice (log entry 7). -/
def Obligations.ResetState : Prop :=
  State.reset.now = 0 ∧ State.reset.groups = [] ∧ (∀ a, Mem.get State.reset.dram a = 0) ∧
  (∀ p < 4, (State.reset.part p).live = false ∧ (State.reset.part p).prebound = 0x7530 ∧ (State.reset.part p).qosc = 0x1366) ∧
  State.reset.pkg.podid = 0 ∧ State.reset.pkg.boot = 0 ∧ State.reset.pkg.pwrst = 0 ∧ State.reset.deadDies = [] ∧
  (∀ part id, (Context.fresh part id).sbchk = 0 ∧ (Context.fresh part id).unichk = 0 ∧ (Context.fresh part id).trapbase = 0 ∧
    (Context.fresh part id).savebase = 0 ∧ (Context.fresh part id).decode = [] ∧
    (Context.fresh part id).forkcfg = 9 ∧ (Context.fresh part id).roomtmo = 0 ∧ (Context.fresh part id).xlbase = 0 ∧ (Context.fresh part id).reusef = 0 ∧
    (Context.fresh part id).wayq = 0 ∧ (Context.fresh part id).ctxid = id) ∧
  (∀ ctx task quad no k, (Crew.fresh ctx task quad no k).pace = 0x100 ∧ (Crew.fresh ctx task quad no k).clk = 0) ∧
  (∀ (part : Nat) (id : Word), (Context.fresh part id).fpdef = 0) ∧
  (∀ (s t : State) (crew ctx quad cid level : Nat) (k : Kernel) (arg : Word) (e : Nat × Nat), level < 32 → s.startGroup crew ctx quad cid level k arg e = some t →
    (t.grp s.groups.length).fpmode = (s.ctx ctx).fpdef ∧ (t.grp s.groups.length).prio.toNat = level + 2 ^ 5 * 4) ∧
  (∀ crew cid n core slot tag pc fp prio, let gr := Group.fresh crew cid n core slot tag pc fp prio
    gr.fpmode = fp ∧ gr.prio = prio ∧ gr.unist = 0 ∧ gr.wdog = 0 ∧ gr.forkst = 0 ∧ gr.trapmask = 0 ∧ gr.fix = [] ∧ (∀ w spec, spec.toNat < 58 → gr.reg w spec = 0) ∧
      ∀ l < 32, (gr.lane l).mode = .running ∧ (gr.lane l).pc = pc)

/-- Every memory of the machine right after reset is in canonical form (log entry 3). -/
def Obligations.ResetCanonical : Prop := State.reset.canonical = true

/-- A step keeps every memory in canonical form: addresses strictly rising, no byte listed that reads as an unlisted one does. So equal
memories are equal data (log entry 3). -/
def Obligations.StepKeepsCanonical : Prop :=
  ∀ s t : State, s.canonical = true → step s = .next t → t.canonical = true

/-- No instruction and no event of the table is refused, whatever the state: it takes a next state, or it meets a physical address beyond the
partition's DRAM (R338). -/
def Obligations.NothingRefused : Prop :=
  ∀ (i : Instr) (s : State), (∃ t, exec i s = .next t) ∨ ∃ pa, exec i s = .fault (.noDram pa)

/-! ## Checks before effects (R60, R104, R105) -/

/-- An instruction that fails a check raises the check's trap before any effect of its own: nothing has happened but the settling of due
writes and the move of the counters to the resume point, which a unit that moves counters itself leaves where they are (R60, R84, R317). Where a continuation reaches a fork boundary, its lanes wait at the word
(R104). -/
def Sys2Proof.Machine.ChecksBeforeEffects : Prop :=
  ∀ (i : Instr) (s : State), i.isEvent = false →
    (∀ t, (s.begin i).gate i = .trap t →
      exec i s = .next ((if movesCounters i then s.begin i else (s.begin i).advance i).fault i (s.begin i).cur.lanes t true)) ∧
    ((s.begin i).gate i = .boundary → exec i s = .next ((s.begin i).holdBoundary (s.begin i).cur.lanes))

/-- The checks that depend on the word and the group, in the order of R60: each is raised only where none before it fails. -/
def Sys2Proof.Machine.CheckOrder : Prop :=
  ∀ (s : State) (i : Instr),
    (i.pfxMisuse = true → s.checks i = some ⟨cILLEGAL, 0x03, 0, none⟩) ∧
    (i.pfxMisuse = false →
      (i.badField = true ∨ s.objectBad i = true → s.checks i = some ⟨cILLEGAL, 0x04, 0, none⟩) ∧
      (i.badField = false → s.objectBad i = false →
        (i.specsOk = false ∨ i.countOk (s.grp s.cur.g).nregs = false → s.checks i = some ⟨cILLEGAL, 0x05, 0, none⟩) ∧
        (i.specsOk = true → i.countOk (s.grp s.cur.g).nregs = true →
          (∀ d, s.privSub i = some d → s.checks i = some ⟨cPRIVILEGE, d, 0, none⟩) ∧
          (s.privSub i = none →
            ((s.ctxOf s.cur.g).sbchk.getLsbD 0 = true ∧ s.cur.replay = false ∧ s.uncovered i = true → s.checks i = some ⟨cSTALLCHK, 0x00, 0, none⟩) ∧
            (¬ ((s.ctxOf s.cur.g).sbchk.getLsbD 0 = true ∧ s.cur.replay = false ∧ s.uncovered i = true) →
              ((s.ctxOf s.cur.g).unichk.getLsbD 0 = true ∧ s.disagree i = true → s.checks i = some ⟨cUNIFORM, 0x00, 0, none⟩) ∧
              (¬ ((s.ctxOf s.cur.g).unichk.getLsbD 0 = true ∧ s.disagree i = true) → s.checks i = none))))))

/-- At user level `dtld`, a `wrsr` of a privileged register, the privileged forms of `sysc` and an `sst` to the constant store fail check 6; at
system level nothing does (R157, R329, R334, R335). -/
def Sys2Proof.Machine.PrivilegeRule : Prop :=
  ∀ (s : State) (sc : BitVec 3) (d a : BitVec 6) (n : BitVec 12),
    ((s.ctxOf s.cur.g).isSys = true → ∀ i, s.privSub i = none) ∧
    ((s.ctxOf s.cur.g).isSys = false →
      s.privSub (.dtld sc d a) = some 0x01 ∧
      (s.privSub (.wrsr sc d n) = some 0x02 ↔
        n.toNat ∈ [0x100, 0x101, 0x102, 0x200, 0x205, 0x206, 0x207, 0x208, 0x209, 0x20A, 0x20B, 0x20C, 0x300, 0x301, 0x302, 0x303, 0x304, 0x305]) ∧
      (∀ i ∈ [Instr.syscShoot sc d, .syscTerm sc d, .syscQdesc sc d, .syscLevel sc d, .syscRing sc d, .syscPodwin sc d, .syscFpdef sc d],
        s.privSub i = some 0x02) ∧
      (∀ (hint : BitVec 4) (z : BitVec 2), s.privSub (.sst sc d a hint z) = some 0x02 ↔ (s.scal (.sst sc d a hint z) .A).toNat / 2 ^ 52 = 2) ∧
      s.privSub (.syscWhere sc d) = none ∧ s.privSub (.rdsr sc d n) = none)

/-- An instruction that fails a check raises the check's trap before any effect of its own: nothing has happened but the settling of due writes and the move
of the counters to the resume point, which a unit that moves counters itself leaves where they are (R60, R84, R317). Where a continuation reaches a fork
boundary, its lanes wait at the word (R104). The checks that depend on the word and the group, in the order of R60: each is raised only where none before it
fails. At user level `dtld`, a `wrsr` of a privileged register, the privileged forms of `sysc` and an `sst` to the constant store fail check 6; at system
level nothing does (R157, R329, R334, R335). -/
def Obligations.Checks : Prop := Sys2Proof.Machine.ChecksBeforeEffects ∧ Sys2Proof.Machine.CheckOrder ∧ Sys2Proof.Machine.PrivilegeRule

/-! ## Traps (R86, R105, R317, R319, R322, R325) -/

/-- Taking a trap: with TRAPBASE.EN = 1 and a frame that can be stored, the trapping lanes enter the handler vote at the entry address, v47 of
those lanes takes FA in a group of 48 registers, the save slot records FA, the lanes and the entries; no other lane changes (R317, R319). -/
def Sys2Proof.Machine.TrapEntry : Prop :=
  ∀ (s : State) (g : Nat) (ls : Lanes) (tr : TrapInfo) (ents : List UnitRec) (word pword : BitVec 32) (pc : Word),
    g < s.groups.length → (s.ctxOf g).trapbase.getLsbD 0 = true →
    (s.flush g).frameOk g (frameElts (s.frameAddr g) (lowest ls) ((s.flush g).headerWords g ls tr false (ents.take 8).length word pword pc) (ents.take 8)) = true →
    let t := s.enterTrap g ls tr ents word pword pc
    let fa := (s.ctxOf g).savebase + BitVec.ofNat 64 (65536 * (s.grp g).gtag)
    (∀ l < 32, ls.getLsbD l = true → (t.lane g l).mode = .handler ∧ (t.lane g l).pc = (s.ctxOf g).trapbase &&& 0xFFFFFFFFFFFFFFFC#64) ∧
    (∀ l < 32, ls.getLsbD l = false → t.lane g l = s.lane g l) ∧
    ((s.grp g).nregs = 48 → ∀ l < 32, laneOf ((t.grp g).reg 64 47) l = if ls.getLsbD l then fa else laneOf ((s.grp g).flush.reg 64 47) l) ∧
    (t.grp g).save = some ⟨fa, ls, ents.take 8⟩ ∧ (t.grp g).fix = []

/-- What becomes of lanes that raise a cause: lanes of a continuation wait at the word and write no frame (R105); lanes of the program vote, while
the handler is busy, are held at the faulting word with what they would report, and the save slot keeps its frame (R86). -/
def Sys2Proof.Machine.TrapHeldOrDeferred : Prop :=
  ∀ (s : State) (r : Raise), r.g < s.groups.length → r.lanes ≠ 0 → (s.grp r.g).place ≠ .dead →
    ((s.grp r.g).shadow.isSome = true →
      State.onlyGroup r.g s (s.raise r) ∧
      ∀ l < 32, (s.raise r).lane r.g l = if r.lanes.getLsbD l then { s.lane r.g l with mode := .boundary, pc := r.pc } else s.lane r.g l) ∧
    ((s.grp r.g).shadow = none → ((s.grp r.g).lane (lowest r.lanes)).inHandler = false →
      (∀ u, r.unit = some u → s.olderInFlight r.g r.lanes u.iss.seq = []) → (s.grp r.g).save ≠ none →
      ((s.raise r).grp r.g).save = (s.grp r.g).save ∧
      ∀ l < 32,
        (r.lanes.getLsbD l = true →
          ((s.raise r).lane r.g l).mode = .held ∧ ((s.raise r).lane r.g l).pc = r.pc ∧
          ∃ h, ((s.raise r).lane r.g l).held = some h ∧ h.trap = r.trap ∧ h.resume = (s.lane r.g l).pc) ∧
        (r.lanes.getLsbD l = false → (s.raise r).lane r.g l = s.lane r.g l))

/-- A group that takes a trap while TRAPBASE.EN = 0, or whose handler lanes raise a cause, dies: its lanes are exited, its unfinished units are
discarded, it holds no room and no frame, and its crew has failed (R86, R325; log entry 24 for the order of what comes before). -/
def Sys2Proof.Machine.Death : Prop :=
  ∀ (s : State) (g : Nat), g < s.groups.length → (s.grp g).crew < s.crews.length →
    let gone (t : State) : Prop :=
      (t.grp g).place = .dead ∧ (t.grp g).units = [] ∧ (t.grp g).waits = [] ∧ (t.grp g).save = none ∧
      (∀ l < 32, (t.lane g l).mode = .exited ∧ (t.lane g l).holds = []) ∧
      (∀ u ∈ t.issueQ, u.iss.g ≠ g) ∧ (t.crew (s.grp g).crew).failed = true
    (∀ (ls : Lanes) (tr : TrapInfo) (ents : List UnitRec) (word pword : BitVec 32) (pc : Word), (s.ctxOf g).trapbase.getLsbD 0 = false →
      gone (s.enterTrap g ls tr ents word pword pc)) ∧
    (∀ r : Raise, r.g = g → r.lanes ≠ 0 → (s.grp g).place ≠ .dead → (s.grp g).shadow = none → ((s.grp g).lane (lowest r.lanes)).inHandler = true →
      gone (s.raise r))

/-- Taking a trap: with TRAPBASE.EN = 1 and a frame that can be stored, the trapping lanes enter the handler vote at the entry address, v47 of those lanes
takes FA in a group of 48 registers, the save slot records FA, the lanes and the entries; no other lane changes (R317, R319). What becomes of lanes that raise
a cause: lanes of a continuation wait at the word and write no frame (R105); lanes of the program vote, while the handler is busy, are held at the faulting
word with what they would report, and the save slot keeps its frame (R86). A group that takes a trap while TRAPBASE.EN = 0, or whose handler lanes raise a
cause, dies: its lanes are exited, its unfinished units are discarded, it holds no room and no frame, and its crew has failed (R86, R325; log entry 24 for the
order of what comes before). -/
def Obligations.TrapTaken : Prop := Sys2Proof.Machine.TrapEntry ∧ Sys2Proof.Machine.TrapHeldOrDeferred ∧ Sys2Proof.Machine.Death

/-- The return from a trap, once the frame has been read, each field as it stands in memory: the handler lanes of F.LANES take back OLD47, LA, LB
and VPC and enter the program vote; other lanes stay; the frame is released when no lane remains in the handler; the entries that are not
skipped are performed next, in order, each with the words, the address and the images of its place in the frame, for the returning lanes of its
mask; words that the handler has changed are decoded anew (R321, R322; log entry 24). -/
def Sys2Proof.Machine.TrapReturn : Prop :=
  ∀ (s : State) (g : Nat) (f : SaveSlot) (h : Lanes) (secs : List (Nat × Nat)), g < s.groups.length →
    let t := s.restore g f h secs
    let r := h &&& BitVec.ofNat 32 (frameNum secs 0x10 8)
    (∀ l < 32, r.getLsbD l = true →
      (t.lane g l).mode = .running ∧ (t.lane g l).pc = BitVec.ofNat 64 (frameNum secs (0x100 + 8 * l) 8) ∧
      laneOf (t.grp g).la l = BitVec.ofNat 64 (frameNum secs (0x300 + 8 * l) 8) ∧
      laneOf (t.grp g).lb l = BitVec.ofNat 64 (frameNum secs (0x400 + 8 * l) 8) ∧
      ((s.grp g).nregs = 48 → laneOf ((t.grp g).reg 64 47) l = BitVec.ofNat 64 (frameNum secs (0x200 + 8 * l) 8))) ∧
    (∀ l < 32, r.getLsbD l = false → t.lane g l = s.lane g l) ∧
    ((∀ l < 32, (t.lane g l).inHandler = false) → (t.grp g).save = none) ∧
    ((∃ l < 32, (t.lane g l).inHandler = true) → (t.grp g).save = (s.grp g).save) ∧
    ∃ (ents : List UnitRec) (place : List Nat), t.issueQ = ents ++ s.issueQ ∧ ents.length = place.length ∧ place.Pairwise (· < ·) ∧
      (∀ i, i ∈ place ↔ i < min (frameNum secs 0 8 / 2 ^ 20 % 16) 8 ∧ (frameNum secs (0x1000 * (i + 1) + 0x10) 8).testBit 33 = false ∧
        BitVec.ofNat 32 (frameNum secs (0x1000 * (i + 1) + 0x10) 8) &&& r ≠ 0) ∧
      ∀ p ∈ ents.zip place,
        let u := p.1
        let e := 0x1000 * (p.2 + 1)
        u.iss.g = g ∧ u.iss.lanes = BitVec.ofNat 32 (frameNum secs (e + 0x10) 8) &&& r ∧
        u.iss.word = BitVec.ofNat 32 (frameNum secs e 4) ∧ u.iss.pword = BitVec.ofNat 32 (frameNum secs (e + 4) 4) ∧
        u.iss.addr = BitVec.ofNat 64 (frameNum secs (e + 8) 8) ∧ u.iss.rdone = (frameNum secs (e + 0x10) 8).testBit 32 ∧
        (∀ (j : Nat) (x : Img), u.iss.imgs[j]? = some x → x = frameImg secs (e + 0x100 + 0x100 * j)) ∧
        (∀ v, f.units[p.2]? = some v → v.iss.word = u.iss.word → v.iss.pword = u.iss.pword → u.instr = v.instr) ∧
        ((∀ v, f.units[p.2]? = some v → v.iss.word ≠ u.iss.word ∨ v.iss.pword ≠ u.iss.pword) →
          (∀ x, decodeUnit (s.ctxOf g).opMap u.iss.word u.iss.pword = .ok x → u.instr = x ∧ u.bad = none) ∧
          (∀ k, decodeUnit (s.ctxOf g).opMap u.iss.word u.iss.pword = .error k → u.bad = some (decodeTrap (s.ctxOf g).opMap u.iss.word u.iss.pword k)))

/-! ## Registers and results (R44 to R46, R49 to R52) -/

/-- Writing a register changes its enabled bits and no other register; writes to z and to the source-only specifiers are discarded; z reads zero,
lid the lane number and cid the group number in every element, vpc the lane's counter (R44, R46). -/
def Sys2Proof.Machine.RegisterFile : Prop :=
  (∀ (gr : Group) (d : BitVec 6) (en val : Img) (w : Nat) (spec : BitVec 6),
    ((gr.setReg d en val).reg w spec =
      if spec = d ∧ d.toNat < 56 then (val &&& en) ||| (gr.reg w spec &&& ~~~en) else gr.reg w spec) ∧
    (56 ≤ d.toNat → gr.setReg d en val = gr)) ∧
  (∀ (gr : Group) (w : Nat), gr.reg w 58 = 0) ∧
  (∀ (gr : Group) (w e : Nat), w ∈ [8, 16, 32, 64] → e < 2048 / w →
    el w e (gr.reg w 59) = w * e / 64 ∧ el w e (gr.reg w 61) = gr.cid % 2 ^ w) ∧
  (∀ (gr : Group) (w l : Nat), l < 32 → laneOf (gr.reg w 60) l = (gr.lane l).pc)

/-- The mask registers: k0 reads all ones and keeps them; another keeps the bits that a write does not enable (R20, R122). -/
def Sys2Proof.Machine.MaskFile : Prop :=
  ∀ (gr : Group) (j k : Nat) (en val : Mask), j < 8 → k < 8 →
    gr.mask 0 = BitVec.allOnes 256 ∧
    (gr.setMask j en val).mask k = if k = j ∧ j ≠ 0 then (val &&& en) ||| (gr.mask k &&& ~~~en) else gr.mask k

/-- Writing a register changes its enabled bits and no other register; writes to z and to the source-only specifiers are discarded; z reads zero, lid the lane
number and cid the group number in every element, vpc the lane's counter (R44, R46). The mask registers: k0 reads all ones and keeps them; another keeps the
bits that a write does not enable (R20, R122). -/
def Obligations.RegisterAndMaskFile : Prop := Sys2Proof.Machine.RegisterFile ∧ Sys2Proof.Machine.MaskFile

/-- A result of a lane row of fixed latency L, issued in cycle t, stands with its flags as a pending write that may be performed from cycle t + L + 1
on, or a cycle later for the second of a pair; nothing else has changed (R45, R50, R51, R54, R72; log entry 56 for the flags). -/
def Sys2Proof.Machine.FixedLatencyResult : Prop :=
  ∀ (s : State) (i : Instr) (d : BitVec 6) (r : Result) (lanes : Lanes) (fl : List (Nat × BitVec 5)) (L : Nat),
    lanes ≠ 0 → i.rt = false → i.laneOp < 0x400 → i.latency = some L → s.cur.g < s.groups.length →
    let t := s.finishWith i d r lanes fl
    State.onlyGroup s.cur.g s t ∧
    t.grp s.cur.g = { s.grp s.cur.g with
      fix := (s.grp s.cur.g).fix ++ [⟨.reg d, r.en, r.val, lanes, s.cur.seq, s.now + s.cur.second.toNat + L + 1, s.now, false, none, fl⟩] }

/-- A pending write, performed, changes the enabled bits of its destination and no other register; where it comes from a lane row, the whole
value of its destination enters la in its lanes (the value that the order of issue gives it, where a younger write went first), and the old la
moves to lb, unless a younger result stands there; its flags are raised now, in FPMODE, or in the lanes of a continuation (R45, R50, R52, R72,
R100; log entry 56). -/
def Sys2Proof.Machine.PendingPerformed : Prop :=
  ∀ (gr : Group) (d : BitVec 6) (p : Pending), d.toNat < 56 → p.dest = .reg d →
    let x := gr.perform p
    (∀ (w : Nat) (spec : BitVec 6), spec.toNat < 56 → x.reg w spec =
      if spec = d then (p.val &&& p.en) ||| (gr.reg w spec &&& ~~~p.en) else gr.reg w spec) ∧
    x.k = gr.k ∧
    (gr.shadow = none → x.lanes = gr.lanes ∧
      ∀ b < 64, x.fpmode.getLsbD b = (gr.fpmode.getLsbD b || (8 ≤ b && p.flags.any fun q => q.2.getLsbD (b - 8)))) ∧
    (gr.shadow.isSome = true → x.fpmode = gr.fpmode ∧
      ∀ l < 32, x.lane l = { gr.lane l with flags := (gr.lane l).flags ||| (look p.flags l).getD 0 }) ∧
    (∀ l < 32, p.last.getLsbD l = true → (gr.laSeq[l]?).getD 0 < p.seq →
      laneOf x.la l = laneOf (p.full.getD (x.reg 64 d)) l ∧ laneOf x.lb l = laneOf gr.la l) ∧
    (∀ l < 32, p.last.getLsbD l = false → laneOf x.la l = laneOf gr.la l ∧ laneOf x.lb l = laneOf gr.lb l)

/-- Performing the pending writes that are due, out of the order of issue where the cycles say so, leaves every register and mask as performing all
of them in the order of issue would: an older write to a register is never performed after a younger one (R52). -/
def Sys2Proof.Machine.SettleKeepsOrder : Prop :=
  ∀ (gr : Group) (now : Nat),
    (gr.settle now).flush.v = gr.flush.v ∧ (gr.settle now).flush.o = gr.flush.o ∧ (gr.settle now).flush.k = gr.flush.k ∧
    (gr.settle now).flush.fpmode = gr.flush.fpmode ∧ (gr.shadow = none → (gr.settle now).lanes = gr.lanes) ∧
    ∀ p ∈ (gr.settle now).fix, now < p.avail

/-- A result of variable latency is written when it is performed: once every pending write is performed too, its register holds the older writes'
value with the enabled bits replaced, and every other register, and every mask, what it would have held (R52). -/
def Sys2Proof.Machine.VariableLatencyResult : Prop :=
  ∀ (s : State) (i : Instr) (d : BitVec 6) (r : Result) (lanes : Lanes),
    lanes ≠ 0 → i.rt = false → i.latency = none → s.cur.g < s.groups.length → d.toNat < 56 →
    let t := s.finish i d r lanes
    State.onlyGroup s.cur.g s t ∧
    (∀ spec : BitVec 6, spec.toNat < 56 → (t.grp s.cur.g).flush.reg 64 spec =
      if spec = d then (r.val &&& r.en) ||| ((s.grp s.cur.g).flush.reg 64 spec &&& ~~~r.en) else (s.grp s.cur.g).flush.reg 64 spec) ∧
    (t.grp s.cur.g).flush.k = (s.grp s.cur.g).flush.k

/-- A consumer-mask result: every consumer is to receive one image, the result merged into the register consumer named by C, or into zeros where D names
no register. The unit stands among the group's waits, with that image, and stalls the group until each consumer has accepted; of a unit of variable
latency the register is written at once, and where it is the only consumer the group goes on. No consumer but the register has received anything
(R45, R49; log entry 10 for the zeros). -/
def Sys2Proof.Machine.ConsumerResult : Prop :=
  ∀ (s : State) (i : Instr) (d : BitVec 6) (r : Result) (lanes : Lanes),
    lanes ≠ 0 → i.rt = true → i.consumers ≠ 0 → s.cur.g < s.groups.length → s.cur.replay = false → s.cur.dlv = 0 →
    let g := s.cur.g
    let named := i.consumers.getLsbD 0 = true ∧ i.c.toNat < 56
    let t := s.finish i d r lanes
    ∃ img : Img,
      (named → img = (r.val &&& r.en) ||| ((s.grp g).flush.reg 64 i.c &&& ~~~r.en)) ∧ (i.consumers.getLsbD 0 = false → img = r.val &&& r.en) ∧
      t.crews = s.crews ∧ (named → (t.grp g).flush.reg 64 i.c = img) ∧
      (∀ spec : BitVec 6, spec.toNat < 56 → ¬ (named ∧ spec = i.c) → (t.grp g).flush.reg 64 spec = (s.grp g).flush.reg 64 spec) ∧
      (i.latency = none ∧ i.consumers = 1 → (t.grp g).waits = (s.grp g).waits) ∧
      (¬ (i.latency = none ∧ i.consumers = 1) → ∃ u, (t.grp g).waits = (s.grp g).waits ++ [u] ∧ u.instr = i ∧ u.iss.res = some img ∧
        u.iss.dlv = (if i.latency = none ∧ i.consumers.getLsbD 0 = true then 1 else 0) ∧ stallsGroup u.instr = true)

/-- What the effect of a unit starts from: only its group, its crew's reuse clock and the pipes it occupies differ. The active lanes stand after the
unit, the word after a prefix included, and are ready after ST + 1 cycles (one more for the second of a pair); the other lanes stand as they stood;
UNIST notes a disagreement; FPMODE has the flags of the writes that were due (R48, R50, R54, R72, R83, R84, R145, R147, R169). -/
def Obligations.IssueFrame : Prop :=
  ∀ (s : State) (i : Instr), s.goes i → s.cur.g < s.groups.length → (s.grp s.cur.g).shadow = none →
    let t := s.issued i
    let g := s.cur.g
    t = { s with
      groups := t.groups, crews := t.crews, busy := t.busy, seq := s.seq + 1
      cur := { s.cur with seq := s.seq + 1, cycle := s.now, fp := ((s.grp g).settle s.now).fpmode, clk := t.cur.clk, low := some (lowest s.cur.lanes) } } ∧
    (∀ h, h ≠ g → t.grp h = s.grp h) ∧
    (∀ l < 32, t.lane g l =
      if s.cur.lanes.getLsbD l then
        { s.lane g l with pc := s.cur.addr + (if i.pf?.isSome then 8 else 4), ready := s.now + s.cur.second.toNat + i.stall.toNat + 1 }
      else s.lane g l) ∧
    (t.grp g).unist = (if (s.begin i).disagree i then (if (s.grp g).unist.getLsbD 0 then (s.grp g).unist else (s.cur.addr &&& 0xFFFFFFFFFFFFFFFC#64) ||| 1#64) else (s.grp g).unist) ∧
    (t.grp g).fpmode = ((s.grp g).settle s.now).fpmode ∧ (t.grp g).wdog = (s.grp g).wdog ∧ (t.grp g).forkst = (s.grp g).forkst ∧ (t.grp g).prio = (s.grp g).prio ∧
    (t.grp g).trapmask = (s.grp g).trapmask ∧ (t.grp g).save = (s.grp g).save ∧ (t.grp g).waits = (s.grp g).waits ∧ (t.grp g).units = (s.grp g).units ∧
    (t.grp g).acks = (s.grp g).acks ∧
    (∀ c, ∃ k n d, t.crew c = { s.crew c with clk := k, clkIssues := n, paceDue := d }) ∧
    (i.countsReuse = false → t.crews = s.crews) ∧
    (netCycles i = 0 → (∀ pf sc d a b, i ≠ .tmv pf sc d a b) → t.busy = s.busy)

/-! ## Integer rows (R117 to R130) -/

/-- The rows of R118 that combine exact values: destination, operation, and whether C is a term. -/
def Sys2Proof.Machine.exactRow : Instr → Option (BitVec 6 × (Int → Int → Int → Int))
  | .iadd _ _ d _ _ => some (d, fun x y _ => x + y)
  | .isub _ _ d _ _ => some (d, fun x y _ => x - y)
  | .imul _ _ d _ _ => some (d, fun x y _ => x * y)
  | .imad _ _ d _ _ => some (d, fun x y z => x * y + z)
  | .imin _ _ d _ _ => some (d, fun x y _ => min x y)
  | .imax _ _ d _ _ => some (d, fun x y _ => max x y)
  | .iabs _ _ d _ => some (d, fun x _ _ => |x|)
  | _ => none

/-- iadd, isub, imul, imad, imin, imax, iabs, element by element: the exact value modulo 2^w, or, with MODE 1, clamped to the range of the type
(R117, R118). -/
def Sys2Proof.Machine.IntegerArithmetic : Prop :=
  ∀ (s : State) (i : Instr) (d : BitVec 6) (op : Int → Int → Int → Int), exactRow i = some (d, op) → s.goes i → i.mode ≤ 1 →
    let t := s.issued i
    let w := i.width
    s.gives i d w fun e v =>
      let r := op (ext i.uBit w (el w e (t.src i .A))) (ext i.uBit w (el w e (t.src i .B))) (ext i.uBit w (el w e (t.src i .C)))
      (i.mode = 0 → ((v : Nat) : Int) = r % 2 ^ w) ∧
      (i.mode = 1 → ext i.uBit w v = if i.uBit then max 0 (min r (2 ^ w - 1)) else max (-2 ^ (w - 1)) (min r (2 ^ (w - 1) - 1)))

/-- The widening forms of iadd, isub, imul and imad: MODE 2 takes the lower half of each lane's elements, MODE 3 the upper half, and the results fill
the lane with twice the width (R118). -/
def Sys2Proof.Machine.IntegerWidening : Prop :=
  ∀ (s : State) (i : Instr) (d : BitVec 6) (op : Int → Int → Int → Int), exactRow i = some (d, op) → s.goes i → i.mode = 2 ∨ i.mode = 3 →
    let t := s.issued i
    let w := i.width
    let n := 32 / w
    s.gives i d (2 * w) fun e v =>
      let q := 2 * n * (e / n) + (if i.mode = 3 then n else 0) + e % n
      ((v : Nat) : Int) = op (ext i.uBit w (el w q (t.src i .A))) (ext i.uBit w (el w q (t.src i .B))) (ext i.uBit (2 * w) (el (2 * w) e (t.src i .C))) % 2 ^ (2 * w)

/-- iadd, isub, imul, imad, imin, imax, iabs, element by element: the exact value modulo 2^w, or, with MODE 1, clamped to the range of the type (R117, R118).
The widening forms of iadd, isub, imul and imad: MODE 2 takes the lower half of each lane's elements, MODE 3 the upper half, and the results fill the lane
with twice the width (R118). -/
def Obligations.IntegerSumsAndProducts : Prop := Sys2Proof.Machine.IntegerArithmetic ∧ Sys2Proof.Machine.IntegerWidening

/-- mov, movi, imulh, iaddc and idot (R118 to R120). -/
def Obligations.IntegerMoves : Prop :=
  ∀ (s : State) (pf : Option Pfx) (sc : BitVec 3) (d a b : BitVec 6) (n : BitVec 12),
    (s.goes (.mov pf sc d a) → s.gives (.mov pf sc d a) d (Instr.mov pf sc d a).width fun e v =>
      v = el (Instr.mov pf sc d a).width e ((s.issued (.mov pf sc d a)).src (.mov pf sc d a) .A)) ∧
    (s.goes (.movi pf sc d n) → s.gives (.movi pf sc d n) d (Instr.movi pf sc d n).width fun _ v =>
      ((v : Nat) : Int) = (if (Instr.movi pf sc d n).uBit then (n.toNat : Int) else n.toInt) % 2 ^ (Instr.movi pf sc d n).width) ∧
    (let i : Instr := .imulh pf sc d a b
     s.goes i → s.gives i d i.width fun e v =>
      ((v : Nat) : Int) = ext i.uBit i.width (el i.width e ((s.issued i).src i .A)) * ext i.uBit i.width (el i.width e ((s.issued i).src i .B)) / 2 ^ i.width % 2 ^ i.width) ∧
    (let i : Instr := .iaddc pf sc d a b
     s.goes i → s.gives i d i.width fun e v =>
      let x := el i.width e ((s.issued i).src i .A)
      let y := el i.width e ((s.issued i).src i .B)
      let c := el i.width e ((s.issued i).src i .C) % 2
      let sum : Int := sext i.width x + sext i.width y + c
      (i.mode = 0 → v = (x + y + c) % 2 ^ i.width) ∧ (i.mode = 1 → v = (x + y + c) / 2 ^ i.width) ∧
      (i.mode = 2 → v = if sum < -2 ^ (i.width - 1) ∨ 2 ^ (i.width - 1) ≤ sum then 1 else 0)) ∧
    (let i : Instr := .idot pf sc d a b
     s.goes i → s.gives i d 32 fun e v =>
      let m := 32 / i.width
      let sum := ext i.uBit 32 (el 32 e ((s.issued i).src i .C)) + ∑ j ∈ Finset.range m,
        ext i.uBit i.width (el i.width (m * e + j) ((s.issued i).src i .A)) * ext i.uBit i.width (el i.width (m * e + j) ((s.issued i).src i .B))
      (i.mode = 0 → ((v : Nat) : Int) = sum % 2 ^ 32) ∧
      (i.mode = 1 → ext i.uBit 32 v = if i.uBit then max 0 (min sum (2 ^ 32 - 1)) else max (-2 ^ 31) (min sum (2 ^ 31 - 1))))

/-- The rows that work on codes, bit by bit or by count: destination, and the value of an element from those of A and B (R121, R125). -/
def Sys2Proof.Machine.codeRow (w : Nat) : Instr → Option (BitVec 6 × (BitVec w → BitVec w → BitVec w))
  | .iand _ _ d _ _ => some (d, fun x y => x &&& y)
  | .ior _ _ d _ _ => some (d, fun x y => x ||| y)
  | .ixor _ _ d _ _ => some (d, fun x y => x ^^^ y)
  | .shr _ _ d _ _ => some (d, fun x y => x >>> y.toNat)
  | .sar _ _ d _ _ => some (d, fun x y => x.sshiftRight y.toNat)
  | .popc _ _ d _ => some (d, fun x _ => BitVec.ofNat w ((List.range w).countP x.getLsbD))
  | .clz _ _ d _ => some (d, fun x _ => BitVec.ofNat w (if x = 0 then w else w - 1 - Nat.log2 x.toNat))
  | .brev _ _ d _ => some (d, fun x _ => x.reverse)
  | _ => none

/-- iand, ior, ixor, shr, sar, popc, clz and brev, on elements of width 8 to 64 (R121, R125). -/
def Sys2Proof.Machine.IntegerCodes : Prop :=
  ∀ (s : State) (i : Instr) (d : BitVec 6) (op : BitVec i.width → BitVec i.width → BitVec i.width), codeRow i.width i = some (d, op) → s.goes i →
    s.gives i d i.width fun e v =>
      v = (op (BitVec.ofNat i.width (el i.width e ((s.issued i).src i .A))) (BitVec.ofNat i.width (el i.width e ((s.issued i).src i .B)))).toNat

/-- shl, isel, bfx, bfi, lea, pack and unpk (R121, R123, R124, R126, R127). -/
def Sys2Proof.Machine.IntegerFields : Prop :=
  ∀ (s : State) (pf : Option Pfx) (sc : BitVec 3) (d a b : BitVec 6),
    (let i : Instr := .shl pf sc d a b
     s.goes i → s.gives i d i.width fun e v =>
      let w := i.width
      let x := el w e ((s.issued i).src i .A)
      let c := el w e ((s.issued i).src i .B)
      (i.mode = 0 → v = x * 2 ^ c % 2 ^ w) ∧
      (i.mode = 1 → ext i.uBit w v = if i.uBit then min ((x : Int) * 2 ^ c) (2 ^ w - 1) else max (-2 ^ (w - 1)) (min (sext w x * 2 ^ c) (2 ^ (w - 1) - 1)))) ∧
    (let i : Instr := .isel pf sc d a b
     s.goes i → s.gives i d i.width fun e v =>
      let k := i.x / 16
      v = el i.width e ((s.issued i).src i (if k = 0 ∨ ((s.issued i).smask k).getLsbD (i.width * e / 8) = true then .A else .B))) ∧
    (let i : Instr := .bfx pf sc d a b
     s.goes i → s.gives i d i.width fun e v =>
      let w := i.width
      let x := el w e ((s.issued i).src i .A)
      let p := fieldOf w (el w e ((s.issued i).src i .B))
      (p.2 = 0 → v = 0) ∧ (p.2 ≠ 0 → ((v : Nat) : Int) = ext i.uBit p.2 (x / 2 ^ p.1) % 2 ^ w)) ∧
    (let i : Instr := .bfi pf sc d a b
     s.goes i → s.gives i d i.width fun e v =>
      let w := i.width
      let p := fieldOf w (el w e ((s.issued i).src i .B))
      ∀ j < w, v.testBit j = if p.1 ≤ j ∧ j < p.1 + p.2 then (el w e ((s.issued i).src i .C)).testBit (j - p.1) else (el w e ((s.issued i).src i .A)).testBit j) ∧
    (let i : Instr := .lea pf sc d a b
     s.goes i → s.gives i d 64 fun e v =>
      v = (el 64 e ((s.issued i).src i .A) + el 64 e ((s.issued i).src i .B) * 2 ^ (i.x % 8)) % 2 ^ 64) ∧
    (let i : Instr := .pack pf sc d a b
     s.goes i → s.gives i d (i.width / 2) fun e v =>
      let w := i.width
      let n := 64 / w
      let c := if e % (2 * n) < n then el w (n * (e / (2 * n)) + e % (2 * n)) ((s.issued i).src i .A)
        else el w (n * (e / (2 * n)) + e % (2 * n) - n) ((s.issued i).src i .B)
      (i.mode = 0 → v = c % 2 ^ (w / 2)) ∧
      (i.mode = 1 → ext i.uBit (w / 2) v = if i.uBit then min (c : Int) (2 ^ (w / 2) - 1) else max (-2 ^ (w / 2 - 1)) (min (sext w c) (2 ^ (w / 2 - 1) - 1)))) ∧
    (let i : Instr := .unpk pf sc d a
     s.goes i → s.gives i d i.width fun e v =>
      let w := i.width
      let n := 64 / w
      let j := e % n + (if i.mode = 1 then n else 0)
      ((v : Nat) : Int) = ext i.uBit (w / 2) (el (w / 2) (2 * n * (e / n) + j) ((s.issued i).src i .A)) % 2 ^ w)

/-- iand, ior, ixor, shr, sar, popc, clz and brev, on elements of width 8 to 64 (R121, R125). shl, isel, bfx, bfi, lea, pack and unpk (R121, R123, R124, R126,
R127). -/
def Obligations.IntegerCodesAndFields : Prop := Sys2Proof.Machine.IntegerCodes ∧ Sys2Proof.Machine.IntegerFields

/-! ## Uniform rows, comparisons (R84, R122, R128 to R130, R135) -/

/-- The uniform rows: destination, and the result from A, B and the old D of the lowest active lane (R128, R129). -/
def Sys2Proof.Machine.uniformRow : Instr → Option (BitVec 6 × (Word → Word → Word → Word))
  | .smov _ d n => some (d, fun _ _ _ => n.signExtend 64)
  | .sadd _ d _ _ => some (d, fun x y _ => x + y)
  | .ssub _ d _ _ => some (d, fun x y _ => x - y)
  | .smul _ d _ _ => some (d, fun x y _ => x * y)
  | .smad _ d _ _ => some (d, fun x y z => x * y + z)
  | .sand _ d _ _ => some (d, fun x y _ => x &&& y)
  | .sor _ d _ _ => some (d, fun x y _ => x ||| y)
  | .sxor _ d _ _ => some (d, fun x y _ => x ^^^ y)
  | .sshl _ d _ _ => some (d, fun x y _ => BitVec.ofNat 64 (x.toNat * 2 ^ y.toNat))
  | .sshr _ d _ _ => some (d, fun x y _ => BitVec.ofNat 64 (x.toNat / 2 ^ y.toNat))
  | .smin _ d _ _ => some (d, fun x y _ => if x.slt y then x else y)
  | .smax _ d _ _ => some (d, fun x y _ => if x.slt y then y else x)
  | .scmp _ d _ _ => some (d, fun x y _ => BitVec.ofNat 64 ((if x = y then 1 else 0) + (if x.slt y then 2 else 0) + (if x.ult y then 4 else 0)))
  | .ssel _ d _ _ => some (d, fun x y z => if z = 0 then y else x)
  | .slea _ d _ _ => some (d, fun x y _ => x + 8 * y)
  | _ => none

/-- The uniform integer rows compute one 64-bit value from the lowest active lane and give it to all 32 lanes of D; the old D that ssel reads takes part in the test of
R84 (R84, R128, R129). -/
def Obligations.UniformInteger : Prop :=
  ∀ (s : State) (i : Instr) (d : BitVec 6) (op : Word → Word → Word → Word), uniformRow i = some (d, op) → s.goes i →
    let t := s.issued i
    ∃ r : Result, exec i s = .next (t.finish i d r s.cur.lanes) ∧ r.en = BitVec.allOnes 2048 ∧
      (∀ l < 32, laneOf r.val l = op (laneOf (t.src i .A) (lowest s.cur.lanes)) (laneOf (t.src i .B) (lowest s.cur.lanes)) (laneOf (t.src i .D) (lowest s.cur.lanes))) ∧
      ((∃ sc a b, i = .ssel sc d a b) → d.toNat < 56 → (∃ l < 32, t.active l ∧ laneOf (t.src i .D) l ≠ laneOf (t.src i .D) (lowest t.cur.lanes)) → t.disagree i = true)

/-- The result of a uniform row of latency L, issued in cycle t, may be performed from cycle t + L + 1 on, or a cycle later for the second of a pair. It
stands in the order of issue, but before a lane result for its register from the same cycle, and enters no la (R45, R50, R51, R54, R130). -/
def Sys2Proof.Machine.UniformResult : Prop :=
  ∀ (s : State) (i : Instr) (d : BitVec 6) (r : Result) (lanes : Lanes) (L : Nat),
    lanes ≠ 0 → i.rt = false → 0x400 ≤ i.laneOp → i.latency = some L → s.cur.g < s.groups.length →
    let t := s.finish i d r lanes
    let isSame (q : Pending) : Prop := q.uni = false ∧ q.dest = .reg d ∧ q.issued = s.now
    State.onlyGroup s.cur.g s t ∧
    ∃ xs ys, (s.grp s.cur.g).fix = xs ++ ys ∧ (∀ q ∈ xs, ¬ isSame q) ∧ (∀ q, ys.head? = some q → isSame q) ∧
      t.grp s.cur.g = { s.grp s.cur.g with fix := xs ++ ⟨.reg d, r.en, r.val, 0, s.cur.seq, s.now + s.cur.second.toNat + L + 1, s.now, true, none, []⟩ :: ys }

/-- A result of a lane row of fixed latency L, issued in cycle t, stands with its flags as a pending write that may be performed from cycle t + L + 1 on, or a
cycle later for the second of a pair; nothing else has changed (R45, R50, R51, R54, R72; log entry 56 for the flags). A pending write, performed, changes the
enabled bits of its destination and no other register; where it comes from a lane row, the whole value of its destination enters la in its lanes (the value
that the order of issue gives it, where a younger write went first), and the old la moves to lb, unless a younger result stands there; its flags are raised
now, in FPMODE, or in the lanes of a continuation (R45, R50, R52, R72, R100; log entry 56). Performing the pending writes that are due, out of the order of
issue where the cycles say so, leaves every register and mask as performing all of them in the order of issue would: an older write to a register is never
performed after a younger one (R52). A result of variable latency is written when it is performed: once every pending write is performed too, its register
holds the older writes' value with the enabled bits replaced, and every other register, and every mask, what it would have held (R52). A consumer-mask result:
every consumer is to receive one image, the result merged into the register consumer named by C, or into zeros where D names no register. The unit stands
among the group's waits, with that image, and stalls the group until each consumer has accepted; of a unit of variable latency the register is written at
once, and where it is the only consumer the group goes on. No consumer but the register has received anything (R45, R49; log entry 10 for the zeros). The
result of a uniform row of latency L, issued in cycle t, may be performed from cycle t + L + 1 on, or a cycle later for the second of a pair. It stands in the
order of issue, but before a lane result for its register from the same cycle, and enters no la (R45, R50, R51, R54, R130). -/
def Obligations.ResultsPerformed : Prop := Sys2Proof.Machine.FixedLatencyResult ∧ Sys2Proof.Machine.PendingPerformed ∧ Sys2Proof.Machine.SettleKeepsOrder ∧ Sys2Proof.Machine.VariableLatencyResult ∧ Sys2Proof.Machine.ConsumerResult ∧ Sys2Proof.Machine.UniformResult

/-- The test of `icmp` and `fcmp` on element e. -/
def Sys2Proof.Machine.compareRow (t : State) : Instr → Option (BitVec 3 × Nat × (Nat → Prop))
  | .icmp pf sc k a b =>
    let i : Instr := .icmp pf sc k a b
    let x (e : Nat) := ext i.uBit i.width (el i.width e (t.src i .A))
    let y (e : Nat) := ext i.uBit i.width (el i.width e (t.src i .B))
    some (k, i.width, fun e => match i.mode with
      | 0 => x e = y e | 1 => x e ≠ y e | 2 => x e < y e | 3 => x e ≤ y e | 4 => x e > y e | _ => x e ≥ y e)
  | .fcmp pf sc k a b =>
    let i : Instr := .fcmp pf sc k a b
    let f := i.x % 8
    let x (e : Nat) := decodeF f (el (fmtWidth f) e (t.src i .A))
    let y (e : Nat) := decodeF f (el (fmtWidth f) e (t.src i .B))
    let nan (e : Nat) : Prop := (x e).isNan = true ∨ (y e).isNan = true
    let eq (e : Nat) : Prop := FVal.eqv (x e) (y e) = true
    let lt (e : Nat) : Prop := FVal.lt (x e) (y e) = true
    let gt (e : Nat) : Prop := FVal.lt (y e) (x e) = true
    some (k, fmtWidth f, fun e => match i.x / 8 with
      | 0 => ¬ nan e ∧ eq e | 1 => nan e ∨ ¬ eq e | 2 => ¬ nan e ∧ lt e | 3 => ¬ nan e ∧ (lt e ∨ eq e) | 4 => ¬ nan e ∧ gt e
      | 5 => ¬ nan e ∧ (gt e ∨ eq e) | 6 => nan e | _ => ¬ nan e)
  | _ => none

/-- icmp and fcmp write a mask register and nothing else: all bits of an element that takes part take the outcome, the bits of another element of an
active lane are kept, or cleared under zero fill, and the bits of other lanes are kept (R122, R135). -/
def Obligations.CompareMask : Prop :=
  ∀ (s : State) (i : Instr) (k : BitVec 3) (w : Nat) (holds : Nat → Prop), s.goes i → compareRow (s.issued i) i = some (k, w, holds) →
    let t := s.issued i
    ∃ en val : Mask, exec i s = .next (t.finishMask i k.toNat (en, val) []) ∧
      ∀ b < 256, let e := 8 * b / w
        (t.live i w e → en.getLsbD b = true ∧ (val.getLsbD b = true ↔ holds e)) ∧
        (¬ t.live i w e → t.cur.lanes.getLsbD (b / 8) = true → i.zeroFill = true → en.getLsbD b = true ∧ val.getLsbD b = false) ∧
        (¬ t.live i w e → (t.cur.lanes.getLsbD (b / 8) = false ∨ i.zeroFill = false) → en.getLsbD b = false)

/-! ## Floating values (R62, R65, R66, R69 to R71, R74) -/

/-- Sums and products of values are exact: the value is the rational sum or product of finite operands; a NaN operand, ∞ − ∞ and 0 × ∞ give a NaN; any
other infinite operand gives its infinity, with the product's sign. An exact zero sum of operands of opposite sign is +0, under rd −0 (R74, R133). -/
def Sys2Proof.Machine.ExactArithmetic : Prop :=
  ∀ (x y : FVal) (rd : Bool),
    (x.nonFinite = false → y.nonFinite = false →
      (FVal.add rd x y).nonFinite = false ∧ (FVal.add rd x y).rat = x.rat + y.rat ∧ (FVal.mul x y).nonFinite = false ∧ (FVal.mul x y).rat = x.rat * y.rat ∧
      (x.rat + y.rat = 0 → (FVal.add rd x y).isNeg = if x.rat = 0 ∧ x.isNeg = y.isNeg then x.isNeg else rd) ∧
      (FVal.mul x y).isNeg = (x.isNeg != y.isNeg) ∧ (FVal.lt x y = true ↔ x.rat < y.rat) ∧ (FVal.eqv x y = true ↔ x.rat = y.rat)) ∧
    (x.isNan = true ∨ y.isNan = true ∨ (x.isInf = true ∧ y.isInf = true ∧ x.isNeg ≠ y.isNeg) → FVal.add rd x y = .nan) ∧
    (x.isInf = true → y.isNan = false → (y.isInf = true → x.isNeg = y.isNeg) → FVal.add rd x y = .inf x.isNeg ∧ FVal.add rd y x = .inf x.isNeg) ∧
    (x.isNan = true ∨ y.isNan = true ∨ (x.isInf = true ∧ y.isZero = true) ∨ (x.isZero = true ∧ y.isInf = true) → FVal.mul x y = .nan) ∧
    (x.isInf = true → y.isNan = false → y.isZero = false → FVal.mul x y = .inf (x.isNeg != y.isNeg) ∧ FVal.mul y x = .inf (x.isNeg != y.isNeg)) ∧
    (∀ zs : List FVal, (∀ z ∈ zs, z.nonFinite = false) → (FVal.sum rd zs).rat = (zs.map FVal.rat).sum)

/-- Rounding a finite value v into a format: the result is a value r of the format such that no other lies strictly between v and r; under rz it is no
larger in magnitude than v, under ru not below v, under rd not above; under rne no value of the format is nearer, and NX is set exactly where r is not v
(R69 to R71). Here v lies within the range of the format. -/
def Sys2Proof.Machine.RoundingCorrect : Prop :=
  ∀ (f rm : Nat) (v : FVal), f ≤ 5 → rm ≤ 3 → v.nonFinite = false → |v.rat| ≤ ((maxFin f).1 : ℚ) * 2 ^ (maxFin f).2 →
    let r := roundF f rm v
    let y := decodeF f r.code
    r.code < 2 ^ fmtWidth f ∧ y.nonFinite = false ∧
    (∀ c < 2 ^ fmtWidth f, let z := decodeF f c
      z.nonFinite = false →
        ¬ (v.rat < z.rat ∧ z.rat < y.rat) ∧ ¬ (y.rat < z.rat ∧ z.rat < v.rat) ∧
        (rm = 0 → |y.rat - v.rat| ≤ |z.rat - v.rat|)) ∧
    (rm = 1 → |y.rat| ≤ |v.rat|) ∧ (rm = 2 → v.rat ≤ y.rat) ∧ (rm = 3 → y.rat ≤ v.rat) ∧
    (r.flags.getLsbD 4 = true ↔ y.rat ≠ v.rat)

/-- Each code of a format is read as its value, and a value of the format is rounded to a code that reads as that value: nothing is lost (R62, R65,
R66, R70). -/
def Sys2Proof.Machine.FormatRoundTrip : Prop :=
  ∀ f ≤ 5, ∀ c < 2 ^ fmtWidth f, ∀ rm ≤ 4, (decodeF f c).nonFinite = false →
    let r := roundF f rm (decodeF f c)
    r.flags = 0 ∧ (r.code = c ∨ (f = 5 ∧ c = 8 ∧ r.code = 0))

/-! ## Floating rows (R133, R134, R136 to R141) -/

/-- The rows that round an exact value once: destination, whether C is an operand, and the value (R134). -/
def Sys2Proof.Machine.floatRow : Instr → Option (BitVec 6 × Bool × (Bool → FVal → FVal → FVal → FVal))
  | .fadd _ _ d _ _ => some (d, false, fun rd x y _ => FVal.add rd x y)
  | .fsub _ _ d _ _ => some (d, false, fun rd x y _ => FVal.add rd x y.neg)
  | .fmul _ _ d _ _ => some (d, false, fun _ x y _ => FVal.mul x y)
  | .ffma _ _ d _ _ => some (d, true, fun rd x y z => FVal.add rd (FVal.mul x y) z)
  | _ => none

/-- fadd, fsub, fmul and ffma: the exact value of each element, clipped if the form says so, rounded once; NV is set where a NaN arises from operands that
are none (R71, R134). -/
def Sys2Proof.Machine.FloatArithmetic : Prop :=
  ∀ (s : State) (i : Instr) (d : BitVec 6) (three : Bool) (op : Bool → FVal → FVal → FVal → FVal), floatRow i = some (d, three, op) → s.goes i →
    let t := s.issued i
    let f := i.x % 8
    let w := fmtWidth f
    s.givesFloat i d w fun e =>
      let x := decodeF f (el w e (t.src i .A))
      let y := decodeF f (el w e (t.src i .B))
      let z := decodeF f (el w e (t.src i .C))
      let v := op (decide ((s.issued i).rm i = 3)) x y z
      let r := roundClamp f ((s.issued i).rm i) (decide (i.x / 8 = 1)) v
      ⟨r.code, r.flags ||| if v.isNan && !x.isNan && !y.isNan && !(three && z.isNan) then fNV else 0⟩

/-- fscl: A times 2 to the power of B as a signed integer, whatever its size, clipped if the form says so and rounded once; fmin and fmax: the lesser or
greater operand as it stands, −0 below +0, one NaN giving the other operand, two the canonical NaN, no flag (R134). -/
def Sys2Proof.Machine.FloatScaleMinMax : Prop :=
  ∀ (s : State) (pf : Option Pfx) (sc : BitVec 3) (d a b : BitVec 6),
    (let i : Instr := .fscl pf sc d a b
     let f := i.x % 8
     let w := fmtWidth f
     s.goes i → s.givesFloat i d w fun e =>
      let k := sext w (el w e ((s.issued i).src i .B))
      roundClamp f ((s.issued i).rm i) (decide (i.x / 8 = 1)) (match decodeF f (el w e ((s.issued i).src i .A)) with
        | .fin n m q => .fin n m (q + k)
        | v => v)) ∧
    (∀ greater : Bool, let i : Instr := if greater then .fmax pf sc d a b else .fmin pf sc d a b
     let f := i.x % 8
     let w := fmtWidth f
     s.goes i → s.givesFloat i d w fun e =>
      let p := el w e ((s.issued i).src i .A)
      let q := el w e ((s.issued i).src i .B)
      let x := decodeF f p
      let y := decodeF f q
      let below := FVal.lt x y || (x.isZero && y.isZero && x.isNeg && !y.isNeg)
      ⟨if x.isNan && y.isNan then nanCode f else if x.isNan then q else if y.isNan then p else if below then (if greater then q else p) else (if greater then p else q), 0⟩)

/-- fadd, fsub, fmul and ffma: the exact value of each element, clipped if the form says so, rounded once; NV is set where a NaN arises from operands that are
none (R71, R134). fscl: A times 2 to the power of B as a signed integer, whatever its size, clipped if the form says so and rounded once; fmin and fmax: the
lesser or greater operand as it stands, −0 below +0, one NaN giving the other operand, two the canonical NaN, no flag (R134). -/
def Obligations.FloatSumsAndScaling : Prop := Sys2Proof.Machine.FloatArithmetic ∧ Sys2Proof.Machine.FloatScaleMinMax

/-- fdot: each FP32 result of a lane is its addend plus the products of its half of the lane's elements, summed exactly and rounded once; fclass: the class of
each element as an integer (R136, R137). -/
def Obligations.FloatDotClass : Prop :=
  ∀ (s : State) (pf : Option Pfx) (sc : BitVec 3) (d a b : BitVec 6),
    (let i : Instr := .fdot pf sc d a b
     let f := i.x % 8
     let w := fmtWidth f
     let n := 32 / w
     s.goes i → s.givesFloat i d 32 fun e =>
      let xs := (List.range n).map fun j => decodeF f (el w (n * e + j) ((s.issued i).src i .A))
      let ys := (List.range n).map fun j => decodeF f (el w (n * e + j) ((s.issued i).src i .B))
      let c := decodeF 0 (el 32 e ((s.issued i).src i .C))
      let v := FVal.sum (decide ((s.issued i).rm i = 3)) (c :: List.zipWith FVal.mul xs ys)
      let r := roundClamp 0 ((s.issued i).rm i) (decide (i.x / 8 = 1)) v
      ⟨r.code, r.flags ||| if v.isNan && (c :: xs ++ ys).all (fun z => !z.isNan) then fNV else 0⟩) ∧
    (let i : Instr := .fclass pf sc d a
     let f := i.x % 8
     let w := fmtWidth f
     s.goes i → s.gives i d w fun e v =>
      let x := decodeF f (el w e ((s.issued i).src i .A))
      let sub := decide (|x.rat| < (2 : ℚ) ^ (1 - biasOf f))
      (x.isNan = true → v = 8) ∧ (x = .inf true → v = 0) ∧ (x = .inf false → v = 7) ∧
      (x.nonFinite = false →
        (x.rat < 0 → v = if sub then 2 else 1) ∧ (x.rat > 0 → v = if sub then 5 else 6) ∧ (x.rat = 0 → v = if x.isNeg then 3 else 4)))

/-- fcvt: each destination element of the part takes the converted source element that stands in its place; under narrowing the elements outside the part are
left, whatever mask and fill say (R138, R139). -/
def Sys2Proof.Machine.FloatConvert : Prop :=
  ∀ (s : State) (pf : Option Pfx) (sc : BitVec 3) (d a : BitVec 6) (l q : BitVec 1) (srcFmt : BitVec 4),
    let i : Instr := .fcvt pf sc d a l q srcFmt
    let t := s.issued i
    let wd := fmtWidth (i.x % 16)
    let ws := fmtWidth srcFmt.toNat
    let nd := 64 / wd
    let ns := 64 / ws
    let P := fcvtPart i.x q
    let part (e : Nat) : Prop := nd ≤ ns ∨ (P * ns ≤ e % nd ∧ e % nd < P * ns + ns)
    let src (e : Nat) : Nat := ns * (e / nd) + (if nd > ns then e % nd - P * ns else if nd < ns then P * nd + e % nd else e % nd)
    let conv (e : Nat) : Elem :=
      convert (i.x % 16) srcFmt.toNat ((s.issued i).rm i) (decide (l = 1)) (el 8 (8 * (4 * (e / nd / 4))) (t.src i .C)) (el ws (src e) (t.src i .A))
    s.goes i → (s.grp s.cur.g).shadow = none → (s.grp s.cur.g).nft = false →
    ∃ (r : Result) (fl : List (Nat × BitVec 5)), exec i s = .next (t.finishWith i d r s.cur.lanes fl) ∧
      (∀ e < 2048 / wd,
        (part e → t.live i wd e → el wd e r.en = 2 ^ wd - 1 ∧ el wd e r.val = (conv e).code % 2 ^ wd) ∧
        (part e → ¬ t.live i wd e → t.cur.lanes.getLsbD (wd * e / 64) = true → i.zeroFill = true → el wd e r.en = 2 ^ wd - 1 ∧ el wd e r.val = 0) ∧
        (¬ part e ∨ t.cur.lanes.getLsbD (wd * e / 64) = false ∨ (¬ t.live i wd e ∧ i.zeroFill = false) → el wd e r.en = 0)) ∧
      ∀ l < 32, ∀ b < 5, ((look fl l).getD 0).getLsbD b = true ↔ ∃ e < 2048 / wd, wd * e / 64 = l ∧ part e ∧ t.live i wd e ∧ (conv e).flags.getLsbD b = true

/-- What one conversion yields: a floating destination rounds once, with the clip where CL = 1; an integer destination rounds to a whole number and
saturates, NV noting that; a NaN gives 0 (R68, R70, R71, R139;
log entry 23 for NV without NX where a value saturates). -/
def Sys2Proof.Machine.ConvertValue : Prop :=
  ∀ (df sf rm mx code : Nat) (clamp : Bool), df ≤ 14 →
    let v := decodeAny sf code mx
    let r := convert df sf rm clamp mx code
    (df ≤ 5 → r.code = (roundClamp df rm clamp v).code) ∧
    (7 ≤ df → let w := fmtWidth df
      let u := decide (11 ≤ df)
      let lo := if u then 0 else -(2 : Int) ^ (w - 1)
      let hi := if u then (2 : Int) ^ w - 1 else 2 ^ (w - 1) - 1
      r.code < 2 ^ w ∧ (v.isNan = true → r.code = 0 ∧ r.flags = fNV) ∧
      (v.isInf = true → ext u w r.code = (if v.isNeg then lo else hi) ∧ r.flags = fNV) ∧
      (v.nonFinite = false → let n := (roundInt rm v).1
        ext u w r.code = max lo (min n hi) ∧ (r.flags.getLsbD 0 = true ↔ n < lo ∨ hi < n) ∧ |(n : ℚ) - v.rat| < 1 ∧
        (rm = 0 → |(n : ℚ) - v.rat| ≤ 1 / 2) ∧ (rm = 1 → |(n : ℚ)| ≤ |v.rat|) ∧ (rm = 2 → v.rat ≤ n) ∧ (rm = 3 → n ≤ v.rat)))

/-- fcvt: each destination element of the part takes the converted source element that stands in its place; under narrowing the elements outside the part are
left, whatever mask and fill say (R138, R139). What one conversion yields: a floating destination rounds once, with the clip where CL = 1; an integer
destination rounds to a whole number and saturates, NV noting that; a NaN gives 0 (R68, R70, R71, R139; log entry 23 for NV without NX where a value
saturates). -/
def Obligations.FloatConversions : Prop := Sys2Proof.Machine.FloatConvert ∧ Sys2Proof.Machine.ConvertValue

/-- The special functions: destination, and what an element code yields in format f, rounding mode rm and LOWACC (R140, R141). -/
def Sys2Proof.Machine.specialRow : Instr → Option (BitVec 6 × (Nat → Nat → Bool → Nat → FRes))
  | .frcp _ _ d _ => some (d, fun f _ low c => specialElem .rcp f low c)
  | .frsq _ _ d _ => some (d, fun f _ low c => specialElem .rsq f low c)
  | .fsqt _ _ d _ => some (d, fun f rm _ c => sqrtElem f rm c)
  | .fexp2 _ _ d _ => some (d, fun f _ low c => specialElem .exp2 f low c)
  | .flog2 _ _ d _ => some (d, fun f _ low c => specialElem .log2 f low c)
  | .fsin _ _ d _ => some (d, fun f _ low c => specialElem .sin f low c)
  | .fcos _ _ d _ => some (d, fun f _ low c => specialElem .cos f low c)
  | .ftanh _ _ d _ => some (d, fun f _ low c => specialElem .tanh f low c)
  | _ => none

/-- frcp, frsq, fsqt, fexp2, flog2, fsin, fcos and ftanh give each element that takes part the function's value for its format, LOWACC and code alone (R140,
R141); which of the values within the bound it is, the spec leaves open (log entry 6). -/
def Obligations.SpecialFunctions : Prop :=
  ∀ (s : State) (i : Instr) (d : BitVec 6) (fn : Nat → Nat → Bool → Nat → FRes), specialRow i = some (d, fn) → s.goes i →
    let f := i.x % 8
    let w := fmtWidth f
    s.givesFloat i d w fun e => fn f ((s.issued i).rm i) (s.issued i).cur.lowacc (el w e ((s.issued i).src i .A))

/-- The special cases and symmetries of the special functions, whatever the device's choice within the bound: zeros, infinities and negative operands as
the table of R140 says, NaN in its canonical form, fsin and ftanh odd bit for bit, fcos even, ftanh never above 1 in magnitude, an integer x giving 2^x exactly where
the format has it, and 2^k giving k (R140, R141). -/
def Sys2Proof.Machine.SpecialCases : Prop :=
  ∀ (f : Nat) (low : Bool) (c : Nat), f ≤ 2 → c < 2 ^ fmtWidth f →
    let v := decodeF f c
    let sign : Nat := 2 ^ (fmtWidth f - 1)
    let one : Int := biasOf f * 2 ^ manBits f
    (∀ k, v.isNan = true → specialElem k f low c = ⟨nanCode f, 0⟩) ∧
    (v.isZero = true →
      specialElem .rcp f low c = ⟨infCode f v.isNeg, fDZ⟩ ∧ specialElem .rsq f low c = ⟨infCode f v.isNeg, fDZ⟩ ∧
      specialElem .log2 f low c = ⟨infCode f true, fDZ⟩ ∧ specialElem .sin f low c = ⟨c, 0⟩ ∧ specialElem .tanh f low c = ⟨c, 0⟩ ∧
      ((specialElem .exp2 f low c).code : Int) = one ∧ ((specialElem .cos f low c).code : Int) = one ∧ ∀ rm, sqrtElem f rm c = ⟨c, 0⟩) ∧
    (v.isInf = true →
      (decodeF f (specialElem .rcp f low c).code).isZero = true ∧
      specialElem .exp2 f low c = ⟨if v.isNeg then 0 else infCode f false, 0⟩ ∧
      specialElem .sin f low c = ⟨nanCode f, fNV⟩ ∧ specialElem .cos f low c = ⟨nanCode f, fNV⟩ ∧
      ((specialElem .tanh f low c).code : Int) = one + (if v.isNeg then (sign : Int) else 0)) ∧
    (v.isNan = false → v.isZero = false → v.isNeg = true →
      specialElem .rsq f low c = ⟨nanCode f, fNV⟩ ∧ specialElem .log2 f low c = ⟨nanCode f, fNV⟩ ∧ ∀ rm, sqrtElem f rm c = ⟨nanCode f, fNV⟩) ∧
    (c < sign → v.nonFinite = false →
      (specialElem .sin f low (sign + c)).code = (specialElem .sin f low c).code ^^^ sign ∧
      (specialElem .tanh f low (sign + c)).code = (specialElem .tanh f low c).code ^^^ sign ∧
      (specialElem .cos f low (sign + c)).code = (specialElem .cos f low c).code) ∧
    (v.isNan = false → |(decodeF f (specialElem .tanh f low c).code).rat| ≤ 1) ∧
    (∀ k : Int, v.nonFinite = false →
      (v.rat = k → (∃ c' < 2 ^ fmtWidth f, (decodeF f c').nonFinite = false ∧ (decodeF f c').rat = (2 : ℚ) ^ k) →
        (decodeF f (specialElem .exp2 f low c).code).rat = (2 : ℚ) ^ k ∧ (specialElem .exp2 f low c).flags = 0) ∧
      (v.rat = (2 : ℚ) ^ k → (decodeF f (specialElem .log2 f low c).code).rat = k ∧ (specialElem .log2 f low c).flags = 0))

/-- Sums and products of values are exact: the value is the rational sum or product of finite operands; a NaN operand, ∞ − ∞ and 0 × ∞ give a NaN; any other
infinite operand gives its infinity, with the product's sign. An exact zero sum of operands of opposite sign is +0, under rd −0 (R74, R133). Rounding a finite
value v into a format: the result is a value r of the format such that no other lies strictly between v and r; under rz it is no larger in magnitude than v,
under ru not below v, under rd not above; under rne no value of the format is nearer, and NX is set exactly where r is not v (R69 to R71). Here v lies within
the range of the format. Each code of a format is read as its value, and a value of the format is rounded to a code that reads as that value: nothing is lost
(R62, R65, R66, R70). The special cases and symmetries of the special functions, whatever the device's choice within the bound: zeros, infinities and negative
operands as the table of R140 says, NaN in its canonical form, fsin and ftanh odd bit for bit, fcos even, ftanh never above 1 in magnitude, an integer x
giving 2^x exactly where the format has it, and 2^k giving k (R140, R141). -/
def Obligations.FloatValues : Prop := Sys2Proof.Machine.ExactArithmetic ∧ Sys2Proof.Machine.RoundingCorrect ∧ Sys2Proof.Machine.FormatRoundTrip ∧ Sys2Proof.Machine.SpecialCases

/-- With FPMODE.NFT = 1 the lanes of fadd, fsub, fmul and ffma that would write a NaN or an infinity into an element that takes part, or, in the clamped form, read
one, raise NONFINITE with nothing of theirs done; FADDR holds the lowest such element, the sub-cause is its own; the other lanes complete (R77; log entry 23 for
0x04 where a clamp meets a non-finite source). -/
def Obligations.NonFiniteTrap : Prop :=
  ∀ (s : State) (i : Instr) (d : BitVec 6) (three : Bool) (op : Bool → FVal → FVal → FVal → FVal) (e0 : Nat), floatRow i = some (d, three, op) → s.goes i →
    let t := s.issued i
    let f := i.x % 8
    let w := fmtWidth f
    let ops (e : Nat) : List FVal :=
      [decodeF f (el w e (t.src i .A)), decodeF f (el w e (t.src i .B))] ++ if three then [decodeF f (el w e (t.src i .C))] else []
    let res (e : Nat) : FVal := decodeF f (roundClamp f ((s.issued i).rm i) (decide (i.x / 8 = 1))
      (op (decide ((s.issued i).rm i = 3)) (decodeF f (el w e (t.src i .A))) (decodeF f (el w e (t.src i .B))) (decodeF f (el w e (t.src i .C))))).code
    let carried (e : Nat) : Prop := i.x / 8 = 1 ∧ (ops e).any FVal.nonFinite = true
    let bad (e : Nat) : Prop := t.live i w e ∧ ((res e).nonFinite = true ∨ carried e)
    (s.grp s.cur.g).shadow = none → (s.grp s.cur.g).nft = true → e0 < 2048 / w → bad e0 → (∀ e < e0, ¬ bad e) →
    ∃ (B : Lanes) (sub : BitVec 8) (fl : List (Nat × BitVec 5)) (r : Result) (u : UnitRec),
      (∀ l < 32, B.getLsbD l = true ↔ ∃ e < 2048 / w, w * e / 64 = l ∧ bad e) ∧
      (carried e0 → sub = 0x04) ∧
      (¬ carried e0 → sub = if (res e0).isNan = true ∧ (ops e0).any FVal.isNan = false then 0x01
        else if (ops e0).any FVal.nonFinite = false then 0x02 else 0x03) ∧
      (∀ e < 2048 / w, B.getLsbD (w * e / 64) = true → el w e r.en = 0) ∧
      u.instr = i ∧ u.iss.lanes = s.cur.lanes ∧ u.iss.imgs = t.capture i ∧
      exec i s = .next ((t.finishWith i d r (s.cur.lanes &&& ~~~B) fl).raise
        ⟨s.cur.g, B, ⟨cNONFINITE, sub, BitVec.ofNat 64 e0, none⟩, some u, true, false, s.cur.word, s.cur.pword, s.cur.addr⟩)

/-- tmv, where each block lies in the constant store, aligned, and holds no poison: output i of an active lane is its bias plus the products of its weights and inputs, summed exactly and rounded once to FP32, then relu or tanh;
outputs fill the registers from D on, two to a lane (R142, R143). -/
def Obligations.TinyMatrix : Prop :=
  ∀ (s : State) (pf : Option Pfx) (sc : BitVec 3) (d a b : BitVec 6),
    let i : Instr := .tmv pf sc d a b
    let t := s.issued i
    let M := 2 * (i.x % 4 + 1)
    let N := 2 * (i.x / 4 % 4 + 1)
    let z := if i.x / 64 % 2 = 1 then 2 else 4
    let o (l : Nat) : Nat := (laneOf (t.src i .B) l).toNat
    s.goes i → (s.grp s.cur.g).shadow = none → (s.grp s.cur.g).nft = false →
    (∀ l < 32, s.cur.lanes.getLsbD l = true → o l % 16 = 0 ∧ o l + (M * N + M) * z ≤ 131072 ∧
      ∀ k, o l / 32 ≤ k → k ≤ (o l + (M * N + M) * z - 1) / 32 → .const (t.quadOf s.cur.g) k ∉ s.poison) →
    ∃ (rs : Nat → Result) (fl : Nat → BitVec 5) (got : List (Nat × Nat)),
      exec i s = .next ((List.range (M / 2)).foldl (fun x j => x.writeReg s.cur.g (d + BitVec.ofNat 6 j) (rs j))
        ({ t with cur := { t.cur with got := got } }.addFlags s.cur.g s.cur.lanes fl)) ∧
      ∀ j < M / 2, (rs j).lanewise t i 32 fun e v =>
        let l := e / 2
        let k := 2 * j + e % 2
        let const (n : Nat) : FVal := decodeF (if z = 2 then 2 else 0) (leNat (t.readConst (t.quadOf s.cur.g) (o l + n * z) z))
        let x (q : Nat) : FVal := decodeF 0 (el 32 (2 * l + q % 2) (t.srcAt i .A (q / 2)))
        let y := (roundF 0 ((s.issued i).rm i) (FVal.sum (decide ((s.issued i).rm i = 3))
          (const (M * N + k) :: List.zipWith FVal.mul ((List.range N).map fun q => const (N * k + q)) ((List.range N).map x)))).code
        (i.x / 16 % 4 = 0 → v = y % 2 ^ 32) ∧
        (i.x / 16 % 4 = 1 → v = (if (decodeF 0 y).isNan then y else if (decodeF 0 y).isNeg || (decodeF 0 y).isZero then 0 else y) % 2 ^ 32) ∧
        (i.x / 16 % 4 = 2 → v = (specialElem .tanh 0 t.cur.lowacc y).code % 2 ^ 32)

/-! ## Cross-lane rows (R146 to R156) -/

/-- shfl, bcast and rix.g move elements by number (R151, R152); where bcast's index lies beyond the source, all lanes raise INDEX, and the lanes that have
an enabled index of rix.g beyond it raise INDEX with the lowest such element, with nothing of theirs written. -/
def Sys2Proof.Machine.LaneMoves : Prop :=
  ∀ (s : State) (pf : Option Pfx) (sc : BitVec 3) (d a b : BitVec 6),
    (let i : Instr := .shfl pf sc d a b
     let w := i.width
     s.goes i → s.gives i d w fun e v =>
      v = el w (((laneOf ((s.issued i).src i .B) (w * e / 64)).toNat + e % (64 / w)) % (2048 / w)) ((s.issued i).src i .A)) ∧
    (let i : Instr := .bcast pf sc d a b
     let w := i.width
     let n := (laneOf ((s.issued i).src i .B) (lowest s.cur.lanes)).toNat
     s.goes i →
      (n < 2048 / w → s.gives i d w fun _ v => v = el w n ((s.issued i).src i .A)) ∧
      (2048 / w ≤ n → ∃ u : UnitRec, u.instr = i ∧ exec i s = .next ((s.issued i).raise
        ⟨s.cur.g, s.cur.lanes, ⟨cINDEX, 0x03, BitVec.ofNat 64 n, none⟩, some u, true, false, s.cur.word, s.cur.pword, s.cur.addr⟩))) ∧
    (let i : Instr := .rixG pf sc d a b
     let t := s.issued i
     let w := i.width
     let n := 2048 / w
     let r := 2 ^ (i.x / 8 % 4)
     s.goes i → (∀ e < n, t.live i w e → el w e (t.src i .B) < r * n) →
      s.gives i d w fun e v => v = el w (el w e (t.src i .B) % n) (t.srcAt i .A (el w e (t.src i .B) / n))) ∧
    (let i : Instr := .rixG pf sc d a b
     let t := s.issued i
     let w := i.width
     let n := 2048 / w
     let r := 2 ^ (i.x / 8 % 4)
     let beyond (e : Nat) : Prop := t.live i w e ∧ r * n ≤ el w e (t.src i .B)
     ∀ e0 < n, s.goes i → beyond e0 → (∀ e < e0, ¬ beyond e) →
      ∃ (B : Lanes) (x : Result) (u : UnitRec), (∀ l < 32, B.getLsbD l = true ↔ ∃ e < n, w * e / 64 = l ∧ beyond e) ∧ u.instr = i ∧ u.iss.lanes = s.cur.lanes ∧
        (∀ e < n, B.getLsbD (w * e / 64) = true → el w e x.en = 0) ∧
        (∀ e < n, B.getLsbD (w * e / 64) = false → t.live i w e → el w e x.en = 2 ^ w - 1 ∧
          el w e x.val = el w (el w e (t.src i .B) % n) (t.srcAt i .A (el w e (t.src i .B) / n))) ∧
        exec i s = .next ((t.finish i d x (s.cur.lanes &&& ~~~B)).raise
          ⟨s.cur.g, B, ⟨cINDEX, 0x01, BitVec.ofNat 64 e0, none⟩, some u, true, false, s.cur.word, s.cur.pword, s.cur.addr⟩))

/-- rix.s: each element that takes part stores its value at its index in the table of registers from D on; of several at one index the highest-numbered element
stays; every other element of the table is left. The lanes that have an enabled index beyond the table raise INDEX with the lowest such element,
and store nothing (R152). -/
def Sys2Proof.Machine.LaneScatter : Prop :=
  ∀ (s : State) (pf : Pfx) (sc : BitVec 3) (d a b : BitVec 6),
    let i : Instr := .rixS pf sc d a b
    let t := s.issued i
    let w := i.width
    let n := 2048 / w
    let r := 2 ^ (i.x / 8 % 4)
    let ix (e : Nat) : Nat := el w e (t.src i .B)
    let beyond (e : Nat) : Prop := t.live i w e ∧ r * n ≤ ix e
    s.goes i →
    ∃ (B : Lanes) (rs : Nat → Result), (∀ l < 32, B.getLsbD l = true ↔ ∃ e < n, w * e / 64 = l ∧ beyond e) ∧
      let stores (e : Nat) : Prop := t.live i w e ∧ B.getLsbD (w * e / 64) = false
      let x := (List.range r).foldl (fun x j => x.writeReg s.cur.g (d + BitVec.ofNat 6 j) (rs j)) t
      ((∀ e < n, ¬ beyond e) → exec i s = .next x) ∧
      (∀ e0 < n, beyond e0 → (∀ e < e0, ¬ beyond e) → ∃ u : UnitRec, u.instr = i ∧ u.iss.lanes = s.cur.lanes ∧
        exec i s = .next (x.raise ⟨s.cur.g, B, ⟨cINDEX, 0x02, BitVec.ofNat 64 e0, none⟩, some u, true, false, s.cur.word, s.cur.pword, s.cur.addr⟩)) ∧
      ∀ j < r, ∀ q < n,
        (∀ e < n, stores e → ix e = j * n + q → (∀ e' < n, stores e' → ix e' = j * n + q → e' ≤ e) →
          el w q (rs j).en = 2 ^ w - 1 ∧ el w q (rs j).val = el w e (t.src i .A)) ∧
        ((∀ e < n, stores e → ix e ≠ j * n + q) → el w q (rs j).en = 0)

/-- shfl, bcast and rix.g move elements by number (R151, R152); where bcast's index lies beyond the source, all lanes raise INDEX, and the lanes that have an
enabled index of rix.g beyond it raise INDEX with the lowest such element, with nothing of theirs written. rix.s: each element that takes part stores its
value at its index in the table of registers from D on; of several at one index the highest-numbered element stays; every other element of the table is left.
The lanes that have an enabled index beyond the table raise INDEX with the lowest such element, and store nothing (R152). -/
def Obligations.LaneMovesAndScatter : Prop := Sys2Proof.Machine.LaneMoves ∧ Sys2Proof.Machine.LaneScatter

/-- The pairwise tree of R75 over codes: level k, node i. -/
def Sys2Proof.Machine.treeNode (ty op rm : Nat) (x : Nat → Nat) : Nat → Nat → Nat
  | 0, i => x i
  | k + 1, i => (combineOp ty op rm (treeNode ty op rm x k (2 * i)) (treeNode ty op rm x k (2 * i + 1))).code

/-- The running value of R153 over codes. -/
def Sys2Proof.Machine.scanNode (ty op rm : Nat) (x : Nat → Nat) : Nat → Nat
  | 0 => x 0
  | e + 1 => (combineOp ty op rm (scanNode ty op rm x e) (x (e + 1))).code

/-- A NaN in its canonical form (R63). -/
def Sys2Proof.Machine.canonNan (ty c : Nat) : Nat := if fmtIsFloat ty && (decodeF ty c).isNan then nanCode ty else c

/-- redl and scan: elements that take no part stand for the identity; the tree and the order of the sums depend on element numbers alone (R75, R150,
R153). -/
def Sys2Proof.Machine.LaneReductions : Prop :=
  ∀ (s : State) (pf : Option Pfx) (sc : BitVec 3) (d a : BitVec 6) (ex : BitVec 1),
    (s.grp s.cur.g).shadow = none → (s.grp s.cur.g).nft = false →
    (let i : Instr := .redl pf sc d a
     let t := s.issued i
     let ty := i.x % 16
     let op := i.x / 16
     let w := fmtWidth ty
     s.goes i → ∃ (r : Result) (fl : List (Nat × BitVec 5)) (x : Nat → Nat),
      (∀ e < 2048 / w, (t.live i w e → x e = el w e (t.src i .A)) ∧ (¬ t.live i w e → x e = identityOf ty op)) ∧
      exec i s = .next (t.finishWith i d r s.cur.lanes fl) ∧ (fmtIsFloat ty = false → fl = []) ∧
      r.lanewise t i w fun _ v => v = canonNan ty (treeNode ty op ((s.issued i).rm i) x (Nat.log2 (2048 / w)) 0) % 2 ^ w) ∧
    (let i : Instr := .scan pf sc d a ex
     let t := s.issued i
     let ty := i.x % 16
     let op := i.x / 16
     let w := fmtWidth ty
     s.goes i → ∃ (r : Result) (fl : List (Nat × BitVec 5)) (x : Nat → Nat),
      (∀ e < 2048 / w, (t.live i w e → x e = el w e (t.src i .A)) ∧ (¬ t.live i w e → x e = identityOf ty op)) ∧
      exec i s = .next (t.finishWith i d r s.cur.lanes fl) ∧ (fmtIsFloat ty = false → fl = []) ∧
      r.lanewise t i w fun e v =>
        v = canonNan ty (if ex = 1 then (if e = 0 then identityOf ty op else scanNode ty op ((s.issued i).rm i) x (e - 1)) else scanNode ty op ((s.issued i).rm i) x e) % 2 ^ w)

/-- redmi: the least pair of value and index among the elements that take part, the other positions counting as the maximum with an index of all ones; the
value goes to D, a NaN in canonical form, the index to the register after it (R154). -/
def Sys2Proof.Machine.LeastWithIndex : Prop :=
  ∀ (s : State) (pf : Option Pfx) (sc : BitVec 3) (d a b : BitVec 6),
    let i : Instr := .redmi pf sc d a b
    let t := s.issued i
    let ty := i.x % 16
    let w := fmtWidth ty
    s.goes i → ∃ (r0 r1 : Result) (v n : Nat),
      exec i s = .next ((t.writeReg s.cur.g d r0).writeReg s.cur.g (d + 1) r1) ∧
      r0.lanewise t i w (fun _ x => x = canonNan ty v % 2 ^ w) ∧ r1.lanewise t i w (fun _ x => x = n % 2 ^ w) ∧
      (∀ e < 2048 / w, t.live i w e → pairLt ty (el w e (t.src i .A), el w e (t.src i .B)) (v, n) = false) ∧
      (∀ e < 2048 / w, ¬ t.live i w e → pairLt ty (identityOf ty 1, 2 ^ w - 1) (v, n) = false) ∧
      ((∃ e < 2048 / w, t.live i w e ∧ v = el w e (t.src i .A) ∧ n = el w e (t.src i .B)) ∨
        (∃ e < 2048 / w, ¬ t.live i w e ∧ v = identityOf ty 1 ∧ n = 2 ^ w - 1))

/-- redl and scan: elements that take no part stand for the identity; the tree and the order of the sums depend on element numbers alone (R75, R150, R153).
redmi: the least pair of value and index among the elements that take part, the other positions counting as the maximum with an index of all ones; the value
goes to D, a NaN in canonical form, the index to the register after it (R154). -/
def Obligations.ReductionsAndScans : Prop := Sys2Proof.Machine.LaneReductions ∧ Sys2Proof.Machine.LeastWithIndex

/-- The mask that cfd and comb write: in active lanes ones for the elements of a test, zeros for the others; other lanes are left (R155, R156). -/
def Sys2Proof.Machine.firstsOf (t : State) (w : Nat) (m : Mask × Mask) (first : Nat → Prop) : Prop :=
  ∀ b < 256,
    (t.cur.lanes.getLsbD (b / 8) = true → m.1.getLsbD b = true ∧ (m.2.getLsbD b = true ↔ first (8 * b / w))) ∧
    (t.cur.lanes.getLsbD (b / 8) = false → m.1.getLsbD b = false)

/-- The value of a key's chain at element e: the values of the elements with its key up to e, added in ascending order. -/
def Sys2Proof.Machine.chainSum (ty rm : Nat) (same : Nat → Nat → Bool) (x : Nat → Nat) (f : Nat) : Nat → Nat
  | 0 => x f
  | k + 1 => if same f (f + k + 1) then (combineOp ty 0 rm (chainSum ty rm same x f k) (x (f + k + 1))).code else chainSum ty rm same x f k

/-- cfd and comb: cfd gives each element that takes part the nearest earlier one with its key, or itself, and marks the first of each key; comb gives the first of
each key the sum of the key's values in ascending order, the later ones the identity, and marks the first (R155, R156). -/
def Obligations.Conflicts : Prop :=
  ∀ (s : State) (pf : Option Pfx) (sc : BitVec 3) (d a b : BitVec 6),
    (let i : Instr := .cfd pf sc d a
     let t := s.issued i
     let w := i.width
     let twin (e' e : Nat) : Prop := e' < e ∧ t.live i w e' ∧ el w e' (t.src i .A) = el w e (t.src i .A)
     s.goes i → ∃ (r : Result) (m : Mask × Mask),
      exec i s = .next ((t.finish i d r s.cur.lanes).finishMask i (i.x / 16) m []) ∧
      r.lanewise t i w (fun e v => (twin v e ∧ ∀ e', twin e' e → e' ≤ v) ∨ (v = e % 2 ^ w ∧ ∀ e', ¬ twin e' e)) ∧
      firstsOf t w m fun e => t.live i w e ∧ ∀ e', ¬ twin e' e) ∧
    (let i : Instr := .comb pf sc d a b
     let t := s.issued i
     let ty := i.x % 16
     let w := fmtWidth ty
     let twin (e' e : Nat) : Prop := e' < e ∧ t.live i w e' ∧ el w e' (t.src i .B) = el w e (t.src i .B)
     s.goes i → (s.grp s.cur.g).shadow = none → (s.grp s.cur.g).nft = false → ∃ (r : Result) (m : Mask × Mask) (fl : Nat → BitVec 5),
      exec i s = .next (((t.addFlags s.cur.g s.cur.lanes fl).finish i d r s.cur.lanes).finishMask i (i.x / 16) m []) ∧ (fmtIsFloat ty = false → ∀ l, fl l = 0) ∧
      r.lanewise t i w (fun e v =>
        ((∃ e', twin e' e) → v = identityOf ty 0 % 2 ^ w) ∧
        ((∀ e', ¬ twin e' e) → v = canonNan ty (chainSum ty ((s.issued i).rm i)
          (fun f e' => t.takesPart i w e' && el w e' (t.src i .B) == el w f (t.src i .B)) (fun e' => el w e' (t.src i .A)) e (2048 / w - 1 - e)) % 2 ^ w)) ∧
      firstsOf t w m fun e => t.live i w e ∧ ∀ e', ¬ twin e' e)

/-! ## Control (R83, R89 to R98) -/

/-- A lane's condition in a mask: one of its eight bits is set (R91). -/
def Sys2Proof.Machine.laneBit (k : Mask) (l : Nat) : Prop := ∃ b < 8, k.getLsbD (8 * l + b) = true

/-- nop, snop and fsync outside a continuation only go on; brl sends each active lane by its mask bits, bra and brx send all of them to one target, jmpl each to
its own; no register changes. A target that is not a multiple of 4 raises ALIGN with that target, for the lanes that have it, which stay at the unit, and
leaves the others to move (R41, R84, R90 to R94, R104). -/
def Sys2Proof.Machine.Branches : Prop :=
  ∀ (s : State) (sc k : BitVec 3) (p : BitVec 15) (q : BitVec 18) (a : BitVec 6), s.cur.regOnly = false →
    (∀ i ∈ [Instr.nop sc, .snop sc, .fsync sc], s.goes i → exec i s = .next (s.issued i)) ∧
    (let i : Instr := .brl sc k p
     s.goes i → ∃ f : Nat → Word, exec i s = .next ((s.issued i).jumpTo f) ∧
      ∀ l < 32, (laneBit ((s.issued i).smask k.toNat) l → f l = s.cur.addr + 4 * p.signExtend 64) ∧
        (¬ laneBit ((s.issued i).smask k.toNat) l → f l = s.cur.addr + 4)) ∧
    (let i : Instr := .bra sc q
     s.goes i → exec i s = .next ((s.issued i).jumpTo fun _ => s.cur.addr + 4 * q.signExtend 64)) ∧
    (let i : Instr := .brx sc a
     let t := s.issued i
     s.goes i → ((t.lead i .A).toNat % 4 = 0 → exec i s = .next (t.jumpTo fun _ => t.lead i .A)) ∧
      ((t.lead i .A).toNat % 4 ≠ 0 → (t.jumpTo fun _ => s.cur.addr).raises i s.cur.lanes ⟨cALIGN, 0, t.lead i .A, none⟩ true (exec i s))) ∧
    (let i : Instr := .jmpl sc a
     let t := s.issued i
     let target (l : Nat) : Word := laneOf (t.src i .A) l
     s.goes i →
      ((∀ l < 32, s.active l → (target l).toNat % 4 = 0) → exec i s = .next (t.jumpTo target)) ∧
      (∀ bad : Lanes, bad ≠ 0 → (∀ l < 32, bad.getLsbD l = true ↔ s.active l ∧ (target l).toNat % 4 ≠ 0) →
        (t.jumpTo fun l => if bad.getLsbD l then s.cur.addr else target l).raises i bad
          ⟨cALIGN, 0, target (lowest bad), none⟩ true (exec i s)))

/-- callv and call: the active lanes go to the target, the address after the unit is written as the link, in the active lanes of D for callv, in all lanes
of o7 for call, and the call is counted in each active lane's innermost record, unless callv names z (R92, R93, R106). -/
def Sys2Proof.Machine.Calls : Prop :=
  ∀ (s : State) (sc : BitVec 3) (d a : BitVec 6) (q : BitVec 18), s.cur.regOnly = false →
    (let i : Instr := .callv sc d a
     let t := s.issued i
     let target (l : Nat) : Word := laneOf (t.src i .A) l
     s.goes i → (∀ l < 32, s.active l → (target l).toNat % 4 = 0) →
      ∃ r : Result, r.inLanes s.cur.lanes (fun _ => s.cur.addr + 4) ∧
        let x := (t.jumpTo target).writeReg s.cur.g d r
        exec i s = .next (if d = 58 then x else x.nestLanes s.cur.g s.cur.lanes)) ∧
    (let i : Instr := .call sc q
     s.goes i → ∃ r : Result, r.inLanes (BitVec.allOnes 32) (fun _ => s.cur.addr + 4) ∧
      exec i s = .next ((((s.issued i).writeReg s.cur.g 55 r).jumpTo fun _ => s.cur.addr + 4 * q.signExtend 64).nestLanes s.cur.g s.cur.lanes)) ∧
    (∀ (g l : Nat) (f : ForkRec) (rest : List ForkRec), g < s.groups.length → l < 32 → (s.lane g l).recs = f :: rest → f.nest < 255 →
      s.nestLane g l = s.modLane g l fun x => { x with recs := { f with nest := f.nest + 1 } :: rest }) ∧
    (∀ g l, (s.lane g l).recs = [] → s.nestLane g l = s)

/-- nop, snop and fsync outside a continuation only go on; brl sends each active lane by its mask bits, bra and brx send all of them to one target, jmpl each
to its own; no register changes. A target that is not a multiple of 4 raises ALIGN with that target, for the lanes that have it, which stay at the unit, and
leaves the others to move (R41, R84, R90 to R94, R104). callv and call: the active lanes go to the target, the address after the unit is written as the link,
in the active lanes of D for callv, in all lanes of o7 for call, and the call is counted in each active lane's innermost record, unless callv names z (R92,
R93, R106). -/
def Obligations.BranchesAndCalls : Prop := Sys2Proof.Machine.Branches ∧ Sys2Proof.Machine.Calls

/-- brk and trap: the active lanes of the program vote raise BREAK or SWTRAP with the code as sub-cause, and the unit is no entry of the frame; in
handler lanes, and where the group's mask covers the cause, nothing happens (R96, R318, R323, R331). -/
def Sys2Proof.Machine.SoftwareTraps : Prop :=
  ∀ (s : State) (sc : BitVec 3) (c : BitVec 8),
    ∀ p ∈ [(Instr.brk sc c, cBREAK, 1), (Instr.trap sc c, cSWTRAP, 3)],
      let i := p.1
      let t := s.issued i
      let quiet := (t.lane s.cur.g (lowest s.cur.lanes)).mode = .handler ∨ (t.grp (t.root s.cur.g)).trapmask.getLsbD p.2.2 = true
      s.goes i → (quiet → exec i s = .next t) ∧ (¬ quiet → t.raises i s.cur.lanes ⟨p.2.1, c, 0, none⟩ false (exec i s))

/-- vote: each active lane's predicate is its condition in kS. D of the active lanes takes 1 or 0 for any and all, or the set of lanes whose predicate
holds; the eight bits of kD of an active lane take ones where the outcome, or for ballot the lane's predicate, holds; kD = 0 names no mask (R95). -/
def Obligations.Votes : Prop :=
  ∀ (s : State) (sc : BitVec 3) (d : BitVec 6) (k j : BitVec 3) (m : Fin 3),
    let i : Instr := if m = 0 then .voteAny sc d k j else if m = 1 then .voteAll sc d k j else .voteBallot sc d k j
    let t := s.issued i
    let p (l : Nat) : Prop := laneBit (t.smask k.toNat) l
    let out : Prop := if m = 0 then ∃ l < 32, s.active l ∧ p l else ∀ l < 32, s.active l → p l
    s.goes i → ∃ (r : Result) (v : Word) (km : Mask × Mask),
      r.inLanes s.cur.lanes (fun _ => v) ∧
      (m ≠ 2 → (out → v = 1) ∧ (¬ out → v = 0)) ∧ (m = 2 → ∀ b < 64, v.getLsbD b = true ↔ b < 32 ∧ s.active b ∧ p b) ∧
      (∀ b < 256, (s.active (b / 8) → km.1.getLsbD b = true ∧ (km.2.getLsbD b = true ↔ if m = 2 then p (b / 8) else out)) ∧
        (¬ s.active (b / 8) → km.1.getLsbD b = false)) ∧
      exec i s = .next (if j = 0 then t.finish i d r s.cur.lanes else (t.finish i d r s.cur.lanes).finishMask i j.toNat km [])

/-- No park of an engine context waits for the unit's group to take it as a trap (R240). -/
def Sys2Proof.Machine.State.parksTaken (s : State) : Prop :=
  ∀ tl p, ((s.crewOf s.cur.g).tline tl).parked = some p → p.g = s.cur.g → p.taken = true

/-- exit of lanes that hold no room and no fork record: they are exited with their counters at the exit, the frame is released when no lane remains in the
handler, and the group retires when all its lanes are exited, with its pending writes performed; nothing else changes. Where a lane holds a room and the group's operations have not completed,
the unit waits, with nothing done (R18, R97, R226). -/
def Sys2Proof.Machine.ExitLanes : Prop :=
  ∀ (s : State) (sc : BitVec 3), s.cur.g < s.groups.length → s.cur.lanes ≠ 0 →
    let i : Instr := .exit sc
    let t := s.issued i
    let g := s.cur.g
    s.goes i → t.parksTaken →
      ((∀ l < 32, s.active l → (t.lane g l).holds = [] ∧ (t.lane g l).recs = []) →
        let all : Prop := (t.grp g).place = .resident ∧ ∀ l < 32, s.active l ∨ (t.lane g l).mode = .exited
        ∃ u, exec i s = .next u ∧ u = { t with groups := u.groups, crews := u.crews } ∧ State.othersKept g t u ∧
          (¬ all → u.crews = t.crews ∧ (t.grp g).sameRegs (u.grp g)) ∧ (all → (t.grp g).flush.sameRegs (u.grp g)) ∧
          (∀ c, c ≠ (t.grp g).crew → u.crew c = t.crew c) ∧ u.crew (t.grp g).crew = { t.crew (t.grp g).crew with paceSeen := (u.crew (t.grp g).crew).paceSeen } ∧
          (∀ l < 32, u.lane g l = if s.cur.lanes.getLsbD l then { t.lane g l with mode := .exited, pc := s.cur.addr } else t.lane g l) ∧
          ((∃ l < 32, (u.lane g l).inHandler = true) → (u.grp g).save = (t.grp g).save) ∧
          ((∀ l < 32, (u.lane g l).inHandler = false) → (u.grp g).save = none) ∧
          (all → (u.grp g).place = .retired) ∧ (¬ all → (u.grp g).place = (t.grp g).place)) ∧
      ((∃ l < 32, s.active l ∧ (t.lane g l).holds ≠ []) → t.mayRelease i = false → exec i s = .next (t.await i false))

/-- yield and yield.x: the active lanes are ready no earlier than max(ST + 1, c + 1) cycles from the issue, c being A of the lowest lane up to 4,095; with z for A
the group gives up its turn. yield.x of a continuation does as yield, and so where Bracken holds no ready work of the group's level or higher that lacks room;
where it does, the group is pre-empted at this point: evicted to resume at the next word with its unfinished units kept, or, while its handler defers that,
marked for it (R98, R309, R324; log entry 52 for the work placed in its room). -/
def Sys2Proof.Machine.Pauses : Prop :=
  ∀ (s : State) (sc : BitVec 3) (a : BitVec 6) (x : Bool), s.cur.g < s.groups.length →
    let i : Instr := if x then .yieldX sc a else .yield sc a
    let t := s.issued i
    let g := s.cur.g
    let c := min (t.lead i .A).toNat 4095
    s.goes i → ∃ u, State.onlyGroup g t u ∧
      (∀ l < 32, u.lane g l = if s.cur.lanes.getLsbD l then { t.lane g l with ready := s.now + max (sc.toNat + 1) (c + 1) } else t.lane g l) ∧
      u.grp g = { t.grp g with lanes := (u.grp g).lanes, yielded := (t.grp g).yielded || a == 58 } ∧
      let work := u.lacksRoom (u.partNo g) (u.grp g).level
      (x = false ∨ (s.grp g).shadow.isSome = true ∨ work = none → exec i s = .next u) ∧
      (∀ w, x = true → (s.grp g).shadow = none → work = some w → (u.grp g).place = .resident →
        (u.defersPreempt g = true → exec i s = .next (u.modGrp g fun y => { y with preempt := some (y.preempt.getD ⟨s.now⟩) })) ∧
        (u.defersPreempt g = false →
          let v := u.preemptGroup g
          (v.grp g).place = .evicted ∧ (∀ l < 32, (u.lane g l).recs = [] → (v.lane g l).pc = (u.lane g l).pc) ∧
          exec i s = match v.planFor (u.partNo g) w with
            | some plan => (v.carryOut plan).placePlanned (u.partNo g) w (plan.map (·.1))
            | none => v.placePlanned (u.partNo g) w []))

/-- exit of lanes that hold no room and no fork record: they are exited with their counters at the exit, the frame is released when no lane remains in the
handler, and the group retires when all its lanes are exited, with its pending writes performed; nothing else changes. Where a lane holds a room and the
group's operations have not completed, the unit waits, with nothing done (R18, R97, R226). yield and yield.x: the active lanes are ready no earlier than
max(ST + 1, c + 1) cycles from the issue, c being A of the lowest lane up to 4,095; with z for A the group gives up its turn. yield.x of a continuation does
as yield, and so where Bracken holds no ready work of the group's level or higher that lacks room; where it does, the group is pre-empted at this point:
evicted to resume at the next word with its unfinished units kept, or, while its handler defers that, marked for it (R98, R309, R324; log entry 52 for the
work placed in its room). -/
def Obligations.ExitAndYield : Prop := Sys2Proof.Machine.ExitLanes ∧ Sys2Proof.Machine.Pauses

/-! ## Forkable calls (R99 to R114) -/

/-- A lane may fork: forking is enabled, the lane is no handler lane, and its depth is below the limit (R99, R111). -/
def Sys2Proof.Machine.State.canFork (s : State) (l : Nat) : Prop :=
  (s.ctxOf s.cur.g).forkcfg.getLsbD 0 = true ∧ (s.lane s.cur.g l).mode = .running ∧ (s.lane s.cur.g l).fd < bits (s.ctxOf s.cur.g).forkcfg.toNat 1 3

/-- fcall with targets that are multiples of 4: every active lane goes to its target with o7 as its link and an empty hint slot; where a shadow slot is free, each
lane that may fork pushes a record and leaves a continuation of itself behind the call, with the registers of the lane but for the return registers, which
hold the prediction; the other lanes call, counted in their innermost records (R99, R100, R106, R114). -/
def Sys2Proof.Machine.ForkCall : Prop :=
  ∀ (s : State) (sc : BitVec 3) (d a b : BitVec 6), s.cur.g < s.groups.length → s.cur.regOnly = false →
    let i : Instr := .fcall sc d a b
    let t := s.issued i
    let g := s.cur.g
    let target (l : Nat) : Word := laneOf (t.src i .A) l
    let n := s.groups.length
    s.goes i → (∀ l < 32, s.active l → (target l).toNat % 4 = 0) → (∀ l < 32, ∀ r ∈ (s.lane g l).recs, r.nest < 255) →
    ∃ u, exec i s = .next u ∧
      (∀ l < 32, s.active l → (u.lane g l).pc = target l ∧ (u.lane g l).hintValid = false ∧ laneOf ((u.grp g).flush.reg 64 55) l = s.cur.addr + 4) ∧
      (∀ l < 32, ¬ s.active l → (u.lane g l = t.lane g l ∨ u.lane g l = (t.grp g).flush.lane l) ∧ laneOf ((u.grp g).flush.reg 64 55) l = laneOf ((t.grp g).flush.reg 64 55) l) ∧
      (∀ spec : BitVec 6, spec.toNat < 55 → (u.grp g).flush.reg 64 spec = (t.grp g).flush.reg 64 spec) ∧
      (t.shadowSlot g = none → u.groups.length = n ∧ u.forks = t.forks) ∧
      (∀ l < 32, s.active l → ¬ t.canFork l ∨ t.shadowSlot g = none → (u.lane g l).fd = (t.lane g l).fd ∧
        ((t.lane g l).recs = [] → (u.lane g l).recs = []) ∧
        ∀ r rest, (t.lane g l).recs = r :: rest → (u.lane g l).recs = { r with nest := r.nest + 1 } :: rest) ∧
      (∀ l < 32, s.active l → t.canFork l → t.shadowSlot g ≠ none →
        (u.grp n).shadow = some s.forks.length ∧
        (∃ r rest, (u.lane g l).recs = r :: rest ∧ rest = (t.lane g l).recs ∧ r.link = s.cur.addr + 4 ∧ r.r1 = d ∧ r.r2 = b ∧ r.nest = 0 ∧
          r.squashed = false ∧ r.acq = false ∧ r.inst = s.forks.length ∧ (u.lane g l).fd = (t.lane g l).fd + 1 ∧
          (d ≠ 58 → d ≠ b → laneOf ((u.grp n).reg 64 d) l = r.pred1) ∧ (b ≠ 58 → laneOf ((u.grp n).reg 64 b) l = r.pred2)) ∧
        (u.lane n l).mode = .running ∧ (u.lane n l).pc = s.cur.addr + 4 ∧ (u.lane n l).fd = (t.lane g l).fd + 1 ∧ (u.lane n l).hintValid = false ∧
        s.now + 5 ≤ (u.lane n l).ready ∧
        ∀ spec : BitVec 6, spec.toNat < 56 → spec ≠ d → spec ≠ b → laneOf ((u.grp n).reg 64 spec) l = laneOf ((t.grp g).flush.reg 64 spec) l) ∧
      (∀ l < 32, ¬ (s.active l ∧ t.canFork l) → t.shadowSlot g ≠ none → (∃ m < 32, s.active m ∧ t.canFork m) → (u.lane n l).mode = .absent)

/-- A target of fcall or ret that is not a multiple of 4 raises ALIGN with that target, for the lanes that have it, which stay at the unit; where no lane's target is
sound, nothing else happens (R92, R99). -/
def Sys2Proof.Machine.ForkTargets : Prop :=
  ∀ (s : State) (sc : BitVec 3) (d a b : BitVec 6), s.cur.g < s.groups.length → s.cur.regOnly = false →
    ∀ i ∈ [Instr.fcall sc d a b, .ret sc a], s.goes i →
      let t := s.issued i
      let target (l : Nat) : Word := laneOf (t.src i .A) l
      ∀ bad : Lanes, bad ≠ 0 → (∀ l < 32, bad.getLsbD l = true ↔ s.active l ∧ (target l).toNat % 4 ≠ 0) →
        ∃ (x : State) (u : UnitRec), u.instr = i ∧ u.iss.lanes = s.cur.lanes ∧
          exec i s = .next (x.raise ⟨s.cur.g, bad, ⟨cALIGN, 0, target (lowest bad), none⟩, some u, true, false, s.cur.word, s.cur.pword, s.cur.addr⟩) ∧
          (i = .fcall sc d a b ∨ bad = s.cur.lanes →
            ∀ l < 32, bad.getLsbD l = true → (x.lane s.cur.g l).pc = s.cur.addr ∧ (x.lane s.cur.g l).recs = (t.lane s.cur.g l).recs) ∧
          (bad = s.cur.lanes → t.sameMemory x ∧ x.forks = t.forks ∧ x.groups.length = t.groups.length)

/-- ret, lane by lane, by the innermost record: without one the lane goes to its target; with calls counted it lowers the count and goes; a squashed record is
popped and the lane goes; a live one resolves: squashed for another target, for a value that was not predicted, for a sector that the callee wrote and the
continuation read, and committed otherwise. A held store that would meet a fault at the commit counts as another cause (log entry 46). A squash
leaves the callee's o7 as it is (log entry 41), ends the continuation lane, pops the record and sends the callee lane to its target with its own registers; a commit puts the continuation's registers, counter
and records into the lane (R92, R106 to R108). fsync.sq squashes each active lane's innermost live record; fhint fills the hint slots (R102, R108,
R114). -/
def Sys2Proof.Machine.ForkReturn : Prop :=
  ∀ (s : State) (sc : BitVec 3) (a b : BitVec 6), s.cur.g < s.groups.length → s.cur.regOnly = false →
    let g := s.cur.g
    (let i : Instr := .ret sc a
     let t := s.issued i
     let target (l : Nat) : Word := laneOf (t.src i .A) l
     s.goes i → (∀ l < 32, s.active l → (target l).toNat % 4 = 0) →
      exec i s = .next ((lanesOf s.cur.lanes).foldl (fun x l => x.retLane g l (target l) (t.retCase g l (target l))) t) ∧
      ((∀ l < 32, s.active l → (t.lane g l).recs = [] ∨ ∃ r rest, (t.lane g l).recs = r :: rest ∧ (r.nest ≠ 0 ∨ r.squashed = true)) →
      ∃ u, exec i s = .next u ∧ ∀ l < 32,
        (¬ s.active l → u.lane g l = t.lane g l) ∧
        (s.active l → (t.lane g l).recs = [] → u.lane g l = { t.lane g l with pc := target l }) ∧
        (∀ r rest, s.active l → (t.lane g l).recs = r :: rest → r.nest ≠ 0 →
          u.lane g l = { t.lane g l with recs := { r with nest := r.nest - 1 } :: rest, pc := target l }) ∧
        (∀ r rest, s.active l → (t.lane g l).recs = r :: rest → r.nest = 0 → (u.lane g l).recs = rest ∧ (u.lane g l).pc = target l))) ∧
    (∀ (l : Nat) (target : Word) (r : ForkRec) (rest : List ForkRec), (s.lane g l).recs = r :: rest → r.nest = 0 → r.squashed = false →
      (s.lane g l).base < (s.lane g l).recs.length →
      let value (spec : BitVec 6) : Word := if spec = 58 then 0 else laneOf ((s.grp g).reg 64 spec) l
      let loads := (s.lane (s.inst r.inst).shadow l).loadSet
      let clash := loads ≠ [] ∧ ((s.inst r.inst).overflow = true ∨ r.acq = true ∨ ∃ x ∈ loads, x ∈ (s.inst r.inst).writes)
      (target ≠ r.link → s.retCase g l target = .squash fkOTHER) ∧
      (target = r.link → (value r.r1 ≠ r.pred1 ∨ value r.r2 ≠ r.pred2) → s.retCase g l target = .squash fkVALUE) ∧
      (target = r.link → value r.r1 = r.pred1 → value r.r2 = r.pred2 →
        (clash → s.retCase g l target = .squash fkMEM) ∧
        (¬ clash → (s.grp g).shadow = none → s.retCase g l target =
          if s.heldFaults g l (s.lane (s.inst r.inst).shadow l).storeBuf = true then .squash fkOTHER else .commit))) ∧
    (∀ (l : Nat) (target : Word) (cause : Nat) (r : ForkRec) (rest : List ForkRec), g < s.groups.length → l < 32 → (s.lane g l).recs = r :: rest →
      let sh := (s.inst r.inst).shadow
      let x := s.lane sh l
      sh ≠ g → sh < s.groups.length → x.mode ≠ .absent → (∀ q ∈ x.recs.take (x.recs.length - x.base), q.squashed = true) →
      (let u := s.retLane g l target (.squash cause)
       (u.lane sh l).mode = .absent ∧ (u.grp g).sameRegs (s.grp g) ∧
       u.lane g l = { s.lane g l with recs := rest, base := (u.lane g l).base, fd := (s.lane g l).fd - 1, pc := target }) ∧
      ((s.grp g).shadow = none → x.storeBuf = [] →
       let u := s.retLane g l target .commit
       (u.lane sh l).mode = .absent ∧ (u.lane g l).mode = .running ∧ (u.lane g l).pc = x.pc ∧ (u.lane g l).recs = x.recs ∧ (u.lane g l).fd = x.fd - 1 ∧
       s.now + 4 ≤ (u.lane g l).ready ∧ (u.lane g l).hintValid = x.hintValid ∧
       ∀ spec : BitVec 6, spec.toNat < 56 → ∀ m < 32, laneOf ((u.grp g).flush.reg 64 spec) m =
         laneOf (if m = l then (s.grp sh).flush.reg 64 spec else (s.grp g).flush.reg 64 spec) m)) ∧
    (let i : Instr := .fsyncSq sc
     s.goes i → exec i s = .next ((lanesOf s.cur.lanes).foldl (fun x l =>
      match (x.lane g l).recs.findIdx? (fun r => !r.squashed) with | some j => x.squashEarly g l j | none => x) (s.issued i))) ∧
    (let i : Instr := .fhint sc a b
     s.goes i → exec i s = .next ((s.issued i).modLanes g s.cur.lanes fun l x =>
      { x with hintValid := true, hint0 := laneOf ((s.issued i).src i .A) l, hint1 := laneOf ((s.issued i).src i .B) l }))

/-- fcall with targets that are multiples of 4: every active lane goes to its target with o7 as its link and an empty hint slot; where a shadow slot is free,
each lane that may fork pushes a record and leaves a continuation of itself behind the call, with the registers of the lane but for the return registers,
which hold the prediction; the other lanes call, counted in their innermost records (R99, R100, R106, R114). A target of fcall or ret that is not a multiple
of 4 raises ALIGN with that target, for the lanes that have it, which stay at the unit; where no lane's target is sound, nothing else happens (R92, R99). ret,
lane by lane, by the innermost record: without one the lane goes to its target; with calls counted it lowers the count and goes; a squashed record is popped
and the lane goes; a live one resolves: squashed for another target, for a value that was not predicted, for a sector that the callee wrote and the
continuation read, and committed otherwise. A held store that would meet a fault at the commit counts as another cause (log entry 46). A squash leaves the
callee's o7 as it is (log entry 41), ends the continuation lane, pops the record and sends the callee lane to its target with its own registers; a commit puts
the continuation's registers, counter and records into the lane (R92, R106 to R108). fsync.sq squashes each active lane's innermost live record; fhint fills
the hint slots (R102, R108, R114). -/
def Obligations.Forks : Prop := Sys2Proof.Machine.ForkCall ∧ Sys2Proof.Machine.ForkTargets ∧ Sys2Proof.Machine.ForkReturn

/-! ## System instructions (R322, R329, R332 to R335) -/

/-- tmask: the active lanes' D takes the old mask, and the group's mask becomes the old one with the bits of A[3:0] set, cleared, or A[3:0] itself, A being the
lowest active lane's; bits above 3 stay 0 (R323, R332). -/
def Sys2Proof.Machine.TrapMaskOps : Prop :=
  ∀ (s : State) (sc : BitVec 3) (d a : BitVec 6), s.cur.g < s.groups.length →
    ∀ p ∈ [(Instr.tmaskSet sc d a, fun (x y : Bool) => x || y), (.tmaskClr sc d a, fun x y => x && !y), (.tmaskWr sc d a, fun _ y => y)],
      let i := p.1
      let t := s.issued i
      let old := (t.grp s.cur.g).trapmask
      s.goes i → ∃ (r : Result) (new : Word), r.inLanes s.cur.lanes (fun _ => old) ∧
        (∀ b < 64, new.getLsbD b = (decide (b < 4) && p.2 (old.getLsbD b) ((t.lead i .A).getLsbD b))) ∧
        exec i s = .next ((t.finish i d r s.cur.lanes).modGrp s.cur.g fun gr => { gr with trapmask := new })

/-- brk and trap: the active lanes of the program vote raise BREAK or SWTRAP with the code as sub-cause, and the unit is no entry of the frame; in handler
lanes, and where the group's mask covers the cause, nothing happens (R96, R318, R323, R331). tmask: the active lanes' D takes the old mask, and the group's
mask becomes the old one with the bits of A[3:0] set, cleared, or A[3:0] itself, A being the lowest active lane's; bits above 3 stay 0 (R323, R332). -/
def Obligations.SoftwareTrapsAndMask : Prop := Sys2Proof.Machine.SoftwareTraps ∧ Sys2Proof.Machine.TrapMaskOps

/-- rett of handler lanes whose frame can be read takes back what the frame holds, read in stages: the header, the fields of its entries, their images; a
sector that cannot be read raises the fault of the read; of lanes outside the handler it raises ILLEGAL 0x06 (R321, R322). -/
def Sys2Proof.Machine.ReturnInstruction : Prop :=
  ∀ (s : State) (sc : BitVec 3),
    let i : Instr := .rett sc
    let t := s.issued i
    let g := s.cur.g
    s.goes i →
      ((t.lane g (lowest s.cur.lanes)).inHandler = false → t.raises i s.cur.lanes ⟨cILLEGAL, 0x06, 0, none⟩ true (exec i s)) ∧
      ((t.lane g (lowest s.cur.lanes)).inHandler = true → ∀ f : SaveSlot, (t.grp g).save = some f →
        let stages := [fun _ => List.range 40, fun q => fieldSecs (frameNREP q), fun q => imageSecs q (frameNREP q)]
        let read := t.readStages g s.cur.lanes f.fa stages []
        (∀ x secs, read = .got x secs → exec i s = .next (x.restore g f s.cur.lanes secs)) ∧
        (∀ tr, read = .trap tr → t.raises i s.cur.lanes tr true (exec i s)) ∧
        (∀ (x : State) (ks : List Nat),
          let elts : List Elt := ks.map fun k => ⟨k, lowest s.cur.lanes, (f.fa.toNat + 32 * k) % 2 ^ 64, 0⟩
          let p := x.plan (x.agent g) .load 256 elts
          (p.void = none → p.trap = none →
            x.readFrame g s.cur.lanes f.fa ks = .got (x.loadElts (x.agent g) 32 15 elts).1 (x.loadElts (x.agent g) 32 15 elts).2) ∧
          (∀ tr, p.void = none → p.trap = some tr → x.readFrame g s.cur.lanes f.fa ks = .trap tr)))

/-- The return from a trap, once the frame has been read, each field as it stands in memory: the handler lanes of F.LANES take back OLD47, LA, LB and VPC and
enter the program vote; other lanes stay; the frame is released when no lane remains in the handler; the entries that are not skipped are performed next, in
order, each with the words, the address and the images of its place in the frame, for the returning lanes of its mask; words that the handler has changed are
decoded anew (R321, R322; log entry 24). rett of handler lanes whose frame can be read takes back what the frame holds, read in stages: the header, the fields
of its entries, their images; a sector that cannot be read raises the fault of the read; of lanes outside the handler it raises ILLEGAL 0x06 (R321, R322). -/
def Obligations.ReturnFromTrap : Prop := Sys2Proof.Machine.TrapReturn ∧ Sys2Proof.Machine.ReturnInstruction

/-- What rdsr reads from a register that stands as it is in the state. -/
def Sys2Proof.Machine.plainReg (s : State) (g : Nat) : List (Nat × Word) :=
  let gr := s.grp g
  let cx := s.ctxOf g
  let p := s.part cx.part
  [(0x000, gr.fpmode), (0x001, gr.unist), (0x002, gr.wdog), (0x003, gr.forkst), (0x004, gr.prio), (0x005, gr.trapmask), (0x100, (s.crewOf g).clk),
   (0x101, (s.crewOf g).pace.zeroExtend 64), (0x102, BitVec.ofNat 64 ((s.crewOf g).crewNo + 2 ^ 24 * ((s.task (s.crewOf g).task).ncrews - 1))), (0x200, cx.ctxid), (0x201, cx.sbchk), (0x202, cx.unichk), (0x203, cx.forkcfg), (0x204, cx.roomtmo),
   (0x205, cx.reusef), (0x206, cx.reusest), (0x207, cx.wayq), (0x208, cx.pinq), (0x209, cx.xlbase), (0x20A, cx.trapbase), (0x20B, cx.savebase),
   (0x20C, cx.tapebase), (0x300, BitVec.ofNat 64 (p.num.toNat + 4 * p.dies.toNat)), (0x301, s.pkg.podid), (0x302, p.prebound), (0x303, p.qosc),
   (0x304, s.pkg.pwrst), (0x305, p.qtbase)]

/-- A word whose low n bits are those of v, the others 0. -/
def Sys2Proof.Machine.lowBits (n : Nat) (v x : Word) : Prop := ∀ b < 64, x.getLsbD b = (decide (b < n) && v.getLsbD b)

/-- rdsr gives all lanes of D the register it names. wrsr, with the value of the lowest active lane, writes the fields that software may write and leaves the
others; the sticky ones are cleared where the value has 0; where the value fails the register's check, the active lanes raise ILLEGAL 0x06 and nothing is
written. So it is for every writable register (R53, R71, R85, R88, R113, R174, R178, R209, R304, R312, R319, R323, R324, R329, R352;
log entry 22 for a read-only register at system level, which is the model's reading). -/
def Obligations.SystemRegisters : Prop :=
  ∀ (s : State) (sc : BitVec 3) (d : BitVec 6) (n : BitVec 12),
    (let i : Instr := .rdsr sc d n
     s.goes i → ∃ (r : Result) (v : Word), r.all v ∧ exec i s = .next ((s.issued i).finish i d r s.cur.lanes) ∧
      ∀ p ∈ plainReg (s.issued i) s.cur.g, n.toNat = p.1 → v = p.2) ∧
    (let i : Instr := .wrsr sc d n
     let t := s.issued i
     let g := s.cur.g
     let v := t.lead i .D
     let b (lo k : Nat) : Nat := v.toNat / 2 ^ lo % 2 ^ k
     let illegal : Prop := t.raises i s.cur.lanes ⟨cILLEGAL, 0x06, 0, none⟩ true (exec i s)
     s.goes i →
      (n = 0x000 → (4 < b 0 3 → illegal) ∧ (b 0 3 ≤ 4 → ∃ x : Word, exec i s = .next (t.modGrp g fun gr => { gr with fpmode := x }) ∧
        ∀ k < 64, x.getLsbD k = if k < 5 then v.getLsbD k else (t.grp g).fpmode.getLsbD k && (v.getLsbD k || !decide (8 ≤ k ∧ k < 13)))) ∧
      (n = 0x001 → ∃ x : Word, exec i s = .next (t.modGrp g fun gr => { gr with unist := x }) ∧
        ∀ k < 64, x.getLsbD k = ((t.grp g).unist.getLsbD k && (v.getLsbD k || k != 0))) ∧
      (n = 0x002 → (v.getLsbD 32 = true ∧ b 0 32 < 64 → illegal) ∧ (¬ (v.getLsbD 32 = true ∧ b 0 32 < 64) → ∃ (x m : Word) (k : Nat),
        exec i s = .next (t.modGrp g fun gr => { gr with wdog := x, wdM := m, wdN := k }) ∧
        (∀ k < 64, x.getLsbD k = if k < 33 then v.getLsbD k else (t.grp g).wdog.getLsbD k && (v.getLsbD k || k != 33)) ∧
        (v.getLsbD 32 = true → k = 0 ∧ ∀ l < 32, (t.lane g l).mode = .running → m.toNat ≤ (t.lane g l).pc.toNat))) ∧
      (n = 0x003 → ∃ x : Word, exec i s = .next (t.modGrp g fun gr => { gr with forkst := x }) ∧
        ∀ k < 64, x.getLsbD k = if k < 60 then v.getLsbD k else (t.grp g).forkst.getLsbD k) ∧
      (n = 0x004 → ∃ x : Word, exec i s = .next (t.modGrp g fun gr => { gr with prio := x }) ∧
        ∀ k < 64, x.getLsbD k = if 5 ≤ k ∧ k < 8 then v.getLsbD k else (t.grp g).prio.getLsbD k) ∧
      (n = 0x005 → ∃ x : Word, exec i s = .next (t.modGrp g fun gr => { gr with trapmask := x }) ∧
        ∀ k < 64, x.getLsbD k = if k < 4 then v.getLsbD k else (t.grp g).trapmask.getLsbD k) ∧
      (n = 0x201 → ∃ x, lowBits 1 v x ∧ exec i s = .next (t.modCtx (t.ctxNo g) fun _ => { t.ctxOf g with sbchk := x })) ∧
      (n = 0x202 → ∃ x, lowBits 1 v x ∧ exec i s = .next (t.modCtx (t.ctxNo g) fun _ => { t.ctxOf g with unichk := x })) ∧
      (n = 0x203 → (b 1 3 = 0 ∨ 4 < b 1 3 → illegal) ∧ (b 1 3 ≠ 0 → b 1 3 ≤ 4 →
        ∃ x, lowBits 6 v x ∧ exec i s = .next (t.modCtx (t.ctxNo g) fun _ => { t.ctxOf g with forkcfg := x }))) ∧
      (n = 0x204 → ∃ x, lowBits 32 v x ∧ exec i s = .next (t.modCtx (t.ctxNo g) fun _ => { t.ctxOf g with roomtmo := x })) ∧
      (n = 0x205 → (4 < b 0 3 → illegal) ∧ (b 0 3 ≤ 4 → ∃ x, lowBits 3 v x ∧ exec i s = .next (t.modCtx (t.ctxNo g) fun _ => { t.ctxOf g with reusef := x }))) ∧
      (n = 0x207 → (8 < b 0 4 ∨ 16 < b 4 5 → illegal) ∧ (b 0 4 ≤ 8 → b 4 5 ≤ 16 →
        ∃ x, lowBits 9 v x ∧ exec i s = .next (t.modCtx (t.ctxNo g) fun _ => { t.ctxOf g with wayq := x }))) ∧
      (n = 0x208 → ∃ x, lowBits 32 v x ∧ exec i s = .next (t.modCtx (t.ctxNo g) fun _ => { t.ctxOf g with pinq := x })) ∧
      (n = 0x209 → ∃ x : Word, exec i s = .next (t.modCtx (t.ctxNo g) fun _ => { t.ctxOf g with xlbase := x }) ∧
        ∀ k < 64, x.getLsbD k = (v.getLsbD k && decide (k = 0 ∨ (16 ≤ k ∧ k < 48)))) ∧
      (n = 0x20A → ∃ x : Word, exec i s = .next (t.modCtx (t.ctxNo g) fun _ => { t.ctxOf g with trapbase := x }) ∧
        ∀ k < 64, x.getLsbD k = (v.getLsbD k && decide (k < 52 ∧ k ≠ 1))) ∧
      (n = 0x20B → ∃ x : Word, exec i s = .next (t.modCtx (t.ctxNo g) fun _ => { t.ctxOf g with savebase := x }) ∧
        ∀ k < 64, x.getLsbD k = (v.getLsbD k && decide (16 ≤ k ∧ k < 52))) ∧
      (n = 0x20C → (20 < b 48 5 → illegal) ∧ (b 48 5 ≤ 20 → ∃ x : Word, exec i s = .next (t.modCtx (t.ctxNo g) fun _ => { t.ctxOf g with tapebase := x }) ∧
        ∀ k < 64, x.getLsbD k = (v.getLsbD k && decide (6 ≤ k ∧ k < 53)))) ∧
      (n = 0x302 → ∃ x, lowBits 32 v x ∧ exec i s = .next (t.modPart (t.partNo g) fun _ => { t.part (t.partNo g) with prebound := x })) ∧
      (n = 0x303 → (16 < b 0 4 + b 4 4 + b 8 4 + b 12 4 ∨ b 12 4 = 0 → illegal) ∧ (b 0 4 + b 4 4 + b 8 4 + b 12 4 ≤ 16 → b 12 4 ≠ 0 →
        ∃ x, lowBits 16 v x ∧ exec i s = .next (t.modPart (t.partNo g) fun _ => { t.part (t.partNo g) with qosc := x }))) ∧
      (n.toNat ∈ [0x100, 0x101, 0x102, 0x200, 0x206, 0x300, 0x301, 0x304, 0x305] → illegal)) ∧
    (∀ (g : Nat) (v : Word), ¬ (v.getLsbD 32 = true ∧ v.toNat % 2 ^ 32 < 64) → ∃ (x m : Word) (k : Nat),
      exec (.wdogWrite g v) s = .next (s.modGrp g fun gr => { gr with wdog := x, wdM := m, wdN := k }) ∧
      ∀ k < 64, x.getLsbD k = if k < 33 then v.getLsbD k else (s.grp g).wdog.getLsbD k && (v.getLsbD k || k != 33))

/-- sysc: with a block that is a multiple of 64 and lies in the crew's window, each function writes its state and the status 0 into all lanes of D, status 1 for an
invalid argument and 2 where the target is not found, then with no effect; a misplaced block raises ALIGN or PROT 0x04, a poisoned one POISON. shoot, once it
has taken the translations out, waits while an access of the context issued by then is in flight. where gives the group's place. dtld installs the table it
reads: each opcode then has the meaning of its entry (R56, R182, R193, R298, R302, R334, R335; log entry 49 for poison;
log entry 27 for the order of the checks of dtld and for a FLOOR above 64). -/
def Obligations.SystemCalls : Prop :=
  ∀ (s : State) (sc : BitVec 3) (d a : BitVec 6),
    let g := s.cur.g
    (∀ i ∈ [Instr.syscShoot sc d, .syscTerm sc d, .syscQdesc sc d, .syscLevel sc d, .syscRing sc d, .syscPodwin sc d, .syscFpdef sc d],
      let t := s.issued i
      let o := (t.lead i .D).toNat % 2 ^ 20
      let c0 := (t.grp g).crew
      let w (j : Nat) : Word := BitVec.ofNat 64 (Mem.num (t.crewOf g).scratch (o + 8 * j) 8)
      let b : State := { t with cur := { t.cur with data := t.readScratch c0 o 64 } }
      let ctx := t.findCtx (t.partNo g) (w 0).toNat
      let done (x : State) (n : Nat) : Prop := ∃ r : Result, r.all (BitVec.ofNat 64 n) ∧ exec i s = .next (x.finish i d r s.cur.lanes)
      s.goes i →
        (o % 64 ≠ 0 → t.raises i s.cur.lanes ⟨cALIGN, 0, BitVec.ofNat 64 o, none⟩ true (exec i s)) ∧
        (o % 64 = 0 → (t.crewOf g).window < o + 64 → t.raises i s.cur.lanes ⟨cPROT, 0x04, BitVec.ofNat 64 o, none⟩ true (exec i s)) ∧
        (o % 64 = 0 → o + 64 ≤ (t.crewOf g).window → t.boxPoison c0 o 64 = true →
          t.raises i s.cur.lanes ⟨cPOISON, 0, BitVec.ofNat 64 o, none⟩ true (exec i s)) ∧
        (o % 64 = 0 → o + 64 ≤ (t.crewOf g).window → t.boxPoison c0 o 64 = false →
          (i = .syscShoot sc d → (ctx = none → done b 2) ∧ ∀ c, ctx = some c →
            let x : State := { b with tlb := t.tlb.filter fun e =>
              !(e.ctx == c && decide (e.base < (w 1).toNat + (w 2).toNat) && decide ((w 1).toNat < e.base + 2 ^ e.log)) }
            (t.inFlight c t.cur.cycle = false → done x 0) ∧ (t.inFlight c t.cur.cycle = true → exec i s = .next (x.await i true))) ∧
          (i = .syscTerm sc d → (ctx = none → done b 2) ∧ ∀ c, ctx = some c →
            (t.taggedCrew c (w 1).toNat = none → done b 2) ∧
            (∀ k, t.taggedCrew c (w 1).toNat = some k → k ≠ c0 → done (b.terminate k) 0) ∧
            (t.taggedCrew c (w 1).toNat = some c0 → exec i s = .next (b.terminate c0))) ∧
          (i = .syscQdesc sc d →
            let level := (w 1).toNat / 4 % 32
            let sys := (t.findCtx (t.partNo g) ((w 1).toNat / 65536 % 65536)).any fun c => (t.ctx c).isSys
            (65536 ≤ (w 0).toNat ∨ 23 < level ∨ (level < 3 ∧ sys = false) → done b 1) ∧
            (¬ (65536 ≤ (w 0).toNat ∨ 23 < level ∨ (level < 3 ∧ sys = false)) →
              done ((List.range 5).foldl (fun x j => x.putQueueWord (t.partNo g) (w 0).toNat j (w (j + 1)).toNat) b) 0)) ∧
          (i = .syscLevel sc d → (24 ≤ (w 0).toNat ∨ 64 < (w 1).toNat → done b 1) ∧ ((w 0).toNat < 24 → (w 1).toNat ≤ 64 →
            done (b.modPart (t.partNo g) fun p => { p with levels := p.levels.setIfInBounds (w 0).toNat (w 1) }) 0)) ∧
          (i = .syscRing sc d → (16 ≤ (w 0).toNat → done b 1) ∧ ((w 0).toNat < 16 →
            done (b.modPart (t.partNo g) fun p => { p with rings := p.rings.setIfInBounds (w 0).toNat (w 1, w 2) }) 0)) ∧
          (i = .syscPodwin sc d → (ctx = none → done b 2) ∧ ∀ c, ctx = some c → (64 ≤ (w 1).toNat → done b 1) ∧ ((w 1).toNat < 64 →
            done (b.modCtx c fun x => { x with podwins := x.podwins.setIfInBounds (w 1).toNat (w 2, w 3, w 4) }) 0)) ∧
          (i = .syscFpdef sc d → (ctx = none → done b 2) ∧ ∀ c, ctx = some c → (32 ≤ (w 1).toNat ∨ 4 < (w 1).toNat % 8 → done b 1) ∧
            ((w 1).toNat < 32 → (w 1).toNat % 8 ≤ 4 → done (b.modCtx c fun x => { x with fpdef := w 1 }) 0)))) ∧
    (let i : Instr := .syscWhere sc d
     let t := s.issued i
     s.goes i → ∃ r : Result, exec i s = .next (t.finish i d r s.cur.lanes) ∧
      r.all (BitVec.ofNat 64 ((t.grp g).core / 4 + 2 ^ 8 * ((t.grp g).core % 4) + 2 ^ 10 * (t.grp g).slot + 2 ^ 16 * (t.grp g).gtag))) ∧
    (let i : Instr := .dtld sc d a
     let t := s.issued i
     let va := (t.lead i .A).toNat
     let elts : List Elt := (List.range 128).map fun k => ⟨k, lowest s.cur.lanes, (va + 32 * k) % 2 ^ 64, 0⟩
     let p := t.plan (t.agent g) .load 256 elts
     s.goes i → va % 256 = 0 → p.void = none → p.trap = none → t.ctxNo g < t.ctxs.length →
      ∃ (x : State) (secs : List (Nat × Nat)), t.loadElts (t.agent g) 32 15 elts = (x, secs) ∧
        let entry (k : Nat) : Nat := leNat (((secs.flatMap fun q => leBytes 32 q.2).drop (2 * k)).take 2)
        let bad (k : Nat) : Prop := k ≠ 0x3FF ∧ entry k / 2 ^ 15 = 1 ∧ isShipping (decide (1024 ≤ k)) (entry k % 1024) = false
        let stray (k : Nat) : Prop := k ≠ 0x3FF ∧ entry k / 1024 % 32 ≠ 0
        ((∃ k < 2048, bad k) → ∃ r : Result, r.all 1 ∧ exec i s = .next (x.finish i d r s.cur.lanes)) ∧
        ((∀ k < 2048, ¬ bad k) → (∃ k < 2048, stray k) → ∃ r : Result, r.all 2 ∧ exec i s = .next (x.finish i d r s.cur.lanes)) ∧
        ((∀ k < 2048, ¬ bad k ∧ ¬ stray k) → ∃ (r : Result) (c : Context), r.all 0 ∧
          exec i s = .next ((x.modCtx (t.ctxNo g) fun _ => c).finish i d r s.cur.lanes) ∧ c = { x.ctxOf g with decode := c.decode } ∧
          ∀ k < 2048, k ≠ 0x3FF →
            (entry k / 2 ^ 15 = 1 → c.opMap (decide (1024 ≤ k)) (k % 1024) = some (entry k % 1024)) ∧
            (entry k / 2 ^ 15 = 0 → isShipping (decide (1024 ≤ k)) (k % 1024) = true → c.opMap (decide (1024 ≤ k)) (k % 1024) = none)))

/-! ## Memory accesses (R157 to R166, R175) -/

/-- The load sweeps, with space, displacement unit and destination (R158, R160, R164). -/
def Sys2Proof.Machine.loadRow : Instr → Option (BitVec 6 × Nat × Nat)
  | .ld pf sc d a n z => some (d, 0, (Instr.ld pf sc d a n z).eb)
  | .ldl _ _ d _ _ _ => some (d, 0, 256)
  | .lds pf sc d a z => some (d, 1, (Instr.lds pf sc d a z).eb)
  | .ldc pf sc d a z => some (d, 2, (Instr.ldc pf sc d a z).eb)
  | _ => none

/-- ld, ldl, lds, ldc outside declared regions: each element that takes part loads from its address, base + e·size, of its space: device memory as the
access sees it once its lines have been touched, the crew's scratchpad window, or the quad's constant store; in a continuation, a byte that it or one it depends
on holds back stands over that. The sweep changes no register but D and, where no eviction writes memory, no byte. A base that is not a multiple of the unit
raises ALIGN. sld does so for one element into all lanes of D (R103, R157, R160, R164, R165;
log entry 40 for ALIGN before the space of an sld). -/
def Obligations.Loads : Prop :=
  ∀ (s : State) (i : Instr) (d : BitVec 6), s.goes i →
    let t := s.issued i
    let a := t.unitAgent
    let laid (space l : Nat) (va eb v : Nat) : Nat :=
      leNat ((List.range eb).map fun j => (t.heldByte (t.forkChain s.cur.g l) l space (va + j)).getD (BitVec.ofNat 8 (v / 2 ^ (8 * j))))
    (∀ space unit : Nat, loadRow i = some (d, space, unit) →
      (t.sweepBase i unit % unit ≠ 0 → t.raises i s.cur.lanes ⟨cALIGN, 0, BitVec.ofNat 64 (t.sweepBase i unit), none⟩ true (exec i s)) ∧
      (t.sweepBase i unit % unit = 0 →
        let p := t.planSpace a space .load i.eb (t.sweep i (t.sweepBase i unit) 0)
        p.void = none → p.bad = 0 → (∀ e < 2048 / i.width, t.live i i.width e → ((t.ctxOf s.cur.g).regionAt (t.elAddr i unit e)).isNone) → t.noReplica →
        ((s.grp s.cur.g).shadow.isSome = true → t.forkStops a space .load i.eb s.cur.lanes (t.sweep i (t.sweepBase i unit) 0) p = 0) →
        ∃ (u : State) (r : Result), exec i s = .next (u.finish i d r s.cur.lanes) ∧
          ((s.grp s.cur.g).shadow = none → u.groups = t.groups ∧ (space ≠ 0 → u = t)) ∧ u.crews = t.crews ∧ u.const = t.const ∧
          (t.onlyDt → t.sameMemory u ∧ ∀ q pt x n, x.pa % 256 + n ≤ 256 → u.readBytes q pt x n = t.readBytes q pt x n) ∧
          r.lanewise t i i.width fun e v =>
            let va := t.elAddr i unit e
            let l := i.width * e / 64
            (space = 0 → ∀ x, t.placeOf .load va x → v = laid space l va i.eb (leNat (u.readBytes a.quad a.part x i.eb))) ∧
            (space = 1 → v = laid space l va i.eb (leNat (t.readScratch a.crew va i.eb))) ∧
            (space = 2 → v = laid space l va i.eb (leNat (t.readConst a.quad va i.eb))))) ∧
    (∀ (sc : BitVec 3) (ad : BitVec 6) (n : BitVec 4) (z : BitVec 2), i = .sld sc d ad n z → (s.grp s.cur.g).shadow = none →
      let addr := (t.lead i .A).toNat
      let space := addr / 2 ^ 52
      let va := addr % 2 ^ 52
      let eb := 2 ^ z.toNat
      (addr % eb ≠ 0 → t.raises i s.cur.lanes ⟨cALIGN, 0, t.lead i .A, none⟩ true (exec i s)) ∧
      (addr % eb = 0 → 2 < space → t.raises i s.cur.lanes ⟨cPROT, 0x04, t.lead i .A, none⟩ true (exec i s)) ∧
      (addr % eb = 0 → space ≤ 2 →
        let p := t.planSpace a space .load eb [⟨0, lowest s.cur.lanes, va, 0⟩]
        p.void = none → p.trap = none → (space = 0 → ((t.ctxOf s.cur.g).regionAt va).isNone) → t.noReplica →
        ∃ (u : State) (r : Result) (v : Nat), exec i s = .next (u.writeReg s.cur.g d r) ∧ r.all (BitVec.ofNat 64 v) ∧
          u.groups = t.groups ∧ u.crews = t.crews ∧ u.const = t.const ∧ (space ≠ 0 → u = t) ∧ (t.onlyDt → t.sameMemory u) ∧
          (space = 0 → ∀ x, t.placeOf .load va x → v = leNat (u.readBytes a.quad a.part x eb)) ∧
          (space = 1 → v = leNat (t.readScratch a.crew va eb)) ∧ (space = 2 → v = leNat (t.readConst a.quad va eb))))

/-- The bytes [a, a + n) hold v, every other byte of one memory what it held in another. -/
def Sys2Proof.Machine.storedIn (m m' : List Host.Cell) (a n v : Nat) : Prop :=
  Mem.read m' a n = leBytes n v ∧ ∀ k, (k < a ∨ a + n ≤ k) → Mem.get m' k = Mem.get m k

/-- st and sts outside a continuation: each element that takes part writes its bytes of D at base + e·size of its space; every other byte reads as before, where
no eviction writes memory; no register changes. A base that is not a multiple of the unit raises ALIGN. sst stores the low bytes of D of the lowest active lane
so; in a continuation no memory changes (R103, R157, R160, R164, R165;
log entry 40 for ALIGN before the space of an sst). -/
def Obligations.Stores : Prop :=
  ∀ (s : State) (i : Instr), s.goes i → s.partNo s.cur.g < 4 →
    let t := s.issued i
    let g := s.cur.g
    let a := t.unitAgent
    (∀ (pf : Option Pfx) (sc : BitVec 3) (d ad : BitVec 6) (n : BitVec 4) (z : BitVec 2), i = .st pf sc d ad n z →
      let base := t.sweepBase i i.eb
      let p := t.planSpace a 0 .store i.eb (t.sweep i base (t.src i .D))
      let addr (e : Nat) : Nat := t.elAddr i i.eb e
      (base % i.eb ≠ 0 → t.raises i s.cur.lanes ⟨cALIGN, 0, BitVec.ofNat 64 base, none⟩ true (exec i s)) ∧
      (base % i.eb = 0 → p.void = none → (s.grp g).shadow.isSome = true → ∃ u, exec i s = .next u ∧ t.sameMemory u) ∧
      (base % i.eb = 0 → p.void = none → p.bad = 0 → (s.grp g).shadow = none →
        (∀ e < 2048 / i.width, t.live i i.width e → ((t.ctxOf g).regionAt (addr e)).isNone) → t.onlyDt → t.orphans = [] →
        ∃ u, exec i s = .next u ∧
          (∀ e < 2048 / i.width, t.live i i.width e → ∀ x, t.placeOf .store (addr e) x →
            u.readBytes a.quad a.part x i.eb = leBytes i.eb (el i.width e (t.src i .D))) ∧
          (∀ k, (∀ e < 2048 / i.width, t.live i i.width e → ∀ x, t.placeOf .store (addr e) x → x.host = false →
              k < dramKey a.part x.pa ∨ dramKey a.part x.pa + i.eb ≤ k) → Mem.get u.dram k = Mem.get t.dram k) ∧
          (∀ k, (∀ e < 2048 / i.width, t.live i i.width e → ∀ x, t.placeOf .store (addr e) x → x.host = true →
              k < x.pa ∨ x.pa + i.eb ≤ k) → Mem.get u.hostMem k = Mem.get t.hostMem k) ∧
          u.const = t.const ∧ u.crews = t.crews ∧ State.othersKept g t u ∧ (u.grp g).sameRegs (t.grp g) ∧ (u.grp g).sameSys (t.grp g) ∧
          (u.grp g).lanes = (t.grp g).lanes)) ∧
    (∀ (pf : Option Pfx) (sc : BitVec 3) (d ad : BitVec 6) (z : BitVec 2), i = .sts pf sc d ad z →
      let base := t.sweepBase i i.eb
      let p := t.planSpace a 1 .store i.eb (t.sweep i base (t.src i .D))
      let addr (e : Nat) : Nat := t.elAddr i i.eb e
      (base % i.eb ≠ 0 → t.raises i s.cur.lanes ⟨cALIGN, 0, BitVec.ofNat 64 base, none⟩ true (exec i s)) ∧
      (base % i.eb = 0 → (s.grp g).shadow.isSome = true → ∃ u, exec i s = .next u ∧ t.sameMemory u) ∧
      (base % i.eb = 0 → p.bad = 0 → (s.grp g).shadow = none → a.crew < t.crews.length →
        ∃ u m, exec i s = .next u ∧ u = { t with crews := u.crews, forks := u.forks, poison := u.poison } ∧ (t.poison = [] → u.poison = []) ∧
          u.crews = (t.modCrew a.crew fun c => { c with scratch := m }).crews ∧
          (∀ e < 2048 / i.width, t.live i i.width e → Mem.read m (addr e) i.eb = leBytes i.eb (el i.width e (t.src i .D))) ∧
          ∀ k, (∀ e < 2048 / i.width, t.live i i.width e → k < addr e ∨ addr e + i.eb ≤ k) → Mem.get m k = Mem.get (t.crew a.crew).scratch k)) ∧
    (∀ (sc : BitVec 3) (d ad : BitVec 6) (n : BitVec 4) (z : BitVec 2), i = .sst sc d ad n z →
      let addr := (t.lead i .A).toNat
      let space := addr / 2 ^ 52
      let va := addr % 2 ^ 52
      let eb := 2 ^ z.toNat
      let v := (t.lead i .D).toNat % 2 ^ (8 * eb)
      let p := t.planSpace a space .store eb [⟨0, lowest s.cur.lanes, va, v⟩]
      (addr % eb ≠ 0 → t.raises i s.cur.lanes ⟨cALIGN, 0, t.lead i .A, none⟩ true (exec i s)) ∧
      (addr % eb = 0 → 2 < space → t.raises i s.cur.lanes ⟨cPROT, 0x04, t.lead i .A, none⟩ true (exec i s)) ∧
      (addr % eb = 0 → space ≤ 2 → p.void = none → p.trap = none → (s.grp g).shadow.isSome = true → ∃ u, exec i s = .next u ∧ t.sameMemory u) ∧
      (addr % eb = 0 → space ≤ 2 → p.void = none → p.trap = none → (s.grp g).shadow = none →
        (space = 0 → ((t.ctxOf g).regionAt va).isNone) → t.onlyDt → t.orphans = [] → a.crew < t.crews.length →
        ∃ u, exec i s = .next u ∧ State.othersKept g t u ∧ (u.grp g).sameRegs (t.grp g) ∧ (u.grp g).sameSys (t.grp g) ∧ (u.grp g).lanes = (t.grp g).lanes ∧
          (space = 0 → u.crews = t.crews ∧ u.const = t.const ∧ ∀ x, t.placeOf .store va x → u.readBytes a.quad a.part x eb = leBytes eb v ∧
            (∀ k, (x.host = false → k < dramKey a.part x.pa ∨ dramKey a.part x.pa + eb ≤ k) → Mem.get u.dram k = Mem.get t.dram k) ∧
            (∀ k, (x.host = true → k < x.pa ∨ x.pa + eb ≤ k) → Mem.get u.hostMem k = Mem.get t.hostMem k)) ∧
          (space = 1 → u.dram = t.dram ∧ u.const = t.const ∧ u.hostMem = t.hostMem ∧ storedIn (t.crew a.crew).scratch (u.crew a.crew).scratch va eb v ∧
            ∀ c, c ≠ a.crew → u.crew c = t.crew c) ∧
          (space = 2 → u.dram = t.dram ∧ u.crews = t.crews ∧ u.hostMem = t.hostMem ∧ storedIn t.const u.const (constKey a.quad va) eb v)))

/-- Every line stands at most once in a cache. -/
def Sys2Proof.Machine.State.oneCopy (s : State) : Prop := ∀ c ∈ s.cache, ∀ c' ∈ s.cache, c.cache = c'.cache → c.part = c'.part → c.line = c'.line → c = c'

/-- prf never faults for its lines and changes no register and, where no eviction writes memory, no byte; pin and unpin put a status into D of the active lanes: 0
where the line has been pinned, or unpinned by one, at each level named, otherwise the first refusal, with no pin changed; sinv, swb and swb.inv discard, clean, or
clean and discard the quad's SI copies of a range of lines; hdef releases a tile number and declares the tile that its operands describe (R166, R175, R185, R189 to
R191;
log entry 11 for ALIGN of a tile, entry 44 for the order of the refusals of pin, both the model's readings). -/
def Obligations.CacheOperations : Prop :=
  ∀ (s : State) (i : Instr), s.goes i → s.cur.g < s.groups.length →
    let t := s.issued i
    let g := s.cur.g
    let a := t.unitAgent
    (∀ (pf : Option Pfx) (sc : BitVec 3) (ad : BitVec 6) (n : BitVec 4) (z : BitVec 2), i = .prf pf sc ad n z →
      (t.sweepBase i i.eb % i.eb ≠ 0 → t.raises i s.cur.lanes ⟨cALIGN, 0, BitVec.ofNat 64 (t.sweepBase i i.eb), none⟩ true (exec i s)) ∧
      (t.sweepBase i i.eb % i.eb = 0 → ∃ u, exec i s = .next u ∧ u.groups = t.groups ∧ u.crews = t.crews ∧ (t.onlyDt → t.sameMemory u))) ∧
    (∀ (pf : Option Pfx) (sc : BitVec 3) (d ad : BitVec 6) (z : BitVec 2) (x : Xl), i = .pin pf sc d ad z ∨ i = .unpin pf sc d ad z →
      let va := t.sweepBase i 256
      let vs := t.pinLevels a x z
      let pin : Prop := i = .pin pf sc d ad z
      t.reachBy a .load va = .ok x → (pin → t.pinFault a va x = none) →
      let refuse (v : PinLevel) : Nat := if i.laneOp = 0x0C7 then t.pinRefusal a x v else t.unpinRefusal a x v
      ∃ (u : State) (r : Result) (st : Nat), exec i s = .next (u.writeReg g d r) ∧ r.inLanes s.cur.lanes (fun _ => BitVec.ofNat 64 st) ∧
        u.groups = t.groups ∧ u.crews = t.crews ∧ (t.onlyDt → t.sameMemory u) ∧
        ((∀ v ∈ vs, refuse v = 0) → st = 0) ∧
        (∀ v ws, vs = v :: ws → refuse v ≠ 0 → st = refuse v + (if v.l1 then 256 else 0) ∧ u.cache = t.cache) ∧
        (∀ w v ws, vs = w :: v :: ws → refuse w = 0 → refuse v ≠ 0 → st = refuse v + (if v.l1 then 256 else 0) ∧ u.cache = t.cache) ∧
        (pin → x.host = true → st ≠ 0) ∧
        (pin → st = 0 → ∀ v ∈ vs, ∃ c, u.copyIn v.cache a.part (lineOf x.pa) = some c ∧ c.pins ≠ 0 ∧ c.pinCtx = a.ctx) ∧
        (¬ pin → x.host = false → st = 0 → ∀ v ∈ vs, ∀ c, t.copyIn v.cache a.part (lineOf x.pa) = some c → c.pins = 1 ∨ ∃ y ∈ u.cache, y.same c = true ∧ y.pins = c.pins - 1)) ∧
    (∀ (pf : Option Pfx) (sc : BitVec 3) (d ad : BitVec 6), i ∈ [Instr.sinv pf sc d ad, .swb pf sc d ad, .swbInv pf sc d ad] →
      let b := t.sweepBase i 256
      let n := (t.lead i .D).toNat
      (b % 256 ≠ 0 → t.raises i s.cur.lanes ⟨cALIGN, 0, BitVec.ofNat 64 b, none⟩ true (exec i s)) ∧
      (b % 256 = 0 → 4096 < n → t.raises i s.cur.lanes ⟨cPROT, 0x04, BitVec.ofNat 64 b, none⟩ true (exec i s)) ∧
      (b % 256 = 0 → n ≤ 4096 → t.oneCopy →
        (i = .sinv pf sc d ad ∨ ∀ k < n, (t.tlb.any fun e => e.covers a.quad a.ctx ((b + 256 * k) % 2 ^ 64)) = true) → ∃ u, exec i s = .next u ∧ u.const = t.const ∧ u.crews = t.crews ∧ State.othersKept g t u ∧
        (u.grp g).sameRegs (t.grp g) ∧ (u.grp g).sameSys (t.grp g) ∧ (u.grp g).lanes = (t.grp g).lanes ∧
        (i = .sinv pf sc d ad → t.sameMemory u) ∧
        ∀ k < n, ∀ x, (b + 256 * k) % 2 ^ 64 < 2 ^ 52 → t.xlate a.quad a.ctx ((b + 256 * k) % 2 ^ 64) = .page x → x.attr = 1 →
          (i ≠ .swb pf sc d ad → u.siCopy a.quad (cachePart a.part x) (lineOf x.pa) = none) ∧
          (i = .swb pf sc d ad → ∀ c img m, u.siCopy a.quad (cachePart a.part x) (lineOf x.pa) = some (c, img, m) → m = 0) ∧
          (i ≠ .sinv pf sc d ad → ∀ c img m, t.siCopy a.quad (cachePart a.part x) (lineOf x.pa) = some (c, img, m) → ∀ q < 8, m.getLsbD q = true →
            c.part = cachePart a.part x → u.homeRead (cachePart a.part x) (256 * lineOf x.pa + 32 * q) 32 = lineSector img q))) ∧
    (∀ (sc : BitVec 3) (d ad b : BitVec 6), i = .hdef sc d ad b →
      let h := haloOf (t.lead i .A) (t.lead i .B)
      let x := t.dropHalo a.ctx d.toNat
      (h.rows = 0 → exec i s = .next x) ∧
      (h.rows ≠ 0 → h.base.toNat % 32 ≠ 0 → x.raises i s.cur.lanes ⟨cALIGN, 0, h.base, none⟩ true (exec i s)) ∧
      (h.rows ≠ 0 → h.base.toNat % 32 = 0 →
        (x.haloBad a.part h (t.lead i .B) = true → x.raises i s.cur.lanes ⟨cENGINE, 0x20, 0, none⟩ true (exec i s)) ∧
        (x.haloBad a.part h (t.lead i .B) = false → x.haloPages a.quad a.ctx h = .ok none →
          ((x.ctx a.ctx).haloMeets h = true → x.raises i s.cur.lanes ⟨cENGINE, 0x22, 0, none⟩ true (exec i s)) ∧
          ((x.ctx a.ctx).haloMeets h = false → a.ctx < t.ctxs.length →
            x.raises i s.cur.lanes ⟨cENGINE, 0x21, 0, none⟩ true (exec i s) ∨
            ∃ u, exec i s = .next u ∧ u.groups = t.groups ∧ look (u.ctx a.ctx).halos d.toNat =
              some { h with replicas := x.haloReplicas a.ctx h, stale := x.unpublished a.ctx (x.haloReplicas a.ctx h) }))))

/-! ## Atomics (R213, R214) -/

/-- What an `atom` of an operation code writes over an old value (R213). -/
def Sys2Proof.Machine.atomNew (op w old v : Nat) : Nat :=
  match op with
  | 0 => (old + v) % 2 ^ w
  | 1 => if sext w old ≤ sext w v then old else v
  | 2 => if sext w old ≤ sext w v then v else old
  | 3 => min old v
  | 4 => max old v
  | 5 => old &&& v
  | 6 => old ||| v
  | 7 => old ^^^ v
  | 8 => v
  | 9 => (roundF 0 0 (FVal.add false (decodeF 0 old) (decodeF 0 v))).code
  | 10 => fMinMax 0 false old v
  | _ => fMinMax 0 true old v

/-- An atomic: destination, whether the old value is extended as signed, and the value written over an old one in a lane, if one is (R213). -/
def Sys2Proof.Machine.atomicRow (t : State) : Instr → Option (BitVec 6 × Bool × (Nat → Nat → Option Nat))
  | .atom pf sc d a n z =>
    let i : Instr := .atom pf sc d a n z
    some (d, i.x % 16 == 1 || i.x % 16 == 2, fun l old => some (atomNew (i.x % 16) i.width old ((laneOf (t.src i .D) l).toNat % 2 ^ i.width)))
  | .acas pf sc d a n z =>
    let i : Instr := .acas pf sc d a n z
    some (d, false, fun l old => if old = (laneOf (t.src i .C) l).toNat % 2 ^ i.width then some ((laneOf (t.src i .D) l).toNat % 2 ^ i.width) else none)
  | .abinc pf sc d a n z =>
    let i : Instr := .abinc pf sc d a n z
    some (d, false, fun l old => if old < (laneOf (t.src i .D) l).toNat % 2 ^ i.width then some ((old + 1) % 2 ^ i.width) else none)
  | _ => none

/-- atom, acas and abinc with aligned addresses that raise nothing: each lane that takes part reads its location, gives D the old value, and writes the new one, if
one is written; nothing else of memory changes. What is said of a location holds where no other lane of the unit names it, and where no self-invalidating copy
stands between (R183, R213, R214). -/
def Obligations.Atomics : Prop :=
  ∀ (s : State) (i : Instr) (d : BitVec 6) (signed : Bool) (new : Nat → Nat → Option Nat), s.goes i → s.partNo s.cur.g < 4 → s.cur.g < s.groups.length →
    let t := s.issued i
    let g := s.cur.g
    let a := t.unitAgent
    let eb := i.width / 8
    let va (l : Nat) : Nat := (laneOf (t.src i .A) l).toNat
    let on (l : Nat) : Prop := t.live i 64 l
    let elts : List Elt := ((lanesOf s.cur.lanes).filter fun l => t.takesPart i 64 l).map fun l => ⟨l, l, va l, 0⟩
    atomicRow t i = some (d, signed, new) → (∀ l < 32, on l → va l % eb = 0) →
    (∀ l < 32, on l → ∀ x, t.placeOf .store (va l) x → x.host = false ∧ (x.attr = 1 → 1 < i.x / 16)) →
    (t.plan a .atomic i.width elts).void = none → (t.plan a .atomic i.width elts).bad = 0 → t.onlyDt → t.orphans = [] → (∀ e ∈ t.tlb, 8 ≤ e.log) →
    ∃ (u : State) (r : Result), exec i s = .next (u.finish i d r s.cur.lanes) ∧
      u.crews = t.crews ∧ u.const = t.const ∧ u.hostMem = t.hostMem ∧ State.othersKept g t u ∧ (u.grp g).sameRegs (t.grp g) ∧ (u.grp g).sameSys (t.grp g) ∧
      (∀ k, (∀ l < 32, on l → ∀ x, t.placeOf .store (va l) x → k < dramKey a.part x.pa ∨ dramKey a.part x.pa + eb ≤ k) → Mem.get u.dram k = Mem.get t.dram k) ∧
      ∀ l < 32, on l → ∀ x, t.placeOf .store (va l) x →
        (∀ m < 32, on m → m ≠ l → ∀ y, t.placeOf .store (va m) y → y.pa + eb ≤ x.pa ∨ x.pa + eb ≤ y.pa) →
        let old := leNat (t.readBytes a.quad a.part x eb)
        laneOf r.en l = BitVec.allOnes 64 ∧ laneOf r.val l = (if signed then BitVec.ofInt 64 (sext i.width old) else BitVec.ofNat 64 old) ∧
        u.readBytes a.quad a.part x eb = leBytes eb ((new l old).getD old)

/-! ## Rooms (R197 to R204) -/

/-- What the entry of a lane comes to, in the order of R202: the faults, then a status, then the room. -/
def Sys2Proof.Machine.entryOrder (t : State) (c g l r m : Nat) (try_ : Bool) : Prop :=
  let holds := (t.lane g l).holds
  let out := t.entryOf c g l r m try_
  ((t.ctx c).region r = none → out = .fault cROOMMODE 0x02) ∧
  ∀ q, (t.ctx c).region r = some q →
    (q.modes.getLsbD m = false → out = .fault cROOMMODE 0x02) ∧
    (q.modes.getLsbD m = true →
      (4 ≤ holds.length → out = .fault cROOMHOLDS 0x01) ∧
      (holds.length < 4 →
        ((∃ h ∈ holds, r ≤ h.region) → out = .fault cROOMORDER 0x01) ∧
        ((∀ h ∈ holds, h.region < r) →
          (q.broken = true → out = if try_ then .status 2 else .fault cROOMBROKEN 0x01) ∧
          (q.broken = false →
            let room := (q.open_ = none ∧ q.drain = false) ∨ (q.open_ = some m ∧ q.admitting = true ∧ q.drain = false ∧ (m ≠ 4 ∨ t.occupants c r = 0))
            (room → out = .letIn) ∧ (¬ room → out = if try_ then .status 1 else .park)))))

/-- enter and enter.try decide for each lane in the order of R202; a lane that is let in holds the room and reads 0, one that is not reads its status, or parks with its
demand at the tail of the FIFO, or raises its fault. leave lets go of the room each lane names, once the group is quiet; rstat reports a region; rdecl replaces
the entry that it names (R197, R198, R202 to R204, R216, R226). -/
def Obligations.Rooms : Prop :=
  (∀ (t : State) (c g l r m : Nat) (try_ : Bool), entryOrder t c g l r m try_) ∧
  ∀ (s : State) (i : Instr), s.goes i → s.cur.g < s.groups.length →
    let t := s.issued i
    let g := s.cur.g
    let c := t.ctxNo g
    (∀ (sc : BitVec 3) (d a : BitVec 6) (mode : BitVec 3) (try_ : Bool) (l : Nat), i = (if try_ then .enterTry sc d a mode else .enter sc d a mode) →
      l < 32 → s.cur.lanes = BitVec.twoPow 32 l →
      let r := (laneOf (t.src i .A) l).toNat
      let m := mode.toNat
      let given (u : State) (n : Nat) : Prop :=
        exec i s = .next u ∧ laneOf ((u.grp g).flush.reg 64 d) l = (if d.toNat < 56 then BitVec.ofNat 64 n else laneOf ((t.grp g).flush.reg 64 d) l) ∧
          ∀ k < 32, k ≠ l → u.lane g k = t.lane g k
      (t.entryOf c g l r m try_ = .letIn → ∃ u, given u 0 ∧ (u.lane g l).holds = (t.lane g l).holds ++ [⟨r, m⟩] ∧ (u.lane g l).pc = (t.lane g l).pc) ∧
      (∀ n, t.entryOf c g l r m try_ = .status n → ∃ u, given u n ∧ t.sameMemory u ∧ (u.lane g l).holds = (t.lane g l).holds) ∧
      (t.entryOf c g l r m try_ = .park → c < t.ctxs.length → ∃ u p, exec i s = .next u ∧ (u.lane g l).mode = .parked ∧ (u.lane g l).park = some p ∧
        p.region = r ∧ p.mode = m ∧ p.dest = d ∧ p.count = 0 ∧ p.unit.instr = i ∧
        (∀ q, (t.ctx c).region r = some q → p.limit = (if q.tmo = 0 then (t.ctx c).roomtmo.toNat % 2 ^ 32 else 1024 * q.tmo) ∧
          ∃ q', (u.ctx c).region r = some q' ∧ q'.demands = q.demands ++ [⟨g, l, m⟩])) ∧
      (∀ cause sub, t.entryOf c g l r m try_ = .fault cause sub → ∃ (w : UnitRec) (x : State), w.instr = i ∧
        exec i s = .next (x.raise ⟨g, s.cur.lanes, ⟨cause, sub, BitVec.ofNat 64 r, none⟩, some w, true, false, s.cur.word, s.cur.pword, s.cur.addr⟩) ∧
        t.sameMemory x ∧ x.ctxs = t.ctxs)) ∧
    (∀ (sc : BitVec 3) (a : BitVec 6), i = .leave sc a →
      let r (l : Nat) : Nat := (laneOf (t.src i .A) l).toNat
      (∀ l < 32, s.active l → ((t.lane g l).holdOf (r l)).isSome) → s.cur.lanes ≠ 0 → s.cur.rdone = false →
        (t.mayRelease i = false → exec i s = .next (t.await i false)) ∧
        (t.mayRelease i = true → ∃ u, exec i s = .next u ∧
          ∀ l < 32, u.lane g l = if s.cur.lanes.getLsbD l then { t.lane g l with holds := (t.lane g l).holds.filter fun h => h.region != r l } else t.lane g l)) ∧
    (∀ (sc : BitVec 3) (a : BitVec 6), i = .leave sc a → (∀ l < 32, s.active l → ((t.lane g l).holdOf (laneOf (t.src i .A) l).toNat) = none) → s.cur.lanes ≠ 0 →
      t.raises i s.cur.lanes ⟨cROOMLESS, 0x02, t.lead i .A, none⟩ true (exec i s)) ∧
    (∀ (sc : BitVec 3) (d a : BitVec 6), i = .rstat sc d a → ∃ (r : Result) (f : Nat → Word), exec i s = .next (t.writeReg g d r) ∧ r.inLanes s.cur.lanes f ∧
      ∀ l < 32, s.active l → let no := (laneOf (t.src i .A) l).toNat
        let v := (f l).toNat
        ((t.ctx c).region no = none → v = 7) ∧
        (∀ q, (t.ctx c).region no = some q → (∀ m, q.open_ = some m → m < 5) → (∀ d ∈ q.demands, d.mode < 5) →
          v % 8 = q.open_.getD 7 ∧ (v.testBit 3 = q.admitting) ∧ (v.testBit 4 = q.drain) ∧ (v.testBit 5 = q.incomplete) ∧ (v.testBit 6 = q.broken) ∧
          v.testBit 7 = true ∧ v / 2 ^ 8 % 2 ^ 14 = min (t.occupants c no) 16383 ∧ v / 2 ^ 22 % 2 ^ 14 = min q.demands.length 16383 ∧
          v / 2 ^ 36 % 8 = (match q.demands with | [] => 7 | x :: _ => x.mode) ∧ v / 2 ^ 40 = (q.tail - q.head) % 2 ^ 24)) ∧
    (∀ (sc : BitVec 3) (d a b : BitVec 6), i = .rdecl sc d a b → s.cur.rdone = false →
      let x := t.release g 3
      let no := (t.lead i .D).toNat % 2 ^ 16
      let q := regionOf (t.lead i .D) (t.lead i .A) (t.lead i .B)
      (t.mayRelease i = false → exec i s = .next (t.await i false)) ∧
      (t.mayRelease i = true → x.rdeclFault (t.agent g).quad c no (t.lead i .D) (t.lead i .B) q = .ok none → c < t.ctxs.length →
        ∃ u, exec i s = .next u ∧ (u.ctx c).region no = (if q.modes = 0 then none else some q) ∧
          ∀ k, k ≠ no → (u.ctx c).region k = (t.ctx c).region k) ∧
      (t.mayRelease i = true → ∀ tr, x.rdeclFault (t.agent g).quad c no (t.lead i .D) (t.lead i .B) q = .ok (some tr) →
        x.raises i s.cur.lanes tr true (exec i s)))

/-! ## Fences, barriers, waits (R225 to R233) -/

/-- fence: it waits until every earlier operation of the group has completed; then, with a release bit, it performs the scope's release, and with an acquire bit its acquire.
bar: arrive counts the group into the instance after such a release, and the last arrival opens the next generation; wait holds the lanes until the generation
after the group's record, then acquires; sync is both. pbar does the same over a word of the scratchpad; its offset is checked
first, for poison too. A wait that a peer's death has ended raises PEERLOST with the least cid among the dead (R16, R193, R226, R228 to R231, R295, R326;
log entries 32 and 49 for the waits that a death ends and for poison, both the model's readings). -/
def Obligations.FencesAndBarriers : Prop :=
  ∀ (s : State) (i : Instr), s.goes i → s.cur.g < s.groups.length → s.cur.rdone = false →
    let t := s.issued i
    let g := s.cur.g
    let cr := (t.grp g).crew
    let acq (x : State) (scope : Nat) : State := (x.acquire g scope).acquireMarks g s.cur.lanes
    (∀ (sc c : BitVec 3) (m : BitVec 2), i = .fence sc c m →
      (t.mayRelease i = false → exec i s = .next (t.await i false)) ∧
      (t.mayRelease i = true →
        let x := if m.getLsbD 1 then t.release g c.toNat else t
        exec i s = .next (if m.getLsbD 0 then acq x c.toNat else x))) ∧
    (∀ (sc : BitVec 3) (d a : BitVec 6) (c : BitVec 3) (arrive wait : Bool),
      (arrive = true ∧ wait = true ∧ i = .barSync sc d a c) ∨ (arrive = true ∧ wait = false ∧ i = .barArrive sc d a c) ∨
        (arrive = false ∧ wait = true ∧ i = .barWait sc d a c) →
      let scope := c.toNat
      let id := d.toNat
      let n := (t.lead i .A).toNat % 2 ^ 16
      (arrive = true → t.mayRelease i = false → exec i s = .next (t.await i false)) ∧
      (arrive = true → t.mayRelease i = true →
        let p := (t.release g scope).barAt g id scope
        ∀ b, p.1.bars[p.2]? = some b →
          (∀ tr, p.1.barFault g id scope n b = some tr → p.1.raises i s.cur.lanes tr true (exec i s)) ∧
          (p.1.barFault g id scope n b = none →
            let limit := if b.cnt ≠ 0 then b.limit else if n ≠ 0 then n else p.1.barDefault g scope
            let x : State := { p.1.barArrive g id scope n p.2 with cur := { t.cur with rdone := true } }
            (scope ≠ 4 → (x.grp g).barRec id scope = some b.gen ∧ ∃ b', x.bars[p.2]? = some b' ∧
              (b.cnt + 1 = limit → b'.cnt = 0 ∧ b'.gen = b.gen + 1) ∧ (b.cnt + 1 ≠ limit → b'.cnt = b.cnt + 1 ∧ b'.gen = b.gen ∧ b'.limit = limit)) ∧
            (wait = false → exec i s = .next x) ∧
            (wait = true → (x.lost i = true → x.raises i s.cur.lanes ⟨cPEERLOST, (peerWait i).getD 0, BitVec.ofNat 64 x.deadCid, none⟩ true (exec i s))) ∧
            (wait = true → x.lost i = false →
              (x.barMet x.bars g id scope = true → exec i s = .next (acq (x.modGrp g fun gr => { gr with bars := gr.bars.filter fun q => !(q.id == id && q.scope == scope) }) scope)) ∧
              (x.barMet x.bars g id scope = false → exec i s = .next (x.await i true))))) ∧
      (arrive = false → (t.lost i = true → t.raises i s.cur.lanes ⟨cPEERLOST, (peerWait i).getD 0, BitVec.ofNat 64 t.deadCid, none⟩ true (exec i s))) ∧
      (arrive = false → t.lost i = false →
        (t.barMet t.bars g id scope = true → exec i s = .next (acq (t.modGrp g fun gr => { gr with bars := gr.bars.filter fun q => !(q.id == id && q.scope == scope) }) scope)) ∧
        (t.barMet t.bars g id scope = false → exec i s = .next (t.await i true)))) ∧
    (∀ (sc : BitVec 3) (a b : BitVec 6), i ∈ [Instr.pbarInit sc a b, .pbarArrive sc a, .pbarWait sc a b] →
      let o := (t.lead i .A).toNat
      let w := Mem.num (t.crewOf g).scratch o 8
      let exp := w % 2 ^ 16
      let pend := w / 2 ^ 16 % 2 ^ 16
      let ph := w / 2 ^ 32 % 2
      let badWord := exp = 0 ∨ pend = 0 ∨ exp < pend ∨ w / 2 ^ 33 ≠ 0
      (o % 8 ≠ 0 → t.raises i s.cur.lanes ⟨cALIGN, 0, t.lead i .A, none⟩ true (exec i s)) ∧
      (o % 8 = 0 → (t.crewOf g).window < o + 8 → t.raises i s.cur.lanes ⟨cPROT, 0x04, t.lead i .A, none⟩ true (exec i s)) ∧
      (o % 8 = 0 → o + 8 ≤ (t.crewOf g).window → t.boxPoison cr o 8 = true → t.raises i s.cur.lanes ⟨cPOISON, 0, t.lead i .A, none⟩ true (exec i s)) ∧
      (o % 8 = 0 → o + 8 ≤ (t.crewOf g).window → t.boxPoison cr o 8 = false →
        (i = .pbarInit sc a b → let n := (t.lead i .B).toNat % 2 ^ 16
          (n = 0 → t.raises i s.cur.lanes ⟨cENGINE, 0x50, t.lead i .A, none⟩ true (exec i s)) ∧
          (n ≠ 0 → exec i s = .next (t.writeScratch cr o (leBytes 8 (n + 2 ^ 16 * n))))) ∧
        (i = .pbarArrive sc a → (t.mayRelease i = false → exec i s = .next (t.await i false)) ∧ (t.mayRelease i = true →
          (badWord → (t.release g 1).raises i s.cur.lanes ⟨cENGINE, 0x50, t.lead i .A, none⟩ true (exec i s)) ∧
          (¬ badWord → exec i s = .next ((t.release g 1).writeScratch cr o (leBytes 8
            (if pend = 1 then exp + 2 ^ 16 * exp + 2 ^ 32 * (1 - ph) else exp + 2 ^ 16 * (pend - 1) + 2 ^ 32 * ph)))))) ∧
        (i = .pbarWait sc a b → (t.lost i = true → t.raises i s.cur.lanes ⟨cPEERLOST, (peerWait i).getD 0, BitVec.ofNat 64 t.deadCid, none⟩ true (exec i s))) ∧
        (i = .pbarWait sc a b → t.lost i = false →
          (badWord → t.raises i s.cur.lanes ⟨cENGINE, 0x50, t.lead i .A, none⟩ true (exec i s)) ∧
          (¬ badWord → ph = (t.lead i .B).toNat % 2 → exec i s = .next (t.await i true)) ∧
          (¬ badWord → ph ≠ (t.lead i .B).toNat % 2 → exec i s = .next (acq t 1)))))

/-! ## Buffers and sync words (R232, R233, R241 to R245) -/

/-- An ENGINE trap without fields. -/
def Sys2Proof.Machine.engOnly (e : BitVec 8) : TrapInfo := engTrap e

/-- cbdef declares a buffer whose checks all pass; cbadv waits for room or data, and moves a pointer modulo 2^32 once the group is quiet; swarm sets a sync word's target
and checks it; swwait and tlwait hold their lanes until the count they name has passed; the trap of a parked context of the group's own comes before tlwait's. A wait that a
peer's death has ended raises PEERLOST (R226, R232, R233, R240, R241, R243, R245, R326;
log entry 27 for Hypnum inputs, for CAP = 0 and for cbadv on a Hypnum producer side). -/
def Obligations.BuffersAndSyncWords : Prop :=
  ∀ (s : State) (i : Instr) (sc : BitVec 3) (d a b : BitVec 6), s.goes i → s.cur.g < s.groups.length → s.cur.rdone = false →
    let t := s.issued i
    let g := s.cur.g
    let cr := (t.grp g).crew
    let buf := (t.crew cr).buf d.toNat
    let occ := (buf.pp - buf.cp).toNat
    let n := (t.lead i .A).toNat % 2 ^ 16
    let acq (x : State) (scope : Nat) : State := (x.acquire g scope).acquireMarks g s.cur.lanes
    let trapped (x : State) (e : BitVec 8) : Prop := x.raises i s.cur.lanes (engOnly e) true (exec i s)
    (i = .cbdef sc d a b →
      let x := (t.lead i .A).toNat
      let y := (t.lead i .B).toNat
      let new := bufOf x y
      (x % 32 ≠ 0 → t.raises i s.cur.lanes ⟨cALIGN, 0, t.lead i .A, none⟩ true (exec i s)) ∧
      (x % 32 = 0 → (bufInvalid x y = true ∨ (t.crew cr).window < new.base + new.cap * new.elem → trapped t 0x14) ∧
        (bufInvalid x y = false → new.base + new.cap * new.elem ≤ (t.crew cr).window →
          (t.bufBusy cr d.toNat = true → trapped t 0x10) ∧
          (t.bufBusy cr d.toNat = false → new.hin ≠ 0 → (new.pside ≠ .groups ∨ 256 < new.elem → trapped t 0x14) ∧
            (¬ (new.pside ≠ .groups ∨ 256 < new.elem) → (∃ k < 4, new.hin.getLsbD k = true ∧ (t.boundInput (t.crew cr).quad k).isSome) → trapped t 0x17)) ∧
          (t.bufBusy cr d.toNat = false →
            (new.hin = 0 ∨ (new.pside = .groups ∧ new.elem ≤ 256 ∧ ∀ k < 4, new.hin.getLsbD k = true → t.boundInput (t.crew cr).quad k = none)) → exec i s = .next (t.modCrew cr fun c => c.setBuf d.toNat (if new.cap = 0 then CircBuf.undeclared else new)))))) ∧
    (∀ producer put : Bool, i = (if producer then (if put then .cbadvPut sc d a else .cbadvWroom sc d a) else if put then .cbadvGet sc d a else .cbadvWdata sc d a) →
      let ready := if producer then n ≤ buf.cap - occ else n ≤ occ
      let wrongSide := if producer then buf.pside ≠ .groups ∨ buf.hin ≠ 0 else buf.cside ≠ .groups
      (buf.cap = 0 → trapped t 0x12) ∧
      (buf.cap ≠ 0 → (wrongSide → trapped t 0x13) ∧ (¬ wrongSide →
        (buf.cap < n → trapped t 0x11) ∧
        (n ≤ buf.cap → (n = 0 → exec i s = .next t) ∧
          (n ≠ 0 → put = false → (t.lost i = true → t.raises i s.cur.lanes ⟨cPEERLOST, (peerWait i).getD 0, BitVec.ofNat 64 t.deadCid, none⟩ true (exec i s))) ∧
          (n ≠ 0 → put = false → t.lost i = false → (ready → exec i s = .next (acq t 1)) ∧ (¬ ready → exec i s = .next (t.await i true))) ∧
          (n ≠ 0 → put = true → (t.mayRelease i = false → exec i s = .next (t.await i false)) ∧ (t.mayRelease i = true →
            (¬ ready → trapped (t.release g 1) 0x11) ∧
            (ready → exec i s = .next ((t.release g 1).modCrew cr fun c => c.setBuf d.toNat
              (if producer then { buf with pp := buf.pp + BitVec.ofNat 32 n } else { buf with cp := buf.cp + BitVec.ofNat 32 n }))))))))) ∧
    (i = .swarm sc d a → ∀ w, (t.crew cr).sw[d.toNat]? = some w →
      let tgt : BitVec 32 := (t.lead i .A).truncate 32
      let new : SyncWord := if tgt ≠ 0 ∧ tgt.toNat ≤ w.count.toNat then ⟨0, w.count - tgt, w.gen + 1⟩ else { w with target := tgt }
      exec i s = .next (t.modCrew cr fun c => { c with sw := c.sw.setIfInBounds d.toNat new })) ∧
    (i = .swwait sc d a → ∀ w, (t.crew cr).sw[d.toNat]? = some w →
      ((t.lead i .A).toNat < w.gen.toNat → exec i s = .next (acq t 1)) ∧ (w.gen.toNat ≤ (t.lead i .A).toNat → exec i s = .next (t.await i true))) ∧
    (i = .tlwait sc d a →
      (∀ p, t.parkDue d.toNat = some p → exec i s = .next (t.takePark i d.toNat p)) ∧
      (t.parkDue d.toNat = none →
        ((t.lead i .A).toNat ≤ ((t.crew cr).tline d.toNat).count → exec i s = .next (t.acquireMarks g s.cur.lanes)) ∧
        (((t.crew cr).tline d.toNat).count < (t.lead i .A).toNat → exec i s = .next (t.await i true))))

/-! ## Engine commands and contexts (R236 to R255, R264 to R280, R289 to R294) -/

/-- A command of engine e at issue on timeline tl: the trap of its group's parked context, the checks of its own, the binding, the room in its group's queue, and
then its number and its place, with nothing of it performed; one that finds no room waits with the tensor entries it has read (R236, R237, R240, R246; log
entry 47). -/
def Sys2Proof.Machine.State.commands (t : State) (i : Instr) (tl : Nat) (e : Engine) (bad : Option TrapInfo) (blk : List Word) (o : Out) : Prop :=
  let g := t.cur.g
  let c := (t.grp g).crew
  let tm := (t.crew c).tline tl
  (∀ p, t.parkDue tl = some p → o = .next (t.takePark i tl p)) ∧
  (t.parkDue tl = none →
    (∀ tr, bad = some tr → t.raises i t.cur.lanes tr true o) ∧
    (bad = none →
      ((∃ b, tm.engine = some b ∧ b ≠ e) → t.raises i t.cur.lanes ⟨cENGINE, 0x15, 0, none⟩ true o) ∧
      (tm.engine = none ∨ tm.engine = some e →
        (t.queueFull g e = true → ∃ l : List (Nat × Option Tensor), o = .next ({ t with cur := { t.cur with ents := l } }.await i false) ∧
          ∀ m v, look l m = some v → v = t.tensor g m) ∧
        (t.queueFull g e = false → c < t.crews.length → tl < 8 → ∃ (u : State) (x : Cmd), o = .next u ∧
          u = { t with crews := u.crews, parts := u.parts } ∧ (∀ k, u.crew k = { t.crew k with tl := (u.crew k).tl }) ∧
          (isCollective i = false → ∀ k, k ≠ c → u.crew k = t.crew k) ∧
          ((u.crew c).tline tl).engine = some e ∧ ((u.crew c).tline tl).issued = tm.issued + 1 ∧ ((u.crew c).tline tl).count = tm.count ∧
          ((u.crew c).tline tl).cmds.length = tm.cmds.length + 1 ∧ ((u.crew c).tline tl).cmds.getLast? = some x ∧
          x.instr = i ∧ x.g = g ∧ x.blk = blk ∧ x.nft = (t.grp g).nft ∧ x.issuedAt = t.now ∧ x.queued = t.now ∧ x.started = false ∧ x.done = false ∧ x.step = 0 ∧
          ((∀ y ∈ tm.cmds, y.queued = t.now → (t.grp y.g).cid ≤ (t.grp g).cid) → x.n = tm.issued + 1)))))

/-- The engine commands: timeline, engine, the first check of their own that fails, and the words of their blocks (R249, R250, R265 to R269, R278, R289, R290, R294). -/
def Sys2Proof.Machine.State.commandRow (t : State) (i : Instr) : Option (Nat × Engine × Option TrapInfo × List Word) :=
  let blk (n : Nat) : List Word := t.block i .A n
  let collective (d : BitVec 6) (n : Nat) (stray : Cmd → Bool) : Option (Nat × Engine × Option TrapInfo × List Word) :=
    let e := ((t.part (t.partNo t.cur.g)).rings[((blk n).getD 0 0).toNat / 2 ^ 6 % 2 ^ 4]?).getD (0, 0)
    let l := blk n ++ [e.1, e.2]
    some (d.toNat, .copy, if stray (t.newCmd i l none none) || (ringOf e).isNone then some ⟨cENGINE, 0x80, 0, none⟩ else none, l)
  match i with
  | .cpy _ d _ _ => let l := blk 2 ++ t.block i .B 1
    some (d.toNat, .copy, t.cpyFault (t.newCmd i l none none), l)
  | .cpyx _ d _ _ => let l := blk 2 ++ t.block i .B 2
    some (d.toNat, .copy, t.cpyxFault (t.newCmd i l (t.tensor t.cur.g ((l.getD 2 0).toNat / 2 ^ 16 % 256)) none), l)
  | .mld _ d _ f => let x := t.matCmd i 2
    some (d.toNat, .matrix, firstTrap ([(!mldZero (x.w 0) || x.strayBuf, engTrap 0x60), (x.ent.isNone, engTrap 0x41),
      (fmtDiffers f x.tens || (pairRow x.tens.fmt).isNone, engTrap 0x60)] ++ t.matBuf x false 16384), blk 2)
  | .mma _ d _ f r => let x := t.matCmd i 2
    some (d.toNat, .matrix, firstTrap ([(!mmaZero (x.w 0) || x.strayBuf, engTrap 0x60), (x.ent.isNone, engTrap 0x41),
      (fmtDiffers f x.tens || (pairRow x.tens.fmt).isNone || (r == 1 && !northOk x.tens.fmt), engTrap 0x60)] ++ t.matBuf x false (128 * x.rows)), blk 2)
  | .mmas _ d _ f => let y := t.matCmd i 3
    let x := { y with ent2 := t.tensor t.cur.g (y.f 2 0 8) }
    some (d.toNat, .matrix, firstTrap ([
      (!mmaZero (x.w 0) || x.ws != 0 || x.strayBuf || x.abmp % 16 != 0 || x.bbmp % 16 != 0, engTrap 0x60), (x.ent.isNone || x.ent2.isNone, engTrap 0x41),
      (fmtDiffers f x.tens || !sparseOk x.tens.fmt || !sparseOk x.wtens.fmt, engTrap 0x60),
      (decide ((t.crewOf t.cur.g).window < x.abmp + 16 * x.rows) || decide ((t.crewOf t.cur.g).window < x.bbmp + 2048), engTrap 0x14)] ++
        t.matBuf x false (128 * x.rows)), blk 3)
  | .mwb _ d _ f => let x := t.matCmd i 2
    some (d.toNat, .matrix, firstTrap ([(!mwbZero (x.w 0) || x.strayBuf || decide (5 ≤ x.mwbRm), engTrap 0x60), (x.ent.isNone, engTrap 0x41),
      (fmtDiffers f x.tens || x.mwbRefused, engTrap 0x60)] ++ t.matBuf x true (2048 * x.tens.width)), blk 2)
  | .mclr _ d _ _ => some (d.toNat, .matrix, none, [])
  | .ixg _ d _ f => let x := t.matCmd i 2
    some (d.toNat, .index, t.indexFault x f false false x.tens.rowSize true, blk 2)
  | .ixs _ d _ f => let x := t.matCmd i 3
    some (d.toNat, .index, t.indexFault x f (x.f 0 8 5 != 0 || x.f 2 21 43 != 0 || (x.jen && x.jrn % 32 != 0)) (x.tens.fmt != 0 && x.tens.fmt != 2)
      x.tens.srcSize false, blk 3)
  | .rredRs _ d _ ef _ | .rredAr _ d _ ef _ => collective d 4 fun x => x.rredBad (ef == 1)
  | .rcat _ d _ => collective d 3 fun x => x.collStray 2 || x.f 1 0 5 != 0 || x.f 2 0 5 != 0
  | .lput _ d _ =>
    let w := ((t.ctxOf t.cur.g).podwins[((blk 3).getD 0 0).toNat / 2 ^ 10 % 2 ^ 6]?).getD (0, 0, 0)
    let l := blk 3 ++ [w.1, w.2.1, w.2.2]
    some (d.toNat, .copy, if lputBad (t.newCmd i l none none) w then some ⟨cENGINE, 0x81, 0, none⟩ else none, l)
  | _ => none

/-- Each engine command reads its block at issue, makes its checks in order, and is numbered and queued on the timeline that D names: copies, collectives and remote
writes on the copy engine, matrix commands on the matrix engine, gathers and scatters on the index engine; a collective takes the next number of its ring
(R236, R237, R249, R250, R265 to R269, R278, R289, R290, R294;
log entry 47 for a command that a full queue holds). -/
def Obligations.EngineCommands : Prop :=
  ∀ (s : State) (i : Instr) (tl : Nat) (e : Engine) (bad : Option TrapInfo) (l : List Word), s.goes i → s.cur.g < s.groups.length →
    let t := s.issued i
    t.commandRow i = some (tl, e, bad, l) →
    t.commands i tl e bad l (exec i s) ∧
    (isCollective i = true → bad = none → t.parkDue tl = none → ((t.crewOf t.cur.g).tline tl).engine ≠ some .matrix → ((t.crewOf t.cur.g).tline tl).engine ≠ some .index →
      t.queueFull t.cur.g e = false → t.partNo t.cur.g < t.parts.length →
      let ring := (l.getD 0 0).toNat / 2 ^ 6 % 2 ^ 4
      let part := t.partNo t.cur.g
      ∃ u, exec i s = .next u ∧ (u.part part).ringNth[ring]? = some (((t.part part).ringNth[ring]?).getD 0 + 1) ∧
        ∀ k, k ≠ ring → (u.part part).ringNth[k]? = (t.part part).ringNth[k]?)

/-- The `ectx.drain`s of crew c that wait for timeline tl have found it saved, and nothing else of any group has changed (R254). -/
def Sys2Proof.Machine.State.drainsSeen (s t : State) (c tl : Nat) : Prop :=
  let mine (u : UnitRec) : Prop := ∃ (sc : BitVec 3) (d : BitVec 6), u.instr = .ectxDrain sc d ∧ d.toNat = tl
  t.groups.length = s.groups.length ∧ ∀ g < s.groups.length, t.grp g = { s.grp g with waits := (t.grp g).waits } ∧
    ((s.grp g).crew ≠ c → (t.grp g).waits = (s.grp g).waits) ∧
    ((s.grp g).crew = c → (t.grp g).waits.length = (s.grp g).waits.length ∧ ∀ (k : Nat) (u : UnitRec), (s.grp g).waits[k]? = some u →
      (mine u → (t.grp g).waits[k]? = some { u with iss := { u.iss with rdone := true } }) ∧ (¬ mine u → (t.grp g).waits[k]? = some u))

/-- The control of engine contexts: bind, unbind, drain, pin, unpin, resume and abort do to the timeline that D names what R254 and R240 say, once its group has no
parked context to be told of; estat writes the item it names into all lanes of A; tdef replaces one entry of the tensor table (R193, R236, R240, R246, R247, R254, R255; log entry 49 for a poisoned
descriptor;
log entries 28 and 29 for what a resumed command reads again and how a second faulting command stops). -/
def Obligations.EngineContexts : Prop :=
  ∀ (s : State) (i : Instr) (sc : BitVec 3) (d a : BitVec 6), s.goes i → s.cur.g < s.groups.length →
    let t := s.issued i
    let g := s.cur.g
    let c := (t.grp g).crew
    let k := d.toNat
    let tm := (t.crew c).tline k
    let o := exec i s
    let trapped (e : BitVec 8) : Prop := t.raises i s.cur.lanes ⟨cENGINE, e, 0, none⟩ true o
    let becomes (x : Timeline) : Prop := o = .next (t.modTl c k fun _ => x)
    (i ∈ [Instr.ectxBind sc d 0, .ectxBind sc d 1, .ectxBind sc d 2, .ectxUnbind sc d, .ectxDrain sc d, .ectxPin sc d, .ectxUnpin sc d, .ectxResume sc d, .ectxAbort sc d] →
      (∀ p, t.parkDue k = some p → o = .next (t.takePark i k p)) ∧
      (t.parkDue k = none → k < 8 →
        (∀ n : BitVec 2, i = .ectxBind sc d n →
          let free : Timeline := { tm with resident := false, pinned := false, parked := none, aborted := false, draining := false }
          (tm.engine = none → becomes { free with engine := some (engOf n.toNat), lastStart := 0, served := false, kturn := 0, mat := MatCtx.empty }) ∧
          (tm.engine = some (engOf n.toNat) → o = .next t) ∧ (∀ b, tm.engine = some b → b ≠ engOf n.toNat → trapped 0x15)) ∧
        (i = .ectxUnbind sc d → (tm.engine = none → o = .next t) ∧ (tm.engine ≠ none → (tm.cmds ≠ [] → o = .next (t.await i false)) ∧
          (tm.cmds = [] → ∃ u, o = .next u ∧ t.drainsSeen u c k ∧
            u = { t.modTl c k (fun _ => { tm with engine := none, resident := false, pinned := false, draining := false, aborted := false }) with groups := u.groups }))) ∧
        (i = .ectxDrain sc d → (tm.resident = false ∨ s.cur.rdone = true → o = .next t) ∧
          (tm.resident = true → s.cur.rdone = false → o = .next ((t.modTl c k fun _ => { tm with draining := true }).await i false))) ∧
        (i = .ectxPin sc d → (tm.engine = none ∨ t.otherPinned c k tm.engine = true → trapped 0x16) ∧
          (tm.engine ≠ none → t.otherPinned c k tm.engine = false → becomes { tm with pinned := true })) ∧
        (i = .ectxUnpin sc d → (tm.engine = none → o = .next t) ∧ (tm.engine ≠ none → becomes { tm with pinned := false })) ∧
        (i = .ectxResume sc d → (tm.parked = none → trapped 0x16) ∧ ∀ p, tm.parked = some p → 
          let again (x : Cmd) : Cmd := { x.again with started := x.started && tm.resident }
          let free (x : Cmd) : Cmd := if x.n = p.n then { again x with noCheck := p.trap.cause == cNONFINITE } else if x.stopped then again x else x
          becomes { tm with
            parked := none, cmds := tm.cmds.map free
            draining := tm.draining && (t.drainWanted c k || !tm.resident) }) ∧
        (i = .ectxAbort sc d → (tm.parked = none → trapped 0x16) ∧ ∀ p, tm.parked = some p → c < t.crews.length → ∃ u, o = .next u ∧
          let tn := (u.crew c).tline k
          tn.parked = none ∧ tn.aborted = true ∧ tn.issued = tm.issued ∧ tn.engine = tm.engine ∧ (∀ x ∈ tn.cmds, x.n < p.n) ∧ tn.count = tm.issued ∧
            u.groups = t.groups))) ∧
    (∀ x : Cmd, let y := x.again
      y.n = x.n ∧ y.g = x.g ∧ y.instr = x.instr ∧ y.blk = x.blk ∧ y.step = x.step ∧ y.stopped = false ∧ y.fail = none ∧ y.journal = [] ∧
      (x.pos ≠ operandsGone → ∀ q ∈ y.got, streamBase ≤ q.1) ∧ (∀ q ∈ x.got, streamBase ≤ q.1 → q ∈ y.got) ∧
      (∀ (sc : BitVec 3) (d a : BitVec 6), x.instr = .lput sc d a → y.pos = x.step) ∧
      (∀ (sc : BitVec 3) (d a : BitVec 6) (f : BitVec 4), x.instr = .ixs sc d a f →
        (x.f 0 6 1 = 0 → y.ups = [] ∧ y.pos = x.step) ∧ (x.f 0 6 1 = 1 → y.pos = x.pos ∧ y.ups.map (fun u => u.k) = x.ups.map (fun u => u.k) ∧ ∀ u ∈ y.ups, u.row = none))) ∧
    (∀ n : BitVec 3, i = .estat sc d a n → ∃ (r : Result) (v : Word), r.all v ∧ o = .next (t.finish i a r s.cur.lanes) ∧
      (n = 0 → v = BitVec.ofNat 64 tm.count) ∧ (n = 1 → v = BitVec.ofNat 64 tm.issued) ∧
      (n = 2 → v.toNat % 4 = (match tm.engine with | some .copy => 0 | some .matrix => 1 | some .index => 2 | none => 3) ∧ v.getLsbD 2 = tm.resident ∧
        v.getLsbD 3 = tm.pinned ∧ v.getLsbD 4 = tm.parked.isSome ∧ v.getLsbD 5 = tm.aborted ∧ v.getLsbD 6 = tm.draining ∧
        v.toNat / 2 ^ 7 % 2 ^ 9 = 0 ∧ v.toNat / 2 ^ 16 = min (tm.cmds.filter fun x => !x.started).length 0xFFFF) ∧
      (n = 3 → v = BitVec.ofNat 64 ((tm.shown.map fun x => x.step).getD 0)) ∧ (n = 4 → v = BitVec.ofNat 64 ((tm.parked.map fun p => p.n).getD 0))) ∧
    (i = .tdef sc d a →
      let off := (t.lead i .A).toNat
      let no := (t.lead i .D).toNat % 2 ^ 16
      let x := t.descriptor c off
      (off % 64 ≠ 0 → t.raises i s.cur.lanes ⟨cALIGN, 0, t.lead i .A, none⟩ true o) ∧
      (off % 64 = 0 → (t.crewOf g).window < off + 64 → t.raises i s.cur.lanes ⟨cPROT, 0x04, t.lead i .A, none⟩ true o) ∧
      (off % 64 = 0 → off + 64 ≤ (t.crewOf g).window → t.boxPoison c off 64 = true → t.raises i s.cur.lanes ⟨cPOISON, 0, t.lead i .A, none⟩ true o) ∧
      (off % 64 = 0 → off + 64 ≤ (t.crewOf g).window → t.boxPoison c off 64 = false →
        (x.fmt = 15 → t.raises i s.cur.lanes ⟨cILLEGAL, 0x06, 0, none⟩ true o) ∧
        (x.fmt ≠ 15 → x.invalid = true → trapped 0x40) ∧
        (x.fmt ≠ 15 → x.invalid = false → t.ctxNo g < t.ctxs.length → ∃ u, o = .next u ∧ u = { t with ctxs := u.ctxs } ∧ look (u.ctxOf g).tensors no = some x ∧
          (∀ j < 8, x.word j = Mem.num (t.crewOf g).scratch (off + 8 * j) 8 % 2 ^ 64) ∧ ∀ m, m ≠ no → look (u.ctxOf g).tensors m = look (t.ctxOf g).tensors m)))

/-! ## Launching (R298, R301, R310 to R312) -/

/-- Checks in order: the first that fails traps; where none does, the rest holds. -/
def Sys2Proof.Machine.State.checked (x : State) (i : Instr) (o : Out) : List (Prop × TrapInfo) → Prop → Prop
  | [], rest => rest
  | (p, t) :: l, rest => (p → x.raises i x.cur.lanes t true o) ∧ (¬ p → State.checked x i o l rest)

/-- What makes a queue unfit for its use: not valid, not filled by launch, of another context (R310). -/
def Sys2Proof.Machine.State.queueFails (x : State) (part : Nat) (q : QDesc) (prod : Bool) : List (Prop × TrapInfo) :=
  [(x.queueValid part q = false, ⟨cENGINE, 0x90, 0, none⟩), (prod = true ∧ q.w0.testBit 1 = false, ⟨cENGINE, 0x91, 0, none⟩),
   (q.ctxid ≠ (x.ctxOf x.cur.g).id.toNat, ⟨cENGINE, 0x92, 0, none⟩)]

/-- launch and gnode read their record from the scratchpad at issue, release at scope pkg once the group is quiet, and check the offset, the record and the queue; then
launch puts the packet at WPTR of its ring and moves WPTR, gnode puts a node into the lowest free index of the pool; their status is the old WPTR, or the node's
handle; with no room the lanes wait, or with TRY read a status with bit 63. tape.push puts a packet on the stack, tape.run begins a run down to its mark,
tape.depth reads the depth, and tcut cuts it; prio sets SUB of the group's priority (R193, R226, R298, R301, R310 to R313; log entries 45, 49 and 50 for PROD, a
poisoned record and the copy of a mapped queue's descriptor;
log entry 30 for the order of the checks, for tape.run at the depth and for 0x98). -/
def Obligations.Launches : Prop :=
  ∀ (s : State) (i : Instr) (sc : BitVec 3) (d a b : BitVec 6), s.goes i → s.cur.g < s.groups.length → s.cur.rdone = false → s.cur.data = [] →
    let t0 := s.issued i
    let g := s.cur.g
    let o := exec i s
    let c := (t0.grp g).crew
    let part := t0.partNo g
    let va := t0.lead i .A
    let off := va.toNat % 2 ^ 20
    let try_ := va.getLsbD 32
    let stray : Prop := va.toNat / 2 ^ 20 % 2 ^ 12 ≠ 0 ∨ va.toNat / 2 ^ 33 ≠ 0
    let qn := (t0.lead i .D).toNat % 2 ^ 16
    let status (u : State) (n : Nat) : Prop := ∃ r : Result, r.all (BitVec.ofNat 64 n) ∧ o = .next (u.finish i b r s.cur.lanes)
    let offset (align n : Nat) : List (Prop × TrapInfo) :=
      [(off % align ≠ 0, ⟨cALIGN, 0, BitVec.ofNat 64 off, none⟩), ((t0.crew c).window < off + n, ⟨cPROT, 0x04, BitVec.ofNat 64 off, none⟩),
       (t0.boxPoison c off n = true, ⟨cPOISON, 0, BitVec.ofNat 64 off, none⟩)]
    let box (n : Nat) : List Byte := Mem.read (t0.crew c).scratch off n
    (i = .launch sc d a b →
      let t := t0.readBox i 64
      let x := t.release g 3
      let q := x.queue part qn
      let p := launchOf (box 64)
      (t.mayRelease i = false → o = .next (t.await i false)) ∧
      (t.mayRelease i = true → x.checked i o (offset 64 64 ++ [(stray ∨ p.malformed = true, ⟨cENGINE, 0x93, 0, none⟩)] ++ x.queueFails part q true)
        ((q.held = 2 ^ q.elog → if try_ then status x (2 ^ 63) else o = .next (x.await i true)) ∧
         (q.held ≠ 2 ^ q.elog → x.ringVoid part q q.wptr = none → ∃ u : State, status u q.wptr ∧
          (t.onlyDt → t.orphans = [] → part < 4 →
            let slot := if q.host then q.base + 64 * (q.wptr % 2 ^ q.elog) else dramKey part (q.base + 64 * (q.wptr % 2 ^ q.elog))
            let word := dramKey part (x.queueAddr part qn + 24)
            (q.host = true → Mem.read u.hostMem slot 64 = box 64) ∧
            (q.host = false → slot + 64 ≤ word ∨ word + 8 ≤ slot → Mem.read u.dram slot 64 = box 64) ∧
            Mem.num u.dram word 8 = (q.wptr + 1) % 2 ^ 64 ∧
            (∀ k, (k < word ∨ word + 8 ≤ k) → (q.host = false → k < slot ∨ slot + 64 ≤ k) → Mem.get u.dram k = Mem.get t.dram k) ∧
            (∀ k, (q.host = true → k < slot ∨ slot + 64 ≤ k) → Mem.get u.hostMem k = Mem.get t.hostMem k) ∧
            u.const = t.const ∧ u.crews = t.crews ∧ u.groups = t.groups))))) ∧
    (i = .gnode sc d a b →
      let t := t0.readBox i 160
      let x := t.release g 3
      let q := x.queue part qn
      let p := launchOf (box 160)
      let ops := nodeOps (box 160)
      let bad : Prop := stray ∨ p.malformed = true ∨ p.ordq = true ∨ ∃ w ∈ ops, w.toNat / 4 % 64 ≠ 0
      let r := x.part part
      (t.mayRelease i = false → o = .next (t.await i false)) ∧
      (t.mayRelease i = true → x.checked i o (offset 32 160 ++ [(bad, ⟨cENGINE, 0x93, 0, none⟩)] ++ x.queueFails part q true)
        (((∀ k < 16384, ∃ n ∈ r.nodes, n.idx = k) → if try_ then status x (2 ^ 63) else o = .next (x.await i true)) ∧
         (∀ k < 16384, (∀ n ∈ r.nodes, n.idx ≠ k) → (∀ j < k, ∃ n ∈ r.nodes, n.idx = j) →
          let node : Node := ⟨k, r.genOf k, x.ctxNo g, q.level, r.nodeCount, p, ops, r.nodeWaits (x.ctxNo g) ops (nodePreds (box 160)), false, none⟩
          status (x.modPart part fun r => { r with nodes := r.nodes ++ [node], nodeCount := r.nodeCount + 1 }) (k + 2 ^ 14 * (r.genOf k % 2 ^ 18)))))) ∧
    (i = .tapePush sc a →
      let t := t0.readBox i 64
      let x := t.release g 3
      let cx := x.ctxOf g
      let p := launchOf (box 64)
      let pa := cx.tapeAt cx.tapeDepth
      let bad : Prop := stray ∨ try_ = true ∨ p.malformed = true ∨ p.ordq = true
      (t.mayRelease i = false → o = .next (t.await i false)) ∧
      (t.mayRelease i = true → x.checked i o (offset 64 64 ++ [(bad, ⟨cENGINE, 0x93, 0, none⟩), (cx.tapeLog = 0, ⟨cENGINE, 0x98, 0, none⟩),
          (cx.tapeDepth = 2 ^ cx.tapeLog, ⟨cENGINE, 0x97, 0, none⟩), (cx.tapeRun.isSome, ⟨cENGINE, 0x96, 0, none⟩)])
        (x.beyond cx.part pa 64 = none → ∃ u, o = .next u ∧ (x.ctxNo g < x.ctxs.length → (u.ctxOf g).tapeDepth = cx.tapeDepth + 1 ∧ (u.ctxOf g).tapeRun = none) ∧
          (t.onlyDt → t.orphans = [] → cx.part < 4 → Mem.read u.dram (dramKey cx.part pa) 64 = box 64 ∧
            ∀ k, (k < dramKey cx.part pa ∨ dramKey cx.part pa + 64 ≤ k) → Mem.get u.dram k = Mem.get t.dram k)))) ∧
    (let t := t0
     let cx := t.ctxOf g
     let m := va.toNat
     (i = .tapeRun sc d a →
        let q := t.queue cx.part qn
        t.checked i o ([(cx.tapeLog = 0, ⟨cENGINE, 0x98, 0, none⟩), (cx.tapeDepth < m, ⟨cENGINE, 0x95, 0, none⟩), (cx.tapeRun.isSome, ⟨cENGINE, 0x96, 0, none⟩)] ++
            t.queueFails cx.part q false)
          (o = .next (t.modCtx (t.ctxNo g) fun _ => { cx with tapeRun := if m = cx.tapeDepth then none else some ⟨m, q.level, none⟩ }))) ∧
     (i = .prio sc a → ∃ v : Word, o = .next (t.modGrp g fun gr => { gr with prio := v }) ∧ v.toNat = (t.grp g).prio.toNat % 2 ^ 5 + 2 ^ 5 * (m % 2 ^ 3)) ∧
     (i = .tapeDepth sc a → t.checked i o [(cx.tapeLog = 0, ⟨cENGINE, 0x98, 0, none⟩)]
        (∃ r : Result, r.all (BitVec.ofNat 64 cx.tapeDepth) ∧ o = .next (t.finish i a r s.cur.lanes))) ∧
     (i = .tcut sc a → t.checked i o [(cx.tapeLog = 0, ⟨cENGINE, 0x98, 0, none⟩), (cx.tapeRun.isSome, ⟨cENGINE, 0x96, 0, none⟩)]
        (o = .next (t.modCtx (t.ctxNo g) fun _ => { cx with tapeDepth := min cx.tapeDepth m }))))

/-! ## Events of groups (R16, R49, R52, R81, R86, R87, R210, R214, R226, R244, R317, R324) -/

/-- A unit without consumers that is performed again, with no image left to deliver, passes its gate (R60, R322). -/
def Sys2Proof.Machine.State.passesAgain (s : State) (i : Instr) : Prop := s.cur.replay = true ∧ s.cur.res = none ∧ i.rt = false ∧ (s.begin i).gate i = .pass

/-- The image of a unit goes to its consumer k: the register, written already, or a buffer b of crew cr; the unit retires with its last consumer, and no unit of the group
issues before the next cycle (R49). -/
def Sys2Proof.Machine.State.handsOver (s : State) (g : Nat) (u : UnitRec) (k : Nat) (o : Out) : Prop :=
  let x := s.settle g
  ∀ img, u.iss.res = some img → g < s.groups.length → (s.grp g).waits.Nodup → u ∈ (s.grp g).waits →
    let mark (w : UnitRec) : UnitRec := { w with iss := { w.iss with dlv := w.iss.dlv ||| BitVec.ofNat 6 (2 ^ k) } }
    let done : Prop := pendingConsumers u.instr.consumers (mark u).iss.dlv = []
    let given (y : State) : Prop := ∃ t, o = .next t ∧ t = { y with groups := t.groups } ∧ State.othersKept g s t ∧
      t.grp g = { x.grp g with waits := (t.grp g).waits, lanes := (t.grp g).lanes } ∧
      (done → (t.grp g).waits = (x.grp g).waits.filter (fun w => w != u) ∧ ∀ l < 32, t.lane g l = { x.lane g l with ready := max (x.lane g l).ready (s.now + 1) }) ∧
      (¬ done → (t.grp g).waits = (x.grp g).waits.map (fun w => if w = u then mark u else w) ∧ (t.grp g).lanes = (x.grp g).lanes)
    (k = 0 → given x) ∧ ∀ cr b, k ≠ 0 → x.accepts g u.instr.rawX k = some (cr, b) → given (x.appendImg cr b img)

/-- The events of a group. A consumer that has room takes the image of the unit that offers it, through the crew's buffer or a link, and the register consumer's write is
performed; a unit of variable latency in flight is performed with the operands it captured, and so is an atomic; an access whose faults are decided reads or writes some of
its sectors; a write acknowledgement lowers the count; a wait that can go on is performed from where it stood; the
watchdog past its window clears EN, sets FIRED and traps the lanes at the minimum of the program vote; lanes at one counter take a trap there, of a cause of the table; the lanes held
lowest enter the handler; a pre-emption evicts the group, or waits while the handler defers it and the bound has not passed; a fill makes a line present (R10, R16, R49, R52,
R81, R86, R87, R214, R226, R244, R317, R324;
log entry 4 for units performed later and in parts, entry 58 for the causes of TRAP_ENTRY). -/
def Obligations.GroupEvents : Prop :=
  ∀ (s : State) (g : Nat),
    (∀ u k, s.readyConsumer g = some (u, k) → s.handsOver g u k (exec (.consumerAccept g) s)) ∧
    (∀ (quad : Nat) (dir : BitVec 2) (h : Nat) (u : UnitRec) (k : Nat), s.atInput quad dir.toNat = some (h, u, k) → s.handsOver h u k (exec (.hypnumImageAccept quad dir) s)) ∧
    (∀ u, s.nextUnit g = some u →
      let t := s.takeUnit g u
      (u.iss.left.isSome → (isAtomic u.instr = false → exec (.variableResultWrite g) s = .next (t.popSplit.2.goOn u t.popSplit.1) ∧
        (let p := t.popSplit.2.sweepPart u t.popSplit.1
         (p.2.2 = none → t.popSplit.2.goOn u t.popSplit.1 = p.1) ∧
            ∀ tr, p.2.2 = some tr → ∃ w : UnitRec, w.instr = u.instr ∧ w.iss.left = none ∧
              t.popSplit.2.goOn u t.popSplit.1 = p.1.raise ⟨u.iss.g, p.2.1, tr, some w, true, false, u.iss.word, u.iss.pword, u.iss.addr⟩))) ∧
      (∀ (pf : Option Pfx) (sc : BitVec 3) (d a b : BitVec 6) (n : BitVec 4) (z : BitVec 2), u.instr ∈ [Instr.frcp pf sc d a, .frsq pf sc d a, .fsqt pf sc d a, .fexp2 pf sc d a,
          .flog2 pf sc d a, .fsin pf sc d a, .fcos pf sc d a, .ftanh pf sc d a, .fdot pf sc d a b, .tmv pf sc d a b, .rixG pf sc d a b, .redmi pf sc d a b, .cfd pf sc d a,
          .comb pf sc d a b, .ld pf sc d a n z, .st pf sc d a n z, .ldl pf sc d a n z, .lds pf sc d a z,
          .sts pf sc d a z, .ldc pf sc d a z, .sld sc d a n z, .sst sc d a n z] → u.iss.left = none → exec (.variableResultWrite g) s = exec u.instr t) ∧
      (∀ (pf : Option Pfx) (sc : BitVec 3) (d a : BitVec 6), u.instr = .cfd pf sc d a → u.iss.left = none → t.passesAgain u.instr → t.cur.lanes ≠ 0 →
        let x := t.issued u.instr
        let w := u.instr.width
        let twin (e' e : Nat) : Prop := e' < e ∧ x.live u.instr w e' ∧ el w e' (x.src u.instr .A) = el w e (x.src u.instr .A)
        ∃ (r : Result) (m : Mask × Mask), exec (.variableResultWrite g) s = .next ((x.writeReg x.cur.g d r).finishMask u.instr (u.instr.x / 16) m []) ∧
          r.lanewise x u.instr w (fun e v => (twin v e ∧ ∀ e', twin e' e → e' ≤ v) ∨ (v = e % 2 ^ w ∧ ∀ e', ¬ twin e' e)) ∧
          firstsOf x w m fun e => x.live u.instr w e ∧ ∀ e', ¬ twin e' e) ∧
      (∀ (pf : Option Pfx) (sc : BitVec 3) (d a : BitVec 6) (n : BitVec 4) (z : BitVec 1), u.instr ∈ [Instr.atom pf sc d a n z, .acas pf sc d a n z, .abinc pf sc d a n z] → u.iss.left = none →
        exec (.atomicExecute g) s = exec u.instr t ∧
        (t.passesAgain u.instr → (∀ l < 32, (t.issued u.instr).takesPart u.instr 64 l = false) → ∃ x r, exec (.atomicExecute g) s = .next (x.finish u.instr d r t.cur.lanes) ∧
          t.sameMemory x))) ∧
    exec (.writeAck g) s = .next (s.modGrp g fun gr => { gr with acks := gr.acks.drop 1 }) ∧
    (∀ u, s.readyWait g = some u →
      let t := { s.modGrp g fun gr => { gr with waits := gr.waits.filter fun w => w != u } with cur := u.iss }
      let x := t.issued u.instr
      (needsQuiet u.instr = true ∨ (engineOf u.instr).isSome ∨ (peerWait u.instr).isSome → exec (.waitRelease g) s = exec u.instr t) ∧
      (∀ (sc c : BitVec 3) (m : BitVec 2), u.instr = .fence sc c m → t.passesAgain u.instr → x.mayRelease u.instr = true →
        let y := if m.getLsbD 1 then x.release x.cur.g c.toNat else x
        exec (.waitRelease g) s = .next (if m.getLsbD 0 then (y.acquire x.cur.g c.toNat).acquireMarks x.cur.g x.cur.lanes else y))) ∧
    ((s.grp g).place = .resident → (s.grp g).wdog.getLsbD 32 = true → (s.grp g).inMode .running ≠ 0 → (s.grp g).wdog.toNat % 2 ^ 32 ≤ (s.grp g).wdN →
      ∃ v : Word, (∀ k < 64, v.getLsbD k = if k = 32 then false else if k = 33 then true else (s.grp g).wdog.getLsbD k) ∧
        let t := s.modGrp g fun x => { x with wdog := v }
        let ls := (s.grp g).lowSet ((s.grp g).inMode .running)
        exec (.watchdogExpiry g) s = .next (if (s.grp g).trapmask.getLsbD 2 then t
          else t.raise ⟨g, ls, ⟨cWDOG, 0, 0, none⟩, none, false, false, 0, 0, (s.lane g (lowest ls)).pc⟩)) ∧
    (∀ (ls : Lanes) (cause sub : BitVec 8) (fa : Word), (s.grp g).oneSet ls = true → causeUsed cause = true →
      exec (.trapEntry g ls cause sub fa) s = .next (s.raise ⟨g, ls, ⟨cause, sub, fa, none⟩, none, false, false, 0, 0, (s.lane g (lowest ls)).pc⟩)) ∧
    ((s.grp g).heldReady = true → g < s.groups.length → (∀ l < 32, (s.lane g l).mode = .held → (s.lane g l).held.isSome) → ∃ t, exec (.heldTrapTake g) s = .next t ∧
      ((t.grp g).place = .dead ∨ ∀ l ∈ (s.grp g).heldNext, (t.lane g l).mode = .handler ∧ (t.lane g l).pc = (s.ctxOf g).trapbase &&& ~~~3#64 ∧ (t.lane g l).held = none)) ∧
    ((s.grp g).place = .resident → (s.grp g).shadow = none → g < s.groups.length →
      let gone (o : Out) : Prop := ∃ t, o = .next t ∧ (t.grp g).place = .evicted ∧ (t.grp g).preempt = none ∧ (t.grp g).units = [] ∧ (t.grp g).waits = []
      (s.defersPreempt g = false → gone (exec (.preemptRequest g) s)) ∧
      (s.defersPreempt g = true → exec (.preemptRequest g) s = .next (s.modGrp g fun x => { x with preempt := some (x.preempt.getD ⟨s.now⟩) })) ∧
      ((s.grp g).preempt.isSome → s.defersPreempt g = false → gone (exec (.preboundExpiry g) s))) ∧
    (∀ (core : Nat) (line : Word), ∃ t, exec (.instructionBufferFill core line) s = .next t ∧ t = { s with ibuf := t.ibuf } ∧
      ∀ b, b ∈ t.ibuf ↔ b = ⟨core, s.ctxNo s.cur.g, line.toNat / 256⟩ ∨ b ∈ s.ibuf)

/-! ## Bracken (R18, R221, R298 to R309, R311, R312, R324) -/

/-- Queues and work. BAR 0 has 65,536 doorbells; one on a queue that is not a valid host queue is dropped and reported; one that moves WPTR back or beyond the ring makes the descriptor erroneous;
any other sets WPTR. A queue with packets takes a slot, of which there are 64, and with it a copy of its descriptor; a slice that has passed marks its slot. The work done next is the first in order that can
be done; a dispatched queue adds a task with its packet; an evicted group that comes back is resident and performs its saved units; a plan evicts its groups, and
places a GANG task on its quads together (R298, R300, R302, R303, R305, R309, R324, R343;
log entries 50 and 52;
log entry 54 for slices in cycles of the clock's step). -/
def Obligations.QueueEvents : Prop :=
  ∀ (s : State) (part q : Nat),
    let d := s.queue part q
    let p := s.part part
    (∀ v : Word, 65536 ≤ q → exec (.doorbell part q v) s = .next s) ∧
    (∀ v : Word, q < 65536 →
      (s.queueValid part d = false ∨ d.w0.testBit 1 = true → exec (.doorbell part q v) s = .next ((s.modPkg fun k => { k with dropq := BitVec.ofNat 16 q }).msi 3)) ∧
      (s.queueValid part d = true → d.w0.testBit 1 = false →
        (v.toNat < d.wptr ∨ d.rptr + 2 ^ d.elog < v.toNat →
          ∃ w0, w0.testBit 7 = true ∧ (∀ k, k ≠ 7 → w0.testBit k = d.w0.testBit k) ∧ exec (.doorbell part q v) s = .next ((s.putQueueWord part q 0 w0).msi 4)) ∧
        (d.wptr ≤ v.toNat → v.toNat ≤ d.rptr + 2 ^ d.elog → exec (.doorbell part q v) s = .next (s.putQueueWord part q 3 v.toNat)))) ∧
    (s.queueLive part d = true → d.held ≠ 0 → (∀ x ∈ p.slots, x.q ≠ q) → p.quiesce = none → p.swapped = false → p.live = true →
      (p.slots.length < 64 → exec (.queueMap part q) s = .next (s.modPart part fun _ => { p with slots := p.slots ++ [⟨q, s.queueStored part q, p.mapCount, s.now, false⟩], mapCount := p.mapCount + 1 })) ∧
      (64 ≤ p.slots.length →
        (∀ x, s.displaced part d.level = some x → exec (.queueMap part q) s =
          .next (s.modPart part fun _ => { p with slots := p.slots.filter (fun y => y.q != x.q) ++ [⟨q, s.queueStored part q, p.mapCount, s.now, false⟩], mapCount := p.mapCount + 1 })) ∧
        (s.displaced part d.level = none → exec (.queueMap part q) s = .next s))) ∧
    exec (.sliceExpiry part q) s =
      .next (s.modPart part fun _ => { p with slots := p.slots.map fun x => { x with expired := x.expired || (x.q == q && decide (d.slice * s.cyclesPerUs ≤ s.now - x.since)) } }) ∧
    (∀ l w u, s.nextWork part = some (l, w, .next u) →
      (∀ x ∈ s.works part, (s.doWork part x.2 []).isSome → s.workOrder part (l, w) ≤ s.workOrder part x) ∧
      (w = .queue q → look p.placing q = none → part < s.parts.length →
        u.tasks.length = s.tasks.length + 1 ∧
          ∃ t, u.tasks[s.tasks.length]? = some t ∧ t.pkt = s.packet part d d.rptr ∧ t.level = d.level ∧ t.source = .queue part q ∧ t.ctx = s.queueCtx part d) ∧
      ((∀ g, w ≠ .resume g) → exec (.dispatch part) s = .next (u.modPart part fun r => { r with served := put (s.workLevel part l) w.key r.served }))) ∧
    (∀ g l u, s.groupPart (s.grp g) = part → s.nextWork part = some (l, .resume g, .next u) → g < s.groups.length → exec (.groupResume g) s = .next u ∧
      (u.grp g).place = .resident ∧ (u.grp g).savedUnits = [] ∧ u.issueQ = s.issueQ ++ (s.grp g).savedUnits) ∧
    (∀ l w plan, s.nextPlan part = some (l, w, plan) →
      let t := plan.foldl (fun s x => match x.2 with | some gs => gs.foldl State.preemptGroup (s.reclaimShadows x.1) | none => s) s
      let done := t.doWork part w (plan.map fun x => x.1)
      (plan.length ≤ 1 ∨ done = none → exec (.eviction part) s = .next t) ∧
      (∀ u, 1 < plan.length → done = some (.next u) → (∀ g, w ≠ .resume g) →
        exec (.eviction part) s = .next (u.modPart part fun r => { r with served := put (t.workLevel part l) w.key r.served })))

/-- The ends of crews and tasks. A crew retires when its groups have retired or died with no write outstanding and its commands have finished: it releases at scope pkg, gives
up its granules, buffers and bindings, and counts toward its task. A task whose crews have all retired completes: 1, or 2^32 for a failed one, is added to its
completion counter, and its MSI-X vector is raised (R18, R221, R307). -/
def Obligations.RetireAndComplete : Prop :=
  ∀ (s : State) (n : Nat),
    (let c := s.crew n
     n < s.crews.length → c.retired = false → (∀ g ∈ c.groups, ((s.grp g).place = .retired ∨ (s.grp g).place = .dead) ∧ (s.grp g).acks = []) →
      (∀ k < 8, (c.tline k).cmds = []) → c.task < s.tasks.length →
      ∃ t, exec (.crewRetire n) s = .next t ∧ (t.crew n).retired = true ∧ (t.crew n).granules = [] ∧ (∀ k < 16, (t.crew n).buf k = CircBuf.undeclared) ∧
        (∀ k < 8, (t.crew n).tline k = Timeline.unbound) ∧ (t.task c.task).retired = (s.task c.task).retired + 1 ∧
        (t.task c.task).failed = ((s.task c.task).failed || c.failed) ∧ (∀ b ∈ t.bars, b.crew ≠ some n) ∧ t.groups = s.groups ∧ ∀ m, m ≠ n → t.crew m = s.crew m) ∧
    (let k := s.task n
     let c := s.ctx k.ctx
     n < s.tasks.length → k.complete = false → k.placed = k.ncrews → k.retired = k.ncrews → (∃ part q, k.source = .queue part q) → k.pkt.compl % 8 = 0 →
      (k.pkt.compl = 0 → ∃ t, exec (.taskComplete n) s = .next t ∧ t.sameMemory s ∧ (t.task n).complete = true ∧ (∀ b ∈ t.bars, b.task ≠ n) ∧
        (16 ≤ k.pkt.msiv → k.pkt.msiv ∈ s.pkg.unmasked → t.pkg.msiSent = k.pkt.msiv :: s.pkg.msiSent) ∧
        (16 ≤ k.pkt.msiv → k.pkt.msiv ∉ s.pkg.unmasked → k.pkt.msiv ∈ t.pkg.msiPending)) ∧
      (∀ x, k.pkt.compl ≠ 0 → s.reach (s.firstQuad c.part) k.ctx (!c.isSys) .store k.pkt.compl = .ok x → (c.regionAt k.pkt.compl).isNone → x.host = false →
        s.lostHome c.part x.pa = false → s.poisoned c.part x.pa = false → s.onlyDt → s.orphans = [] → c.part < 4 →
        ∃ t, exec (.taskComplete n) s = .next t ∧ (t.task n).complete = true ∧
          let at_ := dramKey c.part x.pa
          Mem.num t.dram at_ 8 = (Mem.num s.dram at_ 8 + if k.failed then 2 ^ 32 else 1) % 2 ^ 64 ∧
          ∀ j, (j < at_ ∨ at_ + 8 ≤ j) → Mem.get t.dram j = Mem.get s.dram j))

/-! ## Events of rooms and memory (R169 to R173, R179, R182, R183, R193, R194, R199, R200, R205, R206, R208, R220, R349, R353) -/

/-- No self-invalidating copy stands in a cache: nothing waits to be written back (R185). -/
def Sys2Proof.Machine.State.noSi (s : State) : Prop := ∀ c ∈ s.cache, ∀ d m, c.kind ≠ .si d m true

/-- One partial line combined into the memory of its region: each element becomes old ⊕ partial (R200, R205). -/
def Sys2Proof.Machine.combinedInto (s t : State) (ctx : Nat) (q : Region) (p : Partial) : Prop :=
  let w := if q.etype = 1 then 64 else 32
  let line (x : State) : Img := imgOf (x.readDram (x.ctx ctx).part (256 * p.line) 256)
  ∀ e < 2048 / w, el w e (line t) = accOp q.etype q.aop (el w e (line s)) (el w e p.data) % 2 ^ w

/-- Rooms. A window that has passed stops admission, and an empty room with a competing demand drains; a drain with nobody in the room combines the partials of ACCUM and
opens the mode of the oldest demand, or no room; an open room takes in the demands of its mode; a lane that waits beyond its limit raises ROOMWAIT with its demand
withdrawn; a partial line that is flushed is combined into memory and gone (R200, R205, R206, R208). -/
def Obligations.RegionEvents : Prop :=
  ∀ (s : State) (ctx r : Nat) (q : Region), ctx < s.ctxs.length → (s.ctx ctx).region r = some q →
    let occ := s.occupants ctx r
    (∀ w, q.window = some w → w ≤ s.now → ∃ t, exec (.admitWindowExpiry ctx r) s = .next t ∧ t = { s with ctxs := t.ctxs } ∧
      (t.ctx ctx).region r = some { q with admitting := false, window := none, drain := q.drain || (decide (occ = 0) && q.competing) } ∧
      (∀ k, k ≠ r → (t.ctx ctx).region k = (s.ctx ctx).region k) ∧ ∀ k, k ≠ ctx → t.ctx k = s.ctx k) ∧
    (q.drain = true → occ = 0 → ∃ (t : State) (q' : Region), exec (.drainComplete ctx r) s = .next t ∧ (t.ctx ctx).region r = some q' ∧
      (q.demands = [] → q' = { q with open_ := none, admitting := false, window := none, drain := false }) ∧
      (∀ d l, q.demands = d :: l → q'.open_ = some d.mode) ∧
      (q.open_ ≠ some 1 → s.noSi → s.sameMemory t) ∧
      (q.open_ = some 1 → s.noSi → (s.ctx ctx).part < 4 → (∀ p ∈ (s.ctx ctx).partials, p.region ≠ r) → s.sameMemory t) ∧
      (q.open_ = some 1 → s.noSi → ∀ p, (s.ctx ctx).partials.filter (fun p => p.region == r) = [p] → combinedInto s t ctx q p ∧ ∀ p' ∈ (t.ctx ctx).partials, p'.region ≠ r)) ∧
    (∀ m, q.open_ = some m → q.admitting = true → q.drain = false → m ≠ 4 → ∃ (t : State) (q' : Region), exec (.demandAdmit ctx r) s = .next t ∧
      (t.ctx ctx).region r = some q' ∧ q'.demands = q.demands.filter (fun d => d.mode != m) ∧ q'.open_ = some m ∧
      ∀ d ∈ q.demands, d.mode = m → d.g < s.groups.length → d.lane < 32 → ⟨r, m⟩ ∈ (t.lane d.g d.lane).holds ∧ (t.lane d.g d.lane).park = none) ∧
    (∀ g l p, (s.lane g l).park = some p → (s.grp g).place = .resident → p.limit ≠ 0 → p.limit ≤ p.count → s.ctxNo g = ctx → p.region = r →
      ∃ (x : State) (q' : Region), exec (.roomwaitTimeout g l) s =
          .next (x.raise ⟨g, oneLane l, ⟨cROOMWAIT, 0x01, BitVec.ofNat 64 r, none⟩, some p.unit, true, true, p.unit.iss.word, p.unit.iss.pword, p.unit.iss.addr⟩) ∧
        (x.ctx ctx).region r = some q' ∧ ∀ d ∈ q'.demands, ¬ (d.g = g ∧ d.lane = l)) ∧
    (∀ p ∈ (s.ctx ctx).partials, p.region = r → (∀ p' ∈ (s.ctx ctx).partials, p'.region = r → p'.quad = p.quad → p'.line = p.line → p' = p) →
      ∃ t, exec (.partialFlush ctx r p.quad p.line) s = .next t ∧ combinedInto s t ctx q p ∧ p ∉ (t.ctx ctx).partials ∧
        t.const = s.const ∧ t.hostMem = s.hostMem ∧ t.groups = s.groups ∧ t.crews = s.crews)

/-- Clocks and caches. An epoch passes every 64 cycles, and counts for the crews that had a resident group in it; CREWPACE is the epochs of the last 256 ticks, between 1 and 65,535; REUSEF moves by the overstated samples of a
window; a sweep brings stamps that lie far in the past to the saturated rank. A read miss of a DT line leaves M copies O and E copies S, and takes E or S; a write
takes M and no other copy stands; where every way of the set is pinned, or the context's quota is, no copy is taken; a copy evicted leaves memory as it is. A walk that completes fills the quad's cache; a shootdown takes the entries of its
range out, once no access that may have used one is in flight (R169, R171, R173, R179, R182, R183;
log entry 42 for ADJ where LOG does not move). -/
def Obligations.CacheEvents : Prop :=
  ∀ s : State,
    (s.epoch < s.now / 64 → ∃ t, exec .reuseEpochTick s = .next t ∧ t.epoch = s.epoch + 1 ∧ t.groups = s.groups ∧ s.sameMemory t ∧
      ∀ c < s.crews.length, (t.crew c).paceEpochs = (s.crew c).paceEpochs + (if (s.crew c).paceSeen = true ∨ s.crewResident c = true then 1 else 0)) ∧
    (∀ c, (s.crew c).paceDue = true → exec (.crewpaceRecompute c) s =
      .next (s.modCrew c fun _ => { s.crew c with pace := BitVec.ofNat 16 (min (max (s.crew c).paceEpochs 1) 0xFFFF), paceEpochs := 0, paceDue := false })) ∧
    (∀ k, let c := s.ctx k
      let honest := c.reusest.toNat % 2 ^ 17
      let overs := c.reusest.toNat / 2 ^ 17 % 2 ^ 17
      let log := c.reusef.toNat % 8
      65536 ≤ honest + overs → ∃ (f st : Word), exec (.reusefAdjust k) s = .next (s.modCtx k fun _ => { c with reusef := f, reusest := st }) ∧
        f.toNat = (if 32768 < overs then min (log + 1) 4 else if overs < 16384 then log - 1 else log) ∧ st.toNat % 2 ^ 34 = 0 ∧
        st.toNat / 2 ^ 34 = (if 32768 < overs then 1 else if overs < 16384 then 2 else 0)) ∧
    (∀ (l2 : Bool) (cache set : Nat), let no := if l2 then 256 + cache else cache
      exec (.stampSweep l2 cache set) s = .next { s with cache := s.cache.map fun c =>
        if c.cache = no ∧ c.set = set ∧ (c.due - BitVec.ofNat 16 s.epoch).toInt < -16384 then { c with due := BitVec.ofNat 16 s.epoch - 16384#16 } else c }) ∧
    (∀ quad part line : Nat, s.onlyDt → s.dtPossible quad part line = true → quad < 256 →
      let room : Prop := (s.copyIn quad part line).isSome ∨ (s.pickWay quad (l1Set line) (s.ctxNo s.cur.g)).isSome
      (s.dtState quad part line = .I → ∃ t, exec (.dtReadMiss quad part line) s = .next t ∧ s.sameMemory t ∧ t.groups = s.groups ∧
        (∀ k < 256, k ≠ quad → t.dtState k part line = (match s.dtState k part line with | .M => .O | .E => .S | m => m)) ∧
        (room → t.dtState quad part line = if (s.otherCopies quad part line).isEmpty then .E else .S) ∧ (¬ room → t.dtState quad part line = .I)) ∧
      (s.dtState quad part line ≠ .M → ∃ t, exec (.dtWriteOwnership quad part line) s = .next t ∧ s.sameMemory t ∧ t.groups = s.groups ∧
        (∀ k < 256, k ≠ quad → t.dtState k part line = .I) ∧ (room → t.dtState quad part line = .M) ∧ (¬ room → t.dtState quad part line = .I))) ∧
    (∀ (quad part line : Nat) (c : CLine) (m : Moesi), s.copyIn quad part line = some c → c.kind = .dt m → c.pins = 0 →
      ∃ t, exec (.dtEviction quad part line) s = .next t ∧ s.sameMemory t ∧ c ∉ t.cache ∧ ∀ x ∈ t.cache, x ∈ s.cache) ∧
    (∀ (quad ctx : Nat) (va : Word) (x : Xl), (s.ctx ctx).live = true → s.xlate quad ctx va.toNat = .page x →
      ∃ t, exec (.pageWalkComplete quad ctx va) s = .next t ∧ t = { s with tlb := t.tlb } ∧ ∃ e ∈ t.tlb, e.cache = quad ∧ e.ctx = ctx ∧ e.base = x.base ∧ e.log = x.log) ∧
    (∀ ctx start len : Nat, s.inFlight ctx s.now = true → exec (.shootdownComplete ctx start len) s = .next s) ∧
    (∀ ctx start len : Nat, s.inFlight ctx s.now = false → ∃ t, exec (.shootdownComplete ctx start len) s = .next t ∧ t = { s with tlb := t.tlb } ∧
      ∀ e, e ∈ t.tlb ↔ e ∈ s.tlb ∧ ¬ (e.ctx = ctx ∧ e.base < start + len ∧ start < e.base + 2 ^ e.log))

/-- Errors and writes from outside. An uncorrectable error poisons its sector, of DRAM, of a copy in an L1, of a partial, of a halo replica or of an SRAM, and is logged, once; a corrected error is logged, or counted in the entry of the last
millisecond; a die that fails loses the copies of the lines homed beside it, but for M and O copies in the L1s of other dies, which are kept as orphans, each logged
and reported. A write from outside lands in its memory, takes the marks of its sectors, and the poison of whole ones; an atomic from outside returns the old value; the host masks a vector in the MSI-X table, and writes
nothing through BAR 2; a device's write goes through Lupin's translation, and does nothing where that faults; a write of the mailbox beside CMD starts nothing (R6, R193, R194, R220, R343, R344,
R346, R349, R353, R354;
log entries 17, 33, 54 and 57 for merged entries and the ring, the targets of a write from outside, the millisecond in cycles, and the address of an entry). -/
def Obligations.MemoryEvents : Prop :=
  ∀ s : State,
    (∀ (x : Spot) (n : Nat) (src : BitVec 16) (a : Word),
      ((∃ part, x = .home part n ∧ 32 * n < (s.part part).dramSize) ∨ (∃ c, x = .scratch c n ∧ (s.crew c).retired = false ∧ 32 * n < (s.crew c).window) ∨
        (∃ quad, x = .const quad n ∧ quad < 256 ∧ 32 * n < 131072) ∨ (∃ quad part, x = .si quad part n ∧ (s.siCopy quad part (n / 8)).isSome) ∨ (∃ quad part, x = .copy quad part n ∧ part < 4 ∧ s.holdsDt quad part (32 * n) = true) ∨
        (∃ k r quad, x = .accum k r quad n ∧ ∃ p ∈ (s.ctx k).partials, p.region = r ∧ p.quad = quad ∧ p.line = n / 8) ∨
        (∃ k quad, x = .replica k quad n ∧ ∃ h ∈ (s.ctx k).halos, ∃ r ∈ h.2.replicas, r.quad = quad ∧ r.sector = n)) → x ∉ s.poison →
      exec (.eccUncorrectable x src a) s = .next (({ s with poison := x :: s.poison }).rasEntry 2 src (match x with | .home _ m => BitVec.ofNat 64 (32 * m) | _ => a))) ∧
    (∀ (x : Spot) (src : BitVec 16) (a : Word), x ∈ s.poison → exec (.eccUncorrectable x src a) s = .next s) ∧
    (∀ (kind : Nat) (src : BitVec 16) (a : Word), (s.rasEntry kind src a).pkg.rasn = s.pkg.rasn + 1 ∧
      (s.rasEntry kind src a).pkg.ras = ⟨kind, src, a, s.now, 0⟩ :: s.pkg.ras.take Config.rasRing) ∧
    (∀ (src : BitVec 16) (loc : Word), let same (e : RasEnt) : Prop := e.kind = 1 ∧ e.source = src ∧ e.addr = loc ∧ s.now - e.cycle ≤ 1000 * s.cyclesPerUs
      ((∀ e ∈ s.pkg.ras, ¬ same e) → exec (.correctedEccError src loc) s = .next (s.rasEntry 1 src loc)) ∧
      (∀ l e l', s.pkg.ras = l ++ e :: l' → (∀ x ∈ l, ¬ same x) → same e →
        exec (.correctedEccError src loc) s = .next (s.modPkg fun p => { p with ras := l ++ { e with repeats := e.repeats + 1 } :: l' }))) ∧
    (∀ die < 4, die ∉ s.deadDies → ∃ t, exec (.dieFailure die) s = .next t ∧ t.deadDies = die :: s.deadDies ∧ t.dram = s.dram ∧ t.groups = s.groups ∧
      (∃ l, t.orphans = s.orphans ++ l ∧ (∀ o ∈ l, ∃ c ∈ s.cache, o = (2 ^ 40 * c.part + c.line, c.cache, imgOf (s.readDram c.part (256 * c.line) 256)) ∧
          c.cache < 256 ∧ c.cache / 64 ≠ die ∧ s.homeDie c.part (256 * c.line) = die ∧ (c.kind = .dt .M ∨ c.kind = .dt .O)) ∧
        t.pkg.orphn = s.pkg.orphn + l.length ∧
        ∃ m, t.pkg.orphanLog = s.pkg.orphanLog ++ m ∧ m.length = l.length ∧ ∀ q ∈ m, ∃ o ∈ l, 2 ^ 40 * q.1 ≤ o.1 ∧ q.2 = BitVec.ofNat 64 (256 * (o.1 - 2 ^ 40 * q.1))) ∧
      (∀ c ∈ t.cache, c.cache < 256 → c.part < 4 → s.homeDie c.part (256 * c.line) = die → ∀ m, c.kind = .dt m → m = .I)) ∧
    (∀ (part addr : Nat) (bs : List Byte), part < 4 → bs ≠ [] → addr + bs.length ≤ (s.part part).dramSize → ∃ t, exec (.hostMemoryWrite (.memory part .write) addr bs) s = .next t ∧
      Mem.read t.dram (dramKey part addr) bs.length = bs ∧ (∀ k, (k < dramKey part addr ∨ dramKey part addr + bs.length ≤ k) → Mem.get t.dram k = Mem.get s.dram k) ∧
      t.const = s.const ∧ t.hostMem = s.hostMem ∧ t.groups = s.groups ∧ t.crews = s.crews ∧
      (∀ k, addr < 32 * k + 32 → 32 * k < addr + bs.length → look t.marks (part * 2 ^ 43 + k) = none) ∧
      (∀ k, addr ≤ 32 * k → 32 * k + 32 ≤ addr + bs.length → t.poisoned part (32 * k) = false)) ∧
    (∀ (addr : Nat) (bs : List Byte), addr + bs.length ≤ 2 ^ 48 → exec (.hostMemoryWrite .host addr bs) s = .next { s with hostMem := Mem.write addr bs s.hostMem }) ∧
    (∀ (part addr n : Nat) (op : HostOp) (bs : List Byte), part < 4 → n = 4 ∨ n = 8 → addr % n = 0 → addr + bs.length ≤ (s.part part).dramSize →
      bs.length = (if op = .cas then 2 * n else n) → op ≠ .write →
      let at_ := dramKey part addr
      let old := Mem.num s.dram at_ n
      let new := match op with | .fetchAdd => (old + leNat bs) % 2 ^ (8 * n) | .swap => leNat bs | _ => if old = leNat (bs.take n) then leNat (bs.drop n) else old
      s.onlyDt → s.orphans = [] → ∃ t, exec (.hostMemoryWrite (.memory part op) addr bs) s = .next t ∧ t.pkg.replies = BitVec.ofNat 64 old :: s.pkg.replies ∧
        Mem.num t.dram at_ n = new ∧ (∀ k, (k < at_ ∨ at_ + n ≤ k) → Mem.get t.dram k = Mem.get s.dram k) ∧ t.groups = s.groups ∧ t.crews = s.crews) ∧
    (∀ (addr : Nat) (bs : List Byte), exec (.hostMemoryWrite .bar2 addr bs) s = .next s) ∧
    (∀ v < 2048, ∃ t, exec (.hostMemoryWrite .msix (16 * v + 12) [1]) s = .next t ∧ t = { s with pkg := t.pkg } ∧ v ∉ t.pkg.unmasked ∧
      (∀ x, x ≠ v → (x ∈ t.pkg.unmasked ↔ x ∈ s.pkg.unmasked)) ∧ t.pkg.msiSent = s.pkg.msiSent ∧ t.pkg.msiPending = s.pkg.msiPending) ∧
    (∀ (part ctx va : Nat) (id : BitVec 16) (x : Xl) (bs : List Byte), s.findCtx part id.toNat = some ctx → bs ≠ [] → va % 256 + bs.length ≤ 256 →
      (s.ctx ctx).part < 4 → s.ioReach ctx .store va = .ok x → x.host = false → ∃ t, exec (.hostMemoryWrite (.device part id) va bs) s = .next t ∧
        Mem.read t.dram (dramKey (s.ctx ctx).part x.pa) bs.length = bs ∧
        ∀ k, (k < dramKey (s.ctx ctx).part x.pa ∨ dramKey (s.ctx ctx).part x.pa + bs.length ≤ k) → Mem.get t.dram k = Mem.get s.dram k) ∧
    (∀ (part ctx va : Nat) (id : BitVec 16) (bs : List Byte) (c e : BitVec 8), s.findCtx part id.toNat = some ctx → bs ≠ [] → va % 256 + bs.length ≤ 256 →
      s.ioReach ctx .store va = .fault c e → exec (.hostMemoryWrite (.device part id) va bs) s = .next s) ∧
    (∀ (v : Word), s.pkg.boot = 3 → s.pkg.mailbox.state ≠ 1 → ∃ t, exec (.hostMemoryWrite .bar4 0x800 (leBytes 8 v.toNat)) s = .next t ∧
      t = { s with pkg := { s.pkg with mailbox := t.pkg.mailbox } } ∧ t.pkg.mailbox.cmd = v.truncate 2 ∧
      t.pkg.mailbox.state = (if v.toNat % 4 = 1 ∨ v.toNat % 4 = 2 then 1 else s.pkg.mailbox.state) ∧ t.pkg.mailbox.src = s.pkg.mailbox.src ∧
      (t.pkg.mailbox.state = 1 → t.pkg.mailbox.fetch = s.pkg.mailbox.len ∧ t.pkg.mailbox.from_ = s.pkg.mailbox.src)) ∧
    (∀ (off : Nat) (bs : List Byte), s.pkg.boot = 3 → 0x800 < off → ∃ t, exec (.hostMemoryWrite .bar4 off bs) s = .next t ∧
      t = { s with pkg := { s.pkg with mailbox := t.pkg.mailbox } } ∧ t.pkg.mailbox.cmd = s.pkg.mailbox.cmd ∧ t.pkg.mailbox.state = s.pkg.mailbox.state)

/-! ## Events of engines and links (R237 to R242, R249, R258, R259, R266, R269, R280, R286, R287, R290, R294, R296) -/

/-- The engines. The lowest-numbered command that waits starts when its timeline is neither parked nor draining, it is older than this cycle, its ORD and its links allow it,
fewer than four are in progress, and its context has a place of the two; a step of a copy between windows moves one destination sector, each source sector being read once; mclr zeroes the tiles of its mask;
a K-step promotes its partial sums once; an add of ixs adds one sector; a finished command leaves its timeline, COUNT being the number below which all have
finished; a drained context gives up its place, and the drains that wait for it see it saved; a command that has heard nothing for 2^26 cycles parks (R237 to R242, R249, R258, R259, R266, R269, R280, R296;
log entries 14 and 28 for the order of adds and for each source sector being read once). -/
def Obligations.EngineEvents : Prop :=
  ∀ (s : State) (c tl : Nat), c < s.crews.length → tl < 8 →
    let tm := (s.crew c).tline tl
    let same (t : State) : Prop := (∀ k, k ≠ c → t.crew k = s.crew k) ∧ t.groups = s.groups
    (∀ x, s.startable c tl = some x → (tm.resident = true ∨ (s.residents c tl).length < 2) → ∃ t, exec (.engineCommandStart c tl) s = .next t ∧ same t ∧ s.sameMemory t ∧
      let tn := (t.crew c).tline tl
      tn.cmds = (tm.cmds.map fun y => if y.n = x.n then { y with started := true, heard := s.now } else y) ∧ tn.resident = true ∧ tn.count = tm.count ∧ tn.issued = tm.issued) ∧
    (∀ x, s.startable c tl = some x → x ∈ tm.cmds ∧ x.started = false ∧ (∀ y ∈ tm.cmds, y.started = false → x.n ≤ y.n) ∧ tm.parked = none ∧ tm.draining = false ∧
      x.queued < s.now ∧ (x.ord = true → ∀ y ∈ tm.cmds, x.n ≤ y.n) ∧ (tm.cmds.filter fun y => y.started).length < 4) ∧
    (∀ n x, s.liveCmd c tl n = some x → s.engineRuns c = true →
      let tag (y : Cmd) : Bool := y.n == x.n
      (∀ (sc : BitVec 3) (d a b : BitVec 6), x.instr = .cpy sc d a b → x.w 0 / 2 ^ 52 % 8 = 1 → x.w 1 / 2 ^ 52 % 8 = 1 → x.f 2 10 1 = 0 →
        let src := x.w 0 % 2 ^ 52
        let dst := x.w 1 % 2 ^ 52
        let len := x.w 2 / 2 ^ 16 % 2 ^ 32
        let lo := if x.step = 0 then 0 else 32 * (dst / 32 + x.step) - dst
        let hi := min len (32 * (dst / 32 + x.step + 1) - dst)
        let had (k : Nat) : BitVec 256 := (look x.got (scratchBase + k)).getD (BitVec.ofNat 256 (Mem.num (s.crew c).scratch (32 * k) 32))
        (∀ y ∈ tm.cmds, y.n = x.n → y = x) → s.sched.splits = [] → s.poison = [] →
        ∃ t, exec (.engineStep c tl n) s = .next t ∧ same t ∧ t.dram = s.dram ∧ t.const = s.const ∧ t.hostMem = s.hostMem ∧
          (∀ j < hi - lo, Mem.get (t.crew c).scratch (dst + lo + j) = BitVec.ofNat 8 ((had ((src + lo + j) / 32)).toNat / 2 ^ (8 * ((src + lo + j) % 32)))) ∧
          (∀ k, (k < dst + lo ∨ dst + lo + (hi - lo) ≤ k) → Mem.get (t.crew c).scratch k = Mem.get (s.crew c).scratch k) ∧
          ∃ y ∈ ((t.crew c).tline tl).cmds, tag y = true ∧ y.step = x.step + 1 ∧ (y.done = true ↔ hi = len)) ∧
      (∀ (sc : BitVec 3) (d : BitVec 6) (ty : BitVec 1) (m : BitVec 4), x.instr = .mclr sc d ty m → tm.held x = false →
        ∃ t, exec (.engineStep c tl n) s = .next t ∧ same t ∧ s.sameMemory t ∧
          let mat := ((t.crew c).tline tl).mat
          (∀ k < 4, mat.tile k = if m.getLsbD k then Tile.zero (ty == 1) else tm.mat.tile k) ∧ mat.w = tm.mat.w ∧
          ∃ y ∈ ((t.crew c).tline tl).cmds, tag y = true ∧ y.done = true) ∧
      (∀ (sc : BitVec 3) (d a : BitVec 6) (f : BitVec 4) (r : BitVec 1), x.instr = .mma sc d a f r → x.step = x.rows → x.nft = false → x.tens.scaled = false → x.pins = [] → x.opened = true → s.arrayTaken c tl x = false →
        (tm.mat.slot x.ws).loaded = true → pairRow (tm.mat.slot x.ws).fmt = pairRow x.tens.fmt → (tm.mat.tile x.acc).isInt = false → intRow x.tens.fmt = false → s.kReady c tl x = true →
        tm.mat.part.length = x.rows → (∀ row ∈ tm.mat.part, row.length = 128) →
        ∃ t, exec (.matrixKstep c tl n) s = .next t ∧ same t ∧ s.sameMemory t ∧
          let mat := ((t.crew c).tline tl).mat
          (∀ i < x.rows, ∀ j < 128, ∀ row p, tm.mat.part[i]? = some row → row[j]? = some p →
            ((mat.tile x.acc).get i j).toNat = (roundF 0 0 (FVal.add false ((tm.mat.tile x.acc).val i j)
              (FVal.mul (FVal.mul p.1 fOne) (decodeF 0 (tm.mat.slot x.ws).sb.toNat)))).code % 2 ^ 32) ∧
          (∀ i, x.rows ≤ i → ∀ j < 128, (mat.tile x.acc).get i j = (tm.mat.tile x.acc).get i j) ∧ (∀ k < 4, k ≠ x.acc → mat.tile k = tm.mat.tile k) ∧
          mat.w = tm.mat.w ∧ ∃ y ∈ ((t.crew c).tline tl).cmds, tag y = true ∧ y.done = true) ∧
      (∀ (sc : BitVec 3) (d a : BitVec 6) (f : BitVec 4), x.instr = .ixs sc d a f →
        let ag := s.agent x.g
        let es := x.tens.width / 8
        ∀ (u : Upd) (p : Nat × Nat × Nat) (rest : List (Upd × Nat × Nat × Nat)),
          x.ups.filterMap (fun v => (s.nextAdd ag x v).map fun q => (v, q)) = (u, p) :: rest → (rest = [] ∨ s.sched.splits = []) →
          let va := x.rowAt (x.indexAt u.k)
          let at_ := dramKey ag.part p.2.2
          s.lostHome ag.part p.2.2 = false → s.poisoned ag.part p.2.2 = false → s.onlyDt → ag.part < 4 → es ≠ 0 → p.2.1 % es = 0 →
          ∃ t, exec (.ixsSectorAdd c tl n) s = .next t ∧ t.groups = s.groups ∧
            (∀ j < p.2.1 / es, Mem.num t.dram (at_ + es * j) es = (x.addElem u.src ((p.1 - va) / es + j) (Mem.num s.dram (at_ + es * j) es)).1 % 2 ^ (8 * es)) ∧
            ∀ k, (k < at_ ∨ at_ + p.2.1 ≤ k) → Mem.get t.dram k = Mem.get s.dram k)) ∧
    (∀ n x, s.cmdAt c tl n = some x → x.done = true → ∃ t, exec (.commandFinish c tl n) s = .next t ∧ t.groups = s.groups ∧ s.sameMemory t ∧
      let tn := (t.crew c).tline tl
      tn.cmds.map (fun y => y.n) = (tm.cmds.map fun y => y.n).filter (fun k => k != n) ∧ tn.issued = tm.issued ∧
      (tn.cmds = [] → tn.count = tm.issued) ∧ (∀ y ∈ tn.cmds, (∀ z ∈ tn.cmds, y.n ≤ z.n) → tn.count = max tm.count (y.n - 1))) ∧
    ((tm.draining = true → tm.inProgress = false →
        ∃ t, exec (.contextDrain c tl) s = .next t ∧ s.drainsSeen t c tl ∧
          t = { s.modTl c tl (fun _ => { tm with
            resident := false, draining := false, cmds := tm.cmds.map fun y => { y with started := y.started && tm.stuck y.n } }) with groups := t.groups }) ∧
     (tm.draining = true → tm.inProgress = true → exec (.contextDrain c tl) s = .next s) ∧
     (tm.draining = false → tm.resident = true → s.mustLeave c tl = true → exec (.contextDrain c tl) s = .next (s.modTl c tl fun _ => { tm with draining := true }))) ∧
    (∀ x, s.silentCmd c tl = some x → tm.parked = none → ∃ (t : State) (p : ParkedCmd), exec (.peerSilentTimeout c tl) s = .next t ∧ same t ∧ s.sameMemory t ∧
      ((t.crew c).tline tl).parked = some p ∧ p.n = x.n ∧ p.g = x.g ∧ p.trap.cause = cENGINE ∧ p.trap.sub = 0x85 ∧ p.taken = false ∧
      ((t.crew c).tline tl).draining = true ∧ ((t.crew c).tline tl).cmds = tm.cmds)

/-- The links. A packet is taken in its sequence, and only with a good CRC, and is acknowledged, as one that comes again is; an acknowledgement takes its packet out of the replay buffer; a replay repeats it, and after the
eighth the port goes down and is logged; a retrained port is up; a sector of a remote write is written and its sender told, or refused where it carries poison; the firmware that runs writes PODID
(R193, R286, R287, R290, R294;
log entry 34 for the port that goes down and for a marked sector of a remote write). -/
def Obligations.LinkEvents : Prop :=
  ∀ (s : State) (k : Nat), k < 16 →
    let q := s.port k
    (∀ pkt : Packet,
      (q.up = false ∨ pkt.crcOk = false ∨ (pkt.kind ≠ .linkAck ∧ q.rxSeq < pkt.seq) → exec (.yarrowPacketReceive k pkt) s = .next s) ∧
      (q.up = true → pkt.crcOk = true → pkt.kind ≠ .linkAck → pkt.seq < q.rxSeq →
        exec (.yarrowPacketReceive k pkt) s = .next (s.modPort k fun _ => { q with acked := pkt.seq :: q.acked })) ∧
      (q.up = true → pkt.crcOk = true → pkt.seq = q.rxSeq → pkt.kind = .collective ∨ pkt.kind = .lput → ∃ t, exec (.yarrowPacketReceive k pkt) s = .next t ∧
        (t.port k).rxSeq = q.rxSeq + 1 ∧ (t.port k).acked = pkt.seq :: q.acked ∧ t.pkg.inbox = s.pkg.inbox ++ [(k, pkt)] ∧ (∀ j < 16, j ≠ k → t.port j = s.port j) ∧ s.sameMemory t ∧ t.groups = s.groups) ∧
      (q.up = true → pkt.crcOk = true → pkt.kind = .linkAck → (∀ x ∈ q.buffer, x.seq = pkt.seq → x.kind = .lput) → ∃ t, exec (.yarrowPacketReceive k pkt) s = .next t ∧
        (t.port k).buffer = q.buffer.filter (fun x => x.seq != pkt.seq) ∧ (t.port k).rxSeq = q.rxSeq ∧
        (t.port k).replays = (if (q.buffer.head?.map fun x => x.seq) = some pkt.seq then 0 else q.replays) ∧ s.sameMemory t ∧ t.groups = s.groups)) ∧
    (q.up = true → q.buffer ≠ [] →
      (q.replays < 8 → exec (.yarrowReplay k) s = .next (s.modPort k fun _ => { q with replays := q.replays + 1 })) ∧
      (8 ≤ q.replays → exec (.yarrowReplay k) s = .next ((s.modPort k fun _ => { q with up := false }).rasEntry 3 (BitVec.ofNat 16 k) 0))) ∧
    (q.up = false → exec (.yarrowPortRetrain k) s = .next (s.modPort k fun _ => { q with up := true, replays := 0 })) ∧
    (∀ pkt : Packet, pkt.kind = .lput → pkt.poison = false → (k, pkt) ∈ s.pkg.inbox →
      ∀ cx x, (findIx (fun c : Context => c.live && c.id == pkt.ctx) s.ctxs).map (·.1) = some cx → (s.ctx cx).part < 4 →
        s.reach 0 cx (!(s.ctx cx).isSys) .store pkt.addr = .ok x → ((s.ctx cx).regionAt pkt.addr).isNone → x.host = false → s.lostHome (s.ctx cx).part x.pa = false → s.onlyDt →
        ∃ t a, exec (.lputSectorReceive k pkt) s = .next t ∧ t.groups = s.groups ∧
          let at_ := dramKey (s.ctx cx).part x.pa
          Mem.read t.dram at_ pkt.payload.length = pkt.payload ∧ (∀ j, (j < at_ ∨ at_ + pkt.payload.length ≤ j) → Mem.get t.dram j = Mem.get s.dram j) ∧
          look t.marks (sectorKey (s.ctx cx).part x.pa) = none ∧ (t.port k).buffer.getLast? = some a ∧ a.kind = .lputAck ∧ a.dst = pkt.src ∧ a.addr = pkt.addr ∧
          a.crew = pkt.crew ∧ a.tl = pkt.tl) ∧
    (∀ pkt : Packet, pkt.kind = .lput → pkt.poison = true → (k, pkt) ∈ s.pkg.inbox →
      ∀ cx x, (findIx (fun c : Context => c.live && c.id == pkt.ctx) s.ctxs).map (·.1) = some cx →
        s.reach 0 cx (!(s.ctx cx).isSys) .store pkt.addr = .ok x → ((s.ctx cx).regionAt pkt.addr).isNone → (x.host = true ∨ s.lostHome (s.ctx cx).part x.pa = false) →
        ∃ t a, exec (.lputSectorReceive k pkt) s = .next t ∧ t.groups = s.groups ∧ s.sameMemory t ∧ (t.port k).buffer.getLast? = some a ∧ a.kind = .lputRefusal ∧
          a.cause = cPOISON ∧ a.sub = 0 ∧ a.dst = pkt.src ∧ a.addr = pkt.addr) ∧
    (∀ no size : BitVec 8, s.pkg.boot = 2 → exec (.podFormation no size) s = .next (s.modPkg fun p => { p with podid := BitVec.ofNat 64 (no.toNat + 2 ^ 8 * size.toNat) }))

/-! ## Events of the package (R25, R113, R174, R175, R178, R209, R216, R337 to R351) -/

/-- Boot, recovery, attestation, the clock, interrupts and contexts. An image in flash that is signed and not below the minimum version runs, and forms a partition where none stands, any other enters
recovery; a recovery command fetches LEN bytes from SRC in host memory, or an image from storage, and ends in its result, a verified image going to flash, whereupon the boot begins again; the host reads the status block, and the mailbox in recovery alone; a report is made while the firmware runs; a new clock step is reported; an unmasked vector raises what was
pending; a context is made under a free identifier, and goes when it is idle (R25, R175, R216, R337, R343 to R345, R347 to R351; log entry 8 for
the bytes that a report signs and entry 19 for the first partition and the argument of BOOT). -/
def Obligations.PackageEvents : Prop :=
  ∀ s : State,
    (∀ im : List Byte,
      (verdict im = 2 ↔ Config.imageSigned im = true ∧ Config.firmwareMinVersion ≤ Config.imageVersion im) ∧ (verdict im = 3 ↔ Config.imageSigned im = false) ∧
      (verdict im = 4 ↔ Config.imageSigned im = true ∧ Config.imageVersion im < Config.firmwareMinVersion)) ∧
    (∀ qt : Word, s.pkg.boot < 2 → ∃ t, exec (.boot qt) s = .next t ∧ t.pkg.boot = (if verdict s.pkg.image = 2 then 2 else 3) ∧ t.groups = s.groups ∧ s.sameMemory t ∧
      (verdict s.pkg.image ≠ 2 ∨ (∃ p ∈ s.parts, p.live = true) → t.parts = s.parts) ∧
      (verdict s.pkg.image = 2 → (∀ p ∈ s.parts, p.live = false) → (t.part 0).live = true ∧ (t.part 0).dies = 0xF ∧ ∀ b, (t.part 0).qtbase.getLsbD b = (decide (22 ≤ b ∧ b < 48) && qt.getLsbD b))) ∧
    (∀ v : Word, 2 ≤ s.pkg.boot → exec (.boot v) s = .next s) ∧
    (let m := s.pkg.mailbox
     let sound : Prop := m.fetch.toNat % 4096 = 0 ∧ m.fetch.toNat ≤ 64 * 2 ^ 20
     let ends (o : Out) (got : Option (List Byte)) : Prop := ∃ t, o = .next t ∧ s.sameMemory t ∧
       (∀ im, got = some im → t.pkg.mailbox = { m with state := verdict im } ∧ t.pkg.boot = (if verdict im = 2 then 1 else 3) ∧
         t.pkg.flash = if verdict im = 2 then some im else s.pkg.flash) ∧
       (got = none → t.pkg.mailbox = { m with state := 5 } ∧ t.pkg.boot = 3 ∧ t.pkg.flash = s.pkg.flash)
     s.pkg.boot = 3 → m.state = 1 →
       (m.cmd = 1 → ∀ failed : Bool,
         (failed = false → sound → m.from_.toNat + m.fetch.toNat ≤ 2 ^ 48 → ends (exec (.recoveryFetchHost failed) s) (some (Mem.read s.hostMem m.from_.toNat m.fetch.toNat))) ∧
         (failed = true ∨ ¬ sound ∨ 2 ^ 48 < m.from_.toNat + m.fetch.toNat → ends (exec (.recoveryFetchHost failed) s) none)) ∧
       (m.cmd = 2 → ∀ got : Option (List Byte),
         (∀ im, got = some im → im.length = m.fetch.toNat → sound → ends (exec (.recoveryFetchNvme got) s) (some im)) ∧
         (got = none ∨ ¬ sound → ends (exec (.recoveryFetchNvme got) s) none))) ∧
    (∀ nonce : List Byte, nonce.length = 64 → s.pkg.boot = 2 → ∃ rep : Report, exec (.attestationReport nonce) s = .next (s.modPkg fun p => { p with reports := rep :: p.reports }) ∧
      rep.nonce = nonce ∧ rep.hash = Config.imageHash s.pkg.image ∧ rep.version = Config.imageVersion s.pkg.image ∧ rep.minVersion = Config.firmwareMinVersion ∧
      rep.config = (s.parts.filter Partition.live).map Partition.dies ∧ rep.signature = Config.signature (reportBytes s.pkg.image rep.config nonce)) ∧
    ((s.bar4 0).toNat = s.pkg.boot % 256 ∧ (s.bar4 1).toNat = (s.pkg.boot / 256 + (s.parts.filter Partition.live).length) % 256 ∧
      s.bar4 8 = s.pkg.dropq.truncate 8 ∧ s.bar4 9 = (s.pkg.dropq >>> 8).truncate 8 ∧ (∀ k < 8, s.bar4 (0x10 + k) = (s.pkg.pwrst >>> (8 * k)).truncate 8) ∧
      (∀ k < 8, (s.bar4 (0x18 + k)).toNat = s.pkg.rasn / 2 ^ (8 * k) % 256 ∧ (s.bar4 (0x20 + k)).toNat = s.pkg.orphn / 2 ^ (8 * k) % 256) ∧
      (∀ k, 0x28 ≤ k → k < 0x800 → s.bar4 k = 0) ∧ (s.pkg.boot ≠ 3 → ∀ k, 0x800 ≤ k → s.bar4 k = 0) ∧
      (s.pkg.boot = 3 → (s.bar4 0x800).toNat = s.pkg.mailbox.cmd.toNat ∧ (s.bar4 0x818).toNat = s.pkg.mailbox.state.toNat ∧
        (∀ k < 8, s.bar4 (0x808 + k) = (s.pkg.mailbox.src >>> (8 * k)).truncate 8) ∧ (∀ k < 4, s.bar4 (0x810 + k) = (s.pkg.mailbox.len >>> (8 * k)).truncate 8) ∧
        ∀ k, 0x820 ≤ k → s.bar4 k = 0)) ∧
    (∀ (n : BitVec 2) (p t : Bool), n ≠ 3 → ∀ v : Word, v.toNat = n.toNat + (if p then 4 else 0) + (if t then 8 else 0) →
      exec (.clockStepChange n p t) s = .next (if v = s.pkg.pwrst then s else (s.modPkg fun k => { k with pwrst := v }).msi 5)) ∧
    (∀ v < 2048, v ∉ s.pkg.unmasked → ∃ t, exec (.msixVectorUnmask v) s = .next t ∧ t = { s with pkg := t.pkg } ∧ t.pkg.unmasked = v :: s.pkg.unmasked ∧
      v ∉ t.pkg.msiPending ∧ t.pkg.msiSent = (if v ∈ s.pkg.msiPending then v :: s.pkg.msiSent else s.pkg.msiSent)) ∧
    (∀ (part : Nat) (id : BitVec 16) (sys : Bool) (root base : Word), s.pkg.boot = 2 → (s.part part).live = true → (s.part part).quiesce = none → (s.part part).swapped = false →
      s.findCtx part id.toNat = none → ∃ c : Context, exec (.contextCreate part id sys root base) s = .next { s with ctxs := s.ctxs ++ [c] } ∧ c.live = true ∧ c.part = part ∧ c.image = (s.part part).image ∧
        c.id = id ∧ c.isSys = sys ∧ c.xlbase.getLsbD 0 = true ∧ (∀ b, 16 ≤ b → b < 48 → c.xlbase.getLsbD b = root.getLsbD b) ∧
        (∀ b, 16 ≤ b → b < 52 → c.savebase.getLsbD b = base.getLsbD b) ∧ c.trapbase = 0 ∧ c.sbchk = 0 ∧ c.unichk = 0 ∧ c.wayq = 0 ∧ c.tapebase = 0 ∧ c.regions = [] ∧ c.tensors = []) ∧
    (∀ k, (s.ctx k).live = true → s.ctxIdle k = true → k < s.ctxs.length → ∃ t, exec (.contextDestroy k) s = .next t ∧ (t.ctx k).live = false ∧ (t.ctx k).regions = [] ∧
      (t.ctx k).tensors = [] ∧ (∀ c ∈ t.cache, c.pinCtx = k → c.pins = 0) ∧ s.sameMemory t ∧ t.groups = s.groups)

/-- Partitions. A legal configuration that changes something begins the handshake; when the partitions it changes are quiet they are formed anew with their queue tables, their memory reading 0; when
the time runs out first the request is given up; a swap stops a partition and evicts its groups, or restores an image (R299, R338 to R342; log entry 53 for the numbers of images;
log entry 19 for the handshake). -/
def Obligations.PartitionEvents : Prop :=
  ∀ s : State,
    (∀ cfg : List (BitVec 4 × Word), let ms := cfg.map Prod.fst
      s.pkg.reconfig = none → s.pkg.boot = 2 → legalConfig ms = true → s.changed ms ≠ [] → ∃ t, exec (.partitionReconfig cfg) s = .next t ∧
      t.pkg.reconfig = some ⟨ms, cfg.map Prod.snd, s.now⟩ ∧ s.sameMemory t ∧ t.groups = s.groups ∧
      ∀ k < s.parts.length, t.part k = if k ∈ s.changed ms then { s.part k with quiesce := some (s.now + 10000 * s.cyclesPerUs) } else s.part k) ∧
    (∀ (cfg : List (BitVec 4 × Word)) (r : Reconfig), s.pkg.reconfig = some r → ((s.changed r.masks).all s.partQuiet = false → exec (.partitionReconfig cfg) s = .next s) ∧
      ((s.changed r.masks).all s.partQuiet = true → s.parts.length = 4 → ∃ t, exec (.partitionReconfig cfg) s = .next t ∧ t.pkg.reconfig = none ∧
        ∀ k < 4, (k ∉ s.changed r.masks → t.part k = s.part k) ∧
          (k ∈ s.changed r.masks → r.masks.getD k 0 = 0 → (t.part k).live = false) ∧
          (k ∈ s.changed r.masks → r.masks.getD k 0 ≠ 0 → t.part k = Partition.fresh (BitVec.ofNat 2 k) (r.masks.getD k 0) (r.bases.getD k 0) ∧
            ∀ a < 2 ^ 48, Mem.get t.dram (dramKey k a) = 0))) ∧
    (∀ r, s.pkg.reconfig = some r → (s.changed r.masks).all s.partQuiet = false → (∃ p ∈ s.parts, ∃ q, p.quiesce = some q ∧ q ≤ s.now) →
      ∃ t, exec .quiesceTimeout s = .next t ∧ t.pkg.reconfig = none ∧ (∀ p ∈ t.parts, p.quiesce = none) ∧ s.sameMemory t ∧ t.groups = s.groups) ∧
    (∀ part image : Nat, (s.part part).live = true →
      ((s.part part).swapped = false → s.groupsOf part = [] → exec (.partitionSwap (part, image)) s = .next (s.modPart part fun _ => { s.part part with swapped := true })) ∧
      ((s.part part).swapped = false → ∀ g, s.groupsOf part = [g] → s.defersPreempt g = false → part < s.parts.length →
        ∃ t, exec (.partitionSwap (part, image)) s = .next t ∧ (t.part part).swapped = true ∧ (t.grp g).place = .evicted) ∧
      ((s.part part).swapped = true → s.groupsOf part = [] → part < s.parts.length →
        (image = (s.part part).image → exec (.partitionSwap (part, image)) s = .next (s.modPart part fun _ => { s.part part with swapped := false })) ∧
        (image ≠ (s.part part).image → ∃ t, exec (.partitionSwap (part, image)) s = .next t ∧ (t.part part).swapped = false ∧ (t.part part).image = image ∧ t.groups = s.groups ∧
          ∀ c < s.crews.length, (s.crew c).retired = false → (s.ctx (s.crew c).ctx).part = part → (s.ctx (s.crew c).ctx).image = (s.part part).image →
            (t.crew c).granules = [] ∧ (t.crew c).scratch = (s.crew c).scratch ∧ ∀ k < 8, ((t.crew c).tline k).resident = false)))

/-! ## Completion: for each of these constructors, states and operands on which its own effect is the next state -/

/-- The instruction or event answers a next state, of which something holds. -/
def Sys2Proof.Machine.State.completes (s : State) (i : Instr) (P : State → Prop) : Prop := ∃ u, exec i s = .next u ∧ P u

/-- A unit at its first issue passes its checks; its group and crew stand, and it has not waited yet. -/
def Sys2Proof.Machine.State.starts (s : State) (i : Instr) : Prop :=
  s.goes i ∧ s.cur.g < s.groups.length ∧ s.cur.rdone = false ∧ s.cur.regOnly = false ∧ ((s.issued i).grp s.cur.g).crew < (s.issued i).crews.length

/-- The control and system instructions that complete: fcall with aligned targets sends its lanes to them; so does ret where no fork record stands; fsync.sq has nothing to squash
there; fhint fills the slots; exit without rooms exits its lanes; yield and yield.x pause them; rett restores the frame it has read; tmask changes the mask; rdsr gives
a register to all lanes, wrsr writes one without a check; a sysc with a sound block gives its status, 0 where its arguments are; dtld of a sound table installs it, and of another gives
status 1 or 2 (R52, R56, R92, R97 to R99, R102, R106, R114, R322, R329, R332 to R335;
log entries 22, 27 and 52 as in the statements about the same instructions). -/
def Obligations.ControlFormsComplete : Prop :=
  ∀ (s : State) (i : Instr) (sc : BitVec 3) (d a b : BitVec 6), s.starts i →
    let t := s.issued i
    let g := s.cur.g
    let target (l : Nat) : Word := laneOf (t.src i .A) l
    (i = .fcall sc d a b → (∀ l < 32, s.active l → (target l).toNat % 4 = 0) → (∀ l < 32, ∀ r ∈ (s.lane g l).recs, r.nest < 255) →
      s.completes i fun u => ∀ l < 32, s.active l → (u.lane g l).pc = target l ∧ (u.lane g l).hintValid = false) ∧
    (i = .ret sc a → (∀ l < 32, s.active l → (target l).toNat % 4 = 0 ∧ (t.lane g l).recs = []) →
      s.completes i fun u => ∀ l < 32, s.active l → (u.lane g l).pc = target l) ∧
    (i = .fsyncSq sc → (∀ l < 32, s.active l → (t.lane g l).recs = []) → exec i s = .next t) ∧
    (i = .fhint sc a b → s.completes i fun u => ∀ l < 32, s.active l →
      (u.lane g l).hintValid = true ∧ (u.lane g l).hint0 = laneOf (t.src i .A) l ∧ (u.lane g l).hint1 = laneOf (t.src i .B) l) ∧
    (i = .exit sc → t.parksTaken → s.cur.lanes ≠ 0 → (∀ l < 32, s.active l → (t.lane g l).holds = [] ∧ (t.lane g l).recs = []) →
      s.completes i fun u => ∀ l < 32, s.active l → (u.lane g l).mode = .exited ∧ (u.lane g l).pc = s.cur.addr) ∧
    (i = .yield sc a ∨ (i = .yieldX sc a ∧ (s.grp g).shadow.isSome = true) → s.completes i fun u =>
      ∀ l < 32, s.active l → (u.lane g l).ready = s.now + max (sc.toNat + 1) (min (t.lead i .A).toNat 4095 + 1) ∧ (u.lane g l).pc = (t.lane g l).pc) ∧
    (i = .yieldX sc a → (s.grp g).shadow = none → ∃ u, (∀ l < 32, s.active l → (u.lane g l).ready = s.now + max (sc.toNat + 1) (min (t.lead i .A).toNat 4095 + 1)) ∧
      State.onlyGroup g t u ∧ (u.lacksRoom (u.partNo g) (u.grp g).level = none → exec i s = .next u)) ∧
    (i = .rett sc → (t.lane g (lowest s.cur.lanes)).inHandler = true → ∀ f x secs, (t.grp g).save = some f →
      t.readStages g s.cur.lanes f.fa [fun _ => List.range 40, fun q => fieldSecs (frameNREP q), fun q => imageSecs q (frameNREP q)] [] = .got x secs →
      exec i s = .next (x.restore g f s.cur.lanes secs)) ∧
    (∀ p ∈ [(Instr.tmaskSet sc d a, fun (x y : Bool) => x || y), (.tmaskClr sc d a, fun x y => x && !y), (.tmaskWr sc d a, fun _ y => y)], i = p.1 → s.completes i fun u =>
      ∀ k < 64, (u.grp g).trapmask.getLsbD k = (decide (k < 4) && p.2 ((t.grp g).trapmask.getLsbD k) ((t.lead i .A).getLsbD k))) ∧
    (∀ n : BitVec 12, i = .rdsr sc d n → ∃ (r : Result) (v : Word), r.all v ∧ exec i s = .next (t.finish i d r s.cur.lanes)) ∧
    (i = .wrsr sc d 0x005 → s.completes i fun u => ∀ k < 4, (u.grp g).trapmask.getLsbD k = (t.lead i .D).getLsbD k) ∧
    (let o := (t.lead i .D).toNat % 2 ^ 20
     let c := (t.grp g).crew
     let w (j : Nat) : Word := BitVec.ofNat 64 (Mem.num (t.crewOf g).scratch (o + 8 * j) 8)
     let status (n : Nat) : Prop := ∃ (x : State) (r : Result), r.all (BitVec.ofNat 64 n) ∧ exec i s = .next (x.finish i d r s.cur.lanes)
     let target := t.findCtx (t.partNo g) (w 0).toNat
     (i = .syscWhere sc d → ∃ r : Result, r.all (BitVec.ofNat 64 ((t.grp g).core / 4 + 2 ^ 8 * ((t.grp g).core % 4) + 2 ^ 10 * (t.grp g).slot + 2 ^ 16 * (t.grp g).gtag)) ∧
        exec i s = .next (t.finish i d r s.cur.lanes)) ∧
     (o % 64 = 0 → o + 64 ≤ (t.crewOf g).window → t.boxPoison c o 64 = false →
       (i ∈ [Instr.syscShoot sc d, .syscTerm sc d, .syscPodwin sc d, .syscFpdef sc d] → target = none → status 2) ∧
       (∀ x, target = some x →
         (i = .syscShoot sc d → t.inFlight x t.cur.cycle = false → status 0) ∧
         (i = .syscTerm sc d → ∀ k, t.taggedCrew x (w 1).toNat = some k → k ≠ c → status 0) ∧
         (i = .syscPodwin sc d → (w 1).toNat < 64 → status 0) ∧
         (i = .syscFpdef sc d → (w 1).toNat < 32 → (w 1).toNat % 8 ≤ 4 → status 0)) ∧
       (i = .syscQdesc sc d → (w 0).toNat < 65536 → (w 1).toNat / 4 % 32 ≤ 23 → 3 ≤ (w 1).toNat / 4 % 32 → status 0) ∧
       (i = .syscLevel sc d → (w 0).toNat < 24 → (w 1).toNat ≤ 64 → status 0) ∧
       (i = .syscRing sc d → (w 0).toNat < 16 → status 0))) ∧
    (i = .dtld sc d a →
      let va := (t.lead i .A).toNat
      let elts : List Elt := (List.range 128).map fun k => ⟨k, lowest s.cur.lanes, (va + 32 * k) % 2 ^ 64, 0⟩
      let p := t.plan (t.agent g) .load 256 elts
      va % 256 = 0 → p.void = none → p.trap = none → t.ctxNo g < t.ctxs.length → ∃ (x : State) (secs : List (Nat × Nat)), t.loadElts (t.agent g) 32 15 elts = (x, secs) ∧
        let entry (k : Nat) : Nat := leNat (((secs.flatMap fun q => leBytes 32 q.2).drop (2 * k)).take 2)
        let sound : Prop := ∀ k < 2048, k ≠ 0x3FF →
          entry k / 1024 % 32 = 0 ∧ (entry k / 2 ^ 15 = 1 → isShipping (decide (1024 ≤ k)) (entry k % 1024) = true)
        (sound → ∃ (r : Result) (c : Context), r.all 0 ∧ exec i s = .next ((x.modCtx (t.ctxNo g) fun _ => c).finish i d r s.cur.lanes) ∧
          ∀ k < 2048, k ≠ 0x3FF →
            (entry k / 2 ^ 15 = 1 → c.opMap (decide (1024 ≤ k)) (k % 1024) = some (entry k % 1024)) ∧
            (entry k / 2 ^ 15 = 0 → isShipping (decide (1024 ≤ k)) (k % 1024) = true → c.opMap (decide (1024 ≤ k)) (k % 1024) = none)) ∧
        (¬ sound → ∃ (r : Result) (n : Nat), (n = 1 ∨ n = 2) ∧ r.all (BitVec.ofNat 64 n) ∧ exec i s = .next (x.finish i d r s.cur.lanes)))

/-- The lane rows and accesses whose result is one register image: destination and width of its elements (R117, R136 to R141, R151 to R155). -/
def Sys2Proof.Machine.imageRow : Instr → Option (BitVec 6 × Nat)
  | .fdot _ _ d _ _ => some (d, 32)
  | .fclass pf sc d a => some (d, fmtWidth ((Instr.fclass pf sc d a).x % 8))
  | .frcp pf sc d a => some (d, fmtWidth ((Instr.frcp pf sc d a).x % 8))
  | .frsq pf sc d a => some (d, fmtWidth ((Instr.frsq pf sc d a).x % 8))
  | .fsqt pf sc d a => some (d, fmtWidth ((Instr.fsqt pf sc d a).x % 8))
  | .fexp2 pf sc d a => some (d, fmtWidth ((Instr.fexp2 pf sc d a).x % 8))
  | .flog2 pf sc d a => some (d, fmtWidth ((Instr.flog2 pf sc d a).x % 8))
  | .fsin pf sc d a => some (d, fmtWidth ((Instr.fsin pf sc d a).x % 8))
  | .fcos pf sc d a => some (d, fmtWidth ((Instr.fcos pf sc d a).x % 8))
  | .ftanh pf sc d a => some (d, fmtWidth ((Instr.ftanh pf sc d a).x % 8))
  | .shfl pf sc d a b => some (d, (Instr.shfl pf sc d a b).width)
  | .bcast pf sc d a b => some (d, (Instr.bcast pf sc d a b).width)
  | .rixG pf sc d a b => some (d, (Instr.rixG pf sc d a b).width)
  | .redl pf sc d a => some (d, fmtWidth ((Instr.redl pf sc d a).x % 16))
  | .scan pf sc d a ex => some (d, fmtWidth ((Instr.scan pf sc d a ex).x % 16))
  | _ => none

/-- The indices of bcast and rix lie within their source (R151, R152). -/
def Sys2Proof.Machine.State.indicesFit (t : State) (i : Instr) : Prop :=
  let w := i.width
  let n := 2048 / w
  let r := 2 ^ (i.x / 8 % 4)
  (∀ pf sc d a b, i = .bcast pf sc d a b → (laneOf (t.src i .B) (lowest t.cur.lanes)).toNat < n) ∧
  (∀ pf sc d a b, i = .rixG pf sc d a b → ∀ e < n, t.live i w e → el w e (t.src i .B) < r * n) ∧
  (∀ pf sc d a b, i = .rixS pf sc d a b → ∀ e < n, t.live i w e → el w e (t.src i .B) < r * n)

/-- The floating lane rows, cross-lane rows, accesses, cache operations and atomics that complete, with what they write: with FPMODE.NFT = 0 outside a continuation, where indices lie
within their source, addresses are aligned and no element meets a fault, each writes the elements of D that take part, or the registers and masks it names, with
the flags of its elements, or memory (their values are what the statements of these instructions say), and nothing else of its group (R117, R133, R136 to R143, R147, R150 to R156, R160, R164 to R166, R175, R185, R190, R213;
log entries 11, 40 and 44 as in the statements about the same instructions). -/
def Obligations.DataFormsComplete : Prop :=
  ∀ (s : State) (i : Instr) (pf : Option Pfx) (sc : BitVec 3) (d ad b : BitVec 6) (n : BitVec 4) (z : BitVec 2), s.starts i → s.cur.lanes ≠ 0 → s.partNo s.cur.g < 4 →
    (s.grp s.cur.g).shadow = none → (s.grp s.cur.g).nft = false →
    let t := s.issued i
    let g := s.cur.g
    let a := t.unitAgent
    let kept (u : State) : Prop := State.othersKept g t u ∧ (u.grp g).sameRegs (t.grp g) ∧ (u.grp g).sameSys (t.grp g)
    (∀ (e : BitVec 6) (w : Nat), imageRow i = some (e, w) → t.indicesFit i →
      ∃ (r : Result) (fl : List (Nat × BitVec 5)), exec i s = .next (t.finishWith i e r s.cur.lanes fl) ∧ r.lanewise t i w fun _ _ => True) ∧
    (i = .tmv pf sc d ad b →
      let M := 2 * (i.x % 4 + 1)
      let N := 2 * (i.x / 4 % 4 + 1)
      let z := if i.x / 64 % 2 = 1 then 2 else 4
      let o (l : Nat) : Nat := (laneOf (t.src i .B) l).toNat
      (∀ l < 32, s.active l → o l % 16 = 0 ∧ o l + (M * N + M) * z ≤ 131072) → s.poison = [] →
      ∃ (rs : Nat → Result) (fl : Nat → BitVec 5) (got : List (Nat × Nat)),
        exec i s = .next ((List.range (M / 2)).foldl (fun x j => x.writeReg g (d + BitVec.ofNat 6 j) (rs j)) ({ t with cur := { t.cur with got := got } }.addFlags g s.cur.lanes fl)) ∧
        ∀ j < M / 2, (rs j).lanewise t i 32 fun _ _ => True) ∧
    (∀ p : Pfx, i = .rixS p sc d ad b → t.indicesFit i →
      ∃ rs : Nat → Result, exec i s = .next ((List.range (2 ^ (i.x / 8 % 4))).foldl (fun x j => x.writeReg g (d + BitVec.ofNat 6 j) (rs j)) t)) ∧
    (i = .redmi pf sc d ad b → ∃ r0 r1 : Result, exec i s = .next ((t.writeReg g d r0).writeReg g (d + 1) r1) ∧
      (r0.lanewise t i (fmtWidth (i.x % 16)) fun _ _ => True) ∧ r1.lanewise t i (fmtWidth (i.x % 16)) fun _ _ => True) ∧
    (i = .cfd pf sc d ad ∨ i = .comb pf sc d ad b → ∃ (fl : Nat → BitVec 5) (r : Result) (m : Mask × Mask),
      exec i s = .next (((if i = .cfd pf sc d ad then t else t.addFlags g s.cur.lanes fl).finish i d r s.cur.lanes).finishMask i (i.x / 16) m []) ∧
      r.lanewise t i (if i = .cfd pf sc d ad then i.width else fmtWidth (i.x % 16)) fun _ _ => True) ∧
    (∀ space unit : Nat, loadRow i = some (d, space, unit) → t.sweepBase i unit % unit = 0 →
      let p := t.planSpace a space .load i.eb (t.sweep i (t.sweepBase i unit) 0)
      p.void = none → p.bad = 0 → (∀ e < 2048 / i.width, t.live i i.width e → ((t.ctxOf g).regionAt (t.elAddr i unit e)).isNone) → t.noReplica →
      ∃ (u : State) (r : Result), exec i s = .next (u.finish i d r s.cur.lanes) ∧ u.groups = t.groups ∧ r.lanewise t i i.width fun _ _ => True) ∧
    (i = .st pf sc d ad n z ∨ i = .sts pf sc d ad z →
      let space := if i = .st pf sc d ad n z then 0 else 1
      let p := t.planSpace a space .store i.eb (t.sweep i (t.sweepBase i i.eb) (t.src i .D))
      t.sweepBase i i.eb % i.eb = 0 → p.void = none → p.bad = 0 →
      (∀ e < 2048 / i.width, t.live i i.width e → ((t.ctxOf g).regionAt (t.elAddr i i.eb e)).isNone) → t.onlyDt → t.orphans = [] → s.completes i kept) ∧
    (i = .sld sc d ad n z ∨ i = .sst sc d ad n z →
      let addr := (t.lead i .A).toNat
      let space := addr / 2 ^ 52
      let va := addr % 2 ^ 52
      let eb := 2 ^ z.toNat
      let load : Prop := i = .sld sc d ad n z
      addr % eb = 0 → space ≤ 2 → (space = 0 → ((t.ctxOf g).regionAt va).isNone) → t.noReplica → t.onlyDt → t.orphans = [] →
      (load → (t.planSpace a space .load eb [⟨0, lowest s.cur.lanes, va, 0⟩]).void = none → (t.planSpace a space .load eb [⟨0, lowest s.cur.lanes, va, 0⟩]).trap = none →
        ∃ (u : State) (r : Result) (v : Word), exec i s = .next (u.writeReg g d r) ∧ r.all v ∧ u.groups = t.groups) ∧
      (¬ load → let p := t.planSpace a space .store eb [⟨0, lowest s.cur.lanes, va, (t.lead i .D).toNat % 2 ^ (8 * eb)⟩]
        p.void = none → p.trap = none → s.completes i kept)) ∧
    (i = .prf pf sc ad n z → t.sweepBase i i.eb % i.eb = 0 → s.completes i fun u => u.groups = t.groups ∧ u.crews = t.crews) ∧
    (∀ x : Xl, i = .pin pf sc d ad z ∨ i = .unpin pf sc d ad z → t.reachBy a .load (t.sweepBase i 256) = .ok x → (i = .pin pf sc d ad z → t.pinFault a (t.sweepBase i 256) x = none) →
      ∃ (u : State) (r : Result) (st : Nat), exec i s = .next (u.writeReg g d r) ∧ r.inLanes s.cur.lanes (fun _ => BitVec.ofNat 64 st) ∧ u.groups = t.groups) ∧
    (i ∈ [Instr.sinv pf sc d ad, .swb pf sc d ad, .swbInv pf sc d ad] → t.sweepBase i 256 % 256 = 0 → (t.lead i .D).toNat ≤ 4096 → t.oneCopy →
      (i = .sinv pf sc d ad ∨ ∀ k < (t.lead i .D).toNat, (t.tlb.any fun e => e.covers a.quad a.ctx ((t.sweepBase i 256 + 256 * k) % 2 ^ 64)) = true) → s.completes i kept) ∧
    (i = .hdef sc d ad b →
      let h := haloOf (t.lead i .A) (t.lead i .B)
      let x := t.dropHalo a.ctx d.toNat
      (h.rows = 0 → exec i s = .next x) ∧
      (h.rows ≠ 0 → h.base.toNat % 32 = 0 → x.haloBad a.part h (t.lead i .B) = false → x.haloPages a.quad a.ctx h = .ok none → (x.ctx a.ctx).haloMeets h = false →
        ((x.replicaLines a.ctx (x.haloReplicas a.ctx h)).foldl (fun y l => y.bind fun y => y.pinReplica (t.agent g) l.1 l.2) (some x)).isSome → a.ctx < t.ctxs.length →
        s.completes i fun u => (look (u.ctx a.ctx).halos d.toNat).map (fun q => (q.base, q.rows, q.replicas)) = some (h.base, h.rows, x.haloReplicas a.ctx h))) ∧
    (∀ (e : BitVec 6) (signed : Bool) (new : Nat → Nat → Option Nat), atomicRow t i = some (e, signed, new) →
      let va (l : Nat) : Nat := (laneOf (t.src i .A) l).toNat
      let elts : List Elt := ((lanesOf s.cur.lanes).filter fun l => t.takesPart i 64 l).map fun l => ⟨l, l, va l, 0⟩
      (∀ l < 32, t.live i 64 l → va l % (i.width / 8) = 0) →
      (∀ l < 32, t.live i 64 l → ∀ x, t.placeOf .store (va l) x → x.host = false ∧ (x.attr = 1 → 1 < i.x / 16)) →
      (t.plan a .atomic i.width elts).void = none → (t.plan a .atomic i.width elts).bad = 0 → t.onlyDt → t.orphans = [] → (∀ e ∈ t.tlb, 8 ≤ e.log) →
      ∃ (u : State) (r : Result), exec i s = .next (u.finish i e r s.cur.lanes) ∧ kept u ∧ ∀ l < 32, t.live i 64 l → laneOf r.en l = BitVec.allOnes 64)

/-- The rooms, fences, barriers, waits, buffers, engine commands, engine contexts and launches that complete: each, once its group is quiet where it releases, and where its checks pass and
what it waits for stands, has the effect of its rule (R202 to R204, R226, R228 to R233, R237, R240, R243 to R246, R254, R255, R301, R310 to R313;
log entries 27, 30, 32, 47 and 49 as in the statements about the same instructions). -/
def Obligations.EngineFormsComplete : Prop :=
  ∀ (s : State) (i : Instr) (sc : BitVec 3) (d a b : BitVec 6), s.starts i → s.cur.lanes ≠ 0 →
    let t := s.issued i
    let g := s.cur.g
    let c := t.ctxNo g
    let cr := (t.grp g).crew
    let part := t.partNo g
    let n := (t.lead i .A).toNat
    let acq (x : State) (scope : Nat) : State := (x.acquire g scope).acquireMarks g s.cur.lanes
    (∀ (mode : BitVec 3) (l : Nat), i = .enter sc d a mode ∨ i = .enterTry sc d a mode → l < 32 → s.cur.lanes = BitVec.twoPow 32 l →
      let r := (laneOf (t.src i .A) l).toNat
      t.entryOf c g l r mode.toNat (i = .enterTry sc d a mode) = .letIn → s.completes i fun u => (u.lane g l).holds = (t.lane g l).holds ++ [⟨r, mode.toNat⟩]) ∧
    (i = .leave sc a → (∀ l < 32, s.active l → ((t.lane g l).holdOf (laneOf (t.src i .A) l).toNat).isSome) → t.mayRelease i = true →
      s.completes i fun u => ∀ l < 32, s.active l → (u.lane g l).holds = (t.lane g l).holds.filter fun h => h.region != (laneOf (t.src i .A) l).toNat) ∧
    (i = .rstat sc d a → ∃ (r : Result) (f : Nat → Word), exec i s = .next (t.writeReg g d r) ∧ r.inLanes s.cur.lanes f) ∧
    (i = .rdecl sc d a b → t.mayRelease i = true →
      let no := (t.lead i .D).toNat % 2 ^ 16
      let q := regionOf (t.lead i .D) (t.lead i .A) (t.lead i .B)
      (t.release g 3).rdeclFault (t.agent g).quad c no (t.lead i .D) (t.lead i .B) q = .ok none → c < t.ctxs.length →
      s.completes i fun u => (u.ctx c).region no = (if q.modes = 0 then none else some q)) ∧
    (∀ (w : BitVec 3) (m : BitVec 2), i = .fence sc w m → t.mayRelease i = true →
      let x := if m.getLsbD 1 then t.release g w.toNat else t
      exec i s = .next (if m.getLsbD 0 then acq x w.toNat else x)) ∧
    (∀ w : BitVec 3, w ≠ 4 → i = .barArrive sc d a w ∨ i = .barSync sc d a w → t.mayRelease i = true →
      let p := (t.release g w.toNat).barAt g d.toNat w.toNat
      ∀ v, p.1.bars[p.2]? = some v → p.1.barFault g d.toNat w.toNat (n % 2 ^ 16) v = none →
        (i = .barArrive sc d a w → s.completes i fun u => ∃ v', u.bars[p.2]? = some v' ∧ (v'.gen = v.gen + 1 ∧ v'.cnt = 0 ∨ v'.gen = v.gen ∧ v'.cnt = v.cnt + 1)) ∧
        (i = .barSync sc d a w → (if v.cnt ≠ 0 then v.limit else if n % 2 ^ 16 ≠ 0 then n % 2 ^ 16 else p.1.barDefault g w.toNat) = v.cnt + 1 →
          (let x : State := { p.1.barArrive g d.toNat w.toNat (n % 2 ^ 16) p.2 with cur := { t.cur with rdone := true } }
           x.lost i = false → s.completes i fun u => (u.grp g).barRec d.toNat w.toNat = none))) ∧
    (∀ w : BitVec 3, i = .barWait sc d a w → t.lost i = false → t.barMet t.bars g d.toNat w.toNat = true →
      s.completes i fun u => (u.grp g).barRec d.toNat w.toNat = none) ∧
    (i ∈ [Instr.pbarInit sc a b, .pbarArrive sc a, .pbarWait sc a b] →
      let w := Mem.num (t.crewOf g).scratch n 8
      let exp := w % 2 ^ 16
      let pend := w / 2 ^ 16 % 2 ^ 16
      let ph := w / 2 ^ 32 % 2
      let count := (t.lead i .B).toNat % 2 ^ 16
      n % 8 = 0 → n + 8 ≤ (t.crewOf g).window → t.boxPoison cr n 8 = false →
      (i = .pbarInit sc a b → count ≠ 0 → exec i s = .next (t.writeScratch cr n (leBytes 8 (count + 2 ^ 16 * count)))) ∧
      (pend ≠ 0 → pend ≤ exp → w / 2 ^ 33 = 0 →
        (i = .pbarArrive sc a → t.mayRelease i = true → exec i s = .next ((t.release g 1).writeScratch cr n (leBytes 8
          (if pend = 1 then exp + 2 ^ 16 * exp + 2 ^ 32 * (1 - ph) else exp + 2 ^ 16 * (pend - 1) + 2 ^ 32 * ph)))) ∧
        (i = .pbarWait sc a b → t.lost i = false → ph ≠ (t.lead i .B).toNat % 2 → exec i s = .next (acq t 1)))) ∧
    (let buf := (t.crew cr).buf d.toNat
     let occ := (buf.pp - buf.cp).toNat
     let k := n % 2 ^ 16
     let moved (x : CircBuf) : Prop := exec i s = .next ((t.release g 1).modCrew cr fun y => y.setBuf d.toNat x)
     let new := bufOf n (t.lead i .B).toNat
     (i = .cbdef sc d a b → n % 32 = 0 → bufInvalid n (t.lead i .B).toNat = false → new.base + new.cap * new.elem ≤ (t.crew cr).window → t.bufBusy cr d.toNat = false → new.hin = 0 →
       exec i s = .next (t.modCrew cr fun y => y.setBuf d.toNat (if new.cap = 0 then CircBuf.undeclared else new))) ∧
     (buf.cap ≠ 0 → k ≤ buf.cap → k ≠ 0 →
       (buf.pside = .groups → buf.hin = 0 → k ≤ buf.cap - occ →
         (i = .cbadvWroom sc d a → t.lost i = false → exec i s = .next (acq t 1)) ∧
         (i = .cbadvPut sc d a → t.mayRelease i = true → moved { buf with pp := buf.pp + BitVec.ofNat 32 k })) ∧
       (buf.cside = .groups → k ≤ occ →
         (i = .cbadvWdata sc d a → t.lost i = false → exec i s = .next (acq t 1)) ∧
         (i = .cbadvGet sc d a → t.mayRelease i = true → moved { buf with cp := buf.cp + BitVec.ofNat 32 k })))) ∧
    (∀ w, (t.crew cr).sw[d.toNat]? = some w →
      (i = .swarm sc d a → w.count.toNat < n % 2 ^ 32 → exec i s = .next (t.modCrew cr fun y => { y with sw := y.sw.setIfInBounds d.toNat { w with target := BitVec.ofNat 32 n } })) ∧
      (i = .swwait sc d a → n < w.gen.toNat → exec i s = .next (acq t 1))) ∧
    (i = .tlwait sc d a → t.parkDue d.toNat = none → n ≤ ((t.crew cr).tline d.toNat).count → exec i s = .next (t.acquireMarks g s.cur.lanes)) ∧
    (∀ (tl : Nat) (e : Engine) (l : List Word), t.commandRow i = some (tl, e, none, l) → t.parkDue tl = none → tl < 8 →
      (((t.crew cr).tline tl).engine = none ∨ ((t.crew cr).tline tl).engine = some e) → t.queueFull g e = false →
      s.completes i fun u => ((u.crew cr).tline tl).issued = ((t.crew cr).tline tl).issued + 1 ∧ ((u.crew cr).tline tl).engine = some e ∧
        (((u.crew cr).tline tl).cmds.getLast?.map fun x => (x.instr, x.g, x.blk, x.started)) = some (i, g, l, false)) ∧
    (let k := d.toNat
     let tm := (t.crew cr).tline k
     let becomes (x : Timeline) : Prop := exec i s = .next (t.modTl cr k fun _ => x)
     t.parkDue k = none → k < 8 →
       (∀ m : BitVec 2, i = .ectxBind sc d m → tm.engine = none → s.completes i fun u => ((u.crew cr).tline k).engine = some (engOf m.toNat)) ∧
       (i = .ectxUnbind sc d → tm.engine ≠ none → tm.cmds = [] → s.completes i fun u => ((u.crew cr).tline k).engine = none) ∧
       (i = .ectxDrain sc d → tm.resident = false → exec i s = .next t) ∧
       (i = .ectxPin sc d → tm.engine ≠ none → t.otherPinned cr k tm.engine = false → becomes { tm with pinned := true }) ∧
       (i = .ectxUnpin sc d → tm.engine ≠ none → becomes { tm with pinned := false }) ∧
       (∀ p, tm.parked = some p → (i = .ectxResume sc d → s.completes i fun u => ((u.crew cr).tline k).parked = none ∧ ((u.crew cr).tline k).count = tm.count) ∧
         (i = .ectxAbort sc d → s.completes i fun u => ((u.crew cr).tline k).parked = none ∧ ((u.crew cr).tline k).aborted = true ∧ ((u.crew cr).tline k).count = tm.issued))) ∧
    (∀ m : BitVec 3, i = .estat sc d a m → ∃ (r : Result) (v : Word), r.all v ∧ exec i s = .next (t.finish i a r s.cur.lanes) ∧
      (m = 0 → v = BitVec.ofNat 64 ((t.crew cr).tline d.toNat).count)) ∧
    (i = .tdef sc d a → n % 64 = 0 → n + 64 ≤ (t.crewOf g).window → t.boxPoison cr n 64 = false → (t.descriptor cr n).fmt ≠ 15 → (t.descriptor cr n).invalid = false → c < t.ctxs.length →
      s.completes i fun u => look (u.ctxOf g).tensors ((t.lead i .D).toNat % 2 ^ 16) = some (t.descriptor cr n)) ∧
    (let off := n % 2 ^ 20
     let box (k : Nat) : List Byte := Mem.read (t.crew cr).scratch off k
     let x := (t.readBox i (if i = .gnode sc d a b then 160 else 64)).release g 3
     let sound (align k : Nat) : Prop := off % align = 0 ∧ off + k ≤ (t.crew cr).window ∧ t.boxPoison cr off k = false ∧ n / 2 ^ 20 = 0 ∧ (launchOf (box k)).malformed = false
     let q := x.queue part ((t.lead i .D).toNat % 2 ^ 16)
     let fit (prod : Bool) : Prop := x.queueValid part q = true ∧ (prod = true → q.w0.testBit 1 = true) ∧ q.ctxid = (x.ctxOf g).id.toNat
     let cx := t.ctxOf g
     (t.mayRelease i = true →
       (i = .launch sc d a b → sound 64 64 → fit true → q.held ≠ 2 ^ q.elog → x.ringVoid part q q.wptr = none →
         ∃ (u : State) (r : Result), r.all (BitVec.ofNat 64 q.wptr) ∧ exec i s = .next (u.finish i b r s.cur.lanes)) ∧
       (i = .gnode sc d a b → sound 32 160 → fit true → (launchOf (box 160)).ordq = false → (∀ w ∈ nodeOps (box 160), w.toNat / 4 % 64 = 0) →
         ∀ k < 16384, (∀ y ∈ (x.part part).nodes, y.idx ≠ k) → (∀ j < k, ∃ y ∈ (x.part part).nodes, y.idx = j) →
         ∃ (u : State) (r : Result), r.all (BitVec.ofNat 64 (k + 2 ^ 14 * ((x.part part).genOf k % 2 ^ 18))) ∧ exec i s = .next (u.finish i b r s.cur.lanes) ∧
           (part < x.parts.length → (u.part part).nodes.length = (x.part part).nodes.length + 1)) ∧
       (i = .tapePush sc a → sound 64 64 → (launchOf (box 64)).ordq = false → (x.ctxOf g).tapeLog ≠ 0 → (x.ctxOf g).tapeDepth ≠ 2 ^ (x.ctxOf g).tapeLog → (x.ctxOf g).tapeRun = none →
         x.beyond (x.ctxOf g).part ((x.ctxOf g).tapeAt (x.ctxOf g).tapeDepth) 64 = none → x.ctxNo g < x.ctxs.length →
         s.completes i fun u => (u.ctxOf g).tapeDepth = (x.ctxOf g).tapeDepth + 1)) ∧
     (i = .prio sc a → s.completes i fun u => (u.grp g).prio.toNat = (t.grp g).prio.toNat % 2 ^ 5 + 2 ^ 5 * (n % 2 ^ 3)) ∧
     (cx.tapeLog ≠ 0 →
       (i = .tapeDepth sc a → ∃ r : Result, r.all (BitVec.ofNat 64 cx.tapeDepth) ∧ exec i s = .next (t.finish i a r s.cur.lanes)) ∧
       (i = .tcut sc a → cx.tapeRun = none → exec i s = .next (t.modCtx c fun _ => { cx with tapeDepth := min cx.tapeDepth n })) ∧
       (i = .tapeRun sc d a → n ≤ cx.tapeDepth → cx.tapeRun = none →
         let y := t.queue part ((t.lead i .D).toNat % 2 ^ 16)
         t.queueValid part y = true → y.ctxid = cx.id.toNat →
         exec i s = .next (t.modCtx c fun _ => { cx with tapeRun := if n = cx.tapeDepth then none else some ⟨n, y.level, none⟩ }))))

/-- The events that complete: each, where it is enabled, has the effect of its rule on the one thing that it is about (R49, R81, R86, R87, R169, R171, R173, R179, R182, R183, R193, R194, R205 to R208, R226,
R237 to R239, R249, R286, R287, R294, R296, R298 to R309, R317, R324, R338 to R351;
log entries 4, 8, 14, 19, 28, 33, 34, 53, 54 and 58 as in the statements about the same events). -/
def Obligations.EventsComplete : Prop :=
  ∀ s : State,
    -- a group, its units and its traps
    (∀ g k u, s.readyConsumer g = some (u, k) → g < s.groups.length → (s.grp g).waits.Nodup → u.iss.res.isSome → (k = 0 ∨ ((s.settle g).accepts g u.instr.rawX k).isSome) →
      s.completes (.consumerAccept g) fun t => u ∉ (t.grp g).waits ∧ State.othersKept g s t) ∧
    (∀ (quad : Nat) (dir : BitVec 2) g k u, s.atInput quad dir.toNat = some (g, u, k) → g < s.groups.length → (s.grp g).waits.Nodup → u ∈ (s.grp g).waits → u.iss.res.isSome →
      k ≠ 0 → u.iss.dlv.getLsbD k = false → ((s.settle g).accepts g u.instr.rawX k).isSome → s.completes (.hypnumImageAccept quad dir) fun t => u ∉ (t.grp g).waits ∧ State.othersKept g s t) ∧
    (∀ g u, s.nextUnit g = some u → u.iss.left = none → (s.takeUnit g u).passesAgain u.instr →
      let t := s.takeUnit g u
      (∀ (pf : Option Pfx) (sc : BitVec 3) (d a : BitVec 6), u.instr = .cfd pf sc d a → t.cur.lanes ≠ 0 → ∃ (r : Result) (m : Mask × Mask),
        exec (.variableResultWrite g) s = .next (((t.issued u.instr).writeReg t.cur.g d r).finishMask u.instr (u.instr.x / 16) m [])) ∧
      (∀ (pf : Option Pfx) (sc : BitVec 3) (d a : BitVec 6) (n : BitVec 4) (z : BitVec 1), u.instr ∈ [Instr.atom pf sc d a n z, .acas pf sc d a n z, .abinc pf sc d a n z] →
        (∀ l < 32, (t.issued u.instr).takesPart u.instr 64 l = false) → ∃ (x : State) (r : Result), exec (.atomicExecute g) s = .next (x.finish u.instr d r t.cur.lanes))) ∧
    (∀ g, exec (.writeAck g) s = .next (s.modGrp g fun gr => { gr with acks := gr.acks.drop 1 })) ∧
    (∀ g u, s.readyWait g = some u → ∀ (sc c : BitVec 3), u.instr = .fence sc c 1 →
      let t := { s.modGrp g fun gr => { gr with waits := gr.waits.filter fun w => w != u } with cur := u.iss }
      t.passesAgain u.instr → (t.issued u.instr).mayRelease u.instr = true →
      exec (.waitRelease g) s = .next (((t.issued u.instr).acquire u.iss.g c.toNat).acquireMarks u.iss.g u.iss.lanes)) ∧
    (∀ g, (s.grp g).place = .resident → (s.grp g).wdog.getLsbD 32 = true → (s.grp g).inMode .running ≠ 0 → (s.grp g).wdog.toNat % 2 ^ 32 ≤ (s.grp g).wdN → (s.grp g).trapmask.getLsbD 2 = true →
      ∃ v : Word, v.getLsbD 32 = false ∧ v.getLsbD 33 = true ∧ exec (.watchdogExpiry g) s = .next (s.modGrp g fun x => { x with wdog := v })) ∧
    (∀ g (v : Word), ¬ (v.getLsbD 32 = true ∧ v.toNat % 2 ^ 32 < 64) → ∃ (x m : Word) (k : Nat),
      exec (.wdogWrite g v) s = .next (s.modGrp g fun gr => { gr with wdog := x, wdM := m, wdN := k }) ∧ ∀ j < 33, x.getLsbD j = v.getLsbD j) ∧
    (∀ g ls (cause sub : BitVec 8) (fa : Word), (s.grp g).oneSet ls = true → causeUsed cause = true →
      exec (.trapEntry g ls cause sub fa) s = .next (s.raise ⟨g, ls, ⟨cause, sub, fa, none⟩, none, false, false, 0, 0, (s.lane g (lowest ls)).pc⟩)) ∧
    (∀ g, (s.grp g).heldReady = true → g < s.groups.length → (∀ l < 32, (s.lane g l).mode = .held → (s.lane g l).held.isSome) →
      s.completes (.heldTrapTake g) fun t => (t.grp g).place = .dead ∨ ∀ l ∈ (s.grp g).heldNext, (t.lane g l).mode = .handler) ∧
    (∀ g, (s.grp g).place = .resident → (s.grp g).shadow = none → g < s.groups.length → s.defersPreempt g = false →
      (s.completes (.preemptRequest g) fun t => (t.grp g).place = .evicted) ∧
      ((s.grp g).preempt.isSome → s.completes (.preboundExpiry g) fun t => (t.grp g).place = .evicted ∧ (t.grp g).preempt = none)) ∧
    (∀ core line, s.completes (.instructionBufferFill core line) fun t => ⟨core, s.ctxNo s.cur.g, line.toNat / 256⟩ ∈ t.ibuf) ∧
    -- queues, crews and tasks
    (∀ part q (v : Word), let d := s.queue part q
      q < 65536 → s.queueValid part d = true → d.w0.testBit 1 = false → d.wptr ≤ v.toNat → v.toNat ≤ d.rptr + 2 ^ d.elog → exec (.doorbell part q v) s = .next (s.putQueueWord part q 3 v.toNat)) ∧
    (∀ part q, let p := s.part part
      s.queueLive part (s.queue part q) = true → (s.queue part q).held ≠ 0 → (∀ x ∈ p.slots, x.q ≠ q) → p.quiesce = none → p.swapped = false → p.live = true → p.slots.length < 64 → part < s.parts.length →
      s.completes (.queueMap part q) fun t => (t.part part).slots.map (fun x => x.q) = p.slots.map (fun x => x.q) ++ [q]) ∧
    (∀ part q, part < s.parts.length → s.completes (.sliceExpiry part q) fun t => ∀ x ∈ (t.part part).slots, x.q = q →
      (s.queue part q).slice * s.cyclesPerUs ≤ s.now - x.since → x.expired = true) ∧
    (∀ part q l u, s.nextWork part = some (l, .queue q, .next u) → look (s.part part).placing q = none → part < s.parts.length →
      s.completes (.dispatch part) fun t => t.tasks.length = s.tasks.length + 1) ∧
    (∀ part l w plan, s.nextPlan part = some (l, w, plan) → plan.length ≤ 1 →
      exec (.eviction part) s = .next (plan.foldl (fun s x => match x.2 with | some gs => gs.foldl State.preemptGroup (s.reclaimShadows x.1) | none => s) s)) ∧
    (∀ g l u, s.nextWork (s.groupPart (s.grp g)) = some (l, .resume g, .next u) → g < s.groups.length → exec (.groupResume g) s = .next u ∧ (u.grp g).place = .resident) ∧
    (∀ n, n < s.crews.length → (s.crew n).retired = false → (∀ g ∈ (s.crew n).groups, ((s.grp g).place = .retired ∨ (s.grp g).place = .dead) ∧ (s.grp g).acks = []) →
      (∀ k < 8, ((s.crew n).tline k).cmds = []) → (s.crew n).task < s.tasks.length → s.completes (.crewRetire n) fun t => (t.crew n).retired = true ∧ (t.crew n).granules = []) ∧
    (∀ n, let k := s.task n
      n < s.tasks.length → k.complete = false → k.placed = k.ncrews → k.retired = k.ncrews → (∃ part q, k.source = .queue part q) → k.pkt.compl = 0 →
      s.completes (.taskComplete n) fun t => (t.task n).complete = true) ∧
    -- rooms
    (∀ ctx r q, ctx < s.ctxs.length → (s.ctx ctx).region r = some q →
      (∀ w, q.window = some w → w ≤ s.now → s.completes (.admitWindowExpiry ctx r) fun t => ((t.ctx ctx).region r).map (fun x => (x.admitting, x.window)) = some (false, none)) ∧
      (q.drain = true → s.occupants ctx r = 0 → q.demands = [] → s.completes (.drainComplete ctx r) fun t => ((t.ctx ctx).region r).map (fun x => (x.open_, x.drain)) = some (none, false)) ∧
      (∀ m, q.open_ = some m → q.admitting = true → q.drain = false → m ≠ 4 → s.completes (.demandAdmit ctx r) fun t =>
        ∀ d ∈ q.demands, d.mode = m → d.g < s.groups.length → d.lane < 32 → ⟨r, m⟩ ∈ (t.lane d.g d.lane).holds) ∧
      (∀ g l p, (s.lane g l).park = some p → (s.grp g).place = .resident → p.limit ≠ 0 → p.limit ≤ p.count → s.ctxNo g = ctx → p.region = r →
        ∃ x : State, exec (.roomwaitTimeout g l) s =
          .next (x.raise ⟨g, oneLane l, ⟨cROOMWAIT, 0x01, BitVec.ofNat 64 r, none⟩, some p.unit, true, true, p.unit.iss.word, p.unit.iss.pword, p.unit.iss.addr⟩)) ∧
      (∀ p ∈ (s.ctx ctx).partials, p.region = r → (∀ p' ∈ (s.ctx ctx).partials, p'.region = r → p'.quad = p.quad → p'.line = p.line → p' = p) →
        s.completes (.partialFlush ctx r p.quad p.line) fun t => p ∉ (t.ctx ctx).partials)) ∧
    -- clocks, caches and memory
    (s.epoch < s.now / 64 → s.completes .reuseEpochTick fun t => t.epoch = s.epoch + 1) ∧
    (∀ c, (s.crew c).paceDue = true → c < s.crews.length → s.completes (.crewpaceRecompute c) fun t => (t.crew c).pace = BitVec.ofNat 16 (min (max (s.crew c).paceEpochs 1) 0xFFFF)) ∧
    (∀ k, let c := s.ctx k
      k < s.ctxs.length → 65536 ≤ c.reusest.toNat % 2 ^ 17 + c.reusest.toNat / 2 ^ 17 % 2 ^ 17 → 32768 < c.reusest.toNat / 2 ^ 17 % 2 ^ 17 →
      s.completes (.reusefAdjust k) fun t => (t.ctx k).reusef.toNat = min (c.reusef.toNat % 8 + 1) 4) ∧
    (∀ l2 cache set, s.completes (.stampSweep l2 cache set) fun t => t.cache.length = s.cache.length ∧
      ∀ c ∈ t.cache, c.cache = (if l2 then 256 + cache else cache) → c.set = set → -16384 ≤ (c.due - BitVec.ofNat 16 s.epoch).toInt) ∧
    (∀ quad part line : Nat, s.onlyDt → s.dtPossible quad part line = true → quad < 256 →
      (s.dtState quad part line = .I → s.completes (.dtReadMiss quad part line) fun t => s.sameMemory t ∧ ∀ k < 256, k ≠ quad → t.dtState k part line ≠ .M ∧ t.dtState k part line ≠ .E) ∧
      (s.dtState quad part line ≠ .M → s.completes (.dtWriteOwnership quad part line) fun t => s.sameMemory t ∧ ∀ k < 256, k ≠ quad → t.dtState k part line = .I)) ∧
    (∀ (quad part line : Nat) (c : CLine) (m : Moesi), s.copyIn quad part line = some c → c.kind = .dt m → c.pins = 0 →
      s.completes (.dtEviction quad part line) fun t => s.sameMemory t ∧ c ∉ t.cache) ∧
    (∀ (quad ctx : Nat) (va : Word) (x : Xl), (s.ctx ctx).live = true → s.xlate quad ctx va.toNat = .page x →
      s.completes (.pageWalkComplete quad ctx va) fun t => ∃ e ∈ t.tlb, e.cache = quad ∧ e.ctx = ctx ∧ e.base = x.base ∧ e.log = x.log) ∧
    (∀ ctx start len : Nat, s.inFlight ctx s.now = false → s.completes (.shootdownComplete ctx start len) fun t =>
      ∀ e, e ∈ t.tlb ↔ e ∈ s.tlb ∧ ¬ (e.ctx = ctx ∧ e.base < start + len ∧ start < e.base + 2 ^ e.log)) ∧
    (∀ part n src a, 32 * n < (s.part part).dramSize → Spot.home part n ∉ s.poison → s.completes (.eccUncorrectable (.home part n) src a) fun t => Spot.home part n ∈ t.poison) ∧
    (∀ (src : BitVec 16) (loc : Word), (∀ e ∈ s.pkg.ras, ¬ (e.kind = 1 ∧ e.source = src ∧ e.addr = loc)) → exec (.correctedEccError src loc) s = .next (s.rasEntry 1 src loc)) ∧
    (∀ die : Nat, die < 4 → die ∉ s.deadDies → s.completes (.dieFailure die) fun t => t.deadDies = die :: s.deadDies ∧ t.dram = s.dram) ∧
    (∀ (addr : Nat) (bs : List Byte), addr + bs.length ≤ 2 ^ 48 → exec (.hostMemoryWrite .host addr bs) s = .next { s with hostMem := Mem.write addr bs s.hostMem }) ∧
    -- engines
    (∀ c tl, c < s.crews.length → tl < 8 → let tm := (s.crew c).tline tl
      (∀ x, s.startable c tl = some x → (tm.resident = true ∨ (s.residents c tl).length < 2) → s.completes (.engineCommandStart c tl) fun t => s.sameMemory t ∧
        ((t.crew c).tline tl).cmds = tm.cmds.map fun y => if y.n = x.n then { y with started := true, heard := s.now } else y) ∧
      (∀ n x, s.liveCmd c tl n = some x → s.engineRuns c = true →
        (∀ sc d ty m, x.instr = .mclr sc d ty m → tm.held x = false → s.completes (.engineStep c tl n) fun t =>
          ∀ k < 4, ((t.crew c).tline tl).mat.tile k = if m.getLsbD k then Tile.zero (ty == 1) else tm.mat.tile k) ∧
        (∀ sc d a f r, x.instr = .mma sc d a f r → x.step = x.rows → x.nft = false → x.tens.scaled = false → x.pins = [] → x.opened = true → s.arrayTaken c tl x = false →
          (tm.mat.slot x.ws).loaded = true → pairRow (tm.mat.slot x.ws).fmt = pairRow x.tens.fmt → (tm.mat.tile x.acc).isInt = false → intRow x.tens.fmt = false → s.kReady c tl x = true →
          tm.mat.part.length = x.rows → (∀ row ∈ tm.mat.part, row.length = 128) →
          s.completes (.matrixKstep c tl n) fun t => s.sameMemory t ∧ ∃ y ∈ ((t.crew c).tline tl).cmds, y.n = x.n ∧ y.done = true) ∧
        (∀ sc d a f, x.instr = .ixs sc d a f → ∀ (u : Upd) (p : Nat × Nat × Nat), x.ups.filterMap (fun v => (s.nextAdd (s.agent x.g) x v).map fun q => (v, q)) = [(u, p)] →
          s.lostHome (s.agent x.g).part p.2.2 = false → s.poisoned (s.agent x.g).part p.2.2 = false → s.onlyDt → (s.agent x.g).part < 4 → x.tens.width / 8 ≠ 0 → p.2.1 % (x.tens.width / 8) = 0 →
          s.completes (.ixsSectorAdd c tl n) fun t => t.groups = s.groups ∧
            ∀ k, (k < dramKey (s.agent x.g).part p.2.2 ∨ dramKey (s.agent x.g).part p.2.2 + p.2.1 ≤ k) → Mem.get t.dram k = Mem.get s.dram k)) ∧
      (∀ n x, s.cmdAt c tl n = some x → x.done = true → s.completes (.commandFinish c tl n) fun t =>
        ((t.crew c).tline tl).cmds.map (fun y => y.n) = (tm.cmds.map fun y => y.n).filter fun k => k != n) ∧
      (tm.draining = true → tm.inProgress = false → s.completes (.contextDrain c tl) fun t => ((t.crew c).tline tl).resident = false ∧ ((t.crew c).tline tl).draining = false) ∧
      (∀ x, s.silentCmd c tl = some x → tm.parked = none → s.completes (.peerSilentTimeout c tl) fun t =>
        (((t.crew c).tline tl).parked.map fun p => (p.n, p.trap.cause, p.trap.sub)) = some (x.n, cENGINE, 0x85))) ∧
    -- links
    (∀ k : Nat, k < 16 → let q := s.port k
      (∀ pkt : Packet, q.up = true → pkt.crcOk = true → pkt.seq = q.rxSeq → pkt.kind = .collective ∨ pkt.kind = .lput →
        s.completes (.yarrowPacketReceive k pkt) fun t => (t.port k).rxSeq = q.rxSeq + 1 ∧ t.pkg.inbox = s.pkg.inbox ++ [(k, pkt)]) ∧
      (q.up = true → q.buffer ≠ [] → q.replays < 8 → exec (.yarrowReplay k) s = .next (s.modPort k fun _ => { q with replays := q.replays + 1 })) ∧
      (q.up = false → exec (.yarrowPortRetrain k) s = .next (s.modPort k fun _ => { q with up := true, replays := 0 })) ∧
      (∀ pkt : Packet, pkt.kind = .lput → pkt.poison = false → (k, pkt) ∈ s.pkg.inbox →
        ∀ cx x, (findIx (fun c : Context => c.live && c.id == pkt.ctx) s.ctxs).map (·.1) = some cx → (s.ctx cx).part < 4 →
          s.reach 0 cx (!(s.ctx cx).isSys) .store pkt.addr = .ok x → ((s.ctx cx).regionAt pkt.addr).isNone → x.host = false → s.lostHome (s.ctx cx).part x.pa = false → s.onlyDt →
          s.completes (.lputSectorReceive k pkt) fun t => Mem.read t.dram (dramKey (s.ctx cx).part x.pa) pkt.payload.length = pkt.payload)) ∧
    -- the package
    (∀ no size : BitVec 8, s.pkg.boot = 2 → exec (.podFormation no size) s = .next (s.modPkg fun p => { p with podid := BitVec.ofNat 64 (no.toNat + 2 ^ 8 * size.toNat) })) ∧
    (∀ v : Word, s.pkg.boot < 2 → s.completes (.boot v) fun t => t.pkg.boot = if verdict s.pkg.image = 2 then 2 else 3) ∧
    (let m := s.pkg.mailbox
     s.pkg.boot = 3 → m.state = 1 → m.fetch.toNat % 4096 = 0 → m.fetch.toNat ≤ 64 * 2 ^ 20 →
      (m.cmd = 1 → m.from_.toNat + m.fetch.toNat ≤ 2 ^ 48 → s.completes (.recoveryFetchHost false) fun t =>
        t.pkg.mailbox.state = verdict (Mem.read s.hostMem m.from_.toNat m.fetch.toNat)) ∧
      (∀ im : List Byte, m.cmd = 2 → im.length = m.fetch.toNat → s.completes (.recoveryFetchNvme (some im)) fun t => t.pkg.mailbox.state = verdict im)) ∧
    (∀ nonce : List Byte, nonce.length = 64 → s.pkg.boot = 2 → ∃ rep : Report, rep.nonce = nonce ∧ exec (.attestationReport nonce) s = .next (s.modPkg fun p => { p with reports := rep :: p.reports })) ∧
    (∀ (n : BitVec 2) (p t : Bool), n ≠ 3 → s.completes (.clockStepChange n p t) fun u => u.pkg.pwrst.toNat = n.toNat + (if p then 4 else 0) + (if t then 8 else 0)) ∧
    (∀ v : Nat, v < 2048 → v ∉ s.pkg.unmasked → s.completes (.msixVectorUnmask v) fun t => t.pkg.unmasked = v :: s.pkg.unmasked ∧ v ∉ t.pkg.msiPending) ∧
    (∀ part id sys root base, s.pkg.boot = 2 → (s.part part).live = true → (s.part part).quiesce = none → (s.part part).swapped = false → s.findCtx part id.toNat = none →
      s.completes (.contextCreate part id sys root base) fun t => t.ctxs.length = s.ctxs.length + 1 ∧ (t.ctxs.getLast?.map fun c => (c.id, c.isSys, c.live)) = some (id, sys, true)) ∧
    (∀ k, (s.ctx k).live = true → s.ctxIdle k = true → k < s.ctxs.length → s.completes (.contextDestroy k) fun t => (t.ctx k).live = false) ∧
    (∀ cfg : List (BitVec 4 × Word), s.pkg.reconfig = none → s.pkg.boot = 2 → legalConfig (cfg.map Prod.fst) = true → s.changed (cfg.map Prod.fst) ≠ [] →
      s.completes (.partitionReconfig cfg) fun t => t.pkg.reconfig = some ⟨cfg.map Prod.fst, cfg.map Prod.snd, s.now⟩) ∧
    (∀ r, s.pkg.reconfig = some r → (s.changed r.masks).all s.partQuiet = false → (∃ p ∈ s.parts, ∃ q, p.quiesce = some q ∧ q ≤ s.now) → s.completes .quiesceTimeout fun t => t.pkg.reconfig = none) ∧
    (∀ part image, (s.part part).live = true → (s.part part).swapped = false → s.groupsOf part = [] →
      exec (.partitionSwap (part, image)) s = .next (s.modPart part fun _ => { s.part part with swapped := true }))
end

