-- ==== Sys2Proof/Laws/Bits.lean ====
section
/-! SUPPORT. Elements of images that are built element by element, sets of lanes, and lists of the state changed at one place. -/

namespace Sys2Proof.Machine

/-! ## Elements -/

theorem buildNat_lt (w : Nat) (f : Nat → Nat) (n : Nat) : buildNat w f n < 2 ^ (w * n) := by
  induction n with
  | zero => simp [buildNat]
  | succ n ih =>
    have h : f n % 2 ^ w < 2 ^ w := Nat.mod_lt _ (by positivity)
    have : (f n % 2 ^ w) * 2 ^ (w * n) + 2 ^ (w * n) ≤ 2 ^ w * 2 ^ (w * n) := by nlinarith [show 0 < 2 ^ (w * n) by positivity]
    calc buildNat w f (n + 1) = buildNat w f n + (f n % 2 ^ w) * 2 ^ (w * n) := rfl
      _ < 2 ^ w * 2 ^ (w * n) := by omega
      _ = 2 ^ (w * (n + 1)) := by rw [← pow_add]; ring_nf

theorem buildNat_el (w : Nat) (f : Nat → Nat) (n e : Nat) (h : e < n) : buildNat w f n / 2 ^ (w * e) % 2 ^ w = f e % 2 ^ w := by
  induction n with
  | zero => omega
  | succ n ih =>
    have hb : buildNat w f (n + 1) = buildNat w f n + (f n % 2 ^ w) * 2 ^ (w * n) := rfl
    rcases Nat.lt_or_eq_of_le (Nat.lt_succ_iff.mp h) with hlt | rfl
    · obtain ⟨k, rfl⟩ := Nat.exists_eq_add_of_lt hlt
      have hs : 2 ^ (w * (e + k + 1)) = 2 ^ (w * e) * (2 ^ w * 2 ^ (w * k)) := by rw [← pow_add, ← pow_add]; ring_nf
      rw [hb, hs, show (f (e + k + 1) % 2 ^ w) * (2 ^ (w * e) * (2 ^ w * 2 ^ (w * k))) = 2 ^ (w * e) * (2 ^ w * ((f (e + k + 1) % 2 ^ w) * 2 ^ (w * k))) by ring,
        Nat.add_mul_div_left _ _ (by positivity), Nat.add_mul_mod_self_left]
      exact ih (by omega)
    · rw [hb, Nat.add_mul_div_right _ _ (by positivity), Nat.div_eq_of_lt (buildNat_lt w f e)]
      simp

/-- An element of a built image. -/
theorem el_build (w : Nat) (f : Nat → Nat) (e : Nat) (h : e < 2048 / w) : el w e (build w f) = f e % 2 ^ w := by
  have hlt : buildNat w f (2048 / w) < 2 ^ 2048 :=
    lt_of_lt_of_le (buildNat_lt _ _ _) (Nat.pow_le_pow_right (by norm_num) (by rw [Nat.mul_comm]; exact Nat.div_mul_le_self ..))
  rw [el, build, BitVec.toNat_ofNat, Nat.mod_eq_of_lt hlt]
  exact buildNat_el w f _ e h

theorem el_lt (w e : Nat) (x : Img) : el w e x < 2 ^ w := Nat.mod_lt _ (by positivity)

/-- Lane l of an image given lane by lane. -/
theorem laneOf_ofLanes (f : Nat → Word) (l : Nat) (h : l < 32) : laneOf (ofLanes f) l = f l := by
  rw [laneOf, ofLanes, el_build 64 _ l (by omega)]
  apply BitVec.eq_of_toNat_eq
  have : (f l).toNat < 2 ^ 64 := (f l).isLt
  rw [BitVec.toNat_ofNat, Nat.mod_mod, Nat.mod_eq_of_lt this]

theorem laneOf_splat (v : Word) (l : Nat) (h : l < 32) : laneOf (splat v) l = v := laneOf_ofLanes (fun _ => v) l h

/-- An element lies inside its lane. -/
theorem el_in_lane (w e : Nat) (x : Img) (hw : w ∣ 64) : el w e x = el 64 (laneIx w e) x / 2 ^ (w * e % 64) % 2 ^ w := by
  obtain ⟨k, hk⟩ := hw
  have hk0 : 0 < k := by rcases Nat.eq_zero_or_pos k with rfl | h <;> omega
  have hw0 : 0 < w := by rcases Nat.eq_zero_or_pos w with rfl | h <;> omega
  have hr : w * e % 64 + w ≤ 64 := by
    have h1 : w * e % 64 = w * (e % k) := by rw [hk, Nat.mul_mod_mul_left]
    have h2 : e % k + 1 ≤ k := Nat.mod_lt _ hk0
    calc w * e % 64 + w = w * (e % k + 1) := by rw [h1]; ring
      _ ≤ w * k := Nat.mul_le_mul_left _ h2
      _ = 64 := hk.symm
  have hs : w * e = 64 * (w * e / 64) + w * e % 64 := (Nat.div_add_mod _ _).symm
  simp only [el, laneIx]
  generalize hq : w * e / 64 = q at *
  generalize hr' : w * e % 64 = r at *
  rw [hs, pow_add, ← Nat.div_div_eq_div_mul]
  obtain ⟨c, hc⟩ := Nat.exists_eq_add_of_le hr
  rw [show (64 : Nat) = r + (w + c) by omega, pow_add, Nat.mod_mul_right_div_self, pow_add 2 w c, Nat.mod_mul_right_mod]

/-- The elements of the lanes of a set. -/
theorem el_laneBits (ls : Lanes) (w e : Nat) (hw : w ∣ 64) (h : e < 2048 / w) :
    el w e (laneBits ls) = if ls.getLsbD (laneIx w e) then 2 ^ w - 1 else 0 := by
  have hw0 : 0 < w := Nat.pos_of_dvd_of_pos hw (by norm_num)
  have hl : laneIx w e < 32 := by
    have : e * w < 2048 := lt_of_lt_of_le (Nat.mul_lt_mul_of_pos_right h hw0) (Nat.div_mul_le_self _ _)
    unfold laneIx; rw [Nat.mul_comm]; omega
  rw [el_in_lane w e _ hw, laneBits, el_build 64 _ _ (by omega)]
  split
  · have hw64 : w ≤ 64 := Nat.le_of_dvd (by norm_num) hw
    have hr : w * e % 64 + w ≤ 64 := by
      obtain ⟨k, hk⟩ := hw
      have hk0 : 0 < k := by rcases Nat.eq_zero_or_pos k with rfl | h <;> omega
      have h1 : w * e % 64 = w * (e % k) := by conv_lhs => rw [hk, Nat.mul_mod_mul_left]
      have h2 : e % k + 1 ≤ k := Nat.mod_lt _ hk0
      calc w * e % 64 + w = w * (e % k + 1) := by rw [h1]; ring
        _ ≤ w * k := Nat.mul_le_mul_left _ h2
        _ = 64 := hk.symm
    generalize w * e % 64 = r at *
    obtain ⟨c, hc⟩ := Nat.exists_eq_add_of_le hr
    have : (2 ^ 64 - 1) % 2 ^ 64 = 2 ^ 64 - 1 := by norm_num
    rw [this]
    apply Nat.eq_of_testBit_eq
    intro j
    simp only [Nat.testBit_mod_two_pow, Nat.testBit_div_two_pow, Nat.testBit_two_pow_sub_one]
    by_cases hj : j < w <;> simp [hj]
    omega
  · simp

/-! ## Results -/

/-- The elements that the mask of `enBits` opens. -/
theorem el_enBits (k : Mask) (w : Nat) (ls : Lanes) (e : Nat) (h : e < 2048 / w) :
    el w e (enBits k w ls) = if ls.getLsbD (laneIx w e) && enabled k w e then 2 ^ w - 1 else 0 := by
  rw [enBits, el_build w _ e h]
  split
  · exact Nat.mod_eq_of_lt (Nat.sub_lt (by positivity) (by norm_num))
  · simp

/-- The value bits of a lane result. -/
theorem el_result_val (s : State) (i : Instr) (w : Nat) (ls : Lanes) (f : Nat → Nat) (e : Nat) (h : e < 2048 / w) :
    el w e (s.result i w ls f).val = if ls.getLsbD (laneIx w e) && enabled (s.wmask i) w e then f e % 2 ^ w else 0 := by
  have hv : (s.result i w ls f).val = build w fun e => if ls.getLsbD (laneIx w e) && enabled (s.wmask i) w e then f e else 0 := by
    unfold State.result; dsimp only; split <;> rfl
  rw [hv, el_build w _ e h]
  split <;> simp

/-- The bits that a merging lane result opens. -/
theorem el_result_en (s : State) (i : Instr) (w : Nat) (ls : Lanes) (f : Nat → Nat) (hz : i.zeroFill = false) (e : Nat) (h : e < 2048 / w) :
    el w e (s.result i w ls f).en = if ls.getLsbD (laneIx w e) && enabled (s.wmask i) w e then 2 ^ w - 1 else 0 := by
  have hv : (s.result i w ls f).en = enBits (s.wmask i) w ls := by unfold State.result; simp [hz]
  rw [hv, el_enBits _ _ _ _ h]

/-- With zero fill every element of the lanes is written. -/
theorem el_result_fill (s : State) (i : Instr) (w : Nat) (ls : Lanes) (f : Nat → Nat) (hz : i.zeroFill = true) (hw : w ∣ 64) (e : Nat) (h : e < 2048 / w) :
    el w e (s.result i w ls f).en = if ls.getLsbD (laneIx w e) then 2 ^ w - 1 else 0 := by
  have hv : (s.result i w ls f).en = laneBits ls := by unfold State.result; simp [hz]
  rw [hv, el_laneBits _ _ _ hw h]

end Sys2Proof.Machine
end

