-- ==== Sys2Proof/Laws/Mem.lean ====
section
/-! SUPPORT. Byte memories: a read after a write, and the canonical form that every operation keeps. -/

namespace Sys2Proof.Machine

/-! ## The canonical form, cell by cell -/

theorem Mem.wfFrom_cons (lo : Option Nat) (a : Nat) (b : Byte) (t : List Host.Cell) :
    Mem.wfFrom lo ((a, b) :: t) = true ↔ (∀ l, lo = some l → l < a) ∧ b ≠ unlisted ∧ Mem.wfFrom (some a) t = true := by
  cases lo <;> simp [Mem.wfFrom, and_assoc]

/-- A lower start asks for less. -/
theorem Mem.wfFrom_weaken {lo lo' : Option Nat} {m : List Host.Cell} (h : Mem.wfFrom lo m = true)
    (le : ∀ l', lo' = some l' → ∃ l, lo = some l ∧ l' ≤ l) : Mem.wfFrom lo' m = true := by
  cases m with
  | nil => rfl
  | cons c t =>
    rw [Mem.wfFrom_cons] at h ⊢
    refine ⟨fun l' hl' => ?_, h.2⟩
    obtain ⟨l, hl, hle⟩ := le l' hl'
    exact lt_of_le_of_lt hle (h.1 l hl)

theorem Mem.wf_tail {lo : Option Nat} {a : Nat} {b : Byte} {t : List Host.Cell} (h : Mem.wfFrom lo ((a, b) :: t) = true) :
    Mem.wfFrom lo t = true := by
  rw [Mem.wfFrom_cons] at h
  exact Mem.wfFrom_weaken h.2.2 fun l' hl' => ⟨a, rfl, (h.1 l' hl').le⟩

/-- In canonical form an address below the first cell is unlisted. -/
theorem Mem.get_below {lo : Nat} {m : List Host.Cell} (h : Mem.wfFrom (some lo) m = true) {a : Nat} (le : a ≤ lo) : Mem.get m a = unlisted := by
  induction m generalizing lo with
  | nil => rfl
  | cons c t ih =>
    obtain ⟨a', b⟩ := c
    rw [Mem.wfFrom_cons] at h
    have := h.1 lo rfl
    simp only [Mem.get, show a' ≠ a by omega, if_false]
    exact ih h.2.2 (by omega)

/-! ## A read after a write -/

theorem Mem.get_set {m : List Host.Cell} (h : Mem.wf m = true) (a : Nat) (b : Byte) (k : Nat) :
    Mem.get (Mem.set a b m) k = if k = a then b else Mem.get m k := by
  unfold Mem.wf at h
  generalize (none : Option Nat) = lo at h
  induction m generalizing lo with
  | nil =>
    by_cases hk : k = a
    · subst hk; by_cases hb : b = unlisted <;> simp [Mem.set, Mem.get, hb]
    · by_cases hb : b = unlisted <;> simp [Mem.set, Mem.get, hb, hk, Ne.symm hk]
  | cons c t ih =>
    obtain ⟨a', b'⟩ := c
    have hc := (Mem.wfFrom_cons ..).mp h
    simp only [Mem.set]
    split
    · rename_i lt
      by_cases hk : k = a
      · subst hk
        have e : Mem.get ((a', b') :: t) k = unlisted := by
          have : Mem.wfFrom (some k) ((a', b') :: t) = true := (Mem.wfFrom_cons ..).mpr ⟨fun _ e => by cases e; exact lt, hc.2⟩
          exact Mem.get_below this le_rfl
        split
        · rename_i hb; simp [e, hb]
        · simp [Mem.get]
      · simp only [hk, if_false]; split <;> simp [Mem.get, Ne.symm hk]
    · split
      · rename_i _ e
        subst e
        by_cases hk : k = a
        · subst hk
          split
          · rename_i hb; simp [Mem.get_below hc.2.2 le_rfl, hb]
          · simp [Mem.get]
        · simp only [hk, if_false]; split <;> simp [Mem.get, Ne.symm hk]
      · rename_i _ ne
        simp only [Mem.get]
        rw [ih _ hc.2.2]
        by_cases hk : k = a
        · subst hk; simp [Ne.symm ne]
        · simp [hk]

/-! ## Every operation keeps the form -/

theorem Mem.set_wfFrom {m : List Host.Cell} {lo : Option Nat} (h : Mem.wfFrom lo m = true) (a : Nat) (b : Byte) (la : ∀ l, lo = some l → l < a) :
    Mem.wfFrom lo (Mem.set a b m) = true := by
  induction m generalizing lo with
  | nil =>
    unfold Mem.set
    split
    · rfl
    · rename_i hb; exact (Mem.wfFrom_cons ..).mpr ⟨la, hb, rfl⟩
  | cons c t ih =>
    obtain ⟨a', b'⟩ := c
    have hc := (Mem.wfFrom_cons ..).mp h
    unfold Mem.set
    split
    · rename_i lt
      split
      · exact h
      · rename_i hb
        exact (Mem.wfFrom_cons ..).mpr ⟨la, hb, (Mem.wfFrom_cons ..).mpr ⟨fun _ e => by cases e; exact lt, hc.2⟩⟩
    · split
      · rename_i _ e
        subst e
        split
        · exact Mem.wf_tail h
        · rename_i hb; exact (Mem.wfFrom_cons ..).mpr ⟨la, hb, hc.2.2⟩
      · exact (Mem.wfFrom_cons ..).mpr ⟨hc.1, hc.2.1, ih hc.2.2 fun _ e => by cases e; omega⟩

theorem Mem.wf_set {m : List Host.Cell} (h : Mem.wf m = true) (a : Nat) (b : Byte) : Mem.wf (Mem.set a b m) = true :=
  Mem.set_wfFrom h a b (by simp)

theorem Mem.wf_write {m : List Host.Cell} (h : Mem.wf m = true) (a : Nat) (bs : List Byte) : Mem.wf (Mem.write a bs m) = true := by
  induction bs generalizing a m with
  | nil => exact h
  | cons b bs ih => exact ih (Mem.wf_set h a b) (a + 1)

theorem Mem.wf_putNum {m : List Host.Cell} (h : Mem.wf m = true) (a n x : Nat) : Mem.wf (Mem.putNum a n x m) = true := Mem.wf_write h a _

theorem Mem.filter_wfFrom (p : Host.Cell → Bool) {m : List Host.Cell} {lo : Option Nat} (h : Mem.wfFrom lo m = true) :
    Mem.wfFrom lo (m.filter p) = true := by
  induction m generalizing lo with
  | nil => rfl
  | cons c t ih =>
    obtain ⟨a, b⟩ := c
    by_cases hp : p (a, b) = true
    · have hc := (Mem.wfFrom_cons ..).mp h
      rw [List.filter_cons_of_pos hp]
      exact (Mem.wfFrom_cons ..).mpr ⟨hc.1, hc.2.1, ih hc.2.2⟩
    · rw [List.filter_cons_of_neg hp]
      exact ih (Mem.wf_tail h)

theorem Mem.wf_clear {m : List Host.Cell} (h : Mem.wf m = true) (a n : Nat) : Mem.wf (Mem.clear a n m) = true := Mem.filter_wfFrom _ h

/-! ## Ranges -/

/-- A byte after a write of several: the byte written there, or what stood there. -/
theorem Mem.get_write {m : List Host.Cell} (h : Mem.wf m = true) (a : Nat) (bs : List Byte) (k : Nat) :
    Mem.get (Mem.write a bs m) k = if a ≤ k ∧ k < a + bs.length then bs.getD (k - a) 0 else Mem.get m k := by
  induction bs generalizing a m with
  | nil => rw [if_neg (by simp)]; rfl
  | cons b bs ih =>
    simp only [Mem.write]
    rw [ih (Mem.wf_set h a b), Mem.get_set h, List.length_cons]
    by_cases hk : k = a
    · subst hk; simp
    · by_cases hr : a + 1 ≤ k ∧ k < a + 1 + bs.length
      · rw [if_pos hr, if_pos (by omega), show k - a = k - (a + 1) + 1 by omega, List.getD_cons_succ]
      · rw [if_neg hr, if_neg hk, if_neg (by omega)]

/-- The bytes outside a write read as before. -/
theorem Mem.get_write_outside {m : List Host.Cell} (h : Mem.wf m = true) (a : Nat) (bs : List Byte) (k : Nat) (o : k < a ∨ a + bs.length ≤ k) :
    Mem.get (Mem.write a bs m) k = Mem.get m k := by
  rw [Mem.get_write h, if_neg (by omega)]

theorem Mem.read_length (m : List Host.Cell) (a n : Nat) : (Mem.read m a n).length = n := by simp [Mem.read]

/-- A read after a write to the same place gives what was written. -/
theorem Mem.read_write {m : List Host.Cell} (h : Mem.wf m = true) (a : Nat) (bs : List Byte) : Mem.read (Mem.write a bs m) a bs.length = bs := by
  apply List.ext_getElem (Mem.read_length ..)
  intro i h1 h2
  simp [Mem.read, Mem.get_write h, h2]

/-- A read apart from a write gives what stood there. -/
theorem Mem.read_write_apart {m : List Host.Cell} (h : Mem.wf m = true) (a : Nat) (bs : List Byte) (k n : Nat)
    (o : k + n ≤ a ∨ a + bs.length ≤ k) : Mem.read (Mem.write a bs m) k n = Mem.read m k n := by
  apply List.ext_getElem (by simp [Mem.read])
  intro i h1 h2
  rw [Mem.read_length] at h1
  simp only [Mem.read, List.getElem_map, List.getElem_range]
  exact Mem.get_write_outside h _ _ _ (by omega)

theorem leBytes_length (n x : Nat) : (leBytes n x).length = n := by simp [leBytes]

theorem Mem.get_clear (m : List Host.Cell) (a n k : Nat) : Mem.get (Mem.clear a n m) k = if a ≤ k ∧ k < a + n then unlisted else Mem.get m k := by
  induction m with
  | nil => simp [Mem.clear, Mem.get]
  | cons c t ih =>
    obtain ⟨a', b⟩ := c
    simp only [Mem.clear] at ih ⊢
    rw [List.filter_cons]
    split
    · rename_i hp
      simp only [Mem.get, ih]
      simp only [Bool.or_eq_true, decide_eq_true_eq] at hp
      by_cases hk : a' = k
      · subst hk; rw [if_pos rfl, if_pos rfl, if_neg (by omega)]
      · rw [if_neg hk, if_neg hk]
    · rename_i hp
      rw [ih]
      simp only [Bool.or_eq_true, decide_eq_true_eq] at hp
      by_cases hr : a ≤ k ∧ k < a + n
      · rw [if_pos hr, if_pos hr]
      · rw [if_neg hr, if_neg hr, Mem.get, if_neg (by omega)]

/-! ## Equal readings are equal memories -/

/-- Two memories in canonical form that read alike are the same list. -/
theorem Mem.ext {m m' : List Host.Cell} (h : Mem.wf m = true) (h' : Mem.wf m' = true) (e : ∀ a, Mem.get m a = Mem.get m' a) : m = m' := by
  unfold Mem.wf at h h'
  generalize (none : Option Nat) = lo at h h'
  induction m generalizing m' lo with
  | nil =>
    cases m' with
    | nil => rfl
    | cons c t =>
      obtain ⟨a, b⟩ := c
      have := e a
      simp only [Mem.get, if_true] at this
      exact absurd this.symm ((Mem.wfFrom_cons ..).mp h').2.1
  | cons c t ih =>
    obtain ⟨a, b⟩ := c
    have hc := (Mem.wfFrom_cons ..).mp h
    cases m' with
    | nil =>
      have := e a
      simp only [Mem.get, if_true] at this
      exact absurd this hc.2.1
    | cons c' t' =>
      obtain ⟨a', b'⟩ := c'
      have hc' := (Mem.wfFrom_cons ..).mp h'
      have ea : a = a' := by
        rcases Nat.lt_trichotomy a a' with lt | rfl | gt
        · have := e a
          rw [Mem.get, if_pos rfl, Mem.get, if_neg (by omega), Mem.get_below hc'.2.2 lt.le] at this
          exact absurd this hc.2.1
        · rfl
        · have := e a'
          rw [Mem.get, if_neg (by omega), Mem.get_below hc.2.2 gt.le, Mem.get, if_pos rfl] at this
          exact absurd this.symm hc'.2.1
      subst ea
      have eb : b = b' := by simpa [Mem.get] using e a
      subst eb
      congr 1
      refine ih (lo := some a) (fun k => ?_) hc.2.2 hc'.2.2
      rcases Nat.lt_or_ge a k with lt | le
      · simpa [Mem.get, show a ≠ k by omega] using e k
      · rw [Mem.get_below hc.2.2 le, Mem.get_below hc'.2.2 le]

end Sys2Proof.Machine
end

