-- ==== Sys2Proof/Laws/State.lean ====
section
/-! SUPPORT. What each update of the state changes and what it leaves, field by field, and the parts of the state by number after an update. -/

namespace Sys2Proof.Machine

/-! ## Lists changed at one place -/

@[simp] theorem modAt_length {α : Type} (f : α → α) (n : Nat) (l : List α) : (modAt f n l).length = l.length := by
  induction l generalizing n with
  | nil => cases n <;> rfl
  | cons a t ih => cases n with
    | zero => rfl
    | succ n => simp [modAt, ih]

theorem modAt_get {α : Type} (f : α → α) (n : Nat) (l : List α) (k : Nat) :
    (modAt f n l)[k]? = if k = n then l[k]?.map f else l[k]? := by
  induction l generalizing n k with
  | nil => cases n <;> simp [modAt]
  | cons a t ih =>
    cases n with
    | zero => cases k <;> simp [modAt]
    | succ n => cases k <;> simp [modAt, ih]

theorem modAt_getD {α : Type} (f : α → α) (n : Nat) (l : List α) (k : Nat) (d : α) :
    (modAt f n l).getD k d = if k = n ∧ k < l.length then f (l.getD k d) else l.getD k d := by
  rw [List.getD_eq_getElem?_getD, List.getD_eq_getElem?_getD, modAt_get]
  by_cases h : k = n
  · subst h
    by_cases hl : k < l.length
    · simp [hl]
    · simp [hl]
  · simp [h]

theorem modAt_out {α : Type} (f : α → α) (n : Nat) (l : List α) (h : l.length ≤ n) : modAt f n l = l := by
  induction l generalizing n with
  | nil => cases n <;> rfl
  | cons a t ih => cases n with
    | zero => simp at h
    | succ n => simp [modAt, ih n (by simpa using h)]

/-- A change by a function that agrees with another where it matters is that other change. -/
theorem modAt_congr {α : Type} (f g : α → α) (n : Nat) (l : List α) (d : α) (h : n < l.length → f (l.getD n d) = g (l.getD n d)) :
    modAt f n l = modAt g n l := by
  induction l generalizing n with
  | nil => cases n <;> rfl
  | cons a t ih => cases n with
    | zero => simpa [modAt] using h (by simp)
    | succ n => simpa [modAt] using ih n fun hl => by simpa using h (by simpa using hl)

/-! ## Fields -/

@[simp] theorem State.modGrp_now (s : State) (g : Nat) (f : Group → Group) : (s.modGrp g f).now = s.now := rfl
@[simp] theorem State.modGrp_epoch (s : State) (g : Nat) (f : Group → Group) : (s.modGrp g f).epoch = s.epoch := rfl
@[simp] theorem State.modGrp_groups (s : State) (g : Nat) (f : Group → Group) : (s.modGrp g f).groups = modAt f g s.groups := rfl
@[simp] theorem State.modGrp_crews (s : State) (g : Nat) (f : Group → Group) : (s.modGrp g f).crews = s.crews := rfl
@[simp] theorem State.modGrp_ctxs (s : State) (g : Nat) (f : Group → Group) : (s.modGrp g f).ctxs = s.ctxs := rfl
@[simp] theorem State.modGrp_parts (s : State) (g : Nat) (f : Group → Group) : (s.modGrp g f).parts = s.parts := rfl
@[simp] theorem State.modGrp_tasks (s : State) (g : Nat) (f : Group → Group) : (s.modGrp g f).tasks = s.tasks := rfl
@[simp] theorem State.modGrp_forks (s : State) (g : Nat) (f : Group → Group) : (s.modGrp g f).forks = s.forks := rfl
@[simp] theorem State.modGrp_bars (s : State) (g : Nat) (f : Group → Group) : (s.modGrp g f).bars = s.bars := rfl
@[simp] theorem State.modGrp_dram (s : State) (g : Nat) (f : Group → Group) : (s.modGrp g f).dram = s.dram := rfl
@[simp] theorem State.modGrp_const (s : State) (g : Nat) (f : Group → Group) : (s.modGrp g f).const = s.const := rfl
@[simp] theorem State.modGrp_hostMem (s : State) (g : Nat) (f : Group → Group) : (s.modGrp g f).hostMem = s.hostMem := rfl
@[simp] theorem State.modGrp_cache (s : State) (g : Nat) (f : Group → Group) : (s.modGrp g f).cache = s.cache := rfl
@[simp] theorem State.modGrp_tlb (s : State) (g : Nat) (f : Group → Group) : (s.modGrp g f).tlb = s.tlb := rfl
@[simp] theorem State.modGrp_marks (s : State) (g : Nat) (f : Group → Group) : (s.modGrp g f).marks = s.marks := rfl
@[simp] theorem State.modGrp_poison (s : State) (g : Nat) (f : Group → Group) : (s.modGrp g f).poison = s.poison := rfl
@[simp] theorem State.modGrp_deadDies (s : State) (g : Nat) (f : Group → Group) : (s.modGrp g f).deadDies = s.deadDies := rfl
@[simp] theorem State.modGrp_orphans (s : State) (g : Nat) (f : Group → Group) : (s.modGrp g f).orphans = s.orphans := rfl
@[simp] theorem State.modGrp_pred (s : State) (g : Nat) (f : Group → Group) : (s.modGrp g f).pred = s.pred := rfl
@[simp] theorem State.modGrp_ibuf (s : State) (g : Nat) (f : Group → Group) : (s.modGrp g f).ibuf = s.ibuf := rfl
@[simp] theorem State.modGrp_pkg (s : State) (g : Nat) (f : Group → Group) : (s.modGrp g f).pkg = s.pkg := rfl
@[simp] theorem State.modGrp_sched (s : State) (g : Nat) (f : Group → Group) : (s.modGrp g f).sched = s.sched := rfl
@[simp] theorem State.modGrp_cur (s : State) (g : Nat) (f : Group → Group) : (s.modGrp g f).cur = s.cur := rfl
@[simp] theorem State.modGrp_issueQ (s : State) (g : Nat) (f : Group → Group) : (s.modGrp g f).issueQ = s.issueQ := rfl
@[simp] theorem State.modGrp_co (s : State) (g : Nat) (f : Group → Group) : (s.modGrp g f).co = s.co := rfl
@[simp] theorem State.modGrp_pair (s : State) (g : Nat) (f : Group → Group) : (s.modGrp g f).pair = s.pair := rfl
@[simp] theorem State.modGrp_pipes (s : State) (g : Nat) (f : Group → Group) : (s.modGrp g f).pipes = s.pipes := rfl
@[simp] theorem State.modGrp_busy (s : State) (g : Nat) (f : Group → Group) : (s.modGrp g f).busy = s.busy := rfl
@[simp] theorem State.modGrp_seq (s : State) (g : Nat) (f : Group → Group) : (s.modGrp g f).seq = s.seq := rfl

@[simp] theorem State.modCrew_now (s : State) (c : Nat) (f : Crew → Crew) : (s.modCrew c f).now = s.now := rfl
@[simp] theorem State.modCrew_epoch (s : State) (c : Nat) (f : Crew → Crew) : (s.modCrew c f).epoch = s.epoch := rfl
@[simp] theorem State.modCrew_groups (s : State) (c : Nat) (f : Crew → Crew) : (s.modCrew c f).groups = s.groups := rfl
@[simp] theorem State.modCrew_crews (s : State) (c : Nat) (f : Crew → Crew) : (s.modCrew c f).crews = modAt f c s.crews := rfl
@[simp] theorem State.modCrew_ctxs (s : State) (c : Nat) (f : Crew → Crew) : (s.modCrew c f).ctxs = s.ctxs := rfl
@[simp] theorem State.modCrew_parts (s : State) (c : Nat) (f : Crew → Crew) : (s.modCrew c f).parts = s.parts := rfl
@[simp] theorem State.modCrew_tasks (s : State) (c : Nat) (f : Crew → Crew) : (s.modCrew c f).tasks = s.tasks := rfl
@[simp] theorem State.modCrew_forks (s : State) (c : Nat) (f : Crew → Crew) : (s.modCrew c f).forks = s.forks := rfl
@[simp] theorem State.modCrew_bars (s : State) (c : Nat) (f : Crew → Crew) : (s.modCrew c f).bars = s.bars := rfl
@[simp] theorem State.modCrew_dram (s : State) (c : Nat) (f : Crew → Crew) : (s.modCrew c f).dram = s.dram := rfl
@[simp] theorem State.modCrew_const (s : State) (c : Nat) (f : Crew → Crew) : (s.modCrew c f).const = s.const := rfl
@[simp] theorem State.modCrew_hostMem (s : State) (c : Nat) (f : Crew → Crew) : (s.modCrew c f).hostMem = s.hostMem := rfl
@[simp] theorem State.modCrew_cache (s : State) (c : Nat) (f : Crew → Crew) : (s.modCrew c f).cache = s.cache := rfl
@[simp] theorem State.modCrew_tlb (s : State) (c : Nat) (f : Crew → Crew) : (s.modCrew c f).tlb = s.tlb := rfl
@[simp] theorem State.modCrew_marks (s : State) (c : Nat) (f : Crew → Crew) : (s.modCrew c f).marks = s.marks := rfl
@[simp] theorem State.modCrew_poison (s : State) (c : Nat) (f : Crew → Crew) : (s.modCrew c f).poison = s.poison := rfl
@[simp] theorem State.modCrew_deadDies (s : State) (c : Nat) (f : Crew → Crew) : (s.modCrew c f).deadDies = s.deadDies := rfl
@[simp] theorem State.modCrew_orphans (s : State) (c : Nat) (f : Crew → Crew) : (s.modCrew c f).orphans = s.orphans := rfl
@[simp] theorem State.modCrew_pred (s : State) (c : Nat) (f : Crew → Crew) : (s.modCrew c f).pred = s.pred := rfl
@[simp] theorem State.modCrew_ibuf (s : State) (c : Nat) (f : Crew → Crew) : (s.modCrew c f).ibuf = s.ibuf := rfl
@[simp] theorem State.modCrew_pkg (s : State) (c : Nat) (f : Crew → Crew) : (s.modCrew c f).pkg = s.pkg := rfl
@[simp] theorem State.modCrew_sched (s : State) (c : Nat) (f : Crew → Crew) : (s.modCrew c f).sched = s.sched := rfl
@[simp] theorem State.modCrew_cur (s : State) (c : Nat) (f : Crew → Crew) : (s.modCrew c f).cur = s.cur := rfl
@[simp] theorem State.modCrew_issueQ (s : State) (c : Nat) (f : Crew → Crew) : (s.modCrew c f).issueQ = s.issueQ := rfl
@[simp] theorem State.modCrew_co (s : State) (c : Nat) (f : Crew → Crew) : (s.modCrew c f).co = s.co := rfl
@[simp] theorem State.modCrew_pair (s : State) (c : Nat) (f : Crew → Crew) : (s.modCrew c f).pair = s.pair := rfl
@[simp] theorem State.modCrew_pipes (s : State) (c : Nat) (f : Crew → Crew) : (s.modCrew c f).pipes = s.pipes := rfl
@[simp] theorem State.modCrew_busy (s : State) (c : Nat) (f : Crew → Crew) : (s.modCrew c f).busy = s.busy := rfl
@[simp] theorem State.modCrew_seq (s : State) (c : Nat) (f : Crew → Crew) : (s.modCrew c f).seq = s.seq := rfl

@[simp] theorem State.modCtx_now (s : State) (c : Nat) (f : Context → Context) : (s.modCtx c f).now = s.now := rfl
@[simp] theorem State.modCtx_epoch (s : State) (c : Nat) (f : Context → Context) : (s.modCtx c f).epoch = s.epoch := rfl
@[simp] theorem State.modCtx_groups (s : State) (c : Nat) (f : Context → Context) : (s.modCtx c f).groups = s.groups := rfl
@[simp] theorem State.modCtx_crews (s : State) (c : Nat) (f : Context → Context) : (s.modCtx c f).crews = s.crews := rfl
@[simp] theorem State.modCtx_ctxs (s : State) (c : Nat) (f : Context → Context) : (s.modCtx c f).ctxs = modAt f c s.ctxs := rfl
@[simp] theorem State.modCtx_parts (s : State) (c : Nat) (f : Context → Context) : (s.modCtx c f).parts = s.parts := rfl
@[simp] theorem State.modCtx_tasks (s : State) (c : Nat) (f : Context → Context) : (s.modCtx c f).tasks = s.tasks := rfl
@[simp] theorem State.modCtx_forks (s : State) (c : Nat) (f : Context → Context) : (s.modCtx c f).forks = s.forks := rfl
@[simp] theorem State.modCtx_bars (s : State) (c : Nat) (f : Context → Context) : (s.modCtx c f).bars = s.bars := rfl
@[simp] theorem State.modCtx_dram (s : State) (c : Nat) (f : Context → Context) : (s.modCtx c f).dram = s.dram := rfl
@[simp] theorem State.modCtx_const (s : State) (c : Nat) (f : Context → Context) : (s.modCtx c f).const = s.const := rfl
@[simp] theorem State.modCtx_hostMem (s : State) (c : Nat) (f : Context → Context) : (s.modCtx c f).hostMem = s.hostMem := rfl
@[simp] theorem State.modCtx_cache (s : State) (c : Nat) (f : Context → Context) : (s.modCtx c f).cache = s.cache := rfl
@[simp] theorem State.modCtx_tlb (s : State) (c : Nat) (f : Context → Context) : (s.modCtx c f).tlb = s.tlb := rfl
@[simp] theorem State.modCtx_marks (s : State) (c : Nat) (f : Context → Context) : (s.modCtx c f).marks = s.marks := rfl
@[simp] theorem State.modCtx_poison (s : State) (c : Nat) (f : Context → Context) : (s.modCtx c f).poison = s.poison := rfl
@[simp] theorem State.modCtx_deadDies (s : State) (c : Nat) (f : Context → Context) : (s.modCtx c f).deadDies = s.deadDies := rfl
@[simp] theorem State.modCtx_orphans (s : State) (c : Nat) (f : Context → Context) : (s.modCtx c f).orphans = s.orphans := rfl
@[simp] theorem State.modCtx_pred (s : State) (c : Nat) (f : Context → Context) : (s.modCtx c f).pred = s.pred := rfl
@[simp] theorem State.modCtx_ibuf (s : State) (c : Nat) (f : Context → Context) : (s.modCtx c f).ibuf = s.ibuf := rfl
@[simp] theorem State.modCtx_pkg (s : State) (c : Nat) (f : Context → Context) : (s.modCtx c f).pkg = s.pkg := rfl
@[simp] theorem State.modCtx_sched (s : State) (c : Nat) (f : Context → Context) : (s.modCtx c f).sched = s.sched := rfl
@[simp] theorem State.modCtx_cur (s : State) (c : Nat) (f : Context → Context) : (s.modCtx c f).cur = s.cur := rfl
@[simp] theorem State.modCtx_issueQ (s : State) (c : Nat) (f : Context → Context) : (s.modCtx c f).issueQ = s.issueQ := rfl
@[simp] theorem State.modCtx_co (s : State) (c : Nat) (f : Context → Context) : (s.modCtx c f).co = s.co := rfl
@[simp] theorem State.modCtx_pair (s : State) (c : Nat) (f : Context → Context) : (s.modCtx c f).pair = s.pair := rfl
@[simp] theorem State.modCtx_pipes (s : State) (c : Nat) (f : Context → Context) : (s.modCtx c f).pipes = s.pipes := rfl
@[simp] theorem State.modCtx_busy (s : State) (c : Nat) (f : Context → Context) : (s.modCtx c f).busy = s.busy := rfl
@[simp] theorem State.modCtx_seq (s : State) (c : Nat) (f : Context → Context) : (s.modCtx c f).seq = s.seq := rfl

@[simp] theorem State.modPart_now (s : State) (p : Nat) (f : Partition → Partition) : (s.modPart p f).now = s.now := rfl
@[simp] theorem State.modPart_epoch (s : State) (p : Nat) (f : Partition → Partition) : (s.modPart p f).epoch = s.epoch := rfl
@[simp] theorem State.modPart_groups (s : State) (p : Nat) (f : Partition → Partition) : (s.modPart p f).groups = s.groups := rfl
@[simp] theorem State.modPart_crews (s : State) (p : Nat) (f : Partition → Partition) : (s.modPart p f).crews = s.crews := rfl
@[simp] theorem State.modPart_ctxs (s : State) (p : Nat) (f : Partition → Partition) : (s.modPart p f).ctxs = s.ctxs := rfl
@[simp] theorem State.modPart_parts (s : State) (p : Nat) (f : Partition → Partition) : (s.modPart p f).parts = modAt f p s.parts := rfl
@[simp] theorem State.modPart_tasks (s : State) (p : Nat) (f : Partition → Partition) : (s.modPart p f).tasks = s.tasks := rfl
@[simp] theorem State.modPart_forks (s : State) (p : Nat) (f : Partition → Partition) : (s.modPart p f).forks = s.forks := rfl
@[simp] theorem State.modPart_bars (s : State) (p : Nat) (f : Partition → Partition) : (s.modPart p f).bars = s.bars := rfl
@[simp] theorem State.modPart_dram (s : State) (p : Nat) (f : Partition → Partition) : (s.modPart p f).dram = s.dram := rfl
@[simp] theorem State.modPart_const (s : State) (p : Nat) (f : Partition → Partition) : (s.modPart p f).const = s.const := rfl
@[simp] theorem State.modPart_hostMem (s : State) (p : Nat) (f : Partition → Partition) : (s.modPart p f).hostMem = s.hostMem := rfl
@[simp] theorem State.modPart_cache (s : State) (p : Nat) (f : Partition → Partition) : (s.modPart p f).cache = s.cache := rfl
@[simp] theorem State.modPart_tlb (s : State) (p : Nat) (f : Partition → Partition) : (s.modPart p f).tlb = s.tlb := rfl
@[simp] theorem State.modPart_marks (s : State) (p : Nat) (f : Partition → Partition) : (s.modPart p f).marks = s.marks := rfl
@[simp] theorem State.modPart_poison (s : State) (p : Nat) (f : Partition → Partition) : (s.modPart p f).poison = s.poison := rfl
@[simp] theorem State.modPart_deadDies (s : State) (p : Nat) (f : Partition → Partition) : (s.modPart p f).deadDies = s.deadDies := rfl
@[simp] theorem State.modPart_orphans (s : State) (p : Nat) (f : Partition → Partition) : (s.modPart p f).orphans = s.orphans := rfl
@[simp] theorem State.modPart_pred (s : State) (p : Nat) (f : Partition → Partition) : (s.modPart p f).pred = s.pred := rfl
@[simp] theorem State.modPart_ibuf (s : State) (p : Nat) (f : Partition → Partition) : (s.modPart p f).ibuf = s.ibuf := rfl
@[simp] theorem State.modPart_pkg (s : State) (p : Nat) (f : Partition → Partition) : (s.modPart p f).pkg = s.pkg := rfl
@[simp] theorem State.modPart_sched (s : State) (p : Nat) (f : Partition → Partition) : (s.modPart p f).sched = s.sched := rfl
@[simp] theorem State.modPart_cur (s : State) (p : Nat) (f : Partition → Partition) : (s.modPart p f).cur = s.cur := rfl
@[simp] theorem State.modPart_issueQ (s : State) (p : Nat) (f : Partition → Partition) : (s.modPart p f).issueQ = s.issueQ := rfl
@[simp] theorem State.modPart_co (s : State) (p : Nat) (f : Partition → Partition) : (s.modPart p f).co = s.co := rfl
@[simp] theorem State.modPart_pair (s : State) (p : Nat) (f : Partition → Partition) : (s.modPart p f).pair = s.pair := rfl
@[simp] theorem State.modPart_pipes (s : State) (p : Nat) (f : Partition → Partition) : (s.modPart p f).pipes = s.pipes := rfl
@[simp] theorem State.modPart_busy (s : State) (p : Nat) (f : Partition → Partition) : (s.modPart p f).busy = s.busy := rfl
@[simp] theorem State.modPart_seq (s : State) (p : Nat) (f : Partition → Partition) : (s.modPart p f).seq = s.seq := rfl

@[simp] theorem State.modTask_now (s : State) (t : Nat) (f : Task → Task) : (s.modTask t f).now = s.now := rfl
@[simp] theorem State.modTask_epoch (s : State) (t : Nat) (f : Task → Task) : (s.modTask t f).epoch = s.epoch := rfl
@[simp] theorem State.modTask_groups (s : State) (t : Nat) (f : Task → Task) : (s.modTask t f).groups = s.groups := rfl
@[simp] theorem State.modTask_crews (s : State) (t : Nat) (f : Task → Task) : (s.modTask t f).crews = s.crews := rfl
@[simp] theorem State.modTask_ctxs (s : State) (t : Nat) (f : Task → Task) : (s.modTask t f).ctxs = s.ctxs := rfl
@[simp] theorem State.modTask_parts (s : State) (t : Nat) (f : Task → Task) : (s.modTask t f).parts = s.parts := rfl
@[simp] theorem State.modTask_tasks (s : State) (t : Nat) (f : Task → Task) : (s.modTask t f).tasks = modAt f t s.tasks := rfl
@[simp] theorem State.modTask_forks (s : State) (t : Nat) (f : Task → Task) : (s.modTask t f).forks = s.forks := rfl
@[simp] theorem State.modTask_bars (s : State) (t : Nat) (f : Task → Task) : (s.modTask t f).bars = s.bars := rfl
@[simp] theorem State.modTask_dram (s : State) (t : Nat) (f : Task → Task) : (s.modTask t f).dram = s.dram := rfl
@[simp] theorem State.modTask_const (s : State) (t : Nat) (f : Task → Task) : (s.modTask t f).const = s.const := rfl
@[simp] theorem State.modTask_hostMem (s : State) (t : Nat) (f : Task → Task) : (s.modTask t f).hostMem = s.hostMem := rfl
@[simp] theorem State.modTask_cache (s : State) (t : Nat) (f : Task → Task) : (s.modTask t f).cache = s.cache := rfl
@[simp] theorem State.modTask_tlb (s : State) (t : Nat) (f : Task → Task) : (s.modTask t f).tlb = s.tlb := rfl
@[simp] theorem State.modTask_marks (s : State) (t : Nat) (f : Task → Task) : (s.modTask t f).marks = s.marks := rfl
@[simp] theorem State.modTask_poison (s : State) (t : Nat) (f : Task → Task) : (s.modTask t f).poison = s.poison := rfl
@[simp] theorem State.modTask_deadDies (s : State) (t : Nat) (f : Task → Task) : (s.modTask t f).deadDies = s.deadDies := rfl
@[simp] theorem State.modTask_orphans (s : State) (t : Nat) (f : Task → Task) : (s.modTask t f).orphans = s.orphans := rfl
@[simp] theorem State.modTask_pred (s : State) (t : Nat) (f : Task → Task) : (s.modTask t f).pred = s.pred := rfl
@[simp] theorem State.modTask_ibuf (s : State) (t : Nat) (f : Task → Task) : (s.modTask t f).ibuf = s.ibuf := rfl
@[simp] theorem State.modTask_pkg (s : State) (t : Nat) (f : Task → Task) : (s.modTask t f).pkg = s.pkg := rfl
@[simp] theorem State.modTask_sched (s : State) (t : Nat) (f : Task → Task) : (s.modTask t f).sched = s.sched := rfl
@[simp] theorem State.modTask_cur (s : State) (t : Nat) (f : Task → Task) : (s.modTask t f).cur = s.cur := rfl
@[simp] theorem State.modTask_issueQ (s : State) (t : Nat) (f : Task → Task) : (s.modTask t f).issueQ = s.issueQ := rfl
@[simp] theorem State.modTask_co (s : State) (t : Nat) (f : Task → Task) : (s.modTask t f).co = s.co := rfl
@[simp] theorem State.modTask_pair (s : State) (t : Nat) (f : Task → Task) : (s.modTask t f).pair = s.pair := rfl
@[simp] theorem State.modTask_pipes (s : State) (t : Nat) (f : Task → Task) : (s.modTask t f).pipes = s.pipes := rfl
@[simp] theorem State.modTask_busy (s : State) (t : Nat) (f : Task → Task) : (s.modTask t f).busy = s.busy := rfl
@[simp] theorem State.modTask_seq (s : State) (t : Nat) (f : Task → Task) : (s.modTask t f).seq = s.seq := rfl

@[simp] theorem State.modFork_now (s : State) (i : Nat) (f : ForkInst → ForkInst) : (s.modFork i f).now = s.now := rfl
@[simp] theorem State.modFork_epoch (s : State) (i : Nat) (f : ForkInst → ForkInst) : (s.modFork i f).epoch = s.epoch := rfl
@[simp] theorem State.modFork_groups (s : State) (i : Nat) (f : ForkInst → ForkInst) : (s.modFork i f).groups = s.groups := rfl
@[simp] theorem State.modFork_crews (s : State) (i : Nat) (f : ForkInst → ForkInst) : (s.modFork i f).crews = s.crews := rfl
@[simp] theorem State.modFork_ctxs (s : State) (i : Nat) (f : ForkInst → ForkInst) : (s.modFork i f).ctxs = s.ctxs := rfl
@[simp] theorem State.modFork_parts (s : State) (i : Nat) (f : ForkInst → ForkInst) : (s.modFork i f).parts = s.parts := rfl
@[simp] theorem State.modFork_tasks (s : State) (i : Nat) (f : ForkInst → ForkInst) : (s.modFork i f).tasks = s.tasks := rfl
@[simp] theorem State.modFork_forks (s : State) (i : Nat) (f : ForkInst → ForkInst) : (s.modFork i f).forks = modAt f i s.forks := rfl
@[simp] theorem State.modFork_bars (s : State) (i : Nat) (f : ForkInst → ForkInst) : (s.modFork i f).bars = s.bars := rfl
@[simp] theorem State.modFork_dram (s : State) (i : Nat) (f : ForkInst → ForkInst) : (s.modFork i f).dram = s.dram := rfl
@[simp] theorem State.modFork_const (s : State) (i : Nat) (f : ForkInst → ForkInst) : (s.modFork i f).const = s.const := rfl
@[simp] theorem State.modFork_hostMem (s : State) (i : Nat) (f : ForkInst → ForkInst) : (s.modFork i f).hostMem = s.hostMem := rfl
@[simp] theorem State.modFork_cache (s : State) (i : Nat) (f : ForkInst → ForkInst) : (s.modFork i f).cache = s.cache := rfl
@[simp] theorem State.modFork_tlb (s : State) (i : Nat) (f : ForkInst → ForkInst) : (s.modFork i f).tlb = s.tlb := rfl
@[simp] theorem State.modFork_marks (s : State) (i : Nat) (f : ForkInst → ForkInst) : (s.modFork i f).marks = s.marks := rfl
@[simp] theorem State.modFork_poison (s : State) (i : Nat) (f : ForkInst → ForkInst) : (s.modFork i f).poison = s.poison := rfl
@[simp] theorem State.modFork_deadDies (s : State) (i : Nat) (f : ForkInst → ForkInst) : (s.modFork i f).deadDies = s.deadDies := rfl
@[simp] theorem State.modFork_orphans (s : State) (i : Nat) (f : ForkInst → ForkInst) : (s.modFork i f).orphans = s.orphans := rfl
@[simp] theorem State.modFork_pred (s : State) (i : Nat) (f : ForkInst → ForkInst) : (s.modFork i f).pred = s.pred := rfl
@[simp] theorem State.modFork_ibuf (s : State) (i : Nat) (f : ForkInst → ForkInst) : (s.modFork i f).ibuf = s.ibuf := rfl
@[simp] theorem State.modFork_pkg (s : State) (i : Nat) (f : ForkInst → ForkInst) : (s.modFork i f).pkg = s.pkg := rfl
@[simp] theorem State.modFork_sched (s : State) (i : Nat) (f : ForkInst → ForkInst) : (s.modFork i f).sched = s.sched := rfl
@[simp] theorem State.modFork_cur (s : State) (i : Nat) (f : ForkInst → ForkInst) : (s.modFork i f).cur = s.cur := rfl
@[simp] theorem State.modFork_issueQ (s : State) (i : Nat) (f : ForkInst → ForkInst) : (s.modFork i f).issueQ = s.issueQ := rfl
@[simp] theorem State.modFork_co (s : State) (i : Nat) (f : ForkInst → ForkInst) : (s.modFork i f).co = s.co := rfl
@[simp] theorem State.modFork_pair (s : State) (i : Nat) (f : ForkInst → ForkInst) : (s.modFork i f).pair = s.pair := rfl
@[simp] theorem State.modFork_pipes (s : State) (i : Nat) (f : ForkInst → ForkInst) : (s.modFork i f).pipes = s.pipes := rfl
@[simp] theorem State.modFork_busy (s : State) (i : Nat) (f : ForkInst → ForkInst) : (s.modFork i f).busy = s.busy := rfl
@[simp] theorem State.modFork_seq (s : State) (i : Nat) (f : ForkInst → ForkInst) : (s.modFork i f).seq = s.seq := rfl

@[simp] theorem State.modPkg_now (s : State) (f : Package → Package) : (s.modPkg f).now = s.now := rfl
@[simp] theorem State.modPkg_epoch (s : State) (f : Package → Package) : (s.modPkg f).epoch = s.epoch := rfl
@[simp] theorem State.modPkg_groups (s : State) (f : Package → Package) : (s.modPkg f).groups = s.groups := rfl
@[simp] theorem State.modPkg_crews (s : State) (f : Package → Package) : (s.modPkg f).crews = s.crews := rfl
@[simp] theorem State.modPkg_ctxs (s : State) (f : Package → Package) : (s.modPkg f).ctxs = s.ctxs := rfl
@[simp] theorem State.modPkg_parts (s : State) (f : Package → Package) : (s.modPkg f).parts = s.parts := rfl
@[simp] theorem State.modPkg_tasks (s : State) (f : Package → Package) : (s.modPkg f).tasks = s.tasks := rfl
@[simp] theorem State.modPkg_forks (s : State) (f : Package → Package) : (s.modPkg f).forks = s.forks := rfl
@[simp] theorem State.modPkg_bars (s : State) (f : Package → Package) : (s.modPkg f).bars = s.bars := rfl
@[simp] theorem State.modPkg_dram (s : State) (f : Package → Package) : (s.modPkg f).dram = s.dram := rfl
@[simp] theorem State.modPkg_const (s : State) (f : Package → Package) : (s.modPkg f).const = s.const := rfl
@[simp] theorem State.modPkg_hostMem (s : State) (f : Package → Package) : (s.modPkg f).hostMem = s.hostMem := rfl
@[simp] theorem State.modPkg_cache (s : State) (f : Package → Package) : (s.modPkg f).cache = s.cache := rfl
@[simp] theorem State.modPkg_tlb (s : State) (f : Package → Package) : (s.modPkg f).tlb = s.tlb := rfl
@[simp] theorem State.modPkg_marks (s : State) (f : Package → Package) : (s.modPkg f).marks = s.marks := rfl
@[simp] theorem State.modPkg_poison (s : State) (f : Package → Package) : (s.modPkg f).poison = s.poison := rfl
@[simp] theorem State.modPkg_deadDies (s : State) (f : Package → Package) : (s.modPkg f).deadDies = s.deadDies := rfl
@[simp] theorem State.modPkg_orphans (s : State) (f : Package → Package) : (s.modPkg f).orphans = s.orphans := rfl
@[simp] theorem State.modPkg_pred (s : State) (f : Package → Package) : (s.modPkg f).pred = s.pred := rfl
@[simp] theorem State.modPkg_ibuf (s : State) (f : Package → Package) : (s.modPkg f).ibuf = s.ibuf := rfl
@[simp] theorem State.modPkg_pkg (s : State) (f : Package → Package) : (s.modPkg f).pkg = f s.pkg := rfl
@[simp] theorem State.modPkg_sched (s : State) (f : Package → Package) : (s.modPkg f).sched = s.sched := rfl
@[simp] theorem State.modPkg_cur (s : State) (f : Package → Package) : (s.modPkg f).cur = s.cur := rfl
@[simp] theorem State.modPkg_issueQ (s : State) (f : Package → Package) : (s.modPkg f).issueQ = s.issueQ := rfl
@[simp] theorem State.modPkg_co (s : State) (f : Package → Package) : (s.modPkg f).co = s.co := rfl
@[simp] theorem State.modPkg_pair (s : State) (f : Package → Package) : (s.modPkg f).pair = s.pair := rfl
@[simp] theorem State.modPkg_pipes (s : State) (f : Package → Package) : (s.modPkg f).pipes = s.pipes := rfl
@[simp] theorem State.modPkg_busy (s : State) (f : Package → Package) : (s.modPkg f).busy = s.busy := rfl
@[simp] theorem State.modPkg_seq (s : State) (f : Package → Package) : (s.modPkg f).seq = s.seq := rfl

@[simp] theorem State.modLane_now (s : State) (g l : Nat) (f : Lane → Lane) : (s.modLane g l f).now = s.now := rfl
@[simp] theorem State.modLane_epoch (s : State) (g l : Nat) (f : Lane → Lane) : (s.modLane g l f).epoch = s.epoch := rfl
@[simp] theorem State.modLane_groups (s : State) (g l : Nat) (f : Lane → Lane) : (s.modLane g l f).groups = modAt (fun gr => gr.modLane l f) g s.groups := rfl
@[simp] theorem State.modLane_crews (s : State) (g l : Nat) (f : Lane → Lane) : (s.modLane g l f).crews = s.crews := rfl
@[simp] theorem State.modLane_ctxs (s : State) (g l : Nat) (f : Lane → Lane) : (s.modLane g l f).ctxs = s.ctxs := rfl
@[simp] theorem State.modLane_parts (s : State) (g l : Nat) (f : Lane → Lane) : (s.modLane g l f).parts = s.parts := rfl
@[simp] theorem State.modLane_tasks (s : State) (g l : Nat) (f : Lane → Lane) : (s.modLane g l f).tasks = s.tasks := rfl
@[simp] theorem State.modLane_forks (s : State) (g l : Nat) (f : Lane → Lane) : (s.modLane g l f).forks = s.forks := rfl
@[simp] theorem State.modLane_bars (s : State) (g l : Nat) (f : Lane → Lane) : (s.modLane g l f).bars = s.bars := rfl
@[simp] theorem State.modLane_dram (s : State) (g l : Nat) (f : Lane → Lane) : (s.modLane g l f).dram = s.dram := rfl
@[simp] theorem State.modLane_const (s : State) (g l : Nat) (f : Lane → Lane) : (s.modLane g l f).const = s.const := rfl
@[simp] theorem State.modLane_hostMem (s : State) (g l : Nat) (f : Lane → Lane) : (s.modLane g l f).hostMem = s.hostMem := rfl
@[simp] theorem State.modLane_cache (s : State) (g l : Nat) (f : Lane → Lane) : (s.modLane g l f).cache = s.cache := rfl
@[simp] theorem State.modLane_tlb (s : State) (g l : Nat) (f : Lane → Lane) : (s.modLane g l f).tlb = s.tlb := rfl
@[simp] theorem State.modLane_marks (s : State) (g l : Nat) (f : Lane → Lane) : (s.modLane g l f).marks = s.marks := rfl
@[simp] theorem State.modLane_poison (s : State) (g l : Nat) (f : Lane → Lane) : (s.modLane g l f).poison = s.poison := rfl
@[simp] theorem State.modLane_deadDies (s : State) (g l : Nat) (f : Lane → Lane) : (s.modLane g l f).deadDies = s.deadDies := rfl
@[simp] theorem State.modLane_orphans (s : State) (g l : Nat) (f : Lane → Lane) : (s.modLane g l f).orphans = s.orphans := rfl
@[simp] theorem State.modLane_pred (s : State) (g l : Nat) (f : Lane → Lane) : (s.modLane g l f).pred = s.pred := rfl
@[simp] theorem State.modLane_ibuf (s : State) (g l : Nat) (f : Lane → Lane) : (s.modLane g l f).ibuf = s.ibuf := rfl
@[simp] theorem State.modLane_pkg (s : State) (g l : Nat) (f : Lane → Lane) : (s.modLane g l f).pkg = s.pkg := rfl
@[simp] theorem State.modLane_sched (s : State) (g l : Nat) (f : Lane → Lane) : (s.modLane g l f).sched = s.sched := rfl
@[simp] theorem State.modLane_cur (s : State) (g l : Nat) (f : Lane → Lane) : (s.modLane g l f).cur = s.cur := rfl
@[simp] theorem State.modLane_issueQ (s : State) (g l : Nat) (f : Lane → Lane) : (s.modLane g l f).issueQ = s.issueQ := rfl
@[simp] theorem State.modLane_co (s : State) (g l : Nat) (f : Lane → Lane) : (s.modLane g l f).co = s.co := rfl
@[simp] theorem State.modLane_pair (s : State) (g l : Nat) (f : Lane → Lane) : (s.modLane g l f).pair = s.pair := rfl
@[simp] theorem State.modLane_pipes (s : State) (g l : Nat) (f : Lane → Lane) : (s.modLane g l f).pipes = s.pipes := rfl
@[simp] theorem State.modLane_busy (s : State) (g l : Nat) (f : Lane → Lane) : (s.modLane g l f).busy = s.busy := rfl
@[simp] theorem State.modLane_seq (s : State) (g l : Nat) (f : Lane → Lane) : (s.modLane g l f).seq = s.seq := rfl

@[simp] theorem State.modLanes_now (s : State) (g : Nat) (ls : Lanes) (f : Nat → Lane → Lane) : (s.modLanes g ls f).now = s.now := rfl
@[simp] theorem State.modLanes_epoch (s : State) (g : Nat) (ls : Lanes) (f : Nat → Lane → Lane) : (s.modLanes g ls f).epoch = s.epoch := rfl
@[simp] theorem State.modLanes_groups (s : State) (g : Nat) (ls : Lanes) (f : Nat → Lane → Lane) : (s.modLanes g ls f).groups = modAt (fun gr => gr.modLanes ls f) g s.groups := rfl
@[simp] theorem State.modLanes_crews (s : State) (g : Nat) (ls : Lanes) (f : Nat → Lane → Lane) : (s.modLanes g ls f).crews = s.crews := rfl
@[simp] theorem State.modLanes_ctxs (s : State) (g : Nat) (ls : Lanes) (f : Nat → Lane → Lane) : (s.modLanes g ls f).ctxs = s.ctxs := rfl
@[simp] theorem State.modLanes_parts (s : State) (g : Nat) (ls : Lanes) (f : Nat → Lane → Lane) : (s.modLanes g ls f).parts = s.parts := rfl
@[simp] theorem State.modLanes_tasks (s : State) (g : Nat) (ls : Lanes) (f : Nat → Lane → Lane) : (s.modLanes g ls f).tasks = s.tasks := rfl
@[simp] theorem State.modLanes_forks (s : State) (g : Nat) (ls : Lanes) (f : Nat → Lane → Lane) : (s.modLanes g ls f).forks = s.forks := rfl
@[simp] theorem State.modLanes_bars (s : State) (g : Nat) (ls : Lanes) (f : Nat → Lane → Lane) : (s.modLanes g ls f).bars = s.bars := rfl
@[simp] theorem State.modLanes_dram (s : State) (g : Nat) (ls : Lanes) (f : Nat → Lane → Lane) : (s.modLanes g ls f).dram = s.dram := rfl
@[simp] theorem State.modLanes_const (s : State) (g : Nat) (ls : Lanes) (f : Nat → Lane → Lane) : (s.modLanes g ls f).const = s.const := rfl
@[simp] theorem State.modLanes_hostMem (s : State) (g : Nat) (ls : Lanes) (f : Nat → Lane → Lane) : (s.modLanes g ls f).hostMem = s.hostMem := rfl
@[simp] theorem State.modLanes_cache (s : State) (g : Nat) (ls : Lanes) (f : Nat → Lane → Lane) : (s.modLanes g ls f).cache = s.cache := rfl
@[simp] theorem State.modLanes_tlb (s : State) (g : Nat) (ls : Lanes) (f : Nat → Lane → Lane) : (s.modLanes g ls f).tlb = s.tlb := rfl
@[simp] theorem State.modLanes_marks (s : State) (g : Nat) (ls : Lanes) (f : Nat → Lane → Lane) : (s.modLanes g ls f).marks = s.marks := rfl
@[simp] theorem State.modLanes_poison (s : State) (g : Nat) (ls : Lanes) (f : Nat → Lane → Lane) : (s.modLanes g ls f).poison = s.poison := rfl
@[simp] theorem State.modLanes_deadDies (s : State) (g : Nat) (ls : Lanes) (f : Nat → Lane → Lane) : (s.modLanes g ls f).deadDies = s.deadDies := rfl
@[simp] theorem State.modLanes_orphans (s : State) (g : Nat) (ls : Lanes) (f : Nat → Lane → Lane) : (s.modLanes g ls f).orphans = s.orphans := rfl
@[simp] theorem State.modLanes_pred (s : State) (g : Nat) (ls : Lanes) (f : Nat → Lane → Lane) : (s.modLanes g ls f).pred = s.pred := rfl
@[simp] theorem State.modLanes_ibuf (s : State) (g : Nat) (ls : Lanes) (f : Nat → Lane → Lane) : (s.modLanes g ls f).ibuf = s.ibuf := rfl
@[simp] theorem State.modLanes_pkg (s : State) (g : Nat) (ls : Lanes) (f : Nat → Lane → Lane) : (s.modLanes g ls f).pkg = s.pkg := rfl
@[simp] theorem State.modLanes_sched (s : State) (g : Nat) (ls : Lanes) (f : Nat → Lane → Lane) : (s.modLanes g ls f).sched = s.sched := rfl
@[simp] theorem State.modLanes_cur (s : State) (g : Nat) (ls : Lanes) (f : Nat → Lane → Lane) : (s.modLanes g ls f).cur = s.cur := rfl
@[simp] theorem State.modLanes_issueQ (s : State) (g : Nat) (ls : Lanes) (f : Nat → Lane → Lane) : (s.modLanes g ls f).issueQ = s.issueQ := rfl
@[simp] theorem State.modLanes_co (s : State) (g : Nat) (ls : Lanes) (f : Nat → Lane → Lane) : (s.modLanes g ls f).co = s.co := rfl
@[simp] theorem State.modLanes_pair (s : State) (g : Nat) (ls : Lanes) (f : Nat → Lane → Lane) : (s.modLanes g ls f).pair = s.pair := rfl
@[simp] theorem State.modLanes_pipes (s : State) (g : Nat) (ls : Lanes) (f : Nat → Lane → Lane) : (s.modLanes g ls f).pipes = s.pipes := rfl
@[simp] theorem State.modLanes_busy (s : State) (g : Nat) (ls : Lanes) (f : Nat → Lane → Lane) : (s.modLanes g ls f).busy = s.busy := rfl
@[simp] theorem State.modLanes_seq (s : State) (g : Nat) (ls : Lanes) (f : Nat → Lane → Lane) : (s.modLanes g ls f).seq = s.seq := rfl

@[simp] theorem State.modTl_now (s : State) (c i : Nat) (f : Timeline → Timeline) : (s.modTl c i f).now = s.now := rfl
@[simp] theorem State.modTl_epoch (s : State) (c i : Nat) (f : Timeline → Timeline) : (s.modTl c i f).epoch = s.epoch := rfl
@[simp] theorem State.modTl_groups (s : State) (c i : Nat) (f : Timeline → Timeline) : (s.modTl c i f).groups = s.groups := rfl
@[simp] theorem State.modTl_crews (s : State) (c i : Nat) (f : Timeline → Timeline) : (s.modTl c i f).crews = modAt (fun cr => cr.modTl i f) c s.crews := rfl
@[simp] theorem State.modTl_ctxs (s : State) (c i : Nat) (f : Timeline → Timeline) : (s.modTl c i f).ctxs = s.ctxs := rfl
@[simp] theorem State.modTl_parts (s : State) (c i : Nat) (f : Timeline → Timeline) : (s.modTl c i f).parts = s.parts := rfl
@[simp] theorem State.modTl_tasks (s : State) (c i : Nat) (f : Timeline → Timeline) : (s.modTl c i f).tasks = s.tasks := rfl
@[simp] theorem State.modTl_forks (s : State) (c i : Nat) (f : Timeline → Timeline) : (s.modTl c i f).forks = s.forks := rfl
@[simp] theorem State.modTl_bars (s : State) (c i : Nat) (f : Timeline → Timeline) : (s.modTl c i f).bars = s.bars := rfl
@[simp] theorem State.modTl_dram (s : State) (c i : Nat) (f : Timeline → Timeline) : (s.modTl c i f).dram = s.dram := rfl
@[simp] theorem State.modTl_const (s : State) (c i : Nat) (f : Timeline → Timeline) : (s.modTl c i f).const = s.const := rfl
@[simp] theorem State.modTl_hostMem (s : State) (c i : Nat) (f : Timeline → Timeline) : (s.modTl c i f).hostMem = s.hostMem := rfl
@[simp] theorem State.modTl_cache (s : State) (c i : Nat) (f : Timeline → Timeline) : (s.modTl c i f).cache = s.cache := rfl
@[simp] theorem State.modTl_tlb (s : State) (c i : Nat) (f : Timeline → Timeline) : (s.modTl c i f).tlb = s.tlb := rfl
@[simp] theorem State.modTl_marks (s : State) (c i : Nat) (f : Timeline → Timeline) : (s.modTl c i f).marks = s.marks := rfl
@[simp] theorem State.modTl_poison (s : State) (c i : Nat) (f : Timeline → Timeline) : (s.modTl c i f).poison = s.poison := rfl
@[simp] theorem State.modTl_deadDies (s : State) (c i : Nat) (f : Timeline → Timeline) : (s.modTl c i f).deadDies = s.deadDies := rfl
@[simp] theorem State.modTl_orphans (s : State) (c i : Nat) (f : Timeline → Timeline) : (s.modTl c i f).orphans = s.orphans := rfl
@[simp] theorem State.modTl_pred (s : State) (c i : Nat) (f : Timeline → Timeline) : (s.modTl c i f).pred = s.pred := rfl
@[simp] theorem State.modTl_ibuf (s : State) (c i : Nat) (f : Timeline → Timeline) : (s.modTl c i f).ibuf = s.ibuf := rfl
@[simp] theorem State.modTl_pkg (s : State) (c i : Nat) (f : Timeline → Timeline) : (s.modTl c i f).pkg = s.pkg := rfl
@[simp] theorem State.modTl_sched (s : State) (c i : Nat) (f : Timeline → Timeline) : (s.modTl c i f).sched = s.sched := rfl
@[simp] theorem State.modTl_cur (s : State) (c i : Nat) (f : Timeline → Timeline) : (s.modTl c i f).cur = s.cur := rfl
@[simp] theorem State.modTl_issueQ (s : State) (c i : Nat) (f : Timeline → Timeline) : (s.modTl c i f).issueQ = s.issueQ := rfl
@[simp] theorem State.modTl_co (s : State) (c i : Nat) (f : Timeline → Timeline) : (s.modTl c i f).co = s.co := rfl
@[simp] theorem State.modTl_pair (s : State) (c i : Nat) (f : Timeline → Timeline) : (s.modTl c i f).pair = s.pair := rfl
@[simp] theorem State.modTl_pipes (s : State) (c i : Nat) (f : Timeline → Timeline) : (s.modTl c i f).pipes = s.pipes := rfl
@[simp] theorem State.modTl_busy (s : State) (c i : Nat) (f : Timeline → Timeline) : (s.modTl c i f).busy = s.busy := rfl
@[simp] theorem State.modTl_seq (s : State) (c i : Nat) (f : Timeline → Timeline) : (s.modTl c i f).seq = s.seq := rfl

@[simp] theorem State.settle_now (s : State) (g : Nat) : (s.settle g).now = s.now := rfl
@[simp] theorem State.settle_epoch (s : State) (g : Nat) : (s.settle g).epoch = s.epoch := rfl
@[simp] theorem State.settle_groups (s : State) (g : Nat) : (s.settle g).groups = modAt (fun gr => gr.settle s.now) g s.groups := rfl
@[simp] theorem State.settle_crews (s : State) (g : Nat) : (s.settle g).crews = s.crews := rfl
@[simp] theorem State.settle_ctxs (s : State) (g : Nat) : (s.settle g).ctxs = s.ctxs := rfl
@[simp] theorem State.settle_parts (s : State) (g : Nat) : (s.settle g).parts = s.parts := rfl
@[simp] theorem State.settle_tasks (s : State) (g : Nat) : (s.settle g).tasks = s.tasks := rfl
@[simp] theorem State.settle_forks (s : State) (g : Nat) : (s.settle g).forks = s.forks := rfl
@[simp] theorem State.settle_bars (s : State) (g : Nat) : (s.settle g).bars = s.bars := rfl
@[simp] theorem State.settle_dram (s : State) (g : Nat) : (s.settle g).dram = s.dram := rfl
@[simp] theorem State.settle_const (s : State) (g : Nat) : (s.settle g).const = s.const := rfl
@[simp] theorem State.settle_hostMem (s : State) (g : Nat) : (s.settle g).hostMem = s.hostMem := rfl
@[simp] theorem State.settle_cache (s : State) (g : Nat) : (s.settle g).cache = s.cache := rfl
@[simp] theorem State.settle_tlb (s : State) (g : Nat) : (s.settle g).tlb = s.tlb := rfl
@[simp] theorem State.settle_marks (s : State) (g : Nat) : (s.settle g).marks = s.marks := rfl
@[simp] theorem State.settle_poison (s : State) (g : Nat) : (s.settle g).poison = s.poison := rfl
@[simp] theorem State.settle_deadDies (s : State) (g : Nat) : (s.settle g).deadDies = s.deadDies := rfl
@[simp] theorem State.settle_orphans (s : State) (g : Nat) : (s.settle g).orphans = s.orphans := rfl
@[simp] theorem State.settle_pred (s : State) (g : Nat) : (s.settle g).pred = s.pred := rfl
@[simp] theorem State.settle_ibuf (s : State) (g : Nat) : (s.settle g).ibuf = s.ibuf := rfl
@[simp] theorem State.settle_pkg (s : State) (g : Nat) : (s.settle g).pkg = s.pkg := rfl
@[simp] theorem State.settle_sched (s : State) (g : Nat) : (s.settle g).sched = s.sched := rfl
@[simp] theorem State.settle_cur (s : State) (g : Nat) : (s.settle g).cur = s.cur := rfl
@[simp] theorem State.settle_issueQ (s : State) (g : Nat) : (s.settle g).issueQ = s.issueQ := rfl
@[simp] theorem State.settle_co (s : State) (g : Nat) : (s.settle g).co = s.co := rfl
@[simp] theorem State.settle_pair (s : State) (g : Nat) : (s.settle g).pair = s.pair := rfl
@[simp] theorem State.settle_pipes (s : State) (g : Nat) : (s.settle g).pipes = s.pipes := rfl
@[simp] theorem State.settle_busy (s : State) (g : Nat) : (s.settle g).busy = s.busy := rfl
@[simp] theorem State.settle_seq (s : State) (g : Nat) : (s.settle g).seq = s.seq := rfl

@[simp] theorem State.flush_now (s : State) (g : Nat) : (s.flush g).now = s.now := rfl
@[simp] theorem State.flush_epoch (s : State) (g : Nat) : (s.flush g).epoch = s.epoch := rfl
@[simp] theorem State.flush_groups (s : State) (g : Nat) : (s.flush g).groups = modAt Group.flush g s.groups := rfl
@[simp] theorem State.flush_crews (s : State) (g : Nat) : (s.flush g).crews = s.crews := rfl
@[simp] theorem State.flush_ctxs (s : State) (g : Nat) : (s.flush g).ctxs = s.ctxs := rfl
@[simp] theorem State.flush_parts (s : State) (g : Nat) : (s.flush g).parts = s.parts := rfl
@[simp] theorem State.flush_tasks (s : State) (g : Nat) : (s.flush g).tasks = s.tasks := rfl
@[simp] theorem State.flush_forks (s : State) (g : Nat) : (s.flush g).forks = s.forks := rfl
@[simp] theorem State.flush_bars (s : State) (g : Nat) : (s.flush g).bars = s.bars := rfl
@[simp] theorem State.flush_dram (s : State) (g : Nat) : (s.flush g).dram = s.dram := rfl
@[simp] theorem State.flush_const (s : State) (g : Nat) : (s.flush g).const = s.const := rfl
@[simp] theorem State.flush_hostMem (s : State) (g : Nat) : (s.flush g).hostMem = s.hostMem := rfl
@[simp] theorem State.flush_cache (s : State) (g : Nat) : (s.flush g).cache = s.cache := rfl
@[simp] theorem State.flush_tlb (s : State) (g : Nat) : (s.flush g).tlb = s.tlb := rfl
@[simp] theorem State.flush_marks (s : State) (g : Nat) : (s.flush g).marks = s.marks := rfl
@[simp] theorem State.flush_poison (s : State) (g : Nat) : (s.flush g).poison = s.poison := rfl
@[simp] theorem State.flush_deadDies (s : State) (g : Nat) : (s.flush g).deadDies = s.deadDies := rfl
@[simp] theorem State.flush_orphans (s : State) (g : Nat) : (s.flush g).orphans = s.orphans := rfl
@[simp] theorem State.flush_pred (s : State) (g : Nat) : (s.flush g).pred = s.pred := rfl
@[simp] theorem State.flush_ibuf (s : State) (g : Nat) : (s.flush g).ibuf = s.ibuf := rfl
@[simp] theorem State.flush_pkg (s : State) (g : Nat) : (s.flush g).pkg = s.pkg := rfl
@[simp] theorem State.flush_sched (s : State) (g : Nat) : (s.flush g).sched = s.sched := rfl
@[simp] theorem State.flush_cur (s : State) (g : Nat) : (s.flush g).cur = s.cur := rfl
@[simp] theorem State.flush_issueQ (s : State) (g : Nat) : (s.flush g).issueQ = s.issueQ := rfl
@[simp] theorem State.flush_co (s : State) (g : Nat) : (s.flush g).co = s.co := rfl
@[simp] theorem State.flush_pair (s : State) (g : Nat) : (s.flush g).pair = s.pair := rfl
@[simp] theorem State.flush_pipes (s : State) (g : Nat) : (s.flush g).pipes = s.pipes := rfl
@[simp] theorem State.flush_busy (s : State) (g : Nat) : (s.flush g).busy = s.busy := rfl
@[simp] theorem State.flush_seq (s : State) (g : Nat) : (s.flush g).seq = s.seq := rfl

@[simp] theorem State.writeReg_now (s : State) (g : Nat) (spec : BitVec 6) (r : Result) : (s.writeReg g spec r).now = s.now := rfl
@[simp] theorem State.writeReg_epoch (s : State) (g : Nat) (spec : BitVec 6) (r : Result) : (s.writeReg g spec r).epoch = s.epoch := rfl
@[simp] theorem State.writeReg_groups (s : State) (g : Nat) (spec : BitVec 6) (r : Result) : (s.writeReg g spec r).groups = modAt (fun gr => (gr.overtake spec r.en).setReg spec r.en r.val) g s.groups := rfl
@[simp] theorem State.writeReg_crews (s : State) (g : Nat) (spec : BitVec 6) (r : Result) : (s.writeReg g spec r).crews = s.crews := rfl
@[simp] theorem State.writeReg_ctxs (s : State) (g : Nat) (spec : BitVec 6) (r : Result) : (s.writeReg g spec r).ctxs = s.ctxs := rfl
@[simp] theorem State.writeReg_parts (s : State) (g : Nat) (spec : BitVec 6) (r : Result) : (s.writeReg g spec r).parts = s.parts := rfl
@[simp] theorem State.writeReg_tasks (s : State) (g : Nat) (spec : BitVec 6) (r : Result) : (s.writeReg g spec r).tasks = s.tasks := rfl
@[simp] theorem State.writeReg_forks (s : State) (g : Nat) (spec : BitVec 6) (r : Result) : (s.writeReg g spec r).forks = s.forks := rfl
@[simp] theorem State.writeReg_bars (s : State) (g : Nat) (spec : BitVec 6) (r : Result) : (s.writeReg g spec r).bars = s.bars := rfl
@[simp] theorem State.writeReg_dram (s : State) (g : Nat) (spec : BitVec 6) (r : Result) : (s.writeReg g spec r).dram = s.dram := rfl
@[simp] theorem State.writeReg_const (s : State) (g : Nat) (spec : BitVec 6) (r : Result) : (s.writeReg g spec r).const = s.const := rfl
@[simp] theorem State.writeReg_hostMem (s : State) (g : Nat) (spec : BitVec 6) (r : Result) : (s.writeReg g spec r).hostMem = s.hostMem := rfl
@[simp] theorem State.writeReg_cache (s : State) (g : Nat) (spec : BitVec 6) (r : Result) : (s.writeReg g spec r).cache = s.cache := rfl
@[simp] theorem State.writeReg_tlb (s : State) (g : Nat) (spec : BitVec 6) (r : Result) : (s.writeReg g spec r).tlb = s.tlb := rfl
@[simp] theorem State.writeReg_marks (s : State) (g : Nat) (spec : BitVec 6) (r : Result) : (s.writeReg g spec r).marks = s.marks := rfl
@[simp] theorem State.writeReg_poison (s : State) (g : Nat) (spec : BitVec 6) (r : Result) : (s.writeReg g spec r).poison = s.poison := rfl
@[simp] theorem State.writeReg_deadDies (s : State) (g : Nat) (spec : BitVec 6) (r : Result) : (s.writeReg g spec r).deadDies = s.deadDies := rfl
@[simp] theorem State.writeReg_orphans (s : State) (g : Nat) (spec : BitVec 6) (r : Result) : (s.writeReg g spec r).orphans = s.orphans := rfl
@[simp] theorem State.writeReg_pred (s : State) (g : Nat) (spec : BitVec 6) (r : Result) : (s.writeReg g spec r).pred = s.pred := rfl
@[simp] theorem State.writeReg_ibuf (s : State) (g : Nat) (spec : BitVec 6) (r : Result) : (s.writeReg g spec r).ibuf = s.ibuf := rfl
@[simp] theorem State.writeReg_pkg (s : State) (g : Nat) (spec : BitVec 6) (r : Result) : (s.writeReg g spec r).pkg = s.pkg := rfl
@[simp] theorem State.writeReg_sched (s : State) (g : Nat) (spec : BitVec 6) (r : Result) : (s.writeReg g spec r).sched = s.sched := rfl
@[simp] theorem State.writeReg_cur (s : State) (g : Nat) (spec : BitVec 6) (r : Result) : (s.writeReg g spec r).cur = s.cur := rfl
@[simp] theorem State.writeReg_issueQ (s : State) (g : Nat) (spec : BitVec 6) (r : Result) : (s.writeReg g spec r).issueQ = s.issueQ := rfl
@[simp] theorem State.writeReg_co (s : State) (g : Nat) (spec : BitVec 6) (r : Result) : (s.writeReg g spec r).co = s.co := rfl
@[simp] theorem State.writeReg_pair (s : State) (g : Nat) (spec : BitVec 6) (r : Result) : (s.writeReg g spec r).pair = s.pair := rfl
@[simp] theorem State.writeReg_pipes (s : State) (g : Nat) (spec : BitVec 6) (r : Result) : (s.writeReg g spec r).pipes = s.pipes := rfl
@[simp] theorem State.writeReg_busy (s : State) (g : Nat) (spec : BitVec 6) (r : Result) : (s.writeReg g spec r).busy = s.busy := rfl
@[simp] theorem State.writeReg_seq (s : State) (g : Nat) (spec : BitVec 6) (r : Result) : (s.writeReg g spec r).seq = s.seq := rfl

@[simp] theorem State.unmark_now (s : State) (p pa : Nat) : (s.unmark p pa).now = s.now := rfl
@[simp] theorem State.unmark_epoch (s : State) (p pa : Nat) : (s.unmark p pa).epoch = s.epoch := rfl
@[simp] theorem State.unmark_groups (s : State) (p pa : Nat) : (s.unmark p pa).groups = s.groups := rfl
@[simp] theorem State.unmark_crews (s : State) (p pa : Nat) : (s.unmark p pa).crews = s.crews := rfl
@[simp] theorem State.unmark_ctxs (s : State) (p pa : Nat) : (s.unmark p pa).ctxs = s.ctxs := rfl
@[simp] theorem State.unmark_parts (s : State) (p pa : Nat) : (s.unmark p pa).parts = s.parts := rfl
@[simp] theorem State.unmark_tasks (s : State) (p pa : Nat) : (s.unmark p pa).tasks = s.tasks := rfl
@[simp] theorem State.unmark_forks (s : State) (p pa : Nat) : (s.unmark p pa).forks = s.forks := rfl
@[simp] theorem State.unmark_bars (s : State) (p pa : Nat) : (s.unmark p pa).bars = s.bars := rfl
@[simp] theorem State.unmark_dram (s : State) (p pa : Nat) : (s.unmark p pa).dram = s.dram := rfl
@[simp] theorem State.unmark_const (s : State) (p pa : Nat) : (s.unmark p pa).const = s.const := rfl
@[simp] theorem State.unmark_hostMem (s : State) (p pa : Nat) : (s.unmark p pa).hostMem = s.hostMem := rfl
@[simp] theorem State.unmark_cache (s : State) (p pa : Nat) : (s.unmark p pa).cache = s.cache := rfl
@[simp] theorem State.unmark_tlb (s : State) (p pa : Nat) : (s.unmark p pa).tlb = s.tlb := rfl
@[simp] theorem State.unmark_marks (s : State) (p pa : Nat) : (s.unmark p pa).marks = drop (sectorKey p pa) s.marks := rfl
@[simp] theorem State.unmark_poison (s : State) (p pa : Nat) : (s.unmark p pa).poison = s.poison := rfl
@[simp] theorem State.unmark_deadDies (s : State) (p pa : Nat) : (s.unmark p pa).deadDies = s.deadDies := rfl
@[simp] theorem State.unmark_orphans (s : State) (p pa : Nat) : (s.unmark p pa).orphans = s.orphans := rfl
@[simp] theorem State.unmark_pred (s : State) (p pa : Nat) : (s.unmark p pa).pred = s.pred := rfl
@[simp] theorem State.unmark_ibuf (s : State) (p pa : Nat) : (s.unmark p pa).ibuf = s.ibuf := rfl
@[simp] theorem State.unmark_pkg (s : State) (p pa : Nat) : (s.unmark p pa).pkg = s.pkg := rfl
@[simp] theorem State.unmark_sched (s : State) (p pa : Nat) : (s.unmark p pa).sched = s.sched := rfl
@[simp] theorem State.unmark_cur (s : State) (p pa : Nat) : (s.unmark p pa).cur = s.cur := rfl
@[simp] theorem State.unmark_issueQ (s : State) (p pa : Nat) : (s.unmark p pa).issueQ = s.issueQ := rfl
@[simp] theorem State.unmark_co (s : State) (p pa : Nat) : (s.unmark p pa).co = s.co := rfl
@[simp] theorem State.unmark_pair (s : State) (p pa : Nat) : (s.unmark p pa).pair = s.pair := rfl
@[simp] theorem State.unmark_pipes (s : State) (p pa : Nat) : (s.unmark p pa).pipes = s.pipes := rfl
@[simp] theorem State.unmark_busy (s : State) (p pa : Nat) : (s.unmark p pa).busy = s.busy := rfl
@[simp] theorem State.unmark_seq (s : State) (p pa : Nat) : (s.unmark p pa).seq = s.seq := rfl

@[simp] theorem State.writeDram_now (s : State) (p pa : Nat) (bs : List Byte) : (s.writeDram p pa bs).now = s.now := rfl
@[simp] theorem State.writeDram_epoch (s : State) (p pa : Nat) (bs : List Byte) : (s.writeDram p pa bs).epoch = s.epoch := rfl
@[simp] theorem State.writeDram_groups (s : State) (p pa : Nat) (bs : List Byte) : (s.writeDram p pa bs).groups = s.groups := rfl
@[simp] theorem State.writeDram_crews (s : State) (p pa : Nat) (bs : List Byte) : (s.writeDram p pa bs).crews = s.crews := rfl
@[simp] theorem State.writeDram_ctxs (s : State) (p pa : Nat) (bs : List Byte) : (s.writeDram p pa bs).ctxs = s.ctxs := rfl
@[simp] theorem State.writeDram_parts (s : State) (p pa : Nat) (bs : List Byte) : (s.writeDram p pa bs).parts = s.parts := rfl
@[simp] theorem State.writeDram_tasks (s : State) (p pa : Nat) (bs : List Byte) : (s.writeDram p pa bs).tasks = s.tasks := rfl
@[simp] theorem State.writeDram_forks (s : State) (p pa : Nat) (bs : List Byte) : (s.writeDram p pa bs).forks = s.forks := rfl
@[simp] theorem State.writeDram_bars (s : State) (p pa : Nat) (bs : List Byte) : (s.writeDram p pa bs).bars = s.bars := rfl
@[simp] theorem State.writeDram_dram (s : State) (p pa : Nat) (bs : List Byte) : (s.writeDram p pa bs).dram = Mem.write (dramKey p pa) bs s.dram := rfl
@[simp] theorem State.writeDram_const (s : State) (p pa : Nat) (bs : List Byte) : (s.writeDram p pa bs).const = s.const := rfl
@[simp] theorem State.writeDram_hostMem (s : State) (p pa : Nat) (bs : List Byte) : (s.writeDram p pa bs).hostMem = s.hostMem := rfl
@[simp] theorem State.writeDram_cache (s : State) (p pa : Nat) (bs : List Byte) : (s.writeDram p pa bs).cache = s.cache := rfl
@[simp] theorem State.writeDram_tlb (s : State) (p pa : Nat) (bs : List Byte) : (s.writeDram p pa bs).tlb = s.tlb := rfl
@[simp] theorem State.writeDram_marks (s : State) (p pa : Nat) (bs : List Byte) : (s.writeDram p pa bs).marks = s.marks := rfl
@[simp] theorem State.writeDram_poison (s : State) (p pa : Nat) (bs : List Byte) : (s.writeDram p pa bs).poison = s.poison := rfl
@[simp] theorem State.writeDram_deadDies (s : State) (p pa : Nat) (bs : List Byte) : (s.writeDram p pa bs).deadDies = s.deadDies := rfl
@[simp] theorem State.writeDram_orphans (s : State) (p pa : Nat) (bs : List Byte) : (s.writeDram p pa bs).orphans = s.orphans := rfl
@[simp] theorem State.writeDram_pred (s : State) (p pa : Nat) (bs : List Byte) : (s.writeDram p pa bs).pred = s.pred := rfl
@[simp] theorem State.writeDram_ibuf (s : State) (p pa : Nat) (bs : List Byte) : (s.writeDram p pa bs).ibuf = s.ibuf := rfl
@[simp] theorem State.writeDram_pkg (s : State) (p pa : Nat) (bs : List Byte) : (s.writeDram p pa bs).pkg = s.pkg := rfl
@[simp] theorem State.writeDram_sched (s : State) (p pa : Nat) (bs : List Byte) : (s.writeDram p pa bs).sched = s.sched := rfl
@[simp] theorem State.writeDram_cur (s : State) (p pa : Nat) (bs : List Byte) : (s.writeDram p pa bs).cur = s.cur := rfl
@[simp] theorem State.writeDram_issueQ (s : State) (p pa : Nat) (bs : List Byte) : (s.writeDram p pa bs).issueQ = s.issueQ := rfl
@[simp] theorem State.writeDram_co (s : State) (p pa : Nat) (bs : List Byte) : (s.writeDram p pa bs).co = s.co := rfl
@[simp] theorem State.writeDram_pair (s : State) (p pa : Nat) (bs : List Byte) : (s.writeDram p pa bs).pair = s.pair := rfl
@[simp] theorem State.writeDram_pipes (s : State) (p pa : Nat) (bs : List Byte) : (s.writeDram p pa bs).pipes = s.pipes := rfl
@[simp] theorem State.writeDram_busy (s : State) (p pa : Nat) (bs : List Byte) : (s.writeDram p pa bs).busy = s.busy := rfl
@[simp] theorem State.writeDram_seq (s : State) (p pa : Nat) (bs : List Byte) : (s.writeDram p pa bs).seq = s.seq := rfl

@[simp] theorem State.setPoison_now (s : State) (x : Spot) (b : Bool) : (s.setPoison x b).now = s.now := by unfold State.setPoison; split <;> rfl
@[simp] theorem State.setPoison_epoch (s : State) (x : Spot) (b : Bool) : (s.setPoison x b).epoch = s.epoch := by unfold State.setPoison; split <;> rfl
@[simp] theorem State.setPoison_groups (s : State) (x : Spot) (b : Bool) : (s.setPoison x b).groups = s.groups := by unfold State.setPoison; split <;> rfl
@[simp] theorem State.setPoison_crews (s : State) (x : Spot) (b : Bool) : (s.setPoison x b).crews = s.crews := by unfold State.setPoison; split <;> rfl
@[simp] theorem State.setPoison_ctxs (s : State) (x : Spot) (b : Bool) : (s.setPoison x b).ctxs = s.ctxs := by unfold State.setPoison; split <;> rfl
@[simp] theorem State.setPoison_parts (s : State) (x : Spot) (b : Bool) : (s.setPoison x b).parts = s.parts := by unfold State.setPoison; split <;> rfl
@[simp] theorem State.setPoison_tasks (s : State) (x : Spot) (b : Bool) : (s.setPoison x b).tasks = s.tasks := by unfold State.setPoison; split <;> rfl
@[simp] theorem State.setPoison_forks (s : State) (x : Spot) (b : Bool) : (s.setPoison x b).forks = s.forks := by unfold State.setPoison; split <;> rfl
@[simp] theorem State.setPoison_bars (s : State) (x : Spot) (b : Bool) : (s.setPoison x b).bars = s.bars := by unfold State.setPoison; split <;> rfl
@[simp] theorem State.setPoison_dram (s : State) (x : Spot) (b : Bool) : (s.setPoison x b).dram = s.dram := by unfold State.setPoison; split <;> rfl
@[simp] theorem State.setPoison_const (s : State) (x : Spot) (b : Bool) : (s.setPoison x b).const = s.const := by unfold State.setPoison; split <;> rfl
@[simp] theorem State.setPoison_hostMem (s : State) (x : Spot) (b : Bool) : (s.setPoison x b).hostMem = s.hostMem := by unfold State.setPoison; split <;> rfl
@[simp] theorem State.setPoison_cache (s : State) (x : Spot) (b : Bool) : (s.setPoison x b).cache = s.cache := by unfold State.setPoison; split <;> rfl
@[simp] theorem State.setPoison_tlb (s : State) (x : Spot) (b : Bool) : (s.setPoison x b).tlb = s.tlb := by unfold State.setPoison; split <;> rfl
@[simp] theorem State.setPoison_marks (s : State) (x : Spot) (b : Bool) : (s.setPoison x b).marks = s.marks := by unfold State.setPoison; split <;> rfl
@[simp] theorem State.setPoison_deadDies (s : State) (x : Spot) (b : Bool) : (s.setPoison x b).deadDies = s.deadDies := by unfold State.setPoison; split <;> rfl
@[simp] theorem State.setPoison_orphans (s : State) (x : Spot) (b : Bool) : (s.setPoison x b).orphans = s.orphans := by unfold State.setPoison; split <;> rfl
@[simp] theorem State.setPoison_pred (s : State) (x : Spot) (b : Bool) : (s.setPoison x b).pred = s.pred := by unfold State.setPoison; split <;> rfl
@[simp] theorem State.setPoison_ibuf (s : State) (x : Spot) (b : Bool) : (s.setPoison x b).ibuf = s.ibuf := by unfold State.setPoison; split <;> rfl
@[simp] theorem State.setPoison_pkg (s : State) (x : Spot) (b : Bool) : (s.setPoison x b).pkg = s.pkg := by unfold State.setPoison; split <;> rfl
@[simp] theorem State.setPoison_sched (s : State) (x : Spot) (b : Bool) : (s.setPoison x b).sched = s.sched := by unfold State.setPoison; split <;> rfl
@[simp] theorem State.setPoison_cur (s : State) (x : Spot) (b : Bool) : (s.setPoison x b).cur = s.cur := by unfold State.setPoison; split <;> rfl
@[simp] theorem State.setPoison_issueQ (s : State) (x : Spot) (b : Bool) : (s.setPoison x b).issueQ = s.issueQ := by unfold State.setPoison; split <;> rfl
@[simp] theorem State.setPoison_co (s : State) (x : Spot) (b : Bool) : (s.setPoison x b).co = s.co := by unfold State.setPoison; split <;> rfl
@[simp] theorem State.setPoison_pair (s : State) (x : Spot) (b : Bool) : (s.setPoison x b).pair = s.pair := by unfold State.setPoison; split <;> rfl
@[simp] theorem State.setPoison_pipes (s : State) (x : Spot) (b : Bool) : (s.setPoison x b).pipes = s.pipes := by unfold State.setPoison; split <;> rfl
@[simp] theorem State.setPoison_busy (s : State) (x : Spot) (b : Bool) : (s.setPoison x b).busy = s.busy := by unfold State.setPoison; split <;> rfl
@[simp] theorem State.setPoison_seq (s : State) (x : Spot) (b : Bool) : (s.setPoison x b).seq = s.seq := by unfold State.setPoison; split <;> rfl
@[simp] theorem State.setPoison_mem (s : State) (x y : Spot) (b : Bool) :
    y ∈ (s.setPoison x b).poison ↔ if y = x then b = true else y ∈ s.poison := by
  unfold State.setPoison
  by_cases h : y = x
  · subst h
    by_cases m : y ∈ s.poison <;> cases b <;> simp [m]
  · by_cases m : x ∈ s.poison <;> cases b <;> simp [m, h]

/-! ## Parts by number -/

theorem State.modGrp_grp (s : State) (g h : Nat) (f : Group → Group) :
    (s.modGrp g f).grp h = if h = g ∧ h < s.groups.length then f (s.grp h) else s.grp h := modAt_getD ..
theorem State.modCrew_crew (s : State) (c k : Nat) (f : Crew → Crew) :
    (s.modCrew c f).crew k = if k = c ∧ k < s.crews.length then f (s.crew k) else s.crew k := modAt_getD ..
theorem State.modCtx_ctx (s : State) (c k : Nat) (f : Context → Context) :
    (s.modCtx c f).ctx k = if k = c ∧ k < s.ctxs.length then f (s.ctx k) else s.ctx k := modAt_getD ..
theorem State.modPart_part (s : State) (c k : Nat) (f : Partition → Partition) :
    (s.modPart c f).part k = if k = c ∧ k < s.parts.length then f (s.part k) else s.part k := modAt_getD ..
theorem State.modTask_task (s : State) (c k : Nat) (f : Task → Task) :
    (s.modTask c f).task k = if k = c ∧ k < s.tasks.length then f (s.task k) else s.task k := modAt_getD ..

@[simp] theorem State.modGrp_other (s : State) (g h : Nat) (f : Group → Group) (n : h ≠ g) : (s.modGrp g f).grp h = s.grp h := by
  simp [State.modGrp_grp, n]
@[simp] theorem State.modCrew_other (s : State) (c k : Nat) (f : Crew → Crew) (n : k ≠ c) : (s.modCrew c f).crew k = s.crew k := by
  simp [State.modCrew_crew, n]
@[simp] theorem State.modCtx_other (s : State) (c k : Nat) (f : Context → Context) (n : k ≠ c) : (s.modCtx c f).ctx k = s.ctx k := by
  simp [State.modCtx_ctx, n]

theorem State.modGrp_self (s : State) (g : Nat) (f : Group → Group) (h : g < s.groups.length) : (s.modGrp g f).grp g = f (s.grp g) := by
  simp [State.modGrp_grp, h]
theorem State.modCrew_self (s : State) (c : Nat) (f : Crew → Crew) (h : c < s.crews.length) : (s.modCrew c f).crew c = f (s.crew c) := by
  simp [State.modCrew_crew, h]
theorem State.modCtx_self (s : State) (c : Nat) (f : Context → Context) (h : c < s.ctxs.length) : (s.modCtx c f).ctx c = f (s.ctx c) := by
  simp [State.modCtx_ctx, h]

@[simp] theorem State.modCrew_grp (s : State) (c : Nat) (f : Crew → Crew) (g : Nat) : (s.modCrew c f).grp g = s.grp g := rfl
@[simp] theorem State.modCtx_grp (s : State) (c : Nat) (f : Context → Context) (g : Nat) : (s.modCtx c f).grp g = s.grp g := rfl
@[simp] theorem State.modPkg_grp (s : State) (f : Package → Package) (g : Nat) : (s.modPkg f).grp g = s.grp g := rfl
@[simp] theorem State.modGrp_crew (s : State) (g : Nat) (f : Group → Group) (c : Nat) : (s.modGrp g f).crew c = s.crew c := rfl
@[simp] theorem State.modGrp_ctx (s : State) (g : Nat) (f : Group → Group) (c : Nat) : (s.modGrp g f).ctx c = s.ctx c := rfl
@[simp] theorem State.modGrp_part (s : State) (g : Nat) (f : Group → Group) (c : Nat) : (s.modGrp g f).part c = s.part c := rfl
@[simp] theorem State.modCrew_ctx (s : State) (c : Nat) (f : Crew → Crew) (k : Nat) : (s.modCrew c f).ctx k = s.ctx k := rfl
@[simp] theorem State.modCtx_crew (s : State) (c : Nat) (f : Context → Context) (k : Nat) : (s.modCtx c f).crew k = s.crew k := rfl

/-! ## Lanes and timelines -/

theorem Group.modLanes_lane (gr : Group) (ls : Lanes) (f : Nat → Lane → Lane) (l : Nat) (h : l < 32) :
    (gr.modLanes ls f).lane l = if ls.getLsbD l then f l (gr.lane l) else gr.lane l := by
  simp [Group.modLanes, Group.lane, h]

theorem Group.modLane_lane (gr : Group) (l k : Nat) (f : Lane → Lane) (h : k < 32) :
    (gr.modLane l f).lane k = if k = l then f (gr.lane k) else gr.lane k := by
  by_cases e : k = l
  · subst e; simp [Group.modLane, Group.lane, h]
  · simp [Group.modLane, Group.lane, e, Ne.symm e]

theorem Crew.modTl_tline (c : Crew) (i k : Nat) (f : Timeline → Timeline) (h : k < 8) :
    (c.modTl i f).tline k = if k = i then f (c.tline k) else c.tline k := by
  by_cases e : k = i
  · subst e; simp [Crew.modTl, Crew.tline, h]
  · simp [Crew.modTl, Crew.tline, e, Ne.symm e]

/-! ## Registers -/

/-- A register written is merged under the enables (R47); z and the source-only specifiers discard (R44). -/
theorem Group.setReg_reg (gr : Group) (spec : BitVec 6) (en val : Img) (w : Nat) (h : spec.toNat < 56) :
    (gr.setReg spec en val).reg w spec = blend en val (gr.reg w spec) := by
  by_cases h48 : spec.toNat < 48
  · simp [Group.setReg, Group.reg, h48]
  · simp [Group.setReg, Group.reg, h48, h, show spec.toNat - 48 < 8 by omega]

theorem Group.setReg_discard (gr : Group) (spec : BitVec 6) (en val : Img) (h : 56 ≤ spec.toNat) : gr.setReg spec en val = gr := by
  simp [Group.setReg, show ¬ spec.toNat < 48 by omega, show ¬ spec.toNat < 56 by omega]

/-- A register write changes the register file alone. -/
theorem Group.setReg_keeps (gr : Group) (spec : BitVec 6) (en val : Img) :
    gr.setReg spec en val = { gr with v := (gr.setReg spec en val).v, o := (gr.setReg spec en val).o } := by
  unfold Group.setReg; dsimp only; split
  · rfl
  · split <;> rfl

theorem Group.setMask_zero (gr : Group) (en val : Mask) : gr.setMask 0 en val = gr := rfl
theorem Group.setMask_keeps (gr : Group) (k : Nat) (en val : Mask) : gr.setMask k en val = { gr with k := (gr.setMask k en val).k } := by
  unfold Group.setMask; split <;> rfl

/-! ## Sparse tables -/

theorem look_cons {α : Type} (p : Nat × α) (l : List (Nat × α)) (j : Nat) : look (p :: l) j = if p.1 = j then some p.2 else look l j := by
  unfold look
  by_cases h : p.1 = j
  · subst h; simp
  · simp [h]

theorem look_put {α : Type} (k : Nat) (v : α) (l : List (Nat × α)) (j : Nat) : look (put k v l) j = if j = k then some v else look l j := by
  induction l with
  | nil =>
    by_cases h : j = k
    · subst h; simp [put, look_cons]
    · simp [put, look_cons, h, Ne.symm h]
  | cons p t ih =>
    obtain ⟨k', v'⟩ := p
    by_cases h : j = k
    · subst h
      unfold put
      split
      · simp [look_cons]
      · split
        · simp [look_cons]
        · rename_i h2; simp [look_cons, Ne.symm h2, ih]
    · unfold put
      split
      · simp [look_cons, Ne.symm h]
      · split
        · rename_i h2; subst h2; simp [look_cons, Ne.symm h]
        · simp [look_cons, h, ih]

theorem look_drop {α : Type} (k : Nat) (l : List (Nat × α)) (j : Nat) : look (drop k l) j = if j = k then none else look l j := by
  induction l with
  | nil => simp [drop, look]
  | cons p t ih =>
    obtain ⟨k', v'⟩ := p
    by_cases h : k' = k
    · subst h
      have e : drop k' ((k', v') :: t) = drop k' t := by simp [drop]
      by_cases hj : j = k'
      · rw [e, ih, if_pos hj, if_pos hj]
      · simp [e, ih, look_cons, hj, Ne.symm hj]
    · have e : drop k ((k', v') :: t) = (k', v') :: drop k t := by simp [drop, h]
      rw [e, look_cons, look_cons, ih]
      by_cases hj : k' = j
      · simp [hj, hj ▸ h]
      · simp [hj]

end Sys2Proof.Machine
end

