-- ==== Sys2Proof/Laws/Issue.lean ====
section
/-! SUPPORT. The shared operations around a unit of issue, each with everything it can do: the issue itself, the advance of counters, results, waits,
traps, and the memories that stay in canonical form. -/

namespace Sys2Proof.Machine

/-! ## The issue -/

/-- An issue ends at a fork boundary, in a trap, in the delivery of an image that an entry holds, or in the effect of the unit. -/
theorem State.issue_cases (s : State) (i : Instr) (body : State → Out) :
    ((s.begin i).gate i = .boundary ∧ s.issue i body = .next ((s.begin i).holdBoundary (s.begin i).cur.lanes)) ∨
    (∃ t, (s.begin i).gate i = .trap t ∧
      s.issue i body = .next ((if movesCounters i then s.begin i else (s.begin i).advance i).fault i (s.begin i).cur.lanes t true)) ∨
    ((s.begin i).gate i = .pass ∧ ((∃ img, s.issue i body = .next ((s.issued i).redeliver i img)) ∨ s.issue i body = body (s.issued i))) := by
  unfold State.issue State.issued
  dsimp only
  split
  · rename_i h; exact .inl ⟨h, rfl⟩
  · rename_i t h; exact .inr (.inl ⟨t, h, rfl⟩)
  · rename_i h
    refine .inr (.inr ⟨h, ?_⟩)
    split
    · rename_i img _; exact .inl ⟨img, rfl⟩
    · exact .inr rfl

theorem State.begin_cur (s : State) (i : Instr) :
    ∃ q c f k m, (s.begin i).cur = { s.cur with seq := q, cycle := c, fp := f, clk := k, low := m } := by
  unfold State.begin
  dsimp only
  split <;> exact ⟨_, _, _, _, _, rfl⟩

@[simp] theorem State.begin_g (s : State) (i : Instr) : (s.begin i).cur.g = s.cur.g := by obtain ⟨_, _, _, _, _, h⟩ := s.begin_cur i; rw [h]
@[simp] theorem State.begin_lanes (s : State) (i : Instr) : (s.begin i).cur.lanes = s.cur.lanes := by obtain ⟨_, _, _, _, _, h⟩ := s.begin_cur i; rw [h]
@[simp] theorem State.begin_replay (s : State) (i : Instr) : (s.begin i).cur.replay = s.cur.replay := by obtain ⟨_, _, _, _, _, h⟩ := s.begin_cur i; rw [h]
@[simp] theorem State.begin_late (s : State) (i : Instr) : (s.begin i).cur.late = s.cur.late := by obtain ⟨_, _, _, _, _, h⟩ := s.begin_cur i; rw [h]
@[simp] theorem State.begin_res (s : State) (i : Instr) : (s.begin i).cur.res = s.cur.res := by obtain ⟨_, _, _, _, _, h⟩ := s.begin_cur i; rw [h]
@[simp] theorem State.begin_addr (s : State) (i : Instr) : (s.begin i).cur.addr = s.cur.addr := by obtain ⟨_, _, _, _, _, h⟩ := s.begin_cur i; rw [h]

@[simp] theorem State.addDisagree_cur (s : State) (g : Nat) (ls : Lanes) (a : Word) : (s.addDisagree g ls a).cur = s.cur := by
  unfold State.addDisagree; split <;> rfl
@[simp] theorem State.advance_cur (s : State) (i : Instr) : (s.advance i).cur = s.cur := by unfold State.advance; split <;> rfl
@[simp] theorem State.countIssue_cur (s : State) (i : Instr) : (s.countIssue i).cur = s.cur := by unfold State.countIssue; split <;> rfl
@[simp] theorem State.occupyPipe_cur (s : State) (v : Bool) (n : Nat) : (s.occupyPipe v n).cur = s.cur := rfl
@[simp] theorem State.occupy_cur (s : State) (i : Instr) : (s.occupy i).cur = s.cur := by
  unfold State.occupy; split
  · rfl
  · split
    · rfl
    · split <;> rfl
@[simp] theorem State.passed_cur (s : State) (i : Instr) : (s.passed i).cur = s.cur := by
  unfold State.passed
  dsimp only
  rw [State.occupy_cur, State.countIssue_cur, State.advance_cur]
  split <;> simp

/-- The unit itself stands through the issue, but for its number, its cycle, and what it notes of its group. -/
theorem State.issued_cur (s : State) (i : Instr) : (s.issued i).cur = (s.begin i).cur := State.passed_cur ..

@[simp] theorem State.issued_g (s : State) (i : Instr) : (s.issued i).cur.g = s.cur.g := by simp [State.issued_cur]
@[simp] theorem State.issued_lanes (s : State) (i : Instr) : (s.issued i).cur.lanes = s.cur.lanes := by simp [State.issued_cur]
@[simp] theorem State.issued_replay (s : State) (i : Instr) : (s.issued i).cur.replay = s.cur.replay := by simp [State.issued_cur]
@[simp] theorem State.issued_late (s : State) (i : Instr) : (s.issued i).cur.late = s.cur.late := by simp [State.issued_cur]
@[simp] theorem State.issued_res (s : State) (i : Instr) : (s.issued i).cur.res = s.cur.res := by simp [State.issued_cur]
@[simp] theorem State.issued_addr (s : State) (i : Instr) : (s.issued i).cur.addr = s.cur.addr := by simp [State.issued_cur]

/-- A unit that passes has its effect on the state with the counters moved. -/
theorem State.issue_of_goes (s : State) (i : Instr) (body : State → Out) (h : s.goes i) : s.issue i body = body (s.issued i) := by
  have r : ((s.begin i).passed i).cur.res = none := by simp [h.1.2.2]
  unfold State.issue
  dsimp only
  rw [h.2]
  dsimp only
  rw [r]
  rfl

/-! ## One group -/

theorem State.onlyGroup.refl (g : Nat) (s : State) : s.onlyGroup g s := ⟨rfl, rfl, fun _ _ => rfl⟩

theorem State.onlyGroup.trans {g : Nat} {s t u : State} (a : s.onlyGroup g t) (b : t.onlyGroup g u) : s.onlyGroup g u := by
  refine ⟨?_, b.2.1.trans a.2.1, fun h n => (b.2.2 h n).trans (a.2.2 h n)⟩
  rw [b.1, a.1]

theorem State.modGrp_onlyGroup (s : State) (g : Nat) (f : Group → Group) : s.onlyGroup g (s.modGrp g f) :=
  ⟨rfl, by simp, fun h n => by simp [n]⟩
theorem State.modLanes_onlyGroup (s : State) (g : Nat) (ls : Lanes) (f : Nat → Lane → Lane) : s.onlyGroup g (s.modLanes g ls f) :=
  s.modGrp_onlyGroup g _
theorem State.settle_onlyGroup (s : State) (g : Nat) : s.onlyGroup g (s.settle g) := s.modGrp_onlyGroup g _
theorem State.flush_onlyGroup (s : State) (g : Nat) : s.onlyGroup g (s.flush g) := s.modGrp_onlyGroup g _
theorem State.writeReg_onlyGroup (s : State) (g : Nat) (d : BitVec 6) (r : Result) : s.onlyGroup g (s.writeReg g d r) := s.modGrp_onlyGroup g _
theorem State.addDisagree_onlyGroup (s : State) (g : Nat) (ls : Lanes) (a : Word) : s.onlyGroup g (s.addDisagree g ls a) := by
  unfold State.addDisagree; split
  · exact s.modLanes_onlyGroup ..
  · exact s.modGrp_onlyGroup ..
theorem State.advance_onlyGroup (s : State) (i : Instr) : s.onlyGroup s.cur.g (s.advance i) := by
  unfold State.advance; split
  · exact .refl ..
  · exact s.modLanes_onlyGroup ..
theorem State.goto_onlyGroup (s : State) (ls : Lanes) (f : Nat → Word) : s.onlyGroup s.cur.g (s.goto ls f) := by
  unfold State.goto; split
  · exact .refl ..
  · exact s.modLanes_onlyGroup ..
theorem State.holdBoundary_onlyGroup (s : State) (ls : Lanes) : s.onlyGroup s.cur.g (s.holdBoundary ls) := s.modLanes_onlyGroup ..
theorem State.await_onlyGroup (s : State) (i : Instr) (d : Bool) : s.onlyGroup s.cur.g (s.await i d) := s.modGrp_onlyGroup ..
theorem State.holdLanes_onlyGroup (s : State) (g : Nat) (ls : Lanes) (t : TrapInfo) (es : List UnitRec) (w p : BitVec 32) (a : Word) :
    s.onlyGroup g (s.holdLanes g ls t es w p a) := s.modLanes_onlyGroup ..
theorem State.releaseFrame_onlyGroup (s : State) (g : Nat) : s.onlyGroup g (s.releaseFrame g) := s.modGrp_onlyGroup ..

/-- A result of a fixed-latency unit joins the pending writes with its flags; no register and no flag changes yet (R52, R72). -/
theorem State.finishWith_pending (s : State) (i : Instr) (d : BitVec 6) (r : Result) (ls : Lanes) (fl : List (Nat × BitVec 5)) (lat : Nat)
    (hl : ls ≠ 0) (h : i.rt = false) (e : i.latency = some lat) :
    s.finishWith i d r ls fl = s.modGrp s.cur.g fun gr =>
      { gr with fix := addPending gr.fix (s.pend i lat (.reg d) r.en r.val (if i.laneOp < 0x400 then ls else 0) fl) } := by
  unfold State.finishWith
  rw [if_neg (by simpa using hl)]
  simp [h, e]

/-- A result of variable latency is written at once, and its flags are raised (R52, R72). -/
theorem State.finishWith_now (s : State) (i : Instr) (d : BitVec 6) (r : Result) (ls : Lanes) (fl : List (Nat × BitVec 5))
    (hl : ls ≠ 0) (h : i.rt = false) (e : i.latency = none) :
    s.finishWith i d r ls fl = (if fl.isEmpty then s else s.modGrp s.cur.g fun gr => gr.addFlags fl).writeReg s.cur.g d r := by
  unfold State.finishWith
  rw [if_neg (by simpa using hl)]
  simp [h, e]

/-- A result for a register changes the unit's group alone (R47, R52, R72). -/
theorem State.finishWith_onlyGroup (s : State) (i : Instr) (d : BitVec 6) (r : Result) (ls : Lanes) (fl : List (Nat × BitVec 5)) (h : i.rt = false) :
    s.onlyGroup s.cur.g (s.finishWith i d r ls fl) := by
  by_cases hl : ls = 0
  · subst hl; exact .refl ..
  · cases e : i.latency with
    | some lat => rw [s.finishWith_pending i d r ls fl lat hl h e]; exact s.modGrp_onlyGroup ..
    | none =>
      rw [s.finishWith_now i d r ls fl hl h e]
      split
      · exact s.writeReg_onlyGroup ..
      · exact (s.modGrp_onlyGroup ..).trans (State.writeReg_onlyGroup ..)
theorem State.finish_onlyGroup (s : State) (i : Instr) (d : BitVec 6) (r : Result) (ls : Lanes) (h : i.rt = false) :
    s.onlyGroup s.cur.g (s.finish i d r ls) := s.finishWith_onlyGroup i d r ls [] h
theorem State.finishMask_onlyGroup (s : State) (i : Instr) (k : Nat) (r : Mask × Mask) (fl : List (Nat × BitVec 5)) :
    s.onlyGroup s.cur.g (s.finishMask i k r fl) := by
  unfold State.finishMask; split <;> exact s.modGrp_onlyGroup ..

/-! ## Results -/

/-- A result without flags of a fixed-latency unit joins the pending writes; no register changes yet (R52). -/
theorem State.finish_pending (s : State) (i : Instr) (d : BitVec 6) (r : Result) (ls : Lanes) (lat : Nat) (hl : ls ≠ 0) (h : i.rt = false)
    (e : i.latency = some lat) :
    s.finish i d r ls = s.modGrp s.cur.g fun gr =>
      { gr with fix := addPending gr.fix (s.pend i lat (.reg d) r.en r.val (if i.laneOp < 0x400 then ls else 0) []) } :=
  s.finishWith_pending i d r ls [] lat hl h e

/-- A result of variable latency is written at once (R52). -/
theorem State.finish_now (s : State) (i : Instr) (d : BitVec 6) (r : Result) (ls : Lanes) (hl : ls ≠ 0) (h : i.rt = false) (e : i.latency = none) :
    s.finish i d r ls = s.writeReg s.cur.g d r := s.finishWith_now i d r ls [] hl h e

theorem mem_addPending (fix : List Pending) (p q : Pending) : q ∈ addPending fix p ↔ q = p ∨ q ∈ fix := by
  unfold addPending
  dsimp only
  conv_rhs => rw [← List.takeWhile_append_dropWhile (p := fun q : Pending => !(p.uni && !q.uni && q.dest == p.dest && q.issued == p.issued)) (l := fix)]
  simp only [List.mem_append, List.mem_cons]
  tauto

/-! ## Traps -/

theorem State.raise_none (s : State) (r : Raise) (h : r.lanes = 0) : s.raise r = s := by unfold State.raise; simp [h]
theorem State.raise_dead (s : State) (r : Raise) (h : (s.grp r.g).place = .dead) : s.raise r = s := by unfold State.raise; simp [h]

/-- In a continuation no trap is taken: the lanes go back to the word and wait there (R105). -/
theorem State.raise_shadow (s : State) (r : Raise) (hl : r.lanes ≠ 0) (hp : (s.grp r.g).place ≠ .dead) (h : (s.grp r.g).shadow.isSome = true) :
    s.raise r = s.modLanes r.g r.lanes fun _ x => { x with mode := .boundary, pc := r.pc } := by
  unfold State.raise
  dsimp only
  rw [if_neg (by simpa [hp] using hl), if_pos h]

/-- A trap in the handler is death (R86, R325). -/
theorem State.raise_handler (s : State) (r : Raise) (hl : r.lanes ≠ 0) (hp : (s.grp r.g).place ≠ .dead) (h : (s.grp r.g).shadow = none)
    (hh : ((s.grp r.g).lane (lowest r.lanes)).inHandler = true) : s.raise r = s.dieOf r.g r.lanes r.trap r.word r.pword r.pc := by
  unfold State.raise
  dsimp only
  rw [if_neg (by simpa [hp] using hl), if_neg (by simp [h]), if_pos hh]

theorem State.faultRec_none (s : State) (u : UnitRec) (ls : Lanes) : s.faultRec u ls none = s := rfl

theorem plainTrap_eq (c d : BitVec 8) : plainTrap c d = addrTrap c d 0 := rfl

/-! ## Memories -/

/-- The canonical form is a matter of the four memories alone. -/
theorem State.canonical_congr {s t : State} (d : t.dram = s.dram) (c : t.const = s.const) (h : t.hostMem = s.hostMem)
    (k : t.crews.map (·.scratch) = s.crews.map (·.scratch)) : t.canonical = s.canonical := by
  have e : ∀ u : State, (u.crews.all fun c => Mem.wf c.scratch) = (u.crews.map (·.scratch)).all Mem.wf := fun u => by
    rw [List.all_map]; rfl
  unfold State.canonical
  rw [d, c, h, e, e, k]

theorem State.canonical_iff (s : State) :
    s.canonical = true ↔ Mem.wf s.dram = true ∧ Mem.wf s.const = true ∧ Mem.wf s.hostMem = true ∧ ∀ c ∈ s.crews, Mem.wf c.scratch = true := by
  simp [State.canonical, and_assoc]

/-- A change of one crew that leaves its window in canonical form keeps the whole. -/
theorem State.modCrew_canonical {s : State} (h : s.canonical = true) (c : Nat) (f : Crew → Crew)
    (k : ∀ x, Mem.wf x.scratch = true → Mem.wf (f x).scratch = true) : (s.modCrew c f).canonical = true := by
  rw [State.canonical_iff] at h ⊢
  refine ⟨h.1, h.2.1, h.2.2.1, fun x hx => ?_⟩
  obtain ⟨n, hn⟩ := List.mem_iff_getElem?.mp hx
  rw [State.modCrew_crews, modAt_get] at hn
  split at hn
  · obtain ⟨y, hy, rfl⟩ := Option.map_eq_some_iff.mp hn
    exact k y (h.2.2.2 y (List.mem_of_getElem? hy))
  · exact h.2.2.2 x (List.mem_of_getElem? hn)

@[simp] theorem State.modGrp_canonical (s : State) (g : Nat) (f : Group → Group) : (s.modGrp g f).canonical = s.canonical := rfl
@[simp] theorem State.modLanes_canonical (s : State) (g : Nat) (ls : Lanes) (f : Nat → Lane → Lane) : (s.modLanes g ls f).canonical = s.canonical := rfl
@[simp] theorem State.modCtx_canonical (s : State) (c : Nat) (f : Context → Context) : (s.modCtx c f).canonical = s.canonical := rfl
@[simp] theorem State.modPart_canonical (s : State) (c : Nat) (f : Partition → Partition) : (s.modPart c f).canonical = s.canonical := rfl
@[simp] theorem State.modTask_canonical (s : State) (c : Nat) (f : Task → Task) : (s.modTask c f).canonical = s.canonical := rfl
@[simp] theorem State.modFork_canonical (s : State) (c : Nat) (f : ForkInst → ForkInst) : (s.modFork c f).canonical = s.canonical := rfl
@[simp] theorem State.modPkg_canonical (s : State) (f : Package → Package) : (s.modPkg f).canonical = s.canonical := rfl

theorem State.writeDram_canonical {s : State} (h : s.canonical = true) (p pa : Nat) (bs : List Byte) : (s.writeDram p pa bs).canonical = true := by
  rw [State.canonical_iff] at h ⊢
  exact ⟨Mem.wf_write h.1 _ _, h.2⟩

theorem State.homeWrite_canonical {s : State} (h : s.canonical = true) (p a : Nat) (bs : List Byte) : (s.homeWrite p a bs).canonical = true := by
  unfold State.homeWrite
  split
  · rw [State.canonical_iff] at h ⊢
    exact ⟨h.1, h.2.1, Mem.wf_write h.2.2.1 _ _, h.2.2.2⟩
  · exact State.writeDram_canonical h ..

/-- Poison taken away or set in several places leaves every memory as it is. -/
theorem State.setPoisons_canonical {α : Type} (f : α → Spot) (b : Bool) (l : List α) (s : State) :
    (l.foldl (fun s k => s.setPoison (f k) b) s).canonical = s.canonical := by
  induction l generalizing s with
  | nil => rfl
  | cons k t ih =>
    rw [List.foldl_cons, ih]
    unfold State.setPoison
    split <;> rfl

theorem State.writeScratch_canonical {s : State} (h : s.canonical = true) (c off : Nat) (bs : List Byte) : (s.writeScratch c off bs).canonical = true := by
  have p : (s.putScratch c off bs).canonical = true := State.modCrew_canonical h c _ fun _ w => Mem.wf_write w _ _
  unfold State.writeScratch
  dsimp only
  split
  · exact p
  · rw [State.setPoisons_canonical (fun k => Spot.scratch c k)]; exact p

theorem State.writeConst_canonical {s : State} (h : s.canonical = true) (q off : Nat) (bs : List Byte) : (s.writeConst q off bs).canonical = true := by
  have p : ({ s with const := Mem.write (constKey q off) bs s.const } : State).canonical = true := by
    rw [State.canonical_iff] at h ⊢
    exact ⟨h.1, Mem.wf_write h.2.1 _ _, h.2.2⟩
  unfold State.writeConst
  dsimp only
  split
  · exact p
  · rw [State.setPoisons_canonical (fun k => Spot.const q k)]; exact p

/-- What changes one group alone changes no memory. -/
theorem State.onlyGroup.canonical {g : Nat} {s t : State} (h : s.onlyGroup g t) : t.canonical = s.canonical := by rw [h.1]; rfl
theorem State.onlyGroup.sameMemory {g : Nat} {s t : State} (h : s.onlyGroup g t) : s.sameMemory t := by
  rw [h.1]; exact ⟨rfl, rfl, rfl, fun _ => rfl⟩

end Sys2Proof.Machine
end

