-- ==== Sys2Proof/Laws/PerInstr.lean ====
section
/-! SUPPORT. Statements made per instruction. Family `Opcode`: the word of an instruction fits 32 bits, bears the set and the opcode of its row of R58 or R59, and
is no prefix word; an event has no word (R39, R47). -/

namespace Sys2Proof.Laws.Opcode

/-- The word of a row carries its set and opcode, fits a word, and is no prefix word; an event has no words at all. -/
def Statement (i : Instr) : Prop :=
  match encodeNat i with
  | some w => w < 2 ^ 32 ∧ i.key = some (bitsAt w 31 1 == 1, bitsAt w 21 10) ∧ isPfxWord w = false
  | none => i.key = none ∧ encode i = []

/-- Fields and fixed bits that stay below bit 21 leave the set and the opcode alone. -/
theorem of_fields (i : Instr) (s : Bool) (op fixed : Nat) (fs : List (Nat × Nat)) (e : encodeNat i = some (encWord s op fixed fs))
    (k : i.key = some (s, op)) (ho : op < 0x3FF) (h : fixed + (fs.map fun f => f.1 * 2 ^ f.2).sum < 2 ^ 21) : Statement i := by
  have w : encWord s op fixed fs = (if s then 2 ^ 31 else 0) + op * 2 ^ 21 + (fixed + (fs.map fun f => f.1 * 2 ^ f.2).sum) := by
    simp only [encWord, opBits]; ring
  unfold Statement
  rw [e]
  dsimp only
  rw [w, k]
  generalize fixed + (fs.map fun f => f.1 * 2 ^ f.2).sum = r at h
  have o : bitsAt ((if s then 2 ^ 31 else 0) + op * 2 ^ 21 + r) 21 10 = op := by cases s <;> simp only [bitsAt] <;> norm_num at h ⊢ <;> omega
  have t : bitsAt ((if s then 2 ^ 31 else 0) + op * 2 ^ 21 + r) 31 1 = s.toNat := by cases s <;> simp only [bitsAt] <;> norm_num at h ⊢ <;> omega
  refine ⟨by cases s <;> norm_num at h ⊢ <;> omega, ?_, ?_⟩
  · rw [o, t]; cases s <;> rfl
  · unfold isPfxWord
    rw [o, show (op == 0x3FF) = false by simp; omega, Bool.and_false]

theorem fits_0 (f0 : BitVec 3) : 0 + ([(f0.toNat, 18)].map fun f : Nat × Nat => f.1 * 2 ^ f.2).sum < 2 ^ 21 := by
  have := f0.isLt; simp only [List.map, List.sum_cons, List.sum_nil]; omega
theorem fits_1 (f0 : BitVec 3) (f1 : BitVec 3) (f2 : BitVec 15) : 0 + ([(f0.toNat, 18), (f1.toNat, 15), (f2.toNat, 0)].map fun f : Nat × Nat => f.1 * 2 ^ f.2).sum < 2 ^ 21 := by
  have := f0.isLt; have := f1.isLt; have := f2.isLt; simp only [List.map, List.sum_cons, List.sum_nil]; omega
theorem fits_2 (f0 : BitVec 3) (f1 : BitVec 6) : 0 + ([(f0.toNat, 18), (f1.toNat, 6)].map fun f : Nat × Nat => f.1 * 2 ^ f.2).sum < 2 ^ 21 := by
  have := f0.isLt; have := f1.isLt; simp only [List.map, List.sum_cons, List.sum_nil]; omega
theorem fits_3 (f0 : BitVec 3) (f1 : BitVec 6) (f2 : BitVec 6) : 0 + ([(f0.toNat, 18), (f1.toNat, 12), (f2.toNat, 6)].map fun f : Nat × Nat => f.1 * 2 ^ f.2).sum < 2 ^ 21 := by
  have := f0.isLt; have := f1.isLt; have := f2.isLt; simp only [List.map, List.sum_cons, List.sum_nil]; omega
theorem fits_4 (f0 : BitVec 3) (f1 : BitVec 6) (f2 : BitVec 6) (f3 : BitVec 6) : 0 + ([(f0.toNat, 18), (f1.toNat, 12), (f2.toNat, 6), (f3.toNat, 0)].map fun f : Nat × Nat => f.1 * 2 ^ f.2).sum < 2 ^ 21 := by
  have := f0.isLt; have := f1.isLt; have := f2.isLt; have := f3.isLt; simp only [List.map, List.sum_cons, List.sum_nil]; omega
theorem fits_5 (f0 : BitVec 3) : 0x1 + ([(f0.toNat, 18)].map fun f : Nat × Nat => f.1 * 2 ^ f.2).sum < 2 ^ 21 := by
  have := f0.isLt; simp only [List.map, List.sum_cons, List.sum_nil]; omega
theorem fits_6 (f0 : BitVec 3) (f1 : BitVec 6) (f2 : BitVec 6) : 0 + ([(f0.toNat, 18), (f1.toNat, 6), (f2.toNat, 0)].map fun f : Nat × Nat => f.1 * 2 ^ f.2).sum < 2 ^ 21 := by
  have := f0.isLt; have := f1.isLt; have := f2.isLt; simp only [List.map, List.sum_cons, List.sum_nil]; omega
theorem fits_7 (f0 : BitVec 3) (f1 : BitVec 6) (f2 : BitVec 3) (f3 : BitVec 3) : 0 + ([(f0.toNat, 18), (f1.toNat, 12), (f2.toNat, 9), (f3.toNat, 0)].map fun f : Nat × Nat => f.1 * 2 ^ f.2).sum < 2 ^ 21 := by
  have := f0.isLt; have := f1.isLt; have := f2.isLt; have := f3.isLt; simp only [List.map, List.sum_cons, List.sum_nil]; omega
theorem fits_8 (f0 : BitVec 3) (f1 : BitVec 6) (f2 : BitVec 3) (f3 : BitVec 3) : 0x80 + ([(f0.toNat, 18), (f1.toNat, 12), (f2.toNat, 9), (f3.toNat, 0)].map fun f : Nat × Nat => f.1 * 2 ^ f.2).sum < 2 ^ 21 := by
  have := f0.isLt; have := f1.isLt; have := f2.isLt; have := f3.isLt; simp only [List.map, List.sum_cons, List.sum_nil]; omega
theorem fits_9 (f0 : BitVec 3) (f1 : BitVec 6) (f2 : BitVec 3) (f3 : BitVec 3) : 0x100 + ([(f0.toNat, 18), (f1.toNat, 12), (f2.toNat, 9), (f3.toNat, 0)].map fun f : Nat × Nat => f.1 * 2 ^ f.2).sum < 2 ^ 21 := by
  have := f0.isLt; have := f1.isLt; have := f2.isLt; have := f3.isLt; simp only [List.map, List.sum_cons, List.sum_nil]; omega
theorem fits_10 (f0 : BitVec 3) (f1 : BitVec 8) : 0 + ([(f0.toNat, 18), (f1.toNat, 0)].map fun f : Nat × Nat => f.1 * 2 ^ f.2).sum < 2 ^ 21 := by
  have := f0.isLt; have := f1.isLt; simp only [List.map, List.sum_cons, List.sum_nil]; omega
theorem fits_11 (f0 : BitVec 3) (f1 : BitVec 6) (f2 : BitVec 12) : 0 + ([(f0.toNat, 18), (f1.toNat, 12), (f2.toNat, 0)].map fun f : Nat × Nat => f.1 * 2 ^ f.2).sum < 2 ^ 21 := by
  have := f0.isLt; have := f1.isLt; have := f2.isLt; simp only [List.map, List.sum_cons, List.sum_nil]; omega
theorem fits_12 (f0 : BitVec 3) (f1 : BitVec 3) (f2 : BitVec 6) (f3 : BitVec 6) : 0 + ([(f0.toNat, 18), (f1.toNat, 12), (f2.toNat, 6), (f3.toNat, 0)].map fun f : Nat × Nat => f.1 * 2 ^ f.2).sum < 2 ^ 21 := by
  have := f0.isLt; have := f1.isLt; have := f2.isLt; have := f3.isLt; simp only [List.map, List.sum_cons, List.sum_nil]; omega
theorem fits_13 (f0 : BitVec 3) (f1 : BitVec 6) (f2 : BitVec 6) (f3 : BitVec 1) (f4 : BitVec 1) (f5 : BitVec 4) : 0 + ([(f0.toNat, 18), (f1.toNat, 12), (f2.toNat, 6), (f3.toNat, 5), (f4.toNat, 4), (f5.toNat, 0)].map fun f : Nat × Nat => f.1 * 2 ^ f.2).sum < 2 ^ 21 := by
  have := f0.isLt; have := f1.isLt; have := f2.isLt; have := f3.isLt; have := f4.isLt; have := f5.isLt; simp only [List.map, List.sum_cons, List.sum_nil]; omega
theorem fits_14 (f0 : BitVec 3) (f1 : BitVec 6) (f2 : BitVec 6) (f3 : BitVec 1) : 0 + ([(f0.toNat, 18), (f1.toNat, 12), (f2.toNat, 6), (f3.toNat, 0)].map fun f : Nat × Nat => f.1 * 2 ^ f.2).sum < 2 ^ 21 := by
  have := f0.isLt; have := f1.isLt; have := f2.isLt; have := f3.isLt; simp only [List.map, List.sum_cons, List.sum_nil]; omega
theorem fits_15 (f0 : BitVec 3) (f1 : BitVec 6) (f2 : BitVec 6) (f3 : BitVec 4) (f4 : BitVec 2) : 0 + ([(f0.toNat, 18), (f1.toNat, 12), (f2.toNat, 6), (f3.toNat, 2), (f4.toNat, 0)].map fun f : Nat × Nat => f.1 * 2 ^ f.2).sum < 2 ^ 21 := by
  have := f0.isLt; have := f1.isLt; have := f2.isLt; have := f3.isLt; have := f4.isLt; simp only [List.map, List.sum_cons, List.sum_nil]; omega
theorem fits_16 (f0 : BitVec 3) (f1 : BitVec 6) (f2 : BitVec 6) (f3 : BitVec 2) : 0 + ([(f0.toNat, 18), (f1.toNat, 12), (f2.toNat, 6), (f3.toNat, 0)].map fun f : Nat × Nat => f.1 * 2 ^ f.2).sum < 2 ^ 21 := by
  have := f0.isLt; have := f1.isLt; have := f2.isLt; have := f3.isLt; simp only [List.map, List.sum_cons, List.sum_nil]; omega
theorem fits_17 (f0 : BitVec 3) (f1 : BitVec 6) (f2 : BitVec 4) (f3 : BitVec 2) : 0 + ([(f0.toNat, 18), (f1.toNat, 6), (f2.toNat, 2), (f3.toNat, 0)].map fun f : Nat × Nat => f.1 * 2 ^ f.2).sum < 2 ^ 21 := by
  have := f0.isLt; have := f1.isLt; have := f2.isLt; have := f3.isLt; simp only [List.map, List.sum_cons, List.sum_nil]; omega
theorem fits_18 (f0 : BitVec 3) (f1 : BitVec 6) (f2 : BitVec 6) : 0x1 + ([(f0.toNat, 18), (f1.toNat, 12), (f2.toNat, 6)].map fun f : Nat × Nat => f.1 * 2 ^ f.2).sum < 2 ^ 21 := by
  have := f0.isLt; have := f1.isLt; have := f2.isLt; simp only [List.map, List.sum_cons, List.sum_nil]; omega
theorem fits_19 (f0 : BitVec 3) (f1 : BitVec 6) (f2 : BitVec 6) (f3 : BitVec 4) (f4 : BitVec 1) : 0x2 + ([(f0.toNat, 18), (f1.toNat, 12), (f2.toNat, 6), (f3.toNat, 2), (f4.toNat, 0)].map fun f : Nat × Nat => f.1 * 2 ^ f.2).sum < 2 ^ 21 := by
  have := f0.isLt; have := f1.isLt; have := f2.isLt; have := f3.isLt; have := f4.isLt; simp only [List.map, List.sum_cons, List.sum_nil]; omega
theorem fits_20 (f0 : BitVec 3) (f1 : BitVec 6) (f2 : BitVec 6) (f3 : BitVec 3) : 0 + ([(f0.toNat, 18), (f1.toNat, 12), (f2.toNat, 6), (f3.toNat, 0)].map fun f : Nat × Nat => f.1 * 2 ^ f.2).sum < 2 ^ 21 := by
  have := f0.isLt; have := f1.isLt; have := f2.isLt; have := f3.isLt; simp only [List.map, List.sum_cons, List.sum_nil]; omega
theorem fits_21 (f0 : BitVec 3) (f1 : BitVec 6) (f2 : BitVec 6) (f3 : BitVec 3) : 0x8 + ([(f0.toNat, 18), (f1.toNat, 12), (f2.toNat, 6), (f3.toNat, 0)].map fun f : Nat × Nat => f.1 * 2 ^ f.2).sum < 2 ^ 21 := by
  have := f0.isLt; have := f1.isLt; have := f2.isLt; have := f3.isLt; simp only [List.map, List.sum_cons, List.sum_nil]; omega
theorem fits_22 (f0 : BitVec 3) (f1 : BitVec 6) (f2 : BitVec 6) : 0x2 + ([(f0.toNat, 18), (f1.toNat, 12), (f2.toNat, 6)].map fun f : Nat × Nat => f.1 * 2 ^ f.2).sum < 2 ^ 21 := by
  have := f0.isLt; have := f1.isLt; have := f2.isLt; simp only [List.map, List.sum_cons, List.sum_nil]; omega
theorem fits_23 (f0 : BitVec 3) (f1 : BitVec 18) : 0 + ([(f0.toNat, 18), (f1.toNat, 0)].map fun f : Nat × Nat => f.1 * 2 ^ f.2).sum < 2 ^ 21 := by
  have := f0.isLt; have := f1.isLt; simp only [List.map, List.sum_cons, List.sum_nil]; omega
theorem fits_24 (f0 : BitVec 3) (f1 : BitVec 6) : 0x1 + ([(f0.toNat, 18), (f1.toNat, 6)].map fun f : Nat × Nat => f.1 * 2 ^ f.2).sum < 2 ^ 21 := by
  have := f0.isLt; have := f1.isLt; simp only [List.map, List.sum_cons, List.sum_nil]; omega
theorem fits_25 (f0 : BitVec 3) (f1 : BitVec 3) (f2 : BitVec 2) : 0 + ([(f0.toNat, 18), (f1.toNat, 2), (f2.toNat, 0)].map fun f : Nat × Nat => f.1 * 2 ^ f.2).sum < 2 ^ 21 := by
  have := f0.isLt; have := f1.isLt; have := f2.isLt; simp only [List.map, List.sum_cons, List.sum_nil]; omega
theorem fits_26 (f0 : BitVec 3) (f1 : BitVec 6) (f2 : BitVec 6) (f3 : BitVec 3) : 0 + ([(f0.toNat, 18), (f1.toNat, 12), (f2.toNat, 6), (f3.toNat, 2)].map fun f : Nat × Nat => f.1 * 2 ^ f.2).sum < 2 ^ 21 := by
  have := f0.isLt; have := f1.isLt; have := f2.isLt; have := f3.isLt; simp only [List.map, List.sum_cons, List.sum_nil]; omega
theorem fits_27 (f0 : BitVec 3) (f1 : BitVec 6) (f2 : BitVec 6) (f3 : BitVec 3) : 0x1 + ([(f0.toNat, 18), (f1.toNat, 12), (f2.toNat, 6), (f3.toNat, 2)].map fun f : Nat × Nat => f.1 * 2 ^ f.2).sum < 2 ^ 21 := by
  have := f0.isLt; have := f1.isLt; have := f2.isLt; have := f3.isLt; simp only [List.map, List.sum_cons, List.sum_nil]; omega
theorem fits_28 (f0 : BitVec 3) (f1 : BitVec 6) (f2 : BitVec 6) (f3 : BitVec 3) : 0x2 + ([(f0.toNat, 18), (f1.toNat, 12), (f2.toNat, 6), (f3.toNat, 2)].map fun f : Nat × Nat => f.1 * 2 ^ f.2).sum < 2 ^ 21 := by
  have := f0.isLt; have := f1.isLt; have := f2.isLt; have := f3.isLt; simp only [List.map, List.sum_cons, List.sum_nil]; omega
theorem fits_29 (f0 : BitVec 3) (f1 : BitVec 6) : 0x1000 + ([(f0.toNat, 18), (f1.toNat, 6)].map fun f : Nat × Nat => f.1 * 2 ^ f.2).sum < 2 ^ 21 := by
  have := f0.isLt; have := f1.isLt; simp only [List.map, List.sum_cons, List.sum_nil]; omega
theorem fits_30 (f0 : BitVec 3) (f1 : BitVec 6) (f2 : BitVec 6) : 0x2000 + ([(f0.toNat, 18), (f1.toNat, 6), (f2.toNat, 0)].map fun f : Nat × Nat => f.1 * 2 ^ f.2).sum < 2 ^ 21 := by
  have := f0.isLt; have := f1.isLt; have := f2.isLt; simp only [List.map, List.sum_cons, List.sum_nil]; omega
theorem fits_31 (f0 : BitVec 3) (f1 : BitVec 6) (f2 : BitVec 6) : 0x3 + ([(f0.toNat, 18), (f1.toNat, 12), (f2.toNat, 6)].map fun f : Nat × Nat => f.1 * 2 ^ f.2).sum < 2 ^ 21 := by
  have := f0.isLt; have := f1.isLt; have := f2.isLt; simp only [List.map, List.sum_cons, List.sum_nil]; omega
theorem fits_32 (f0 : BitVec 3) (f1 : BitVec 6) (f2 : BitVec 6) (f3 : BitVec 4) : 0 + ([(f0.toNat, 18), (f1.toNat, 12), (f2.toNat, 6), (f3.toNat, 2)].map fun f : Nat × Nat => f.1 * 2 ^ f.2).sum < 2 ^ 21 := by
  have := f0.isLt; have := f1.isLt; have := f2.isLt; have := f3.isLt; simp only [List.map, List.sum_cons, List.sum_nil]; omega
theorem fits_33 (f0 : BitVec 3) (f1 : BitVec 6) (f2 : BitVec 6) (f3 : BitVec 4) (f4 : BitVec 1) : 0 + ([(f0.toNat, 18), (f1.toNat, 12), (f2.toNat, 6), (f3.toNat, 2), (f4.toNat, 0)].map fun f : Nat × Nat => f.1 * 2 ^ f.2).sum < 2 ^ 21 := by
  have := f0.isLt; have := f1.isLt; have := f2.isLt; have := f3.isLt; have := f4.isLt; simp only [List.map, List.sum_cons, List.sum_nil]; omega
theorem fits_34 (f0 : BitVec 3) (f1 : BitVec 6) (f2 : BitVec 1) (f3 : BitVec 4) : 0 + ([(f0.toNat, 18), (f1.toNat, 12), (f2.toNat, 4), (f3.toNat, 0)].map fun f : Nat × Nat => f.1 * 2 ^ f.2).sum < 2 ^ 21 := by
  have := f0.isLt; have := f1.isLt; have := f2.isLt; have := f3.isLt; simp only [List.map, List.sum_cons, List.sum_nil]; omega
theorem fits_35 (f0 : BitVec 3) (f1 : BitVec 6) (f2 : BitVec 2) : 0 + ([(f0.toNat, 18), (f1.toNat, 12), (f2.toNat, 3)].map fun f : Nat × Nat => f.1 * 2 ^ f.2).sum < 2 ^ 21 := by
  have := f0.isLt; have := f1.isLt; have := f2.isLt; simp only [List.map, List.sum_cons, List.sum_nil]; omega
theorem fits_36 (f0 : BitVec 3) (f1 : BitVec 6) : 0x1 + ([(f0.toNat, 18), (f1.toNat, 12)].map fun f : Nat × Nat => f.1 * 2 ^ f.2).sum < 2 ^ 21 := by
  have := f0.isLt; have := f1.isLt; simp only [List.map, List.sum_cons, List.sum_nil]; omega
theorem fits_37 (f0 : BitVec 3) (f1 : BitVec 6) : 0x2 + ([(f0.toNat, 18), (f1.toNat, 12)].map fun f : Nat × Nat => f.1 * 2 ^ f.2).sum < 2 ^ 21 := by
  have := f0.isLt; have := f1.isLt; simp only [List.map, List.sum_cons, List.sum_nil]; omega
theorem fits_38 (f0 : BitVec 3) (f1 : BitVec 6) : 0x3 + ([(f0.toNat, 18), (f1.toNat, 12)].map fun f : Nat × Nat => f.1 * 2 ^ f.2).sum < 2 ^ 21 := by
  have := f0.isLt; have := f1.isLt; simp only [List.map, List.sum_cons, List.sum_nil]; omega
theorem fits_39 (f0 : BitVec 3) (f1 : BitVec 6) : 0x4 + ([(f0.toNat, 18), (f1.toNat, 12)].map fun f : Nat × Nat => f.1 * 2 ^ f.2).sum < 2 ^ 21 := by
  have := f0.isLt; have := f1.isLt; simp only [List.map, List.sum_cons, List.sum_nil]; omega
theorem fits_40 (f0 : BitVec 3) (f1 : BitVec 6) : 0x5 + ([(f0.toNat, 18), (f1.toNat, 12)].map fun f : Nat × Nat => f.1 * 2 ^ f.2).sum < 2 ^ 21 := by
  have := f0.isLt; have := f1.isLt; simp only [List.map, List.sum_cons, List.sum_nil]; omega
theorem fits_41 (f0 : BitVec 3) (f1 : BitVec 6) : 0x6 + ([(f0.toNat, 18), (f1.toNat, 12)].map fun f : Nat × Nat => f.1 * 2 ^ f.2).sum < 2 ^ 21 := by
  have := f0.isLt; have := f1.isLt; simp only [List.map, List.sum_cons, List.sum_nil]; omega
theorem fits_42 (f0 : BitVec 3) (f1 : BitVec 6) (f2 : BitVec 6) (f3 : BitVec 1) (f4 : BitVec 1) : 0 + ([(f0.toNat, 18), (f1.toNat, 12), (f2.toNat, 6), (f3.toNat, 3), (f4.toNat, 2)].map fun f : Nat × Nat => f.1 * 2 ^ f.2).sum < 2 ^ 21 := by
  have := f0.isLt; have := f1.isLt; have := f2.isLt; have := f3.isLt; have := f4.isLt; simp only [List.map, List.sum_cons, List.sum_nil]; omega
theorem fits_43 (f0 : BitVec 3) (f1 : BitVec 6) (f2 : BitVec 6) (f3 : BitVec 1) (f4 : BitVec 1) : 0x1 + ([(f0.toNat, 18), (f1.toNat, 12), (f2.toNat, 6), (f3.toNat, 3), (f4.toNat, 2)].map fun f : Nat × Nat => f.1 * 2 ^ f.2).sum < 2 ^ 21 := by
  have := f0.isLt; have := f1.isLt; have := f2.isLt; have := f3.isLt; have := f4.isLt; simp only [List.map, List.sum_cons, List.sum_nil]; omega
theorem fits_44 (f0 : BitVec 3) (f1 : BitVec 6) : 0x2 + ([(f0.toNat, 18), (f1.toNat, 6)].map fun f : Nat × Nat => f.1 * 2 ^ f.2).sum < 2 ^ 21 := by
  have := f0.isLt; have := f1.isLt; simp only [List.map, List.sum_cons, List.sum_nil]; omega
theorem fits_45 (f0 : BitVec 3) (f1 : BitVec 6) : 0x7 + ([(f0.toNat, 18), (f1.toNat, 12)].map fun f : Nat × Nat => f.1 * 2 ^ f.2).sum < 2 ^ 21 := by
  have := f0.isLt; have := f1.isLt; simp only [List.map, List.sum_cons, List.sum_nil]; omega
theorem fits_46 (f0 : BitVec 3) (f1 : BitVec 6) : 0x100 + ([(f0.toNat, 18), (f1.toNat, 12)].map fun f : Nat × Nat => f.1 * 2 ^ f.2).sum < 2 ^ 21 := by
  have := f0.isLt; have := f1.isLt; simp only [List.map, List.sum_cons, List.sum_nil]; omega

theorem nop (sc : BitVec 3) : Statement (.nop sc) :=
  of_fields _ false 0x000 0 _ rfl rfl (by decide) (fits_0 sc)
theorem brl (sc : BitVec 3) (k : BitVec 3) (p : BitVec 15) : Statement (.brl sc k p) :=
  of_fields _ false 0x001 0 _ rfl rfl (by decide) (fits_1 sc k p)
theorem jmpl (sc : BitVec 3) (a : BitVec 6) : Statement (.jmpl sc a) :=
  of_fields _ false 0x002 0 _ rfl rfl (by decide) (fits_2 sc a)
theorem callv (sc : BitVec 3) (d : BitVec 6) (a : BitVec 6) : Statement (.callv sc d a) :=
  of_fields _ false 0x003 0 _ rfl rfl (by decide) (fits_3 sc d a)
theorem ret (sc : BitVec 3) (a : BitVec 6) : Statement (.ret sc a) :=
  of_fields _ false 0x004 0 _ rfl rfl (by decide) (fits_2 sc a)
theorem fcall (sc : BitVec 3) (d : BitVec 6) (a : BitVec 6) (b : BitVec 6) : Statement (.fcall sc d a b) :=
  of_fields _ false 0x005 0 _ rfl rfl (by decide) (fits_4 sc d a b)
theorem fsync (sc : BitVec 3) : Statement (.fsync sc) :=
  of_fields _ false 0x006 0 _ rfl rfl (by decide) (fits_0 sc)
theorem fsyncSq (sc : BitVec 3) : Statement (.fsyncSq sc) :=
  of_fields _ false 0x006 0x1 _ rfl rfl (by decide) (fits_5 sc)
theorem fhint (sc : BitVec 3) (a : BitVec 6) (b : BitVec 6) : Statement (.fhint sc a b) :=
  of_fields _ false 0x007 0 _ rfl rfl (by decide) (fits_6 sc a b)
theorem voteAny (sc : BitVec 3) (d : BitVec 6) (k : BitVec 3) (j : BitVec 3) : Statement (.voteAny sc d k j) :=
  of_fields _ false 0x008 0 _ rfl rfl (by decide) (fits_7 sc d k j)
theorem voteAll (sc : BitVec 3) (d : BitVec 6) (k : BitVec 3) (j : BitVec 3) : Statement (.voteAll sc d k j) :=
  of_fields _ false 0x008 0x80 _ rfl rfl (by decide) (fits_8 sc d k j)
theorem voteBallot (sc : BitVec 3) (d : BitVec 6) (k : BitVec 3) (j : BitVec 3) : Statement (.voteBallot sc d k j) :=
  of_fields _ false 0x008 0x100 _ rfl rfl (by decide) (fits_9 sc d k j)
theorem brk (sc : BitVec 3) (c : BitVec 8) : Statement (.brk sc c) :=
  of_fields _ false 0x009 0 _ rfl rfl (by decide) (fits_10 sc c)
theorem exit (sc : BitVec 3) : Statement (.exit sc) :=
  of_fields _ false 0x00A 0 _ rfl rfl (by decide) (fits_0 sc)
theorem mov (pf : Option Pfx) (sc : BitVec 3) (d : BitVec 6) (a : BitVec 6) : Statement (.mov pf sc d a) :=
  of_fields _ false 0x020 0 _ rfl rfl (by decide) (fits_3 sc d a)
theorem movi (pf : Option Pfx) (sc : BitVec 3) (d : BitVec 6) (x : BitVec 12) : Statement (.movi pf sc d x) :=
  of_fields _ false 0x021 0 _ rfl rfl (by decide) (fits_11 sc d x)
theorem iadd (pf : Option Pfx) (sc : BitVec 3) (d : BitVec 6) (a : BitVec 6) (b : BitVec 6) : Statement (.iadd pf sc d a b) :=
  of_fields _ false 0x022 0 _ rfl rfl (by decide) (fits_4 sc d a b)
theorem iaddc (pf : Option Pfx) (sc : BitVec 3) (d : BitVec 6) (a : BitVec 6) (b : BitVec 6) : Statement (.iaddc pf sc d a b) :=
  of_fields _ false 0x023 0 _ rfl rfl (by decide) (fits_4 sc d a b)
theorem isub (pf : Option Pfx) (sc : BitVec 3) (d : BitVec 6) (a : BitVec 6) (b : BitVec 6) : Statement (.isub pf sc d a b) :=
  of_fields _ false 0x024 0 _ rfl rfl (by decide) (fits_4 sc d a b)
theorem imul (pf : Option Pfx) (sc : BitVec 3) (d : BitVec 6) (a : BitVec 6) (b : BitVec 6) : Statement (.imul pf sc d a b) :=
  of_fields _ false 0x025 0 _ rfl rfl (by decide) (fits_4 sc d a b)
theorem imulh (pf : Option Pfx) (sc : BitVec 3) (d : BitVec 6) (a : BitVec 6) (b : BitVec 6) : Statement (.imulh pf sc d a b) :=
  of_fields _ false 0x026 0 _ rfl rfl (by decide) (fits_4 sc d a b)
theorem imad (pf : Option Pfx) (sc : BitVec 3) (d : BitVec 6) (a : BitVec 6) (b : BitVec 6) : Statement (.imad pf sc d a b) :=
  of_fields _ false 0x027 0 _ rfl rfl (by decide) (fits_4 sc d a b)
theorem idot (pf : Option Pfx) (sc : BitVec 3) (d : BitVec 6) (a : BitVec 6) (b : BitVec 6) : Statement (.idot pf sc d a b) :=
  of_fields _ false 0x028 0 _ rfl rfl (by decide) (fits_4 sc d a b)
theorem iand (pf : Option Pfx) (sc : BitVec 3) (d : BitVec 6) (a : BitVec 6) (b : BitVec 6) : Statement (.iand pf sc d a b) :=
  of_fields _ false 0x029 0 _ rfl rfl (by decide) (fits_4 sc d a b)
theorem ior (pf : Option Pfx) (sc : BitVec 3) (d : BitVec 6) (a : BitVec 6) (b : BitVec 6) : Statement (.ior pf sc d a b) :=
  of_fields _ false 0x02A 0 _ rfl rfl (by decide) (fits_4 sc d a b)
theorem ixor (pf : Option Pfx) (sc : BitVec 3) (d : BitVec 6) (a : BitVec 6) (b : BitVec 6) : Statement (.ixor pf sc d a b) :=
  of_fields _ false 0x02B 0 _ rfl rfl (by decide) (fits_4 sc d a b)
theorem shl (pf : Option Pfx) (sc : BitVec 3) (d : BitVec 6) (a : BitVec 6) (b : BitVec 6) : Statement (.shl pf sc d a b) :=
  of_fields _ false 0x02C 0 _ rfl rfl (by decide) (fits_4 sc d a b)
theorem shr (pf : Option Pfx) (sc : BitVec 3) (d : BitVec 6) (a : BitVec 6) (b : BitVec 6) : Statement (.shr pf sc d a b) :=
  of_fields _ false 0x02D 0 _ rfl rfl (by decide) (fits_4 sc d a b)
theorem sar (pf : Option Pfx) (sc : BitVec 3) (d : BitVec 6) (a : BitVec 6) (b : BitVec 6) : Statement (.sar pf sc d a b) :=
  of_fields _ false 0x02E 0 _ rfl rfl (by decide) (fits_4 sc d a b)
theorem imin (pf : Option Pfx) (sc : BitVec 3) (d : BitVec 6) (a : BitVec 6) (b : BitVec 6) : Statement (.imin pf sc d a b) :=
  of_fields _ false 0x02F 0 _ rfl rfl (by decide) (fits_4 sc d a b)
theorem imax (pf : Option Pfx) (sc : BitVec 3) (d : BitVec 6) (a : BitVec 6) (b : BitVec 6) : Statement (.imax pf sc d a b) :=
  of_fields _ false 0x030 0 _ rfl rfl (by decide) (fits_4 sc d a b)
theorem iabs (pf : Option Pfx) (sc : BitVec 3) (d : BitVec 6) (a : BitVec 6) : Statement (.iabs pf sc d a) :=
  of_fields _ false 0x031 0 _ rfl rfl (by decide) (fits_3 sc d a)
theorem icmp (pf : Option Pfx) (sc : BitVec 3) (k : BitVec 3) (a : BitVec 6) (b : BitVec 6) : Statement (.icmp pf sc k a b) :=
  of_fields _ false 0x032 0 _ rfl rfl (by decide) (fits_12 sc k a b)
theorem isel (pf : Option Pfx) (sc : BitVec 3) (d : BitVec 6) (a : BitVec 6) (b : BitVec 6) : Statement (.isel pf sc d a b) :=
  of_fields _ false 0x033 0 _ rfl rfl (by decide) (fits_4 sc d a b)
theorem bfx (pf : Option Pfx) (sc : BitVec 3) (d : BitVec 6) (a : BitVec 6) (b : BitVec 6) : Statement (.bfx pf sc d a b) :=
  of_fields _ false 0x034 0 _ rfl rfl (by decide) (fits_4 sc d a b)
theorem bfi (pf : Option Pfx) (sc : BitVec 3) (d : BitVec 6) (a : BitVec 6) (b : BitVec 6) : Statement (.bfi pf sc d a b) :=
  of_fields _ false 0x035 0 _ rfl rfl (by decide) (fits_4 sc d a b)
theorem popc (pf : Option Pfx) (sc : BitVec 3) (d : BitVec 6) (a : BitVec 6) : Statement (.popc pf sc d a) :=
  of_fields _ false 0x036 0 _ rfl rfl (by decide) (fits_3 sc d a)
theorem clz (pf : Option Pfx) (sc : BitVec 3) (d : BitVec 6) (a : BitVec 6) : Statement (.clz pf sc d a) :=
  of_fields _ false 0x037 0 _ rfl rfl (by decide) (fits_3 sc d a)
theorem brev (pf : Option Pfx) (sc : BitVec 3) (d : BitVec 6) (a : BitVec 6) : Statement (.brev pf sc d a) :=
  of_fields _ false 0x038 0 _ rfl rfl (by decide) (fits_3 sc d a)
theorem lea (pf : Option Pfx) (sc : BitVec 3) (d : BitVec 6) (a : BitVec 6) (b : BitVec 6) : Statement (.lea pf sc d a b) :=
  of_fields _ false 0x039 0 _ rfl rfl (by decide) (fits_4 sc d a b)
theorem pack (pf : Option Pfx) (sc : BitVec 3) (d : BitVec 6) (a : BitVec 6) (b : BitVec 6) : Statement (.pack pf sc d a b) :=
  of_fields _ false 0x03A 0 _ rfl rfl (by decide) (fits_4 sc d a b)
theorem unpk (pf : Option Pfx) (sc : BitVec 3) (d : BitVec 6) (a : BitVec 6) : Statement (.unpk pf sc d a) :=
  of_fields _ false 0x03B 0 _ rfl rfl (by decide) (fits_3 sc d a)
theorem fadd (pf : Option Pfx) (sc : BitVec 3) (d : BitVec 6) (a : BitVec 6) (b : BitVec 6) : Statement (.fadd pf sc d a b) :=
  of_fields _ false 0x060 0 _ rfl rfl (by decide) (fits_4 sc d a b)
theorem fsub (pf : Option Pfx) (sc : BitVec 3) (d : BitVec 6) (a : BitVec 6) (b : BitVec 6) : Statement (.fsub pf sc d a b) :=
  of_fields _ false 0x061 0 _ rfl rfl (by decide) (fits_4 sc d a b)
theorem fmul (pf : Option Pfx) (sc : BitVec 3) (d : BitVec 6) (a : BitVec 6) (b : BitVec 6) : Statement (.fmul pf sc d a b) :=
  of_fields _ false 0x062 0 _ rfl rfl (by decide) (fits_4 sc d a b)
theorem ffma (pf : Option Pfx) (sc : BitVec 3) (d : BitVec 6) (a : BitVec 6) (b : BitVec 6) : Statement (.ffma pf sc d a b) :=
  of_fields _ false 0x063 0 _ rfl rfl (by decide) (fits_4 sc d a b)
theorem fmin (pf : Option Pfx) (sc : BitVec 3) (d : BitVec 6) (a : BitVec 6) (b : BitVec 6) : Statement (.fmin pf sc d a b) :=
  of_fields _ false 0x064 0 _ rfl rfl (by decide) (fits_4 sc d a b)
theorem fmax (pf : Option Pfx) (sc : BitVec 3) (d : BitVec 6) (a : BitVec 6) (b : BitVec 6) : Statement (.fmax pf sc d a b) :=
  of_fields _ false 0x065 0 _ rfl rfl (by decide) (fits_4 sc d a b)
theorem fcmp (pf : Option Pfx) (sc : BitVec 3) (k : BitVec 3) (a : BitVec 6) (b : BitVec 6) : Statement (.fcmp pf sc k a b) :=
  of_fields _ false 0x066 0 _ rfl rfl (by decide) (fits_12 sc k a b)
theorem fcvt (pf : Option Pfx) (sc : BitVec 3) (d : BitVec 6) (a : BitVec 6) (l : BitVec 1) (q : BitVec 1) (r : BitVec 4) : Statement (.fcvt pf sc d a l q r) :=
  of_fields _ false 0x067 0 _ rfl rfl (by decide) (fits_13 sc d a l q r)
theorem frcp (pf : Option Pfx) (sc : BitVec 3) (d : BitVec 6) (a : BitVec 6) : Statement (.frcp pf sc d a) :=
  of_fields _ false 0x068 0 _ rfl rfl (by decide) (fits_3 sc d a)
theorem frsq (pf : Option Pfx) (sc : BitVec 3) (d : BitVec 6) (a : BitVec 6) : Statement (.frsq pf sc d a) :=
  of_fields _ false 0x069 0 _ rfl rfl (by decide) (fits_3 sc d a)
theorem fsqt (pf : Option Pfx) (sc : BitVec 3) (d : BitVec 6) (a : BitVec 6) : Statement (.fsqt pf sc d a) :=
  of_fields _ false 0x06A 0 _ rfl rfl (by decide) (fits_3 sc d a)
theorem fexp2 (pf : Option Pfx) (sc : BitVec 3) (d : BitVec 6) (a : BitVec 6) : Statement (.fexp2 pf sc d a) :=
  of_fields _ false 0x06B 0 _ rfl rfl (by decide) (fits_3 sc d a)
theorem flog2 (pf : Option Pfx) (sc : BitVec 3) (d : BitVec 6) (a : BitVec 6) : Statement (.flog2 pf sc d a) :=
  of_fields _ false 0x06C 0 _ rfl rfl (by decide) (fits_3 sc d a)
theorem fsin (pf : Option Pfx) (sc : BitVec 3) (d : BitVec 6) (a : BitVec 6) : Statement (.fsin pf sc d a) :=
  of_fields _ false 0x06D 0 _ rfl rfl (by decide) (fits_3 sc d a)
theorem fcos (pf : Option Pfx) (sc : BitVec 3) (d : BitVec 6) (a : BitVec 6) : Statement (.fcos pf sc d a) :=
  of_fields _ false 0x06E 0 _ rfl rfl (by decide) (fits_3 sc d a)
theorem ftanh (pf : Option Pfx) (sc : BitVec 3) (d : BitVec 6) (a : BitVec 6) : Statement (.ftanh pf sc d a) :=
  of_fields _ false 0x06F 0 _ rfl rfl (by decide) (fits_3 sc d a)
theorem fclass (pf : Option Pfx) (sc : BitVec 3) (d : BitVec 6) (a : BitVec 6) : Statement (.fclass pf sc d a) :=
  of_fields _ false 0x070 0 _ rfl rfl (by decide) (fits_3 sc d a)
theorem fdot (pf : Option Pfx) (sc : BitVec 3) (d : BitVec 6) (a : BitVec 6) (b : BitVec 6) : Statement (.fdot pf sc d a b) :=
  of_fields _ false 0x071 0 _ rfl rfl (by decide) (fits_4 sc d a b)
theorem fscl (pf : Option Pfx) (sc : BitVec 3) (d : BitVec 6) (a : BitVec 6) (b : BitVec 6) : Statement (.fscl pf sc d a b) :=
  of_fields _ false 0x072 0 _ rfl rfl (by decide) (fits_4 sc d a b)
theorem tmv (pf : Option Pfx) (sc : BitVec 3) (d : BitVec 6) (a : BitVec 6) (b : BitVec 6) : Statement (.tmv pf sc d a b) :=
  of_fields _ false 0x073 0 _ rfl rfl (by decide) (fits_4 sc d a b)
theorem shfl (pf : Option Pfx) (sc : BitVec 3) (d : BitVec 6) (a : BitVec 6) (b : BitVec 6) : Statement (.shfl pf sc d a b) :=
  of_fields _ false 0x0A0 0 _ rfl rfl (by decide) (fits_4 sc d a b)
theorem rixG (pf : Option Pfx) (sc : BitVec 3) (d : BitVec 6) (a : BitVec 6) (b : BitVec 6) : Statement (.rixG pf sc d a b) :=
  of_fields _ false 0x0A1 0 _ rfl rfl (by decide) (fits_4 sc d a b)
theorem rixS (pf : Pfx) (sc : BitVec 3) (d : BitVec 6) (a : BitVec 6) (b : BitVec 6) : Statement (.rixS pf sc d a b) :=
  of_fields _ false 0x0A1 0 _ rfl rfl (by decide) (fits_4 sc d a b)
theorem redl (pf : Option Pfx) (sc : BitVec 3) (d : BitVec 6) (a : BitVec 6) : Statement (.redl pf sc d a) :=
  of_fields _ false 0x0A2 0 _ rfl rfl (by decide) (fits_3 sc d a)
theorem redmi (pf : Option Pfx) (sc : BitVec 3) (d : BitVec 6) (a : BitVec 6) (b : BitVec 6) : Statement (.redmi pf sc d a b) :=
  of_fields _ false 0x0A3 0 _ rfl rfl (by decide) (fits_4 sc d a b)
theorem scan (pf : Option Pfx) (sc : BitVec 3) (d : BitVec 6) (a : BitVec 6) (e : BitVec 1) : Statement (.scan pf sc d a e) :=
  of_fields _ false 0x0A4 0 _ rfl rfl (by decide) (fits_14 sc d a e)
theorem cfd (pf : Option Pfx) (sc : BitVec 3) (d : BitVec 6) (a : BitVec 6) : Statement (.cfd pf sc d a) :=
  of_fields _ false 0x0A5 0 _ rfl rfl (by decide) (fits_3 sc d a)
theorem comb (pf : Option Pfx) (sc : BitVec 3) (d : BitVec 6) (a : BitVec 6) (b : BitVec 6) : Statement (.comb pf sc d a b) :=
  of_fields _ false 0x0A6 0 _ rfl rfl (by decide) (fits_4 sc d a b)
theorem bcast (pf : Option Pfx) (sc : BitVec 3) (d : BitVec 6) (a : BitVec 6) (b : BitVec 6) : Statement (.bcast pf sc d a b) :=
  of_fields _ false 0x0A7 0 _ rfl rfl (by decide) (fits_4 sc d a b)
theorem ld (pf : Option Pfx) (sc : BitVec 3) (d : BitVec 6) (a : BitVec 6) (n : BitVec 4) (z : BitVec 2) : Statement (.ld pf sc d a n z) :=
  of_fields _ false 0x0C0 0 _ rfl rfl (by decide) (fits_15 sc d a n z)
theorem st (pf : Option Pfx) (sc : BitVec 3) (d : BitVec 6) (a : BitVec 6) (n : BitVec 4) (z : BitVec 2) : Statement (.st pf sc d a n z) :=
  of_fields _ false 0x0C1 0 _ rfl rfl (by decide) (fits_15 sc d a n z)
theorem ldl (pf : Option Pfx) (sc : BitVec 3) (d : BitVec 6) (a : BitVec 6) (n : BitVec 4) (z : BitVec 2) : Statement (.ldl pf sc d a n z) :=
  of_fields _ false 0x0C2 0 _ rfl rfl (by decide) (fits_15 sc d a n z)
theorem lds (pf : Option Pfx) (sc : BitVec 3) (d : BitVec 6) (a : BitVec 6) (z : BitVec 2) : Statement (.lds pf sc d a z) :=
  of_fields _ false 0x0C3 0 _ rfl rfl (by decide) (fits_16 sc d a z)
theorem sts (pf : Option Pfx) (sc : BitVec 3) (d : BitVec 6) (a : BitVec 6) (z : BitVec 2) : Statement (.sts pf sc d a z) :=
  of_fields _ false 0x0C4 0 _ rfl rfl (by decide) (fits_16 sc d a z)
theorem ldc (pf : Option Pfx) (sc : BitVec 3) (d : BitVec 6) (a : BitVec 6) (z : BitVec 2) : Statement (.ldc pf sc d a z) :=
  of_fields _ false 0x0C5 0 _ rfl rfl (by decide) (fits_16 sc d a z)
theorem prf (pf : Option Pfx) (sc : BitVec 3) (a : BitVec 6) (n : BitVec 4) (z : BitVec 2) : Statement (.prf pf sc a n z) :=
  of_fields _ false 0x0C6 0 _ rfl rfl (by decide) (fits_17 sc a n z)
theorem pin (pf : Option Pfx) (sc : BitVec 3) (d : BitVec 6) (a : BitVec 6) (z : BitVec 2) : Statement (.pin pf sc d a z) :=
  of_fields _ false 0x0C7 0 _ rfl rfl (by decide) (fits_16 sc d a z)
theorem unpin (pf : Option Pfx) (sc : BitVec 3) (d : BitVec 6) (a : BitVec 6) (z : BitVec 2) : Statement (.unpin pf sc d a z) :=
  of_fields _ false 0x0C8 0 _ rfl rfl (by decide) (fits_16 sc d a z)
theorem sinv (pf : Option Pfx) (sc : BitVec 3) (d : BitVec 6) (a : BitVec 6) : Statement (.sinv pf sc d a) :=
  of_fields _ false 0x0C9 0 _ rfl rfl (by decide) (fits_3 sc d a)
theorem swb (pf : Option Pfx) (sc : BitVec 3) (d : BitVec 6) (a : BitVec 6) : Statement (.swb pf sc d a) :=
  of_fields _ false 0x0CA 0 _ rfl rfl (by decide) (fits_3 sc d a)
theorem swbInv (pf : Option Pfx) (sc : BitVec 3) (d : BitVec 6) (a : BitVec 6) : Statement (.swbInv pf sc d a) :=
  of_fields _ false 0x0CA 0x1 _ rfl rfl (by decide) (fits_18 sc d a)
theorem atom (pf : Option Pfx) (sc : BitVec 3) (d : BitVec 6) (a : BitVec 6) (n : BitVec 4) (z : BitVec 1) : Statement (.atom pf sc d a n z) :=
  of_fields _ false 0x0E0 0x2 _ rfl rfl (by decide) (fits_19 sc d a n z)
theorem acas (pf : Option Pfx) (sc : BitVec 3) (d : BitVec 6) (a : BitVec 6) (n : BitVec 4) (z : BitVec 1) : Statement (.acas pf sc d a n z) :=
  of_fields _ false 0x0E1 0x2 _ rfl rfl (by decide) (fits_19 sc d a n z)
theorem abinc (pf : Option Pfx) (sc : BitVec 3) (d : BitVec 6) (a : BitVec 6) (n : BitVec 4) (z : BitVec 1) : Statement (.abinc pf sc d a n z) :=
  of_fields _ false 0x0E2 0x2 _ rfl rfl (by decide) (fits_19 sc d a n z)
theorem enter (sc : BitVec 3) (d : BitVec 6) (a : BitVec 6) (m : BitVec 3) : Statement (.enter sc d a m) :=
  of_fields _ false 0x0E3 0 _ rfl rfl (by decide) (fits_20 sc d a m)
theorem enterTry (sc : BitVec 3) (d : BitVec 6) (a : BitVec 6) (m : BitVec 3) : Statement (.enterTry sc d a m) :=
  of_fields _ false 0x0E3 0x8 _ rfl rfl (by decide) (fits_21 sc d a m)
theorem leave (sc : BitVec 3) (a : BitVec 6) : Statement (.leave sc a) :=
  of_fields _ false 0x0E4 0 _ rfl rfl (by decide) (fits_2 sc a)
theorem rstat (sc : BitVec 3) (d : BitVec 6) (a : BitVec 6) : Statement (.rstat sc d a) :=
  of_fields _ false 0x0E5 0 _ rfl rfl (by decide) (fits_3 sc d a)
theorem trap (sc : BitVec 3) (c : BitVec 8) : Statement (.trap sc c) :=
  of_fields _ false 0x140 0 _ rfl rfl (by decide) (fits_10 sc c)
theorem rett (sc : BitVec 3) : Statement (.rett sc) :=
  of_fields _ false 0x141 0 _ rfl rfl (by decide) (fits_0 sc)
theorem tmaskSet (sc : BitVec 3) (d : BitVec 6) (a : BitVec 6) : Statement (.tmaskSet sc d a) :=
  of_fields _ false 0x142 0 _ rfl rfl (by decide) (fits_3 sc d a)
theorem tmaskClr (sc : BitVec 3) (d : BitVec 6) (a : BitVec 6) : Statement (.tmaskClr sc d a) :=
  of_fields _ false 0x142 0x1 _ rfl rfl (by decide) (fits_18 sc d a)
theorem tmaskWr (sc : BitVec 3) (d : BitVec 6) (a : BitVec 6) : Statement (.tmaskWr sc d a) :=
  of_fields _ false 0x142 0x2 _ rfl rfl (by decide) (fits_22 sc d a)
theorem snop (sc : BitVec 3) : Statement (.snop sc) :=
  of_fields _ true 0x000 0 _ rfl rfl (by decide) (fits_0 sc)
theorem bra (sc : BitVec 3) (p : BitVec 18) : Statement (.bra sc p) :=
  of_fields _ true 0x001 0 _ rfl rfl (by decide) (fits_23 sc p)
theorem brx (sc : BitVec 3) (a : BitVec 6) : Statement (.brx sc a) :=
  of_fields _ true 0x002 0 _ rfl rfl (by decide) (fits_2 sc a)
theorem call (sc : BitVec 3) (p : BitVec 18) : Statement (.call sc p) :=
  of_fields _ true 0x003 0 _ rfl rfl (by decide) (fits_23 sc p)
theorem yield (sc : BitVec 3) (a : BitVec 6) : Statement (.yield sc a) :=
  of_fields _ true 0x004 0 _ rfl rfl (by decide) (fits_2 sc a)
theorem yieldX (sc : BitVec 3) (a : BitVec 6) : Statement (.yieldX sc a) :=
  of_fields _ true 0x004 0x1 _ rfl rfl (by decide) (fits_24 sc a)
theorem smov (sc : BitVec 3) (d : BitVec 6) (x : BitVec 12) : Statement (.smov sc d x) :=
  of_fields _ true 0x020 0 _ rfl rfl (by decide) (fits_11 sc d x)
theorem sadd (sc : BitVec 3) (d : BitVec 6) (a : BitVec 6) (b : BitVec 6) : Statement (.sadd sc d a b) :=
  of_fields _ true 0x021 0 _ rfl rfl (by decide) (fits_4 sc d a b)
theorem ssub (sc : BitVec 3) (d : BitVec 6) (a : BitVec 6) (b : BitVec 6) : Statement (.ssub sc d a b) :=
  of_fields _ true 0x022 0 _ rfl rfl (by decide) (fits_4 sc d a b)
theorem smul (sc : BitVec 3) (d : BitVec 6) (a : BitVec 6) (b : BitVec 6) : Statement (.smul sc d a b) :=
  of_fields _ true 0x023 0 _ rfl rfl (by decide) (fits_4 sc d a b)
theorem smad (sc : BitVec 3) (d : BitVec 6) (a : BitVec 6) (b : BitVec 6) : Statement (.smad sc d a b) :=
  of_fields _ true 0x024 0 _ rfl rfl (by decide) (fits_4 sc d a b)
theorem sand (sc : BitVec 3) (d : BitVec 6) (a : BitVec 6) (b : BitVec 6) : Statement (.sand sc d a b) :=
  of_fields _ true 0x025 0 _ rfl rfl (by decide) (fits_4 sc d a b)
theorem sor (sc : BitVec 3) (d : BitVec 6) (a : BitVec 6) (b : BitVec 6) : Statement (.sor sc d a b) :=
  of_fields _ true 0x026 0 _ rfl rfl (by decide) (fits_4 sc d a b)
theorem sxor (sc : BitVec 3) (d : BitVec 6) (a : BitVec 6) (b : BitVec 6) : Statement (.sxor sc d a b) :=
  of_fields _ true 0x027 0 _ rfl rfl (by decide) (fits_4 sc d a b)
theorem sshl (sc : BitVec 3) (d : BitVec 6) (a : BitVec 6) (b : BitVec 6) : Statement (.sshl sc d a b) :=
  of_fields _ true 0x028 0 _ rfl rfl (by decide) (fits_4 sc d a b)
theorem sshr (sc : BitVec 3) (d : BitVec 6) (a : BitVec 6) (b : BitVec 6) : Statement (.sshr sc d a b) :=
  of_fields _ true 0x029 0 _ rfl rfl (by decide) (fits_4 sc d a b)
theorem smin (sc : BitVec 3) (d : BitVec 6) (a : BitVec 6) (b : BitVec 6) : Statement (.smin sc d a b) :=
  of_fields _ true 0x02A 0 _ rfl rfl (by decide) (fits_4 sc d a b)
theorem smax (sc : BitVec 3) (d : BitVec 6) (a : BitVec 6) (b : BitVec 6) : Statement (.smax sc d a b) :=
  of_fields _ true 0x02B 0 _ rfl rfl (by decide) (fits_4 sc d a b)
theorem scmp (sc : BitVec 3) (d : BitVec 6) (a : BitVec 6) (b : BitVec 6) : Statement (.scmp sc d a b) :=
  of_fields _ true 0x02C 0 _ rfl rfl (by decide) (fits_4 sc d a b)
theorem ssel (sc : BitVec 3) (d : BitVec 6) (a : BitVec 6) (b : BitVec 6) : Statement (.ssel sc d a b) :=
  of_fields _ true 0x02D 0 _ rfl rfl (by decide) (fits_4 sc d a b)
theorem slea (sc : BitVec 3) (d : BitVec 6) (a : BitVec 6) (b : BitVec 6) : Statement (.slea sc d a b) :=
  of_fields _ true 0x02E 0 _ rfl rfl (by decide) (fits_4 sc d a b)
theorem sld (sc : BitVec 3) (d : BitVec 6) (a : BitVec 6) (n : BitVec 4) (z : BitVec 2) : Statement (.sld sc d a n z) :=
  of_fields _ true 0x0C0 0 _ rfl rfl (by decide) (fits_15 sc d a n z)
theorem sst (sc : BitVec 3) (d : BitVec 6) (a : BitVec 6) (n : BitVec 4) (z : BitVec 2) : Statement (.sst sc d a n z) :=
  of_fields _ true 0x0C1 0 _ rfl rfl (by decide) (fits_15 sc d a n z)
theorem hdef (sc : BitVec 3) (d : BitVec 6) (a : BitVec 6) (b : BitVec 6) : Statement (.hdef sc d a b) :=
  of_fields _ true 0x0C2 0 _ rfl rfl (by decide) (fits_4 sc d a b)
theorem rdecl (sc : BitVec 3) (d : BitVec 6) (a : BitVec 6) (b : BitVec 6) : Statement (.rdecl sc d a b) :=
  of_fields _ true 0x0E0 0 _ rfl rfl (by decide) (fits_4 sc d a b)
theorem fence (sc : BitVec 3) (c : BitVec 3) (m : BitVec 2) : Statement (.fence sc c m) :=
  of_fields _ true 0x0F0 0 _ rfl rfl (by decide) (fits_25 sc c m)
theorem barSync (sc : BitVec 3) (d : BitVec 6) (a : BitVec 6) (c : BitVec 3) : Statement (.barSync sc d a c) :=
  of_fields _ true 0x0F1 0 _ rfl rfl (by decide) (fits_26 sc d a c)
theorem barArrive (sc : BitVec 3) (d : BitVec 6) (a : BitVec 6) (c : BitVec 3) : Statement (.barArrive sc d a c) :=
  of_fields _ true 0x0F1 0x1 _ rfl rfl (by decide) (fits_27 sc d a c)
theorem barWait (sc : BitVec 3) (d : BitVec 6) (a : BitVec 6) (c : BitVec 3) : Statement (.barWait sc d a c) :=
  of_fields _ true 0x0F1 0x2 _ rfl rfl (by decide) (fits_28 sc d a c)
theorem pbarInit (sc : BitVec 3) (a : BitVec 6) (b : BitVec 6) : Statement (.pbarInit sc a b) :=
  of_fields _ true 0x0F2 0 _ rfl rfl (by decide) (fits_6 sc a b)
theorem pbarArrive (sc : BitVec 3) (a : BitVec 6) : Statement (.pbarArrive sc a) :=
  of_fields _ true 0x0F2 0x1000 _ rfl rfl (by decide) (fits_29 sc a)
theorem pbarWait (sc : BitVec 3) (a : BitVec 6) (b : BitVec 6) : Statement (.pbarWait sc a b) :=
  of_fields _ true 0x0F2 0x2000 _ rfl rfl (by decide) (fits_30 sc a b)
theorem tlwait (sc : BitVec 3) (d : BitVec 6) (a : BitVec 6) : Statement (.tlwait sc d a) :=
  of_fields _ true 0x0F3 0 _ rfl rfl (by decide) (fits_3 sc d a)
theorem swarm (sc : BitVec 3) (d : BitVec 6) (a : BitVec 6) : Statement (.swarm sc d a) :=
  of_fields _ true 0x0F4 0 _ rfl rfl (by decide) (fits_3 sc d a)
theorem swwait (sc : BitVec 3) (d : BitVec 6) (a : BitVec 6) : Statement (.swwait sc d a) :=
  of_fields _ true 0x0F5 0 _ rfl rfl (by decide) (fits_3 sc d a)
theorem cbdef (sc : BitVec 3) (d : BitVec 6) (a : BitVec 6) (b : BitVec 6) : Statement (.cbdef sc d a b) :=
  of_fields _ true 0x100 0 _ rfl rfl (by decide) (fits_4 sc d a b)
theorem cbadvWroom (sc : BitVec 3) (d : BitVec 6) (a : BitVec 6) : Statement (.cbadvWroom sc d a) :=
  of_fields _ true 0x101 0 _ rfl rfl (by decide) (fits_3 sc d a)
theorem cbadvPut (sc : BitVec 3) (d : BitVec 6) (a : BitVec 6) : Statement (.cbadvPut sc d a) :=
  of_fields _ true 0x101 0x1 _ rfl rfl (by decide) (fits_18 sc d a)
theorem cbadvWdata (sc : BitVec 3) (d : BitVec 6) (a : BitVec 6) : Statement (.cbadvWdata sc d a) :=
  of_fields _ true 0x101 0x2 _ rfl rfl (by decide) (fits_22 sc d a)
theorem cbadvGet (sc : BitVec 3) (d : BitVec 6) (a : BitVec 6) : Statement (.cbadvGet sc d a) :=
  of_fields _ true 0x101 0x3 _ rfl rfl (by decide) (fits_31 sc d a)
theorem cpy (sc : BitVec 3) (d : BitVec 6) (a : BitVec 6) (b : BitVec 6) : Statement (.cpy sc d a b) :=
  of_fields _ true 0x102 0 _ rfl rfl (by decide) (fits_4 sc d a b)
theorem cpyx (sc : BitVec 3) (d : BitVec 6) (a : BitVec 6) (b : BitVec 6) : Statement (.cpyx sc d a b) :=
  of_fields _ true 0x103 0 _ rfl rfl (by decide) (fits_4 sc d a b)
theorem tdef (sc : BitVec 3) (d : BitVec 6) (a : BitVec 6) : Statement (.tdef sc d a) :=
  of_fields _ true 0x104 0 _ rfl rfl (by decide) (fits_3 sc d a)
theorem mld (sc : BitVec 3) (d : BitVec 6) (a : BitVec 6) (f : BitVec 4) : Statement (.mld sc d a f) :=
  of_fields _ true 0x105 0 _ rfl rfl (by decide) (fits_32 sc d a f)
theorem mma (sc : BitVec 3) (d : BitVec 6) (a : BitVec 6) (f : BitVec 4) (r : BitVec 1) : Statement (.mma sc d a f r) :=
  of_fields _ true 0x106 0 _ rfl rfl (by decide) (fits_33 sc d a f r)
theorem mmas (sc : BitVec 3) (d : BitVec 6) (a : BitVec 6) (f : BitVec 4) : Statement (.mmas sc d a f) :=
  of_fields _ true 0x107 0 _ rfl rfl (by decide) (fits_32 sc d a f)
theorem mwb (sc : BitVec 3) (d : BitVec 6) (a : BitVec 6) (f : BitVec 4) : Statement (.mwb sc d a f) :=
  of_fields _ true 0x108 0 _ rfl rfl (by decide) (fits_32 sc d a f)
theorem mclr (sc : BitVec 3) (d : BitVec 6) (t : BitVec 1) (m : BitVec 4) : Statement (.mclr sc d t m) :=
  of_fields _ true 0x109 0 _ rfl rfl (by decide) (fits_34 sc d t m)
theorem ixg (sc : BitVec 3) (d : BitVec 6) (a : BitVec 6) (f : BitVec 4) : Statement (.ixg sc d a f) :=
  of_fields _ true 0x10A 0 _ rfl rfl (by decide) (fits_32 sc d a f)
theorem ixs (sc : BitVec 3) (d : BitVec 6) (a : BitVec 6) (f : BitVec 4) : Statement (.ixs sc d a f) :=
  of_fields _ true 0x10B 0 _ rfl rfl (by decide) (fits_32 sc d a f)
theorem ectxBind (sc : BitVec 3) (d : BitVec 6) (e : BitVec 2) : Statement (.ectxBind sc d e) :=
  of_fields _ true 0x10C 0 _ rfl rfl (by decide) (fits_35 sc d e)
theorem ectxUnbind (sc : BitVec 3) (d : BitVec 6) : Statement (.ectxUnbind sc d) :=
  of_fields _ true 0x10C 0x1 _ rfl rfl (by decide) (fits_36 sc d)
theorem ectxDrain (sc : BitVec 3) (d : BitVec 6) : Statement (.ectxDrain sc d) :=
  of_fields _ true 0x10C 0x2 _ rfl rfl (by decide) (fits_37 sc d)
theorem ectxPin (sc : BitVec 3) (d : BitVec 6) : Statement (.ectxPin sc d) :=
  of_fields _ true 0x10C 0x3 _ rfl rfl (by decide) (fits_38 sc d)
theorem ectxUnpin (sc : BitVec 3) (d : BitVec 6) : Statement (.ectxUnpin sc d) :=
  of_fields _ true 0x10C 0x4 _ rfl rfl (by decide) (fits_39 sc d)
theorem ectxResume (sc : BitVec 3) (d : BitVec 6) : Statement (.ectxResume sc d) :=
  of_fields _ true 0x10C 0x5 _ rfl rfl (by decide) (fits_40 sc d)
theorem ectxAbort (sc : BitVec 3) (d : BitVec 6) : Statement (.ectxAbort sc d) :=
  of_fields _ true 0x10C 0x6 _ rfl rfl (by decide) (fits_41 sc d)
theorem estat (sc : BitVec 3) (d : BitVec 6) (a : BitVec 6) (x : BitVec 3) : Statement (.estat sc d a x) :=
  of_fields _ true 0x10D 0 _ rfl rfl (by decide) (fits_20 sc d a x)
theorem rredRs (sc : BitVec 3) (d : BitVec 6) (a : BitVec 6) (e : BitVec 1) (r : BitVec 1) : Statement (.rredRs sc d a e r) :=
  of_fields _ true 0x120 0 _ rfl rfl (by decide) (fits_42 sc d a e r)
theorem rredAr (sc : BitVec 3) (d : BitVec 6) (a : BitVec 6) (e : BitVec 1) (r : BitVec 1) : Statement (.rredAr sc d a e r) :=
  of_fields _ true 0x120 0x1 _ rfl rfl (by decide) (fits_43 sc d a e r)
theorem rcat (sc : BitVec 3) (d : BitVec 6) (a : BitVec 6) : Statement (.rcat sc d a) :=
  of_fields _ true 0x121 0 _ rfl rfl (by decide) (fits_3 sc d a)
theorem lput (sc : BitVec 3) (d : BitVec 6) (a : BitVec 6) : Statement (.lput sc d a) :=
  of_fields _ true 0x122 0 _ rfl rfl (by decide) (fits_3 sc d a)
theorem launch (sc : BitVec 3) (d : BitVec 6) (a : BitVec 6) (b : BitVec 6) : Statement (.launch sc d a b) :=
  of_fields _ true 0x130 0 _ rfl rfl (by decide) (fits_4 sc d a b)
theorem gnode (sc : BitVec 3) (d : BitVec 6) (a : BitVec 6) (b : BitVec 6) : Statement (.gnode sc d a b) :=
  of_fields _ true 0x131 0 _ rfl rfl (by decide) (fits_4 sc d a b)
theorem tapePush (sc : BitVec 3) (a : BitVec 6) : Statement (.tapePush sc a) :=
  of_fields _ true 0x132 0 _ rfl rfl (by decide) (fits_2 sc a)
theorem tapeRun (sc : BitVec 3) (d : BitVec 6) (a : BitVec 6) : Statement (.tapeRun sc d a) :=
  of_fields _ true 0x132 0x1 _ rfl rfl (by decide) (fits_18 sc d a)
theorem tapeDepth (sc : BitVec 3) (a : BitVec 6) : Statement (.tapeDepth sc a) :=
  of_fields _ true 0x132 0x2 _ rfl rfl (by decide) (fits_44 sc a)
theorem tcut (sc : BitVec 3) (a : BitVec 6) : Statement (.tcut sc a) :=
  of_fields _ true 0x133 0 _ rfl rfl (by decide) (fits_2 sc a)
theorem prio (sc : BitVec 3) (a : BitVec 6) : Statement (.prio sc a) :=
  of_fields _ true 0x134 0 _ rfl rfl (by decide) (fits_2 sc a)
theorem rdsr (sc : BitVec 3) (d : BitVec 6) (x : BitVec 12) : Statement (.rdsr sc d x) :=
  of_fields _ true 0x140 0 _ rfl rfl (by decide) (fits_11 sc d x)
theorem wrsr (sc : BitVec 3) (d : BitVec 6) (x : BitVec 12) : Statement (.wrsr sc d x) :=
  of_fields _ true 0x141 0 _ rfl rfl (by decide) (fits_11 sc d x)
theorem wdogWrite (g : Nat) (v : Word) : Statement (.wdogWrite g v) := ⟨rfl, rfl⟩
theorem dtld (sc : BitVec 3) (d : BitVec 6) (a : BitVec 6) : Statement (.dtld sc d a) :=
  of_fields _ true 0x142 0 _ rfl rfl (by decide) (fits_3 sc d a)
theorem syscShoot (sc : BitVec 3) (d : BitVec 6) : Statement (.syscShoot sc d) :=
  of_fields _ true 0x143 0x1 _ rfl rfl (by decide) (fits_36 sc d)
theorem syscTerm (sc : BitVec 3) (d : BitVec 6) : Statement (.syscTerm sc d) :=
  of_fields _ true 0x143 0x2 _ rfl rfl (by decide) (fits_37 sc d)
theorem syscQdesc (sc : BitVec 3) (d : BitVec 6) : Statement (.syscQdesc sc d) :=
  of_fields _ true 0x143 0x3 _ rfl rfl (by decide) (fits_38 sc d)
theorem syscLevel (sc : BitVec 3) (d : BitVec 6) : Statement (.syscLevel sc d) :=
  of_fields _ true 0x143 0x4 _ rfl rfl (by decide) (fits_39 sc d)
theorem syscRing (sc : BitVec 3) (d : BitVec 6) : Statement (.syscRing sc d) :=
  of_fields _ true 0x143 0x5 _ rfl rfl (by decide) (fits_40 sc d)
theorem syscPodwin (sc : BitVec 3) (d : BitVec 6) : Statement (.syscPodwin sc d) :=
  of_fields _ true 0x143 0x6 _ rfl rfl (by decide) (fits_41 sc d)
theorem syscFpdef (sc : BitVec 3) (d : BitVec 6) : Statement (.syscFpdef sc d) :=
  of_fields _ true 0x143 0x7 _ rfl rfl (by decide) (fits_45 sc d)
theorem syscWhere (sc : BitVec 3) (d : BitVec 6) : Statement (.syscWhere sc d) :=
  of_fields _ true 0x143 0x100 _ rfl rfl (by decide) (fits_46 sc d)
theorem consumerAccept (g : Nat) : Statement (.consumerAccept g) := ⟨rfl, rfl⟩
theorem variableResultWrite (g : Nat) : Statement (.variableResultWrite g) := ⟨rfl, rfl⟩
theorem writeAck (g : Nat) : Statement (.writeAck g) := ⟨rfl, rfl⟩
theorem waitRelease (g : Nat) : Statement (.waitRelease g) := ⟨rfl, rfl⟩
theorem watchdogExpiry (g : Nat) : Statement (.watchdogExpiry g) := ⟨rfl, rfl⟩
theorem trapEntry (g : Nat) (lanes : Lanes) (cause : BitVec 8) (sub : BitVec 8) (faddr : Word) : Statement (.trapEntry g lanes cause sub faddr) := ⟨rfl, rfl⟩
theorem heldTrapTake (g : Nat) : Statement (.heldTrapTake g) := ⟨rfl, rfl⟩
theorem preemptRequest (g : Nat) : Statement (.preemptRequest g) := ⟨rfl, rfl⟩
theorem preboundExpiry (g : Nat) : Statement (.preboundExpiry g) := ⟨rfl, rfl⟩
theorem doorbell (part : Nat) (q : Nat) (v : Word) : Statement (.doorbell part q v) := ⟨rfl, rfl⟩
theorem queueMap (part : Nat) (q : Nat) : Statement (.queueMap part q) := ⟨rfl, rfl⟩
theorem sliceExpiry (part : Nat) (q : Nat) : Statement (.sliceExpiry part q) := ⟨rfl, rfl⟩
theorem dispatch (part : Nat) : Statement (.dispatch part) := ⟨rfl, rfl⟩
theorem eviction (part : Nat) : Statement (.eviction part) := ⟨rfl, rfl⟩
theorem groupResume (g : Nat) : Statement (.groupResume g) := ⟨rfl, rfl⟩
theorem crewRetire (c : Nat) : Statement (.crewRetire c) := ⟨rfl, rfl⟩
theorem taskComplete (t : Nat) : Statement (.taskComplete t) := ⟨rfl, rfl⟩
theorem demandAdmit (ctx : Nat) (region : Nat) : Statement (.demandAdmit ctx region) := ⟨rfl, rfl⟩
theorem admitWindowExpiry (ctx : Nat) (region : Nat) : Statement (.admitWindowExpiry ctx region) := ⟨rfl, rfl⟩
theorem drainComplete (ctx : Nat) (region : Nat) : Statement (.drainComplete ctx region) := ⟨rfl, rfl⟩
theorem roomwaitTimeout (g : Nat) (lane : Nat) : Statement (.roomwaitTimeout g lane) := ⟨rfl, rfl⟩
theorem partialFlush (ctx : Nat) (region : Nat) (quad : Nat) (line : Nat) : Statement (.partialFlush ctx region quad line) := ⟨rfl, rfl⟩
theorem reuseEpochTick : Statement .reuseEpochTick := ⟨rfl, rfl⟩
theorem crewpaceRecompute (c : Nat) : Statement (.crewpaceRecompute c) := ⟨rfl, rfl⟩
theorem reusefAdjust (ctx : Nat) : Statement (.reusefAdjust ctx) := ⟨rfl, rfl⟩
theorem stampSweep (l2 : Bool) (cache : Nat) (set : Nat) : Statement (.stampSweep l2 cache set) := ⟨rfl, rfl⟩
theorem dtReadMiss (quad : Nat) (part : Nat) (line : Nat) : Statement (.dtReadMiss quad part line) := ⟨rfl, rfl⟩
theorem dtWriteOwnership (quad : Nat) (part : Nat) (line : Nat) : Statement (.dtWriteOwnership quad part line) := ⟨rfl, rfl⟩
theorem dtEviction (quad : Nat) (part : Nat) (line : Nat) : Statement (.dtEviction quad part line) := ⟨rfl, rfl⟩
theorem atomicExecute (g : Nat) : Statement (.atomicExecute g) := ⟨rfl, rfl⟩
theorem pageWalkComplete (quad : Nat) (ctx : Nat) (va : Word) : Statement (.pageWalkComplete quad ctx va) := ⟨rfl, rfl⟩
theorem shootdownComplete (ctx : Nat) (start : Nat) (len : Nat) : Statement (.shootdownComplete ctx start len) := ⟨rfl, rfl⟩
theorem eccUncorrectable (spot : Spot) (source : BitVec 16) (addr : Word) : Statement (.eccUncorrectable spot source addr) := ⟨rfl, rfl⟩
theorem dieFailure (die : Nat) : Statement (.dieFailure die) := ⟨rfl, rfl⟩
theorem hostMemoryWrite (dst : Outer) (addr : Nat) (bytes : List Byte) : Statement (.hostMemoryWrite dst addr bytes) := ⟨rfl, rfl⟩
theorem engineCommandStart (c : Nat) (tl : Nat) : Statement (.engineCommandStart c tl) := ⟨rfl, rfl⟩
theorem engineStep (c : Nat) (tl : Nat) (n : Nat) : Statement (.engineStep c tl n) := ⟨rfl, rfl⟩
theorem matrixKstep (c : Nat) (tl : Nat) (n : Nat) : Statement (.matrixKstep c tl n) := ⟨rfl, rfl⟩
theorem ixsSectorAdd (c : Nat) (tl : Nat) (n : Nat) : Statement (.ixsSectorAdd c tl n) := ⟨rfl, rfl⟩
theorem commandFinish (c : Nat) (tl : Nat) (n : Nat) : Statement (.commandFinish c tl n) := ⟨rfl, rfl⟩
theorem contextDrain (c : Nat) (tl : Nat) : Statement (.contextDrain c tl) := ⟨rfl, rfl⟩
theorem hypnumImageAccept (quad : Nat) (dir : BitVec 2) : Statement (.hypnumImageAccept quad dir) := ⟨rfl, rfl⟩
theorem yarrowPacketReceive (port : Nat) (pkt : Packet) : Statement (.yarrowPacketReceive port pkt) := ⟨rfl, rfl⟩
theorem yarrowReplay (port : Nat) : Statement (.yarrowReplay port) := ⟨rfl, rfl⟩
theorem lputSectorReceive (port : Nat) (pkt : Packet) : Statement (.lputSectorReceive port pkt) := ⟨rfl, rfl⟩
theorem peerSilentTimeout (c : Nat) (tl : Nat) : Statement (.peerSilentTimeout c tl) := ⟨rfl, rfl⟩
theorem partitionReconfig (config : List (BitVec 4 × Word)) : Statement (.partitionReconfig config) := ⟨rfl, rfl⟩
theorem quiesceTimeout : Statement .quiesceTimeout := ⟨rfl, rfl⟩
theorem partitionSwap (swap : Nat × Nat) : Statement (.partitionSwap swap) := ⟨rfl, rfl⟩
theorem clockStepChange (stepNo : BitVec 2) (pcap : Bool) (tcap : Bool) : Statement (.clockStepChange stepNo pcap tcap) := ⟨rfl, rfl⟩
theorem boot (qtbase : Word) : Statement (.boot qtbase) := ⟨rfl, rfl⟩
theorem recoveryFetchHost (failed : Bool) : Statement (.recoveryFetchHost failed) := ⟨rfl, rfl⟩
theorem recoveryFetchNvme (image : Option (List Byte)) : Statement (.recoveryFetchNvme image) := ⟨rfl, rfl⟩
theorem attestationReport (nonce : List Byte) : Statement (.attestationReport nonce) := ⟨rfl, rfl⟩
theorem contextCreate (part : Nat) (ctxid : BitVec 16) (sys : Bool) (root : Word) (savebase : Word) : Statement (.contextCreate part ctxid sys root savebase) := ⟨rfl, rfl⟩
theorem contextDestroy (ctx : Nat) : Statement (.contextDestroy ctx) := ⟨rfl, rfl⟩
theorem yarrowPortRetrain (port : Nat) : Statement (.yarrowPortRetrain port) := ⟨rfl, rfl⟩
theorem correctedEccError (source : BitVec 16) (loc : Word) : Statement (.correctedEccError source loc) := ⟨rfl, rfl⟩
theorem msixVectorUnmask (vec : Nat) : Statement (.msixVectorUnmask vec) := ⟨rfl, rfl⟩
theorem podFormation (pkg : BitVec 8) (size : BitVec 8) : Statement (.podFormation pkg size) := ⟨rfl, rfl⟩
theorem instructionBufferFill (core : Nat) (line : Word) : Statement (.instructionBufferFill core line) := ⟨rfl, rfl⟩

end Sys2Proof.Laws.Opcode
end

