-- ==== Sys2Proof/Tests/Slice0.lean ====
section
/-! SUPPORT. Tests: ill-formed terms that each check refuses, words written out from the encodings of the spec, and states and operands that meet the hypotheses
of every statement, clause by clause; with them single steps whose results are worked out by hand from the rules. -/

namespace Sys2Proof.Tests

set_option Elab.async false

open Sys2Proof.Machine

/-! ## States to test on -/

/-- The one group of a small machine is about to issue an instruction in all 32 lanes, after some change of the machine. -/
def issuing (i : Instr) (f : State → State) : State :=
  let s := f (State.reset.placeCode (encodeBytes i))
  { s with cur := freshIssue 0 (BitVec.allOnes 32) 0 (((encode i).getLast?).getD 0) (match i.pf? with | some p => BitVec.ofNat 32 (encodePfx p) | none => 0) }

/-- Nothing of the unit has happened yet. -/
def fresh (u : Issue) : Bool :=
  !u.replay && !u.late && u.res.isNone && u.got.isEmpty && u.data.isEmpty && u.walks.isEmpty && u.ents.isEmpty && u.left.isNone && u.low.isNone && !u.met && u.seq == 0

/-- The unit passes its checks, and something holds of the state and of the one its effect starts from. -/
abbrev At (i : Instr) (f : State → State) (P : State → State → Prop) : Prop :=
  (fresh (issuing i f).cur = true ∧ ((issuing i f).begin i).gate i = .pass) ∧ P (issuing i f) ((issuing i f).issued i)

theorem At.goes {i : Instr} {f : State → State} {P : State → State → Prop} (h : At i f P) : (issuing i f).goes i := by
  refine ⟨?_, h.1.2⟩
  have h1 := h.1.1
  simp only [fresh, Bool.and_eq_true, Bool.not_eq_true', Option.isNone_iff_eq_none, List.isEmpty_iff, beq_iff_eq, and_assoc] at h1
  exact h1

/-- A register holds one value in every lane, or one for each lane. -/
def reg (r : BitVec 6) (v : Word) (s : State) : State := s.modGrp 0 fun g => g.setReg r (BitVec.allOnes 2048) (splat v)
def regs (r : BitVec 6) (v : Nat → Word) (s : State) : State := s.modGrp 0 fun g => g.setReg r (BitVec.allOnes 2048) (ofLanes v)
def mask (k : Nat) (m : Mask) (s : State) : State := s.modGrp 0 fun g => g.setMask k (BitVec.allOnes 256) m
def only (ls : Lanes) (s : State) : State := { s with cur := { s.cur with lanes := ls } }
def grp (f : Group → Group) (s : State) : State := s.modGrp 0 f
def ctx (f : Context → Context) (s : State) : State := s.modCtx 0 f
def crew (f : Crew → Crew) (s : State) : State := s.modCrew 0 f
def part (f : Partition → Partition) (s : State) : State := s.modPart 0 f
def tline (f : Timeline → Timeline) (s : State) : State := s.modTl 0 0 f
/-- A number of n bytes in the crew's window. -/
def win (off n x : Nat) (s : State) : State := s.writeScratch 0 off (leBytes n x)
/-- The context runs at user level. -/
def user (s : State) : State := s.modCtx 0 fun c => { c with ctxid := 1 }

/-- The state after a step, and a register of its group in a lane once every pending write is performed. -/
def after (o : Out) : State := match o with | .next t => t | _ => State.reset
def res (i : Instr) (f : State → State) (r : BitVec 6) (l : Nat) : Word := laneOf (((after (exec i (issuing i f))).grp 0).flush.reg 64 r) l
def done (i : Instr) (f : State → State) : State := after (exec i (issuing i f))

/-- Only these lanes are active. -/
def issuingIn (ls : Lanes) (i : Instr) (f : State → State) : State := only ls (issuing i f)

/-- Something holds of the page that a translation comes to. -/
theorem reach_ok {r : Reach} {P : Xl → Prop} [DecidablePred P] (h : (match r with | .ok x => decide (P x) | _ => false) = true) : ∃ x, r = .ok x ∧ P x := by
  cases r with
  | ok x => exact ⟨x, rfl, by simpa using h⟩
  | fault c d => simp at h
  | void p => simp at h

/-- The context has these regions; a region of one line that takes every mode; and lane 0 holds these rooms. -/
def rooms (l : List (Nat × Region)) (s : State) : State := ctx (fun c => { c with regions := l }) s
def plainRegion : Region :=
  { base := 0, lines := 1, modes := 31, etype := 0, aop := 0, sent := 0, w := 1, tmo := 0, open_ := none, admitting := false, window := none, demands := [],
    head := 0, tail := 0, incomplete := false, broken := false, drain := false }
/-- Ring 0 stands. -/
def rings (s : State) : State := part (fun p => { p with rings := p.rings.set 0 (3, 0x10001) }) s
/-- Lane 0 stands in these rooms. -/
def hold (h : List Hold) (s : State) : State := s.modLane 0 0 fun x => { x with holds := h }
/-- A store of the group has not been acknowledged. -/
def unquiet (s : State) : State := grp (fun g => { g with acks := [0] }) { s with now := 5 }

/-- A declared buffer of 4 elements with two of them full, and a sync word. -/
def cbuf (b : CircBuf) (s : State) : State := crew (fun c => c.setBuf 1 b) s
def halfFull : CircBuf := ⟨0, 4, 5, .groups, .groups, 0, 2, 0⟩
def cmd0 (i : Instr) (n : Nat) : Cmd :=
  { n := n, g := 0, instr := i, word := 0, blk := [], ent := none, ent2 := none, nft := false, issuedAt := 0, queued := 0, started := false, done := false, step := 0, pos := 0, noCheck := false,
    links := [], linked := false, held := [], opened := false, tile := none, got := [], stopped := false, ups := [], fail := none, journal := [], lines := [], pins := [], nth := 0, heard := 0 }
def parkedCmd : ParkedCmd := ⟨1, 0, engTrap 0x60, none, false⟩

/-- Queue 0 with words 0, 2 and 3 of its descriptor, its ring of two packets at 0x41_0000. -/
def queue (w0 rptr wptr : Nat) (s : State) : State := s.writeDram 0 0x400000 (leBytes 8 w0 ++ leBytes 8 0x410000 ++ leBytes 8 rptr ++ leBytes 8 wptr)
/-- Valid, filled by launch, of level 0 and of context 1. -/
def goodQueue : Nat := 0x10103
/-- A machine with the one group, a unit of it in all lanes as it stands after its issue, and the state after an event. -/
def mach (f : State → State) : State := f (State.reset.placeCode [])
def unitOf (i : Instr) (imgs : List Img) (r : Option Img := none) : UnitRec :=
  ⟨i, { freshIssue 0 (BitVec.allOnes 32) 0 0 0 with replay := true, late := true, imgs := imgs, res := r }, none, false⟩
def waiting (l : List UnitRec) (s : State) : State := grp (fun g => { g with waits := l }) s
def flying (l : List UnitRec) (s : State) : State := grp (fun g => { g with units := l }) s
def evOut (i : Instr) (s : State) : State := after (exec i s)

/-! ## Ill-formed terms (R42 to R44, R47, R60) -/

/-- Check 3: a rounding code that is none, a rounding field for a row that rounds nothing, a mode that the class lacks, a fourth operand that is none, a consumer
list of a row without one, one that is empty, and a buffer number beyond 15. -/
theorem test_prefix_refused : ∀ i ∈ ([.fadd (some ⟨0, 5, 0, 0, 0, 0⟩) 0 3 1 2, .iadd (some ⟨0, 1, 0, 0, 0, 0⟩) 0 3 1 2, .iadd (some ⟨0, 0, 0, 0, 0, 0x40⟩) 0 3 1 2,
    .iadd (some ⟨0, 0, 0, 0, 7, 0⟩) 0 3 1 2, .icmp (some ⟨0, 0, 0, 1, 0, 0⟩) 0 1 1 2, .iadd (some ⟨0, 0, 0, 1, 0, 0⟩) 0 0 1 2,
    .iadd (some ⟨0, 0, 0, 1, 0, 16⟩) 0 2 1 2, .st (some ⟨0, 0, 1, 0, 0, 0⟩) 0 3 1 15 0] : List Instr),
    i.staticCheck = some 3 ∧ i.WellFormed = false := by decide

/-- Check 4: object numbers at their kind's count, and values of a field that the row does not define. -/
theorem test_field_refused : ∀ i ∈ ([.enter 0 3 1 5, .fence 0 5 1, .fence 0 1 0, .barSync 0 16 1 1, .tlwait 0 8 1, .swarm 0 16 1, .cbdef 0 16 1 2, .cbadvPut 0 16 1,
    .cpy 0 8 2 1, .mma 0 8 2 0 0, .ixg 0 8 2 0, .ectxBind 0 3 3, .estat 0 3 1 5, .rcat 0 8 2, .rdsr 0 3 6, .wrsr 0 3 0x20D, .pin none 0 3 1 3,
    .atom (some ⟨0, 0, 0, 0, 0, 9⟩) 0 3 1 15 1, .fcvt none 0 3 1 0 0 15, .fcall 0 3 1 3, .idot none 0 3 1 2] : List Instr), i.staticCheck = some 4 ∧ i.WellFormed = false := by decide

/-- Check 5: specifiers that cannot be written or read, and runs beyond the last main register. -/
theorem test_specifier_refused : ∀ i ∈ ([.iadd none 0 59 1 2, .iadd none 0 3 62 2, .sadd 0 56 1 2, .cpy 0 3 47 1, .tmv none 0 48 1 2, .rixS ⟨0, 0, 0, 0, 0, 0x20⟩ 0 48 1 2]
    : List Instr), i.staticCheck = some 5 ∧ i.WellFormed = false := by decide

/-- The terms beside them, which pass. -/
theorem test_well_formed : ∀ i ∈ ([.fadd (some ⟨7, 4, 1, 0, 0, 0xA⟩) 0 3 1 2, .iadd (some ⟨1, 0, 0, 1, 7, 0⟩) 0 1 1 2, .iadd (some ⟨0, 0, 0, 1, 0, 15⟩) 0 2 1 2, .enter 0 3 1 4,
    .fence 0 4 3, .barSync 0 15 1 4, .tlwait 0 7 1, .cpy 0 7 46 1, .rdsr 0 58 0x305, .wrsr 0 61 0x20C, .iadd none 0 55 61 57, .fcall 0 58 1 58] : List Instr),
    i.WellFormed = true := by decide

/-! ## Words written out from the formats (R39, R40, R47, R58, R59) -/

theorem test_words_control : ∀ p ∈ ([
    (0b0_0000000000_101_000000_000000_000000, .nop 5),
    (0b0_0000000001_101_110100_110101_110001, .brl 5 6 19825),
    (0b0_0000000010_101_000000_010110_000000, .jmpl 5 22),
    (0b0_0000000011_101_100011_010110_000000, .callv 5 35 22),
    (0b0_0000000100_101_000000_010110_000000, .ret 5 22),
    (0b0_0000000101_101_100011_010110_001101, .fcall 5 35 22 13),
    (0b0_0000000110_101_000000_000000_000000, .fsync 5),
    (0b0_0000000110_101_000000_000000_000001, .fsyncSq 5),
    (0b0_0000000111_101_000000_010110_001101, .fhint 5 22 13),
    (0b0_0000001000_101_100011_110000_000011, .voteAny 5 35 6 3),
    (0b0_0000001000_101_100011_110010_000011, .voteAll 5 35 6 3),
    (0b0_0000001000_101_100011_110100_000011, .voteBallot 5 35 6 3),
    (0b0_0000001001_101_000000_000010_110100, .brk 5 180),
    (0b0_0000001010_101_000000_000000_000000, .exit 5)] : List (Nat × Instr)), decodeTableWord 32 p.1 = some p.2 := by decide

theorem test_words_integer : ∀ p ∈ ([
    (0b0_0000100000_101_100011_010110_000000, .mov none 5 35 22),
    (0b0_0000100001_101_100011_101100_111010, .movi none 5 35 2874),
    (0b0_0000100010_101_100011_010110_001101, .iadd none 5 35 22 13),
    (0b0_0000100011_101_100011_010110_001101, .iaddc none 5 35 22 13),
    (0b0_0000100100_101_100011_010110_001101, .isub none 5 35 22 13),
    (0b0_0000100101_101_100011_010110_001101, .imul none 5 35 22 13),
    (0b0_0000100110_101_100011_010110_001101, .imulh none 5 35 22 13),
    (0b0_0000100111_101_100011_010110_001101, .imad none 5 35 22 13),
    (0b0_0000101000_101_100011_010110_001101, .idot none 5 35 22 13),
    (0b0_0000101001_101_100011_010110_001101, .iand none 5 35 22 13),
    (0b0_0000101010_101_100011_010110_001101, .ior none 5 35 22 13),
    (0b0_0000101011_101_100011_010110_001101, .ixor none 5 35 22 13),
    (0b0_0000101100_101_100011_010110_001101, .shl none 5 35 22 13),
    (0b0_0000101101_101_100011_010110_001101, .shr none 5 35 22 13),
    (0b0_0000101110_101_100011_010110_001101, .sar none 5 35 22 13),
    (0b0_0000101111_101_100011_010110_001101, .imin none 5 35 22 13),
    (0b0_0000110000_101_100011_010110_001101, .imax none 5 35 22 13),
    (0b0_0000110001_101_100011_010110_000000, .iabs none 5 35 22),
    (0b0_0000110010_101_000110_010110_001101, .icmp none 5 6 22 13),
    (0b0_0000110011_101_100011_010110_001101, .isel none 5 35 22 13),
    (0b0_0000110100_101_100011_010110_001101, .bfx none 5 35 22 13),
    (0b0_0000110101_101_100011_010110_001101, .bfi none 5 35 22 13),
    (0b0_0000110110_101_100011_010110_000000, .popc none 5 35 22),
    (0b0_0000110111_101_100011_010110_000000, .clz none 5 35 22),
    (0b0_0000111000_101_100011_010110_000000, .brev none 5 35 22),
    (0b0_0000111001_101_100011_010110_001101, .lea none 5 35 22 13),
    (0b0_0000111010_101_100011_010110_001101, .pack none 5 35 22 13),
    (0b0_0000111011_101_100011_010110_000000, .unpk none 5 35 22)] : List (Nat × Instr)), decodeTableWord 32 p.1 = some p.2 := by decide

theorem test_words_floating : ∀ p ∈ ([
    (0b0_0001100000_101_100011_010110_001101, .fadd none 5 35 22 13),
    (0b0_0001100001_101_100011_010110_001101, .fsub none 5 35 22 13),
    (0b0_0001100010_101_100011_010110_001101, .fmul none 5 35 22 13),
    (0b0_0001100011_101_100011_010110_001101, .ffma none 5 35 22 13),
    (0b0_0001100100_101_100011_010110_001101, .fmin none 5 35 22 13),
    (0b0_0001100101_101_100011_010110_001101, .fmax none 5 35 22 13),
    (0b0_0001100110_101_000110_010110_001101, .fcmp none 5 6 22 13),
    (0b0_0001100111_101_100011_010110_101011, .fcvt none 5 35 22 1 0 11),
    (0b0_0001101000_101_100011_010110_000000, .frcp none 5 35 22),
    (0b0_0001101001_101_100011_010110_000000, .frsq none 5 35 22),
    (0b0_0001101010_101_100011_010110_000000, .fsqt none 5 35 22),
    (0b0_0001101011_101_100011_010110_000000, .fexp2 none 5 35 22),
    (0b0_0001101100_101_100011_010110_000000, .flog2 none 5 35 22),
    (0b0_0001101101_101_100011_010110_000000, .fsin none 5 35 22),
    (0b0_0001101110_101_100011_010110_000000, .fcos none 5 35 22),
    (0b0_0001101111_101_100011_010110_000000, .ftanh none 5 35 22),
    (0b0_0001110000_101_100011_010110_000000, .fclass none 5 35 22),
    (0b0_0001110001_101_100011_010110_001101, .fdot none 5 35 22 13),
    (0b0_0001110010_101_100011_010110_001101, .fscl none 5 35 22 13),
    (0b0_0001110011_101_100011_010110_001101, .tmv none 5 35 22 13)] : List (Nat × Instr)), decodeTableWord 32 p.1 = some p.2 := by decide

theorem test_words_cross_lane : ∀ p ∈ ([
    (0b0_0010100000_101_100011_010110_001101, .shfl none 5 35 22 13),
    (0b0_0010100001_101_100011_010110_001101, .rixG none 5 35 22 13),
    (0b0_0010100010_101_100011_010110_000000, .redl none 5 35 22),
    (0b0_0010100011_101_100011_010110_001101, .redmi none 5 35 22 13),
    (0b0_0010100100_101_100011_010110_000001, .scan none 5 35 22 1),
    (0b0_0010100101_101_100011_010110_000000, .cfd none 5 35 22),
    (0b0_0010100110_101_100011_010110_001101, .comb none 5 35 22 13),
    (0b0_0010100111_101_100011_010110_001101, .bcast none 5 35 22 13)] : List (Nat × Instr)), decodeTableWord 32 p.1 = some p.2 := by decide

theorem test_words_memory : ∀ p ∈ ([
    (0b0_0011000000_101_100011_010110_101101, .ld none 5 35 22 11 1),
    (0b0_0011000001_101_100011_010110_101101, .st none 5 35 22 11 1),
    (0b0_0011000010_101_100011_010110_101101, .ldl none 5 35 22 11 1),
    (0b0_0011000011_101_100011_010110_000001, .lds none 5 35 22 1),
    (0b0_0011000100_101_100011_010110_000001, .sts none 5 35 22 1),
    (0b0_0011000101_101_100011_010110_000001, .ldc none 5 35 22 1),
    (0b0_0011000110_101_000000_010110_101101, .prf none 5 22 11 1),
    (0b0_0011000111_101_100011_010110_000001, .pin none 5 35 22 1),
    (0b0_0011001000_101_100011_010110_000001, .unpin none 5 35 22 1),
    (0b0_0011001001_101_100011_010110_000000, .sinv none 5 35 22),
    (0b0_0011001010_101_100011_010110_000000, .swb none 5 35 22),
    (0b0_0011001010_101_100011_010110_000001, .swbInv none 5 35 22)] : List (Nat × Instr)), decodeTableWord 32 p.1 = some p.2 := by decide

theorem test_words_atomics_and_rooms : ∀ p ∈ ([
    (0b0_0011100000_101_100011_010110_101111, .atom none 5 35 22 11 1),
    (0b0_0011100001_101_100011_010110_101111, .acas none 5 35 22 11 1),
    (0b0_0011100010_101_100011_010110_101111, .abinc none 5 35 22 11 1),
    (0b0_0011100011_101_100011_010110_000110, .enter 5 35 22 6),
    (0b0_0011100011_101_100011_010110_001110, .enterTry 5 35 22 6),
    (0b0_0011100100_101_000000_010110_000000, .leave 5 22),
    (0b0_0011100101_101_100011_010110_000000, .rstat 5 35 22)] : List (Nat × Instr)), decodeTableWord 32 p.1 = some p.2 := by decide

theorem test_words_traps : ∀ p ∈ ([
    (0b0_0101000000_101_000000_000010_110100, .trap 5 180),
    (0b0_0101000001_101_000000_000000_000000, .rett 5),
    (0b0_0101000010_101_100011_010110_000000, .tmaskSet 5 35 22),
    (0b0_0101000010_101_100011_010110_000001, .tmaskClr 5 35 22),
    (0b0_0101000010_101_100011_010110_000010, .tmaskWr 5 35 22)] : List (Nat × Instr)), decodeTableWord 32 p.1 = some p.2 := by decide

theorem test_words_uniform_control : ∀ p ∈ ([
    (0b1_0000000000_101_000000_000000_000000, .snop 5),
    (0b1_0000000001_101_101100_111000_110101, .bra 5 183861),
    (0b1_0000000010_101_000000_010110_000000, .brx 5 22),
    (0b1_0000000011_101_101100_111000_110101, .call 5 183861),
    (0b1_0000000100_101_000000_010110_000000, .yield 5 22),
    (0b1_0000000100_101_000000_010110_000001, .yieldX 5 22)] : List (Nat × Instr)), decodeTableWord 32 p.1 = some p.2 := by decide

theorem test_words_uniform_integer : ∀ p ∈ ([
    (0b1_0000100000_101_100011_101100_111010, .smov 5 35 2874),
    (0b1_0000100001_101_100011_010110_001101, .sadd 5 35 22 13),
    (0b1_0000100010_101_100011_010110_001101, .ssub 5 35 22 13),
    (0b1_0000100011_101_100011_010110_001101, .smul 5 35 22 13),
    (0b1_0000100100_101_100011_010110_001101, .smad 5 35 22 13),
    (0b1_0000100101_101_100011_010110_001101, .sand 5 35 22 13),
    (0b1_0000100110_101_100011_010110_001101, .sor 5 35 22 13),
    (0b1_0000100111_101_100011_010110_001101, .sxor 5 35 22 13),
    (0b1_0000101000_101_100011_010110_001101, .sshl 5 35 22 13),
    (0b1_0000101001_101_100011_010110_001101, .sshr 5 35 22 13),
    (0b1_0000101010_101_100011_010110_001101, .smin 5 35 22 13),
    (0b1_0000101011_101_100011_010110_001101, .smax 5 35 22 13),
    (0b1_0000101100_101_100011_010110_001101, .scmp 5 35 22 13),
    (0b1_0000101101_101_100011_010110_001101, .ssel 5 35 22 13),
    (0b1_0000101110_101_100011_010110_001101, .slea 5 35 22 13)] : List (Nat × Instr)), decodeTableWord 32 p.1 = some p.2 := by decide

theorem test_words_uniform_memory : ∀ p ∈ ([
    (0b1_0011000000_101_100011_010110_101101, .sld 5 35 22 11 1),
    (0b1_0011000001_101_100011_010110_101101, .sst 5 35 22 11 1),
    (0b1_0011000010_101_100011_010110_001101, .hdef 5 35 22 13),
    (0b1_0011100000_101_100011_010110_001101, .rdecl 5 35 22 13)] : List (Nat × Instr)), decodeTableWord 32 p.1 = some p.2 := by decide

theorem test_words_fences_and_waits : ∀ p ∈ ([
    (0b1_0011110000_101_000000_000000_001101, .fence 5 3 1),
    (0b1_0011110001_101_100011_010110_011000, .barSync 5 35 22 6),
    (0b1_0011110001_101_100011_010110_011001, .barArrive 5 35 22 6),
    (0b1_0011110001_101_100011_010110_011010, .barWait 5 35 22 6),
    (0b1_0011110010_101_000000_010110_001101, .pbarInit 5 22 13),
    (0b1_0011110010_101_000001_010110_000000, .pbarArrive 5 22),
    (0b1_0011110010_101_000010_010110_001101, .pbarWait 5 22 13),
    (0b1_0011110011_101_100011_010110_000000, .tlwait 5 35 22),
    (0b1_0011110100_101_100011_010110_000000, .swarm 5 35 22),
    (0b1_0011110101_101_100011_010110_000000, .swwait 5 35 22)] : List (Nat × Instr)), decodeTableWord 32 p.1 = some p.2 := by decide

theorem test_words_buffers_and_copies : ∀ p ∈ ([
    (0b1_0100000000_101_100011_010110_001101, .cbdef 5 35 22 13),
    (0b1_0100000001_101_100011_010110_000000, .cbadvWroom 5 35 22),
    (0b1_0100000001_101_100011_010110_000001, .cbadvPut 5 35 22),
    (0b1_0100000001_101_100011_010110_000010, .cbadvWdata 5 35 22),
    (0b1_0100000001_101_100011_010110_000011, .cbadvGet 5 35 22),
    (0b1_0100000010_101_100011_010110_001101, .cpy 5 35 22 13),
    (0b1_0100000011_101_100011_010110_001101, .cpyx 5 35 22 13)] : List (Nat × Instr)), decodeTableWord 32 p.1 = some p.2 := by decide

theorem test_words_matrix_and_index : ∀ p ∈ ([
    (0b1_0100000100_101_100011_010110_000000, .tdef 5 35 22),
    (0b1_0100000101_101_100011_010110_101100, .mld 5 35 22 11),
    (0b1_0100000110_101_100011_010110_101101, .mma 5 35 22 11 1),
    (0b1_0100000111_101_100011_010110_101100, .mmas 5 35 22 11),
    (0b1_0100001000_101_100011_010110_101100, .mwb 5 35 22 11),
    (0b1_0100001001_101_100011_000000_011011, .mclr 5 35 1 11),
    (0b1_0100001010_101_100011_010110_101100, .ixg 5 35 22 11),
    (0b1_0100001011_101_100011_010110_101100, .ixs 5 35 22 11),
    (0b1_0100001100_101_100011_000000_001000, .ectxBind 5 35 1),
    (0b1_0100001100_101_100011_000000_000001, .ectxUnbind 5 35),
    (0b1_0100001100_101_100011_000000_000010, .ectxDrain 5 35),
    (0b1_0100001100_101_100011_000000_000011, .ectxPin 5 35),
    (0b1_0100001100_101_100011_000000_000100, .ectxUnpin 5 35),
    (0b1_0100001100_101_100011_000000_000101, .ectxResume 5 35),
    (0b1_0100001100_101_100011_000000_000110, .ectxAbort 5 35),
    (0b1_0100001101_101_100011_010110_000110, .estat 5 35 22 6)] : List (Nat × Instr)), decodeTableWord 32 p.1 = some p.2 := by decide

theorem test_words_collectives : ∀ p ∈ ([
    (0b1_0100100000_101_100011_010110_001000, .rredRs 5 35 22 1 0),
    (0b1_0100100000_101_100011_010110_001001, .rredAr 5 35 22 1 0),
    (0b1_0100100001_101_100011_010110_000000, .rcat 5 35 22),
    (0b1_0100100010_101_100011_010110_000000, .lput 5 35 22)] : List (Nat × Instr)), decodeTableWord 32 p.1 = some p.2 := by decide

theorem test_words_launching : ∀ p ∈ ([
    (0b1_0100110000_101_100011_010110_001101, .launch 5 35 22 13),
    (0b1_0100110001_101_100011_010110_001101, .gnode 5 35 22 13),
    (0b1_0100110010_101_000000_010110_000000, .tapePush 5 22),
    (0b1_0100110010_101_100011_010110_000001, .tapeRun 5 35 22),
    (0b1_0100110010_101_000000_010110_000010, .tapeDepth 5 22),
    (0b1_0100110011_101_000000_010110_000000, .tcut 5 22),
    (0b1_0100110100_101_000000_010110_000000, .prio 5 22)] : List (Nat × Instr)), decodeTableWord 32 p.1 = some p.2 := by decide

theorem test_words_system : ∀ p ∈ ([
    (0b1_0101000000_101_100011_101100_111010, .rdsr 5 35 2874),
    (0b1_0101000001_101_100011_101100_111010, .wrsr 5 35 2874),
    (0b1_0101000010_101_100011_010110_000000, .dtld 5 35 22),
    (0b1_0101000011_101_100011_000000_000001, .syscShoot 5 35),
    (0b1_0101000011_101_100011_000000_000010, .syscTerm 5 35),
    (0b1_0101000011_101_100011_000000_000011, .syscQdesc 5 35),
    (0b1_0101000011_101_100011_000000_000100, .syscLevel 5 35),
    (0b1_0101000011_101_100011_000000_000101, .syscRing 5 35),
    (0b1_0101000011_101_100011_000000_000110, .syscPodwin 5 35),
    (0b1_0101000011_101_100011_000000_000111, .syscFpdef 5 35),
    (0b1_0101000011_101_100011_000100_000000, .syscWhere 5 35)] : List (Nat × Instr)), decodeTableWord 32 p.1 = some p.2 := by decide

/-- A pair: the prefix with its X[5] set makes the word of rix the scatter form, which the table's word alone cannot say (R149, R152). -/
theorem test_words_prefixed :
    decodeWords shippingMap 0b0_1111111111_001_010_1_0_111010_0001010 (some 0b0_0001100000_101_100011_010110_001101) =
      .ok (.fadd (some ⟨1, 2, 1, 0, 58, 10⟩) 5 35 22 13) ∧
    decodeWords shippingMap 0b0_1111111111_000_000_0_1_000111_0000000 (some 0b0_0000100010_000_000001_000001_000010) =
      .ok (.iadd (some ⟨0, 0, 0, 1, 7, 0⟩) 0 1 1 2) ∧
    decodeWords shippingMap 0b0_1111111111_110_000_0_0_000000_0101001 (some 0b0_0010100001_101_100011_010110_001101) =
      .ok (.rixS ⟨6, 0, 0, 0, 0, 0x29⟩ 5 35 22 13) ∧
    decodeWords shippingMap 0b0_1111111111_110_000_0_0_000000_0001001 (some 0b0_0010100001_101_100011_010110_001101) =
      .ok (.rixG (some ⟨6, 0, 0, 0, 0, 9⟩) 5 35 22 13) := by decide

/-- A prefix before a prefix or before a word that takes none, an unmapped opcode of each set, and a reserved bit (R42, R47, R60). -/
theorem test_words_refused :
    decodeWords shippingMap 0b0_1111111111_000_000_0_0_000000_0000000 (some 0b0_1111111111_000_000_0_0_000000_0000000) = .error .prefixMisuse ∧
    decodeWords shippingMap 0b0_1111111111_000_000_0_0_000000_0000000 (some 0b1_0000100001_000_000011_000001_000010) = .error .prefixMisuse ∧
    decodeWords shippingMap 0b0_0000001011_000_000000_000000_000000 none = .error .unmapped ∧
    decodeWords shippingMap 0b1_0000000101_000_000000_000000_000000 none = .error .unmapped ∧
    decodeWords shippingMap 0b0_0000000000_000_000000_000000_000001 none = .error .field := by decide

/-- O1, O2: terms and words at the ends of their ranges. -/
theorem witness_decode_of_encode : ∀ i ∈ ([.nop 7, .brl 7 7 (-1), .bra 7 (-1), .iadd (some ⟨7, 0, 1, 0, 0, 0x32⟩) 7 55 61 61, .movi none 7 58 (-1), .rixS ⟨7, 0, 0, 0, 0, 0x24⟩ 7 47 61 61,
    .atom (some ⟨7, 0, 1, 0, 0, 0x4B⟩) 7 55 61 15 0, .syscWhere 7 55, .wrsr 7 61 0x305] : List Instr), i.WellFormed = true ∧ i.isEvent = false := by decide
theorem witness_encode_of_decode :
    (∃ i, decodeWords shippingMap (0x0463C04F#32).toNat none = .ok i) ∧
    (isPfxWord (0x7FE4BD0A#32).toNat = true ∧ ∃ i, decodeWords shippingMap (0x7FE4BD0A#32).toNat (some (0x0C163582#32).toNat) = .ok i) :=
  ⟨⟨_, rfl⟩, rfl, ⟨_, rfl⟩⟩

/-! ## Steps (O4, O7) -/

/-- iadd v3, v1, v2 with SC = 1, and the same after a prefix, where the next step fetches. -/
def stepState : State := State.reset.withFetchWord 32 0b0_0000100010_001_000011_000001_000010
def pairState : State :=
  State.reset.placeCode (encodeBytes (.iadd (some ⟨1, 0, 1, 0, 58, 1⟩) 0 3 1 2))

theorem witness_step_runs_fetched :
    stepState.dueEvent = none ∧ stepState.issueQ = [] ∧ stepState.sched = ⟨[], [true], [], [], [], []⟩ ∧
    stepState.co = none ∧ stepState.pair = none ∧ stepState.selectGroup = some 0 ∧ (stepState.grp 0).sets = (BitVec.allOnes 32, 0) ∧
    ((stepState.grp 0).lane (lowest (BitVec.allOnes 32))).pc.toNat % 4 = 0 ∧
    stepState.fetchUnit 0 ((stepState.grp 0).lane (lowest (BitVec.allOnes 32))).pc = .unit 0b0_0000100010_001_000011_000001_000010 0 (.ok (.iadd none 1 3 1 2)) ∧
    (let t := stepState.past.toIssue 0 (BitVec.allOnes 32) 0b0_0000100010_001_000011_000001_000010 0 (.iadd none 1 3 1 2) none;
      (t.settle 0).mustQueue ((t.settle 0).asIssued (.iadd none 1 3 1 2)) = false) := by decide +kernel

/-- A store is fetched while a load of the same lanes is in flight, whose faults are not decided: it is kept for later. -/
def storeState : State :=
  grp (fun g => { g with units := [⟨.ld none 0 5 6 15 0, { freshIssue 0 (BitVec.allOnes 32) 0 0 0 with imgs := [0, 0] }, none, false⟩] })
    (State.reset.placeCode (encodeBytes (.st none 0 3 1 15 0)))

theorem witness_step_keeps_for_later :
    storeState.dueEvent = none ∧ storeState.issueQ = [] ∧ storeState.sched = ⟨[], [true], [], [], [], []⟩ ∧
    storeState.co = none ∧ storeState.pair = none ∧ storeState.selectGroup = some 0 ∧ (storeState.grp 0).sets = (BitVec.allOnes 32, 0) ∧
    (∃ w, storeState.fetchUnit 0 ((storeState.grp 0).lane (lowest (BitVec.allOnes 32))).pc = .unit w 0 (.ok (.st none 0 3 1 15 0)) ∧
      (let t := storeState.past.toIssue 0 (BitVec.allOnes 32) w 0 (.st none 0 3 1 15 0) none;
        (t.settle 0).mustQueue ((t.settle 0).asIssued (.st none 0 3 1 15 0)) = true ∧ holdable (.st none 0 3 1 15 0) = true ∧ (storeState.grp 0).shadow = none ∧
        (t.deferUnit (.st none 0 3 1 15 0)).isSome = true)) :=
  ⟨by decide +kernel, by decide +kernel, by decide +kernel, by decide +kernel, by decide +kernel, by decide +kernel, by decide +kernel,
    (encode (.st none 0 3 1 15 0)).headD 0, by decide +kernel⟩

/-- The page of code as the fetch finds it. -/
theorem witness_fetch_reads_bytes :
    (∃ x, stepState.reach (stepState.agent 0).quad (stepState.agent 0).ctx (stepState.agent 0).user .fetch (0#64).toNat = .ok x ∧
      stepState.readBytes (stepState.agent 0).quad (stepState.agent 0).part x 4 = wordBytes 0b0_0000100010_001_000011_000001_000010) ∧
    (stepState.ibuf.any fun b => b.core == (stepState.agent 0).core && b.ctx == (stepState.agent 0).ctx && b.line == (0#64).toNat / 256) = true ∧
    (∃ x, pairState.reach (pairState.agent 0).quad (pairState.agent 0).ctx (pairState.agent 0).user .fetch (0#64).toNat = .ok x ∧
      pairState.readBytes (pairState.agent 0).quad (pairState.agent 0).part x 4 = wordBytes (BitVec.ofNat 32 (encodePfx ⟨1, 0, 1, 0, 58, 1⟩))) ∧
    (∃ y, pairState.reach (pairState.agent 0).quad (pairState.agent 0).ctx (pairState.agent 0).user .fetch (0#64 + 4).toNat = .ok y ∧
      pairState.readBytes (pairState.agent 0).quad (pairState.agent 0).part y 4 = wordBytes 0b0_0000100010_000_000011_000001_000010) ∧
    stepState.poison = [] ∧ pairState.poison = [] :=
  ⟨reach_ok (by decide +kernel), by decide +kernel, reach_ok (by decide +kernel), reach_ok (by decide +kernel), by decide +kernel, by decide +kernel⟩

theorem witness_step_keeps_canonical : stepState.canonical = true ∧ ∃ t, step stepState = .next t :=
  ⟨by decide +kernel, by
    have h : (match step stepState with | .next _ => true | _ => false) = true := by decide +kernel
    revert h; cases step stepState <;> simp⟩

/-- A step that fetches iadd v3, v1, v2 on 5 and 7: 12 stands in v3 once the write is performed, and the counter is 4. -/
theorem test_step : let s := after (step (reg 2 7 (reg 1 5 stepState)))
    laneOf ((s.grp 0).flush.reg 64 3) 31 = 12 ∧ (s.lane 0 0).pc = 4 := by decide +kernel

/-! ## Checks (O9, O10) -/

/-- Every row passes its checks somewhere: the hypotheses that most statements share. -/
theorem witness_goes_lane : ∀ i ∈ ([
    .nop 0, .brl 0 1 0, .jmpl 0 1, .callv 0 3 1, .ret 0 1, .fcall 0 3 1 4, .fsync 0, .fsyncSq 0, .fhint 0 1 2, .voteAny 0 3 1 2, .voteAll 0 3 1 2,
    .voteBallot 0 3 1 2, .brk 0 0, .exit 0, .mov none 0 3 1, .movi none 0 3 0, .iadd none 0 3 1 2, .iaddc none 0 3 1 2, .isub none 0 3 1 2,
    .imul none 0 3 1 2, .imulh none 0 3 1 2, .imad none 0 3 1 2, .idot (some ⟨0, 0, 0, 0, 0, 1⟩) 0 3 1 2, .iand none 0 3 1 2, .ior none 0 3 1 2,
    .ixor none 0 3 1 2, .shl none 0 3 1 2, .shr none 0 3 1 2, .sar none 0 3 1 2, .imin none 0 3 1 2, .imax none 0 3 1 2, .iabs none 0 3 1,
    .icmp none 0 1 1 2, .isel none 0 3 1 2, .bfx none 0 3 1 2, .bfi none 0 3 1 2, .popc none 0 3 1, .clz none 0 3 1, .brev none 0 3 1,
    .lea none 0 3 1 2, .pack (some ⟨0, 0, 0, 0, 0, 1⟩) 0 3 1 2, .unpk (some ⟨0, 0, 0, 0, 0, 1⟩) 0 3 1, .fadd none 0 3 1 2, .fsub none 0 3 1 2,
    .fmul none 0 3 1 2, .ffma none 0 3 1 2, .fmin none 0 3 1 2, .fmax none 0 3 1 2, .fcmp none 0 1 1 2, .fcvt none 0 3 1 0 0 1, .frcp none 0 3 1,
    .frsq none 0 3 1, .fsqt none 0 3 1, .fexp2 none 0 3 1, .flog2 none 0 3 1, .fsin none 0 3 1, .fcos none 0 3 1, .ftanh none 0 3 1,
    .fclass none 0 3 1, .fdot none 0 3 1 2, .fscl none 0 3 1 2, .tmv none 0 4 1 58, .shfl none 0 3 1 2, .rixG none 0 3 1 2,
    .rixS ⟨0, 0, 0, 0, 0, 0x22⟩ 0 3 1 2, .redl none 0 3 1, .redmi none 0 3 1 2, .scan none 0 3 1 0, .cfd none 0 3 1, .comb none 0 3 1 2,
    .bcast none 0 3 1 2, .ld none 0 3 1 15 0, .st none 0 3 1 15 0, .ldl none 0 3 1 15 0, .lds none 0 3 1 0, .sts none 0 3 1 0, .ldc none 0 3 1 0,
    .prf none 0 1 15 0, .pin none 0 3 1 0, .unpin none 0 3 1 0, .sinv none 0 3 1, .swb none 0 3 1, .swbInv none 0 3 1, .atom none 0 3 1 15 0,
    .acas none 0 3 1 15 0, .abinc none 0 3 1 15 0, .enter 0 3 1 1, .enterTry 0 3 1 1, .leave 0 1, .rstat 0 3 1, .trap 0 0, .rett 0, .tmaskSet 0 3 1,
    .tmaskClr 0 3 1, .tmaskWr 0 3 1
    ] : List Instr), At i id fun s t => s.cur.g < s.groups.length ∧ s.cur.regOnly = false ∧ s.cur.rdone = false ∧ s.cur.data = [] ∧ s.cur.lanes ≠ 0 ∧
      (s.grp s.cur.g).shadow = none ∧ (s.grp s.cur.g).nft = false ∧ s.partNo s.cur.g < 4 ∧ (t.grp t.cur.g).crew < t.crews.length ∧ t.ctxNo t.cur.g < t.ctxs.length := by
  decide +kernel

theorem witness_goes_uniform : ∀ i ∈ ([
    .snop 0, .bra 0 0, .brx 0 1, .call 0 0, .yield 0 1, .yieldX 0 1, .smov 0 3 0, .sadd 0 3 1 2, .ssub 0 3 1 2, .smul 0 3 1 2, .smad 0 3 1 2,
    .sand 0 3 1 2, .sor 0 3 1 2, .sxor 0 3 1 2, .sshl 0 3 1 2, .sshr 0 3 1 2, .smin 0 3 1 2, .smax 0 3 1 2, .scmp 0 3 1 2, .ssel 0 3 1 2,
    .slea 0 3 1 2, .sld 0 3 1 15 0, .sst 0 3 1 15 0, .hdef 0 3 1 2, .rdecl 0 3 1 2, .fence 0 1 3, .barSync 0 3 1 0, .barArrive 0 3 1 0,
    .barWait 0 3 1 0, .pbarInit 0 1 2, .pbarArrive 0 1, .pbarWait 0 1 2, .tlwait 0 3 1, .swarm 0 3 1, .swwait 0 3 1, .cbdef 0 3 1 2, .cbadvWroom 0 3 1,
    .cbadvPut 0 3 1, .cbadvWdata 0 3 1, .cbadvGet 0 3 1, .cpy 0 3 1 2, .cpyx 0 3 1 2, .tdef 0 3 1, .mld 0 3 1 0, .mma 0 3 1 0 0, .mmas 0 3 1 0,
    .mwb 0 3 1 0, .mclr 0 3 0 1, .ixg 0 3 1 0, .ixs 0 3 1 0, .ectxBind 0 3 0, .ectxUnbind 0 3, .ectxDrain 0 3, .ectxPin 0 3, .ectxUnpin 0 3,
    .ectxResume 0 3, .ectxAbort 0 3, .estat 0 3 1 2, .rredRs 0 3 1 0 0, .rredAr 0 3 1 0 0, .rcat 0 3 1, .lput 0 3 1, .launch 0 3 1 2, .gnode 0 3 1 2,
    .tapePush 0 1, .tapeRun 0 3 1, .tapeDepth 0 1, .tcut 0 1, .prio 0 1, .rdsr 0 3 0x200, .wrsr 0 3 0, .dtld 0 3 1, .syscShoot 0 3, .syscTerm 0 3,
    .syscQdesc 0 3, .syscLevel 0 3, .syscRing 0 3, .syscPodwin 0 3, .syscFpdef 0 3, .syscWhere 0 3
    ] : List Instr), At i id fun s t => s.cur.g < s.groups.length ∧ s.cur.regOnly = false ∧ s.cur.rdone = false ∧ s.cur.data = [] ∧ s.cur.lanes ≠ 0 ∧
      (s.grp s.cur.g).shadow = none ∧ s.partNo s.cur.g < 4 ∧ (t.grp t.cur.g).crew < t.crews.length ∧ t.ctxNo t.cur.g < t.ctxs.length ∧ t.partNo t.cur.g < t.parts.length := by
  decide +kernel

/-- A failed check of a word that decodes, and a fork boundary that a continuation meets. -/
theorem witness_checks_before_effects :
    (Instr.isEvent (.dtld 0 3 1) = false ∧ ((issuing (.dtld 0 3 1) user).begin (.dtld 0 3 1)).gate (.dtld 0 3 1) = .trap ⟨cPRIVILEGE, 1, 0, none⟩) ∧
    (Instr.isEvent (.exit 0) = false ∧ ((issuing (.exit 0) (grp fun g => { g with shadow := some 0 })).begin (.exit 0)).gate (.exit 0) = .boundary) := by decide +kernel

/-- One state for each check, and where nothing fails. -/
theorem witness_check_order :
    Instr.pfxMisuse (.iadd (some ⟨0, 1, 0, 0, 0, 0⟩) 0 3 1 2) = true ∧
    (Instr.pfxMisuse (.fence 0 5 1) = false ∧ Instr.badField (.fence 0 5 1) = true) ∧
    (issuing (.tdef 0 3 1) (reg 3 255)).objectBad (.tdef 0 3 1) = false ∧ (issuing (.tdef 0 3 1) (reg 3 256)).objectBad (.tdef 0 3 1) = true ∧
    (issuing (.rdecl 0 3 1 2) (reg 3 4095)).objectBad (.rdecl 0 3 1 2) = false ∧ (issuing (.rdecl 0 3 1 2) (reg 3 4096)).objectBad (.rdecl 0 3 1 2) = true ∧
    (Instr.badField (.iadd none 0 59 1 2) = false ∧ Instr.specsOk (.iadd none 0 59 1 2) = false) ∧
    (Instr.specsOk (.iadd none 0 31 1 32) = true ∧ Instr.countOk (.iadd none 0 31 1 32) 32 = false ∧ Instr.countOk (.iadd none 0 31 1 30) 32 = true) ∧
    (issuing (.wrsr 0 1 0x20A) user).privSub (.wrsr 0 1 0x20A) = some 2 ∧ (issuing (.wrsr 0 1 5) user).privSub (.wrsr 0 1 5) = none ∧
    (let s := issuing (.iadd none 0 3 1 2) (fun s => ctx (fun c => { c with sbchk := 1 }) (grp (fun g => { g with fix := [⟨.reg 1, BitVec.allOnes 2048, 0, 1, 1, 3, 0, false, none, []⟩] }) s));
      (s.ctxOf s.cur.g).sbchk.getLsbD 0 = true ∧ s.uncovered (.iadd none 0 3 1 2) = true ∧ s.uncovered (.iadd none 0 3 2 2) = false) ∧
    (let s := issuing (.sadd 0 3 1 2) (fun s => ctx (fun c => { c with unichk := 1 }) (regs 1 (fun l => BitVec.ofNat 64 l) s));
      (s.ctxOf s.cur.g).unichk.getLsbD 0 = true ∧ s.disagree (.sadd 0 3 1 2) = true ∧ s.disagree (.sadd 0 3 2 2) = false) := by decide +kernel

theorem witness_privilege : let s := issuing (.nop 0) id
    (s.ctxOf s.cur.g).isSys = true ∧ ((user s).ctxOf s.cur.g).isSys = false := by decide +kernel

/-! ## Traps (O11, O12, O38) -/

/-- A machine whose context has a handler at 0x100, and its frames in the one page that is mapped. -/
def handled (s : State) : State := ctx (fun c => { c with savebase := 0, trapbase := 0x101 }) s

theorem witness_trap_entry : let s := issuing (.brk 0 1) handled
    0 < s.groups.length ∧ (s.ctxOf 0).trapbase.getLsbD 0 = true ∧ (s.grp 0).nregs = 48 ∧
    (s.flush 0).frameOk 0 (frameElts (s.frameAddr 0) (lowest 6) ((s.flush 0).headerWords 0 6 (plainTrap cBREAK 1) false (([] : List UnitRec).take 8).length 0 0 0)
      (([] : List UnitRec).take 8)) = true := by decide +kernel

theorem witness_trap_held_or_deferred :
    (let s := issuing (.nop 0) (grp fun g => { g with shadow := some 0 })
     let r : Raise := ⟨0, 6, plainTrap cBREAK 1, none, false, false, 0, 0, 4⟩
     r.g < s.groups.length ∧ r.lanes ≠ 0 ∧ (s.grp r.g).place ≠ .dead ∧ (s.grp r.g).shadow.isSome = true) ∧
    (let s := issuing (.nop 0) (grp fun g => { g with save := some ⟨0, 1, []⟩ })
     let r : Raise := ⟨0, 6, plainTrap cBREAK 1, some (s.unitRec (.brk 0 1)), false, false, 0, 0, 4⟩
     r.g < s.groups.length ∧ r.lanes ≠ 0 ∧ (s.grp r.g).place ≠ .dead ∧ (s.grp r.g).shadow = none ∧ ((s.grp r.g).lane (lowest r.lanes)).inHandler = false ∧
       (∀ u ∈ r.unit, s.olderInFlight r.g r.lanes u.iss.seq = []) ∧ (s.grp r.g).save ≠ none) := by decide +kernel

theorem witness_death : let s := issuing (.nop 0) id
    0 < s.groups.length ∧ (s.grp 0).crew < s.crews.length ∧ (s.ctxOf 0).trapbase.getLsbD 0 = false := by decide +kernel

/-- Lanes 1 and 2 return, of a frame of lanes 1 to 3: lane 3 stays in the handler, or there was none but they; the frame has two entries, one of them skipped. -/
theorem witness_trap_return :
    let secs : List (Nat × Nat) := [(0, 2 ^ 21 + 0xE * 2 ^ 128), (128, 2 ^ 128 * 0xE), (256, 2 ^ 128 * (2 ^ 33 + 0xE))]
    (let s := issuing (.nop 0) (fun s => s.modLanes 0 0xE fun _ x => { x with mode := .handler })
     let t := s.restore 0 ⟨0, 0xE, []⟩ 6 secs
     0 < s.groups.length ∧ (∃ l < 32, (6#32 &&& BitVec.ofNat 32 (frameNum secs 0x10 8)).getLsbD l = true) ∧ (s.grp 0).nregs = 48 ∧
       (∃ l < 32, (t.lane 0 l).inHandler = true) ∧ t.issueQ.length = 1) ∧
    (let s := issuing (.nop 0) (fun s => s.modLanes 0 6 fun _ x => { x with mode := .handler })
     let t := s.restore 0 ⟨0, 6, []⟩ 6 secs
     ∀ l < 32, (t.lane 0 l).inHandler = false) := by decide +kernel

/-- How the reading of a frame ends: no memory, a fault, or the sectors. -/
def readsTo (t : State) (ls : Lanes) (fa : Word) : Nat :=
  match t.readStages 0 ls fa [fun _ => List.range 40, fun q => fieldSecs (frameNREP q), fun q => imageSecs q (frameNREP q)] [] with
  | .void _ => 0
  | .trap _ => 1
  | .got _ _ => 2

/-- rett outside the handler; and rett of handler lanes whose frame, all zeros, stands in the mapped page, or beyond every page. -/
theorem witness_return_instruction :
    let in_ (fa : Word) (s : State) : State :=
      grp (fun g => { g with save := some ⟨fa, BitVec.allOnes 32, []⟩ }) (s.modLanes 0 (BitVec.allOnes 32) fun _ x => { x with mode := .handler })
    (At (.rett 0) id fun s t => (t.lane s.cur.g (lowest s.cur.lanes)).inHandler = false) ∧
    (At (.rett 0) (in_ 0x1000) fun s t =>
      (t.lane 0 (lowest s.cur.lanes)).inHandler = true ∧ (t.grp 0).save = some ⟨0x1000, BitVec.allOnes 32, []⟩ ∧
      readsTo t s.cur.lanes 0x1000 = 2) ∧
    (At (.rett 0) (in_ 0x100000) fun s t => readsTo t s.cur.lanes 0x100000 = 1) := by decide +kernel

/-- brk where no trap is enabled is the death of the group (R96, R319, R325); where the group's mask covers BREAK it is nothing (R323). -/
theorem test_brk : ((done (.brk 0 7) id).grp 0).place = .dead ∧ ((done (.brk 0 7) (grp fun g => { g with trapmask := 2 })).lane 0 31).pc = 4 := by decide +kernel

/-! ## Results (O14 to O16, O20) -/

theorem witness_fixed_latency_results :
    (At (.iadd none 0 3 1 2) id fun s _ => s.cur.lanes ≠ 0 ∧ Instr.rt (.iadd none 0 3 1 2) = false ∧ Instr.laneOp (.iadd none 0 3 1 2) < 0x400 ∧
      Instr.latency (.iadd none 0 3 1 2) = some 2 ∧ s.cur.g < s.groups.length) ∧
    (At (.sadd 0 3 1 2) id fun s _ => s.cur.lanes ≠ 0 ∧ Instr.rt (.sadd 0 3 1 2) = false ∧ 0x400 ≤ Instr.laneOp (.sadd 0 3 1 2) ∧
      Instr.latency (.sadd 0 3 1 2) = some 2 ∧ s.cur.g < s.groups.length) ∧
    (let p : Pending := ⟨.reg 3, BitVec.allOnes 2048, 7, 1, 4, 3, 0, false, none, []⟩
     (3#6).toNat < 56 ∧ p.dest = .reg 3 ∧ p.last.getLsbD 0 = true ∧ (soleGroup.laSeq[0]?).getD 0 < p.seq ∧ p.last.getLsbD 31 = false) := by decide +kernel

/-- Of two writes to one register, the younger is due first: it stands, and the older one writes none of its bits when it is due (R50, R52). -/
theorem test_settle_keeps_order :
    let p (v : Img) (seq avail : Nat) : Pending := ⟨.reg 3, BitVec.allOnes 2048, v, 0, seq, avail, 0, false, none, []⟩
    let g := { soleGroup with fix := [p 1 1 9, p 2 2 5] }
    (g.settle 6).reg 64 3 = 2 ∧ (g.settle 6).fix.length = 1 ∧ ((g.settle 6).settle 9).reg 64 3 = 2 ∧ ((g.settle 6).settle 9).fix = [] ∧ (g.settle 4).reg 64 3 = 0 := by decide +kernel

theorem witness_variable_latency :
    At (.fsqt none 0 3 1) id fun s _ => s.cur.lanes ≠ 0 ∧ Instr.rt (.fsqt none 0 3 1) = false ∧ Instr.latency (.fsqt none 0 3 1) = none ∧ s.cur.g < s.groups.length ∧
      (3#6).toNat < 56 := by decide +kernel

/-- A register consumer alone; and a buffer of one element that is full. -/
theorem witness_consumers :
    (At (.iadd (some ⟨0, 0, 0, 1, 7, 0⟩) 0 1 1 2) id fun s _ => let i : Instr := .iadd (some ⟨0, 0, 0, 1, 7, 0⟩) 0 1 1 2
      s.cur.lanes ≠ 0 ∧ i.rt = true ∧ s.cur.g < s.groups.length ∧ s.cur.replay = false ∧ s.cur.dlv = 0 ∧ i.consumers = 1 ∧ i.c.toNat < 56) ∧
    (At (.iadd (some ⟨0, 0, 0, 1, 0, 5⟩) 0 2 1 2) (crew fun c => c.setBuf 5 ⟨0, 1, 3, .groups, .groups, 0, 1, 0⟩) fun s _ =>
      let i : Instr := .iadd (some ⟨0, 0, 0, 1, 0, 5⟩) 0 2 1 2
      s.cur.lanes ≠ 0 ∧ i.rt = true ∧ s.cur.g < s.groups.length ∧ s.cur.replay = false ∧ s.cur.dlv = 0 ∧ i.consumers = 2 ∧ s.accepts s.cur.g i.rawX 1 = none) := by
  decide +kernel

/-- After a prefix; with operands that disagree; and a row that counts toward no reuse clock. -/
theorem witness_issue_frame :
    (At (.iadd (some ⟨0, 0, 0, 0, 0, 0⟩) 0 3 1 2) id fun s _ => s.cur.g < s.groups.length ∧ (s.grp s.cur.g).shadow = none ∧
      Instr.countsReuse (.iadd (some ⟨0, 0, 0, 0, 0, 0⟩) 0 3 1 2) = false) ∧
    (At (.sadd 0 3 1 2) (regs 1 fun l => BitVec.ofNat 64 l) fun s _ => (s.begin (.sadd 0 3 1 2)).disagree (.sadd 0 3 1 2) = true ∧ (s.grp s.cur.g).unist.getLsbD 0 = false) := by
  decide +kernel

/-- A disagreement is noted in UNIST with its address, and the row works on the lowest lane: 0 + 9 (R84, R85). -/
theorem test_uniform_disagreement : let f := fun s => reg 2 9 (regs 1 (fun l => BitVec.ofNat 64 l) s)
    ((done (.sadd 0 3 1 2) f).grp 0).unist = 1 ∧ res (.sadd 0 3 1 2) f 3 31 = 9 := by decide +kernel

/-! ## Integer rows (O16 to O19, O21) -/

/-- Modes 0 to 3 of the rows of R118, by X = 16·MODE + U + width code. -/
theorem witness_integer_sums : ∀ x ∈ ([0, 8, 0x10, 0x18, 0x1A, 0x20, 0x39] : List (BitVec 7)),
    At (.iadd (some ⟨1, 0, 0, 0, 0, x⟩) 0 3 1 2) id fun _ _ => Instr.mode (.iadd (some ⟨1, 0, 0, 0, 0, x⟩) 0 3 1 2) = x.toNat / 16 := by decide +kernel

theorem witness_integer_forms :
    (∀ m ∈ ([0, 0x11, 0x22] : List (BitVec 7)), At (.iaddc (some ⟨0, 0, 0, 0, 4, m⟩) 0 3 1 2) id fun _ _ => Instr.mode (.iaddc (some ⟨0, 0, 0, 0, 4, m⟩) 0 3 1 2) = m.toNat / 16) ∧
    (∀ m ∈ ([1, 0x1A] : List (BitVec 7)), At (.idot (some ⟨0, 0, 0, 0, 4, m⟩) 0 3 1 2) id fun _ _ => Instr.mode (.idot (some ⟨0, 0, 0, 0, 4, m⟩) 0 3 1 2) = m.toNat / 16) ∧
    (∀ m ∈ ([3, 0x19] : List (BitVec 7)), At (.shl (some ⟨0, 0, 0, 0, 0, m⟩) 0 3 1 2) id fun _ _ => Instr.mode (.shl (some ⟨0, 0, 0, 0, 0, m⟩) 0 3 1 2) = m.toNat / 16) := by decide +kernel

theorem witness_packing_forms :
    (∀ m ∈ ([0, 0x70] : List (BitVec 7)), At (.isel (some ⟨0, 0, 0, 0, 0, m⟩) 0 3 1 2) id fun _ _ => Instr.x (.isel (some ⟨0, 0, 0, 0, 0, m⟩) 0 3 1 2) / 16 = m.toNat / 16) ∧
    (∀ m ∈ ([2, 0x1A] : List (BitVec 7)), At (.pack (some ⟨0, 0, 0, 0, 0, m⟩) 0 3 1 2) id fun _ _ => Instr.mode (.pack (some ⟨0, 0, 0, 0, 0, m⟩) 0 3 1 2) = m.toNat / 16) ∧
    (∀ m ∈ ([2, 0x1A] : List (BitVec 7)), At (.unpk (some ⟨0, 0, 0, 0, 0, m⟩) 0 3 1) id fun _ _ => Instr.mode (.unpk (some ⟨0, 0, 0, 0, 0, m⟩) 0 3 1) = m.toNat / 16) := by
  decide +kernel

/-- A field of no bits, and one that reaches the top (R124). -/
theorem witness_bit_fields :
    (At (.bfx none 0 3 1 2) (reg 2 0x05) fun _ t => (fieldOf 32 (el 32 0 (t.src (.bfx none 0 3 1 2) .B))).2 = 0) ∧
    (At (.bfx none 0 3 1 2) (reg 2 0x41C) fun _ t => (fieldOf 32 (el 32 0 (t.src (.bfx none 0 3 1 2) .B))).2 ≠ 0) := by decide +kernel

/-- 32-bit elements wrap; saturation clamps; a byte sum of 200 + 100 wraps to 44 (R117, R118). -/
theorem test_integer_sums :
    res (.iadd none 0 3 1 2) (fun s => reg 1 0xFFFFFFFF_00000001 (reg 2 0x00000002_00000003 s)) 3 0 = 0x00000001_00000004 ∧
    res (.iadd (some ⟨0, 0, 0, 0, 0, 0x10⟩) 0 3 1 2) (fun s => reg 1 0x7FFFFFFF_80000000 (reg 2 0x00000001_FFFFFFFF s)) 3 9 = 0x7FFFFFFF_80000000 ∧
    res (.iadd (some ⟨0, 0, 0, 0, 0, 1⟩) 0 3 1 2) (fun s => reg 1 200 (reg 2 100 s)) 3 0 = 44 ∧
    res (.isub (some ⟨0, 0, 0, 0, 0, 3⟩) 0 3 1 2) (fun s => reg 1 5 (reg 2 7 s)) 3 31 = 0xFFFFFFFFFFFFFFFE ∧
    res (.imul (some ⟨0, 0, 0, 0, 0, 0x22⟩) 0 3 1 2) (fun s => reg 1 0xFFFF_0002 (reg 2 0x0003_0004 s)) 3 0 = 0xFFFFFFFD_00000008 := by decide +kernel

/-- Write masks by byte, zero fill and inactive lanes (R47, R117). -/
theorem test_masked_write :
    let f := fun s => mask 1 0x0F (reg 1 1 (reg 2 1 (reg 3 0xAAAAAAAA_AAAAAAAA s)))
    res (.iadd (some ⟨1, 0, 0, 0, 0, 0⟩) 0 3 1 2) f 3 0 = 0xAAAAAAAA_00000002 ∧ res (.iadd (some ⟨1, 0, 1, 0, 0, 0⟩) 0 3 1 2) f 3 0 = 2 ∧
    res (.iadd (some ⟨1, 0, 1, 0, 0, 0⟩) 0 3 1 2) f 3 1 = 0 := by decide +kernel

theorem test_integer_codes :
    res (.shl none 0 3 1 2) (fun s => reg 1 0x80000001_00000001 (reg 2 0x00000001_00000020 s)) 3 0 = 0x00000002_00000000 ∧
    res (.sar (some ⟨0, 0, 0, 0, 0, 3⟩) 0 3 1 2) (fun s => reg 1 0x8000000000000000 (reg 2 200 s)) 3 0 = 0xFFFFFFFFFFFFFFFF ∧
    res (.clz (some ⟨0, 0, 0, 0, 0, 3⟩) 0 3 1) (reg 1 0x00000000_00000001) 3 0 = 63 ∧ res (.clz none 0 3 1) id 3 0 = 0x00000020_00000020 ∧
    res (.popc none 0 3 1) (reg 1 0xFFFFFFFF_00000007) 3 0 = 0x00000020_00000003 ∧ res (.brev none 0 3 1) (reg 1 1) 3 0 = 0x80000000 ∧
    res (.lea (some ⟨0, 0, 0, 0, 0, 3⟩) 0 3 1 2) (fun s => reg 1 0x1000 (reg 2 2 s)) 3 0 = 0x1010 := by decide +kernel

theorem witness_uniform_integer :
    At (.ssel 0 3 1 2) (regs 3 fun l => if l = 31 then 1 else 0) fun s t => (3#6).toNat < 48 ∧ s.cur.lanes.getLsbD 31 = true ∧
      laneOf (t.src (.ssel 0 3 1 2) .D) 31 ≠ laneOf (t.src (.ssel 0 3 1 2) .D) (lowest t.cur.lanes) := by decide +kernel

/-- scmp of −1 and 1: signed less, not unsigned less; ssel by the old D; smad; slea (R129). -/
theorem test_uniform_integer :
    res (.scmp 0 3 1 2) (fun s => reg 1 0xFFFFFFFFFFFFFFFF (reg 2 1 s)) 3 7 = 2 ∧ res (.scmp 0 3 1 1) id 3 7 = 1 ∧
    res (.ssel 0 3 1 2) (fun s => reg 1 5 (reg 2 6 (reg 3 1 s))) 3 0 = 5 ∧ res (.ssel 0 3 1 2) (fun s => reg 1 5 (reg 2 6 s)) 3 0 = 6 ∧
    res (.smad 0 3 1 2) (fun s => reg 1 5 (reg 2 6 (reg 3 12 s))) 3 31 = 42 ∧ res (.slea 0 3 1 2) (fun s => reg 1 5 (reg 2 6 s)) 3 0 = 53 ∧
    res (.smov 0 3 0xFFF) id 3 4 = 0xFFFFFFFFFFFFFFFF := by decide +kernel

/-- Each comparison of R122 and R135. -/
theorem witness_compare_mask :
    (∀ x ∈ ([0, 0x10, 0x28, 0x38, 0x40, 0x50] : List (BitVec 7)), At (.icmp (some ⟨0, 0, 1, 0, 0, x⟩) 0 1 1 2) id fun _ _ => True) ∧
    (∀ x ∈ ([0, 8, 0x11, 0x1A, 0x20, 0x28, 0x30, 0x3A] : List (BitVec 7)), At (.fcmp (some ⟨0, 0, 0, 0, 0, x⟩) 0 1 1 2) id fun _ _ => True) := by decide +kernel

/-- icmp.lt, signed and unsigned, of −1 and 1 in 32-bit elements: all bits of each element; fcmp.eq of +0 and −0 (R122, R135). -/
theorem test_compare_mask :
    let f := fun s => reg 1 0x00000001_FFFFFFFF (reg 2 0x00000001_00000001 s)
    ((done (.icmp (some ⟨0, 0, 0, 0, 0, 0x20⟩) 0 1 1 2) f).grp 0).flush.mask 1 = BitVec.ofNat 256 (buildNat 8 (fun _ => 0x0F) 32) ∧
    ((done (.icmp (some ⟨0, 0, 0, 0, 0, 0x28⟩) 0 1 1 2) f).grp 0).flush.mask 1 = 0 ∧
    ((done (.fcmp none 0 1 1 2) (fun s => reg 1 0x80000000 s)).grp 0).flush.mask 1 = BitVec.allOnes 256 := by decide +kernel

/-! ## Floating rows (O22 to O29) -/

/-- A pair of values for each case of R74 and R134: finite with sums of either sign, a NaN, opposite and like infinities, 0 × ∞, and ∞ × finite. -/
theorem witness_exact_arithmetic :
    ((FVal.fin false 3 (-1)).nonFinite = false ∧ (FVal.fin true 3 (-1)).nonFinite = false ∧ (FVal.fin false 3 (-1)).isNeg ≠ (FVal.fin true 3 (-1)).isNeg) ∧
    FVal.isNan .nan = true ∧ (FVal.isInf (.inf true) = true ∧ FVal.isInf (.inf false) = true ∧ FVal.isNeg (.inf true) ≠ FVal.isNeg (.inf false)) ∧
    (FVal.isInf (.inf true) = true ∧ FVal.isZero (.fin false 0 0) = true) ∧
    (FVal.isInf (.inf true) = true ∧ FVal.isNan (.fin false 1 0) = false ∧ FVal.isZero (.fin false 1 0) = false) ∧
    (∀ z ∈ [FVal.fin false 1 0, .fin true 5 2, .fin false 7 (-3)], z.nonFinite = false) := by decide

/-- Zeros of opposite and of like sign, and sums that cancel, in either rounding direction (R74, R134). -/
theorem test_zero_sums :
    (FVal.add false (.fin false 3 0) (.fin true 3 0)).isNeg = false ∧ (FVal.add true (.fin false 3 0) (.fin true 3 0)).isNeg = true ∧
    (FVal.add false (.fin true 0 0) (.fin true 0 0)).isNeg = true ∧ (FVal.add true (.fin false 0 0) (.fin false 0 0)).isNeg = false ∧
    FVal.mul (.inf true) (.fin true 2 0) = .inf false ∧ FVal.mul (.inf true) (.fin false 0 0) = .nan := by decide

/-- One third in a format's range, and the largest FP16 value exactly at the end of it. -/
theorem witness_rounding :
    ((FVal.fin false 0x155555555 (-34)).nonFinite = false ∧ |(FVal.fin false 0x155555555 (-34)).rat| ≤ ((maxFin 0).1 : ℚ) * 2 ^ (maxFin 0).2) ∧
    ((FVal.fin true 0x7FF 5).nonFinite = false ∧ |(FVal.fin true 0x7FF 5).rat| ≤ ((maxFin 1).1 : ℚ) * 2 ^ (maxFin 1).2) := by
  have h0 : maxFin 0 = (2 ^ 24 - 1, 104) := by decide
  have h1 : maxFin 1 = (2 ^ 11 - 1, 5) := by decide
  refine ⟨⟨by decide, ?_⟩, by decide, ?_⟩
  · rw [h0]; norm_num [FVal.rat, abs_of_pos]
  · rw [h1]; norm_num [FVal.rat, abs_of_neg]

/-- 1 + 2^-24 is a tie in FP32 and goes to even; above the tie it goes up; the other modes go their way; 65520 overflows FP16 (R69 to R71). -/
theorem test_rounding :
    (roundF 0 0 (.fin false 0x1000001 (-24))).code = 0x3F800000 ∧ (roundF 0 0 (.fin false 0x2000003 (-25))).code = 0x3F800001 ∧
    (roundF 0 1 (.fin false 0x2000003 (-25))).code = 0x3F800000 ∧ (roundF 0 2 (.fin false 0x1000001 (-24))).code = 0x3F800001 ∧
    (roundF 0 3 (.fin true 0x1000001 (-24))).code = 0xBF800001 ∧ (roundF 1 0 (.fin false 65520 0)).code = 0x7C00 ∧
    (roundF 1 0 (.fin false 65519 0)).code = 0x7BFF ∧ (roundF 2 0 (.fin false 1 0)).code = 0x3F80 := by decide +kernel

/-- The least and the greatest finite code of each format (R62, R65, R66). -/
theorem witness_formats : ∀ p ∈ ([(0, 1), (0, 0x7F7FFFFF), (1, 1), (1, 0x7BFF), (2, 1), (2, 0x7F7F), (3, 1), (3, 0x7E), (4, 1), (4, 0x7B), (5, 8), (5, 7)] : List (Nat × Nat)),
    p.1 ≤ 5 ∧ p.2 < 2 ^ fmtWidth p.1 ∧ (decodeF p.1 p.2).nonFinite = false := by decide +kernel

/-- Formats and clamped forms, with a rounding field. -/
theorem witness_float_forms : ∀ x ∈ ([0, 1, 2, 8, 10] : List (BitVec 7)),
    At (.fadd (some ⟨0, 3, 0, 0, 0, x⟩) 0 3 1 2) id fun s _ => (s.grp s.cur.g).shadow = none ∧ (s.grp s.cur.g).nft = false ∧ s.rm (.fadd (some ⟨0, 3, 0, 0, 0, x⟩) 0 3 1 2) = 3 := by
  decide +kernel

/-- 1 + 2 = 3, 3 × −2 = −6, 2 × 3 + 1 in one rounding, 1 × 2^−2, max(−0, +0), in FP32; 1 + ∞ − ∞ with NV (R71, R134). -/
theorem test_float_sums :
    res (.fadd none 0 3 1 2) (fun s => reg 1 0x3F800000_3F800000 (reg 2 0x40000000_40000000 s)) 3 31 = 0x40400000_40400000 ∧
    res (.fmul none 0 3 1 2) (fun s => reg 1 0x40400000 (reg 2 0xC0000000 s)) 3 0 = 0xC0C00000 ∧
    res (.ffma (some ⟨0, 0, 0, 0, 4, 0⟩) 0 3 1 2) (fun s => reg 1 0x40000000 (reg 2 0x40400000 (reg 4 0x3F800000 s))) 3 0 = 0x40E00000 ∧
    res (.fscl none 0 3 1 2) (fun s => reg 1 0x3F800000 (reg 2 0xFFFFFFFE s)) 3 0 = 0x3E800000 ∧
    res (.fmax none 0 3 1 2) (fun s => reg 1 0x80000000_00000000 s) 3 0 = 0 ∧
    res (.fsub none 0 3 1 2) (fun s => reg 1 0x7F800000 (reg 2 0x7F800000 s)) 3 0 = 0x7FC00000 ∧
    ((done (.fsub none 0 3 1 2) (fun s => reg 1 0x7F800000 (reg 2 0x7F800000 s))).grp 0).flush.fpmode = 0x100 := by decide +kernel

/-- fdot of FP16 ones: 1·1 + 1·1 in the half that holds them; fclass of −∞, a subnormal and +0 (R136, R137). -/
theorem test_dot_and_class :
    res (.fdot (some ⟨0, 0, 0, 0, 58, 1⟩) 0 3 1 2) (fun s => reg 1 0x3C003C00 (reg 2 0x3C003C00 s)) 3 0 = 0x40000000 ∧
    res (.fclass none 0 3 1) (reg 1 0x00000001_FF800000) 3 0 = 0x00000005_00000000 ∧ res (.fclass none 0 3 1) id 3 0 = 0x00000004_00000004 := by decide +kernel

theorem witness_dot_and_class :
    (∀ p ∈ ([(FVal.nan, true), (.inf true, false), (.fin false 1 0, false)] : List (FVal × Bool)), p.1.isNan = p.2) ∧
    (decodeF 0 1).nonFinite = false ∧ (decodeF 0 0).nonFinite = false ∧ (decodeF 0 0x80000001).nonFinite = false := by decide +kernel

/-- FP32 to FP16 narrows into part 1 of two, FP16 to FP32 widens, FP32 to int8 saturates into part 3 of four (R138, R139). -/
theorem witness_conversions :
    (∀ x ∈ ([0x01, 0x11] : List (BitVec 7)), At (.fcvt (some ⟨0, 0, 0, 0, 0, x⟩) 0 3 1 0 0 0) id fun s _ => (s.grp s.cur.g).shadow = none ∧ (s.grp s.cur.g).nft = false) ∧
    (At (.fcvt (some ⟨0, 0, 0, 0, 0, 0x10⟩) 0 3 1 1 0 1) id fun s _ => (s.grp s.cur.g).shadow = none ∧ (s.grp s.cur.g).nft = false) ∧
    (At (.fcvt (some ⟨0, 0, 0, 0, 0, 0x37⟩) 0 3 1 0 0 0) id fun s _ => (s.grp s.cur.g).shadow = none ∧ (s.grp s.cur.g).nft = false) ∧
    ((decodeAny 0 0x7FC00000 0).isNan = true ∧ (decodeAny 0 0xFF800000 0).isInf = true ∧ (decodeAny 0 0x43800000 0).nonFinite = false) := by decide +kernel

/-- 256 saturates int8 at 127 with NV, −1.5 rounds to even −2, a NaN gives 0; FP32 1.0 in part 1 of FP16 leaves part 0. The words and
values that R139 works out: part 1 of E4M3 with the clamp, 1,000 as 0x7E with OF, 300 as 0x79. -/
theorem test_conversions :
    (convert 7 0 0 false 0 0x43800000).code = 127 ∧ (convert 7 0 0 false 0 0x43800000).flags = 1 ∧ (convert 9 0 0 false 0 0xBFC00000).code = 0xFFFFFFFE ∧
    (convert 9 0 0 false 0 0x7FC00000).code = 0 ∧
    res (.fcvt (some ⟨0, 0, 0, 0, 0, 0x11⟩) 0 3 1 0 0 0) (fun s => reg 1 0x3F800000_3F800000 (reg 3 0x1111_2222_3333_4444 s)) 3 0 = 0x3C003C00_33334444 ∧
    decodeWords shippingMap 0x7FE00013 (some 0x0CE050A0) = .ok (.fcvt (some ⟨0, 0, 0, 0, 0, 0x13⟩) 0 5 2 1 0 0) ∧
    (convert 3 0 0 true 0 0x447A0000).code = 0x7E ∧ (convert 3 0 0 true 0 0x447A0000).flags.getLsbD 2 = true ∧ (convert 3 0 0 true 0 0x43960000).code = 0x79 := by decide +kernel

/-- A NaN, both zeros, both infinities, a negative value and a positive one, in FP32 and FP16 (R140). -/
theorem witness_special_cases :
    (decodeF 0 0x7FC00001).isNan = true ∧ (decodeF 0 0x80000000).isZero = true ∧ (decodeF 1 0).isZero = true ∧ (decodeF 0 0xFF800000).isInf = true ∧ (decodeF 1 0x7C00).isInf = true ∧
    ((decodeF 0 0xBF800000).isNan = false ∧ (decodeF 0 0xBF800000).isZero = false ∧ (decodeF 0 0xBF800000).isNeg = true) ∧
    (0x7F7FFFFF < 2 ^ (fmtWidth 0 - 1) ∧ (decodeF 0 0x7F7FFFFF).nonFinite = false) := by decide +kernel

/-- fsqrt of 9 is 3 exactly; frcp of −0 is −∞ with DZ; flog2 of a negative value is NaN with NV (R140). -/
theorem test_special :
    res (.fsqt none 0 3 1) (reg 1 0x41100000_41100000) 3 0 = 0x40400000_40400000 ∧ specialElem .rcp 0 false 0x80000000 = ⟨0xFF800000, 2⟩ ∧
    specialElem .log2 0 false 0xBF800000 = ⟨0x7FC00000, 1⟩ := by decide +kernel

/-- FPMODE.NFT: ∞ − ∞ in element 0, with no clamp, and an infinite operand in the clamped form (R77). -/
theorem witness_non_finite :
    (At (.fadd none 0 3 1 2) (fun s => grp (fun g => { g with fpmode := 8 }) (reg 1 0x7F800000 (reg 2 0xFF800000 s))) fun s t =>
      let i : Instr := .fadd none 0 3 1 2
      (s.grp s.cur.g).shadow = none ∧ (s.grp s.cur.g).nft = true ∧ t.cur.lanes.getLsbD 0 = true ∧ (t.wmask i).getLsbD 0 = true ∧
      (decodeF 0 (roundClamp 0 (s.rm i) false (FVal.add false (decodeF 0 (el 32 0 (t.src i .A))) (decodeF 0 (el 32 0 (t.src i .B))))).code).nonFinite = true) ∧
    (At (.fadd (some ⟨0, 0, 0, 0, 0, 8⟩) 0 3 1 2) (fun s => grp (fun g => { g with fpmode := 8 }) (reg 1 0x7F800000 s)) fun s t =>
      let i : Instr := .fadd (some ⟨0, 0, 0, 0, 0, 8⟩) 0 3 1 2
      (s.grp s.cur.g).nft = true ∧ t.cur.lanes.getLsbD 0 = true ∧ (t.wmask i).getLsbD 0 = true ∧ i.x / 8 = 1 ∧ (decodeF 0 (el 32 0 (t.src i .A))).nonFinite = true) := by decide +kernel

/-- M = N = 2 at the last place where matrix and biases fit, and M = N = 8 in FP16 with relu and tanh (R142, R143). -/
theorem witness_tiny_matrix :
    (At (.tmv none 0 4 1 2) (reg 2 131040) fun s t => (s.grp s.cur.g).shadow = none ∧ (s.grp s.cur.g).nft = false ∧
      ∀ l < 32, s.cur.lanes.getLsbD l = true → (laneOf (t.src (.tmv none 0 4 1 2) .B) l).toNat % 16 = 0 ∧ (laneOf (t.src (.tmv none 0 4 1 2) .B) l).toNat + 24 ≤ 131072) ∧
    (∀ x ∈ ([0x1F, 0x6F] : List (BitVec 7)), At (.tmv (some ⟨0, 0, 0, 0, 0, x⟩) 0 8 0 58) id fun s _ => (s.grp s.cur.g).nft = false) := by decide +kernel

/-! ## Cross-lane rows (O30 to O32) -/

theorem witness_lane_moves :
    (At (.bcast none 0 3 1 2) (reg 2 63) fun s t => (laneOf (t.src (.bcast none 0 3 1 2) .B) (lowest s.cur.lanes)).toNat < 2048 / 32) ∧
    (At (.bcast none 0 3 1 2) (reg 2 64) fun s t => 2048 / 32 ≤ (laneOf (t.src (.bcast none 0 3 1 2) .B) (lowest s.cur.lanes)).toNat) ∧
    (At (.rixG (some ⟨0, 0, 0, 0, 0, 0x13⟩) 0 3 4 2) (reg 2 127) fun _ t => ∀ e < 2048 / 64, el 64 e (t.src (.rixG (some ⟨0, 0, 0, 0, 0, 0x13⟩) 0 3 4 2) .B) < 4 * 32) ∧
    (At (.rixS ⟨0, 0, 0, 0, 0, 0x2B⟩ 0 4 1 2) (reg 2 63) fun _ t => ∀ e < 2048 / 64, el 64 e (t.src (.rixS ⟨0, 0, 0, 0, 0, 0x2B⟩ 0 4 1 2) .B) < 2 * 32) := by decide +kernel

/-- Lane 31 reads lane 0 after a rotation by two elements of 32 bits; bcast of element 1; rix.s from every lane to one index: the highest element stays (R151, R152). -/
theorem test_lane_moves :
    res (.shfl none 0 3 1 2) (fun s => regs 1 (fun l => BitVec.ofNat 64 l) (regs 2 (fun l => BitVec.ofNat 64 (2 * l + 2)) s)) 3 31 = 0 ∧
    res (.shfl none 0 3 1 2) (fun s => regs 1 (fun l => BitVec.ofNat 64 l) (regs 2 (fun l => BitVec.ofNat 64 (2 * l + 2)) s)) 3 7 = 8 ∧
    res (.bcast none 0 3 1 2) (fun s => reg 1 0x00000009_00000004 (reg 2 1 s)) 3 5 = 0x00000009_00000009 ∧
    res (.rixS ⟨0, 0, 0, 0, 0, 0x23⟩ 0 4 1 2) (fun s => regs 1 (fun l => BitVec.ofNat 64 (100 + l)) (reg 2 3 s)) 4 3 = 131 := by decide +kernel

/-- Integer and floating types and operations of redl and scan; redmi of its types. -/
theorem witness_reductions :
    (∀ x ∈ ([0, 0x21, 0x0A, 0x57] : List (BitVec 7)), At (.redl (some ⟨0, 0, 0, 0, 0, x⟩) 0 3 1) id fun s _ => (s.grp s.cur.g).shadow = none ∧ (s.grp s.cur.g).nft = false) ∧
    (∀ x ∈ ([0, 0x1A] : List (BitVec 7)), At (.scan (some ⟨0, 0, 0, 0, 0, x⟩) 0 3 1 1) id fun s _ => (s.grp s.cur.g).shadow = none ∧ (s.grp s.cur.g).nft = false) ∧
    (∀ x ∈ ([1, 0x0D] : List (BitVec 7)), At (.redmi (some ⟨1, 0, 0, 0, 0, x⟩) 0 4 1 2) id fun _ _ => True) := by decide +kernel

/-- The sum of 0 to 31 over 64-bit elements is 496, in every lane; the running sums, inclusive and exclusive (R150, R153). -/
theorem test_reductions :
    let f := regs 1 fun l => BitVec.ofNat 64 l
    res (.redl (some ⟨0, 0, 0, 0, 0, 0x0A⟩) 0 3 1) f 3 17 = 496 ∧ res (.scan (some ⟨0, 0, 0, 0, 0, 0x0A⟩) 0 3 1 0) f 3 31 = 496 ∧
    res (.scan (some ⟨0, 0, 0, 0, 0, 0x0A⟩) 0 3 1 1) f 3 31 = 465 ∧ res (.scan (some ⟨0, 0, 0, 0, 0, 0x0A⟩) 0 3 1 1) f 3 0 = 0 := by decide +kernel

/-- The least of 31 − l stands in lane 31: value 0 in v4, its index in v5 (R154). -/
theorem test_least : let f := fun s => regs 1 (fun l => BitVec.ofNat 64 (31 - l)) (regs 2 (fun l => BitVec.ofNat 64 l) s)
    res (.redmi (some ⟨0, 0, 0, 0, 0, 0x0A⟩) 0 4 1 2) f 4 3 = 0 ∧ res (.redmi (some ⟨0, 0, 0, 0, 0, 0x0A⟩) 0 4 1 2) f 5 3 = 31 := by decide +kernel

theorem witness_conflicts :
    (At (.cfd (some ⟨0, 0, 0, 0, 0, 0x13⟩) 0 3 1) (regs 1 fun l => BitVec.ofNat 64 (l / 2)) fun s t => s.cur.lanes.getLsbD 1 = true ∧
      el 64 0 (t.src (.cfd (some ⟨0, 0, 0, 0, 0, 0x13⟩) 0 3 1) .A) = el 64 1 (t.src (.cfd (some ⟨0, 0, 0, 0, 0, 0x13⟩) 0 3 1) .A)) ∧
    (At (.comb (some ⟨0, 0, 0, 0, 0, 0x10⟩) 0 3 1 2) id fun s _ => (s.grp s.cur.g).shadow = none ∧ (s.grp s.cur.g).nft = false) := by decide +kernel

/-- Keys l/2: lane 5 names lane 4, lane 4 itself, and the even lanes are the first of their key; comb adds 4 and 5 for the key (R155, R156). -/
theorem test_conflicts : let f := fun s => regs 1 (fun l => BitVec.ofNat 64 l) (regs 2 (fun l => BitVec.ofNat 64 (l / 2)) s)
    res (.cfd (some ⟨0, 0, 0, 0, 0, 0x13⟩) 0 3 2) f 3 5 = 4 ∧ res (.cfd (some ⟨0, 0, 0, 0, 0, 0x13⟩) 0 3 2) f 3 4 = 4 ∧
    ((done (.cfd (some ⟨0, 0, 0, 0, 0, 0x13⟩) 0 3 2) f).grp 0).flush.mask 1 = BitVec.ofNat 256 (buildNat 16 (fun _ => 0xFF) 16) ∧
    res (.comb (some ⟨0, 0, 0, 0, 0, 0x1A⟩) 0 3 1 2) f 3 4 = 9 ∧ res (.comb (some ⟨0, 0, 0, 0, 0, 0x1A⟩) 0 3 1 2) f 3 5 = 0 := by decide +kernel

/-! ## Control (O33 to O35, O37) -/

/-- Targets that are and are not multiples of 4, in one lane and in all; a mask that sends lane 0 alone. -/
theorem witness_branches :
    (At (.brx 0 3) (reg 3 0x400) fun s t => s.cur.regOnly = false ∧ (t.lead (.brx 0 3) .A).toNat % 4 = 0) ∧
    (At (.brx 0 3) (reg 3 0x402) fun _ t => (t.lead (.brx 0 3) .A).toNat % 4 ≠ 0) ∧
    (At (.jmpl 0 3) (regs 3 fun l => BitVec.ofNat 64 (4 * l)) fun s t => ∀ l < 32, s.cur.lanes.getLsbD l = true → (laneOf (t.src (.jmpl 0 3) .A) l).toNat % 4 = 0) ∧
    (At (.jmpl 0 3) (regs 3 fun l => if l = 31 then 2 else 4) fun s t => (0x80000000 : Lanes) ≠ 0 ∧
      ∀ l < 32, (0x80000000#32).getLsbD l = true ↔ s.cur.lanes.getLsbD l = true ∧ (laneOf (t.src (.jmpl 0 3) .A) l).toNat % 4 ≠ 0) ∧
    (At (.brl 0 1 5) (mask 1 0x80) fun _ t => (t.smask 1).getLsbD (8 * 0 + 7) = true ∧ ∀ b < 8, (t.smask 1).getLsbD (8 * 1 + b) = false) := by decide +kernel

/-- brl goes back by one word in lane 0 alone, by its mask's top bit; brx goes to the lowest lane's target; call leaves the link in every lane of o7 (R91 to R94). -/
theorem test_branches :
    ((done (.brl 0 1 (-1)) (mask 1 0x80)).lane 0 0).pc = 0xFFFFFFFFFFFFFFFC ∧ ((done (.brl 0 1 (-1)) (mask 1 0x80)).lane 0 1).pc = 4 ∧
    ((done (.brx 0 3) (reg 3 0x400)).lane 0 31).pc = 0x400 ∧ ((done (.jmpl 0 3) (regs 3 fun l => BitVec.ofNat 64 (4 * l))).lane 0 9).pc = 36 ∧
    ((done (.call 0 0x100) id).lane 0 3).pc = 0x400 ∧ res (.call 0 0x100) id 55 7 = 4 ∧ res (.callv 0 3 58) id 3 7 = 4 := by decide +kernel

theorem witness_calls :
    (At (.callv 0 3 1) id fun s t => s.cur.regOnly = false ∧ ∀ l < 32, s.cur.lanes.getLsbD l = true → (laneOf (t.src (.callv 0 3 1) .A) l).toNat % 4 = 0) ∧
    (At (.callv 0 58 1) id fun s t => s.cur.regOnly = false ∧ ∀ l < 32, s.cur.lanes.getLsbD l = true → (laneOf (t.src (.callv 0 58 1) .A) l).toNat % 4 = 0) ∧
    (let f : ForkRec := ⟨4, 58, 58, 0, 0, 254, 0, false, false⟩
     let s := issuing (.call 0 1) (fun s => s.modLane 0 31 fun x => { x with recs := [f] })
     0 < s.groups.length ∧ (s.lane 0 31).recs = [f] ∧ f.nest < 255 ∧ (s.lane 0 30).recs = []) := by decide +kernel

/-- In the handler, with the mask, and with neither (R96, R323). -/
theorem witness_software_traps :
    (At (.brk 0 7) (fun s => s.modLanes 0 (BitVec.allOnes 32) fun _ x => { x with mode := .handler }) fun s t => (t.lane s.cur.g (lowest s.cur.lanes)).mode = .handler) ∧
    (At (.trap 0 7) (grp fun g => { g with trapmask := 8 }) fun s t => (t.grp (t.root s.cur.g)).trapmask.getLsbD 3 = true) ∧
    (At (.brk 0 7) id fun s t => (t.lane s.cur.g (lowest s.cur.lanes)).mode ≠ .handler ∧ (t.grp (t.root s.cur.g)).trapmask.getLsbD 1 = false) := by decide +kernel

/-- The lanes with a bit in k1 are 0 and 4: any 1, all 0, the ballot 0x11 (R95). -/
theorem test_votes : let f := mask 1 0x01_000000_0000000080
    res (.voteAny 0 3 1 0) f 3 31 = 1 ∧ res (.voteAll 0 3 1 0) f 3 31 = 0 ∧ res (.voteBallot 0 3 1 2) (mask 1 (1 <<< 7 ||| 1 <<< 32)) 3 31 = 0x11 ∧
    ((done (.voteBallot 0 3 1 2) (mask 1 (1 <<< 7 ||| 1 <<< 32))).grp 0).flush.mask 2 = 0xFF000000FF := by decide +kernel

/-- No timeline of the machine is parked. -/
theorem no_parks (s : State) (h : ∀ tl < 8, ((s.crewOf s.cur.g).tline tl).parked = none) :
    Sys2Proof.Machine.State.parksTaken s := by
  intro tl p hp
  by_cases k : tl < 8
  · rw [h tl k] at hp; simp at hp
  · have : (s.crewOf s.cur.g).tline tl = Timeline.unbound := by simp [Crew.tline, k]
    rw [this] at hp; simp [Timeline.unbound] at hp

theorem witness_exit_parks : Sys2Proof.Machine.State.parksTaken ((issuing (.exit 0) id).issued (.exit 0)) :=
  no_parks _ (by decide +kernel)

/-- All lanes leave; lanes 0 to 3 leave; a lane holds a room while a write has not been acknowledged. -/
theorem witness_exit :
    (At (.exit 0) id fun s t => s.cur.g < s.groups.length ∧ s.cur.lanes ≠ 0 ∧ (∀ l < 32, (t.lane 0 l).holds = [] ∧ (t.lane 0 l).recs = []) ∧ (t.grp 0).place = .resident) ∧
    (At (.exit 0) (fun s => grp (fun g => { g with acks := [0] }) ({ s with now := 5 }.modLane 0 31 fun x => { x with holds := [⟨5, 2⟩] })) fun _ t =>
      (t.lane 0 31).holds ≠ [] ∧ t.mayRelease (.exit 0) = false) := by decide +kernel

/-- exit of every lane retires the group; of lanes 0 and 1 alone it does not (R18, R97). -/
theorem test_exit : ((done (.exit 0) id).grp 0).place = .retired ∧ ((after (exec (.exit 0) (issuingIn 3 (.exit 0) id))).grp 0).place = .resident ∧
    ((after (exec (.exit 0) (issuingIn 3 (.exit 0) id))).lane 0 1).mode = .exited ∧ ((after (exec (.exit 0) (issuingIn 3 (.exit 0) id))).lane 0 2).pc = 0 := by decide +kernel

/-- yield of 9 cycles: ready 10 cycles on; yield.x of 0 gives up the turn (R98). -/
theorem test_yield : ((done (.yield 0 3) (reg 3 9)).lane 0 4).ready = 10 ∧ ((done (.yieldX 0 58) id).grp 0).yielded = true ∧ ((done (.yieldX 0 3) id).grp 0).place = .resident := by
  decide +kernel

/-- The quad is full, and an evicted group waits for n registers: besides the group there stand one of 48 registers at level 5 and one of 672, and 768 on each other core. -/
def crowded (n : Nat) (s : State) : State :=
  let on (c slot n l : Nat) : Group := { soleGroup with core := c, slot := slot, nregs := n, prio := BitVec.ofNat 64 (0x80 + l), gtag := 100 + c + slot }
  { s with groups := s.groups ++ [{ soleGroup with nregs := n, place := .evicted, evictNo := 1 }, on 0 2 48 5, on 0 4 672 0, on 1 0 768 0, on 2 0 768 0, on 3 0 768 0] }

/-- yield.x where work lacks room: the group goes, and a plan is needed besides, or not; and a group whose handler defers that. -/
theorem witness_pauses :
    let lacks (t : State) : Prop := t.lacksRoom (t.partNo 0) (t.grp 0).level = some (0, .resume 1)
    (At (.yieldX 0 3) (crowded 48) fun _ t => lacks t ∧ t.defersPreempt 0 = false ∧ (t.preemptGroup 0).planFor (t.partNo 0) (0, .resume 1) = none) ∧
    (At (.yieldX 0 3) (crowded 96) fun _ t => lacks t ∧ t.defersPreempt 0 = false ∧ ((t.preemptGroup 0).planFor (t.partNo 0) (0, .resume 1)).isSome = true) ∧
    (At (.yieldX 0 3) (fun s => crowded 48 (grp (fun g => { g with trapmask := 1 }) (s.modLanes 0 (BitVec.allOnes 32) fun _ x => { x with mode := .handler }))) fun _ t =>
      lacks t ∧ t.defersPreempt 0 = true) := by decide +kernel

/-- yield.x gives way to the evicted group, which takes its place (R98, R309). -/
theorem test_yield_x : ((done (.yieldX 0 3) (crowded 48)).grp 0).place = .evicted ∧ ((done (.yieldX 0 3) (crowded 48)).grp 1).place = .resident := by decide +kernel

/-! ## Forkable calls (O36) -/

/-- A group of 16 registers leaves room for a shadow on its core. -/
def small (s : State) : State := grp (fun g => { g with nregs := 16 }) s

/-- A call that may fork, with a free slot and with none, and where lanes 1 to 31 may not. -/
theorem witness_fork_call :
    (At (.fcall 0 3 1 4) small fun s t => s.cur.g < s.groups.length ∧ s.cur.regOnly = false ∧ (∀ l < 32, (laneOf (t.src (.fcall 0 3 1 4) .A) l).toNat % 4 = 0) ∧
      (∀ l < 32, ∀ r ∈ (s.lane 0 l).recs, r.nest < 255) ∧ t.shadowSlot 0 ≠ none ∧
      ∀ l < 32, (t.ctxOf 0).forkcfg.getLsbD 0 = true ∧ (t.lane 0 l).mode = .running ∧ (t.lane 0 l).fd < bits (t.ctxOf 0).forkcfg.toNat 1 3) ∧
    (At (.fcall 0 3 1 4) (fun s => s.modLanes 0 0xFFFFFFFE (fun _ x => { x with fd := 4 }) |> small) fun _ t => t.shadowSlot 0 ≠ none ∧ (t.lane 0 0).fd < bits (t.ctxOf 0).forkcfg.toNat 1 3 ∧
      ∀ l < 32, l ≠ 0 → ¬ (t.lane 0 l).fd < bits (t.ctxOf 0).forkcfg.toNat 1 3) ∧
    (At (.fcall 0 3 1 4) (fun s => { s with groups := s.groups ++ (List.range 8).map fun k => { soleGroup with nregs := 16, slot := 2 * k + 1 } }) fun _ t => t.shadowSlot 0 = none) := by
  decide +kernel

/-- fcall goes to its target with 4 in o7, and a continuation of every lane waits behind the call (R99, R100). -/
theorem test_fork_call : let t := done (.fcall 0 3 1 4) (fun s => small (reg 1 0x80 (reg 3 77 s)))
    (t.lane 0 7).pc = 0x80 ∧ laneOf ((t.grp 0).flush.reg 64 55) 7 = 4 ∧ (t.lane 0 7).fd = 1 ∧ t.groups.length = 2 ∧ (t.lane 1 7).pc = 4 ∧ (t.lane 1 7).mode = .running ∧
    (t.grp 1).shadow = some 0 := by decide +kernel

/-- Lanes without a record, with calls counted, and with a squashed one. -/
theorem witness_return :
    let f (n : Nat) (q : Bool) : ForkRec := ⟨4, 58, 58, 0, 0, n, 0, false, q⟩
    At (.ret 0 1) (fun s => s.modLanes 0 (BitVec.allOnes 32) fun l x => { x with recs := if l = 0 then [] else if l = 1 then [f 1 false] else [f 0 true] }) fun s t =>
      s.cur.g < s.groups.length ∧ s.cur.regOnly = false ∧ (∀ l < 32, (laneOf (t.src (.ret 0 1) .A) l).toNat % 4 = 0) ∧
      (t.lane 0 0).recs = [] ∧ (t.lane 0 1).recs = [f 1 false] ∧ ∀ l < 32, 2 ≤ l → (t.lane 0 l).recs = [f 0 true] := by decide +kernel

/-- The three ways in which a live record is squashed, and the one in which it is committed (R106). -/
theorem test_return_cases :
    let rec_ : ForkRec := ⟨4, 3, 58, 9, 0, 0, 0, false, false⟩
    let inst : ForkInst := ⟨0, 1, 1, 0, 3, 58, [⟨0, 7⟩], false, 0, true⟩
    let s (v : Word) (loads : List Sector) := let s := reg 3 v (State.reset.placeCode [])
      State.modLane { s with groups := s.groups ++ [{ soleGroup with shadow := some 0, lanes := soleGroup.lanes.map fun x => { x with loadSet := loads } }], forks := [inst] } 0 0
        (fun x => { x with recs := [rec_] });
    ((s 9 []).lane 0 0).recs = [rec_] ∧ ((s 9 []).lane 0 0).base < ((s 9 []).lane 0 0).recs.length ∧
    (s 9 []).retCase 0 0 8 = .squash fkOTHER ∧ (s 8 []).retCase 0 0 4 = .squash fkVALUE ∧ (s 9 [⟨0, 7⟩]).retCase 0 0 4 = .squash fkMEM ∧ (s 9 [⟨0, 6⟩]).retCase 0 0 4 = .commit := by
  decide +kernel

/-- A record that resolves: its continuation lane holds nothing, or a store into a page that is not mapped, which would fault at the commit. -/
theorem witness_fork_resolves :
    let rec_ : ForkRec := ⟨4, 3, 58, 9, 0, 0, 0, false, false⟩
    let inst : ForkInst := ⟨0, 1, 1, 0, 3, 58, [], false, 0, true⟩
    let s (held : List HeldByte) := let s := reg 3 9 (State.reset.placeCode [])
      State.modLane { s with groups := s.groups ++ [{ soleGroup with shadow := some 0, lanes := soleGroup.lanes.map fun x => { x with storeBuf := held } }], forks := [inst] } 0 0
        (fun x => { x with recs := [rec_] });
    (let x := (s []).lane 1 0
     0 < (s []).groups.length ∧ ((s []).lane 0 0).recs = [rec_] ∧ 1 < (s []).groups.length ∧ x.mode ≠ .absent ∧ x.recs = [] ∧ x.storeBuf = [] ∧ ((s []).grp 0).shadow = none ∧
       (s []).retCase 0 0 4 = .commit) ∧
    (s [⟨0, 0x100000, 1, 15, ⟨0, 1, 0⟩⟩]).heldFaults 0 0 [⟨0, 0x100000, 1, 15, ⟨0, 1, 0⟩⟩] = true ∧ (s [⟨0, 0x100000, 1, 15, ⟨0, 1, 0⟩⟩]).retCase 0 0 4 = .squash fkOTHER := by decide +kernel

theorem test_fork_hint : let t := done (.fhint 0 1 2) (fun s => reg 1 5 (reg 2 6 s))
    (t.lane 0 31).hintValid = true ∧ (t.lane 0 31).hint0 = 5 ∧ (t.lane 0 31).hint1 = 6 := by decide +kernel

/-! ## System (O37, O39, O40) -/

/-- tmask with a mask of 5 and an operand of 0x1C: set 13, cleared 1, written 12; D takes 5 (R332). -/
theorem test_tmask : let f := fun s => reg 1 0x1C (grp (fun g => { g with trapmask := 5 }) s)
    ((done (.tmaskSet 0 3 1) f).grp 0).trapmask = 13 ∧ ((done (.tmaskClr 0 3 1) f).grp 0).trapmask = 1 ∧ ((done (.tmaskWr 0 3 1) f).grp 0).trapmask = 12 ∧
    res (.tmaskSet 0 3 1) f 3 31 = 5 := by decide +kernel

/-- Values on both sides of each check of R71, R87, R113, R173, R174, R312 and R352. -/
theorem witness_register_values :
    (∀ p ∈ ([(.wrsr 0 1 0, 4, 3, 4), (.wrsr 0 1 0x205, 4, 3, 4)] : List (Instr × Nat × Nat × Nat)), p.2.1 % 2 ^ p.2.2.1 ≤ p.2.2.2) ∧
    (At (.wrsr 0 1 0) (reg 1 4) fun _ t => (t.lead (.wrsr 0 1 0) .D).toNat % 8 ≤ 4) ∧ (At (.wrsr 0 1 0) (reg 1 5) fun _ t => 4 < (t.lead (.wrsr 0 1 0) .D).toNat % 8) ∧
    (At (.wrsr 0 1 2) (reg 1 0x1_0000003F) fun _ t => (t.lead (.wrsr 0 1 2) .D).getLsbD 32 = true ∧ (t.lead (.wrsr 0 1 2) .D).toNat % 2 ^ 32 < 64) ∧
    (At (.wrsr 0 1 2) (reg 1 0x1_00000040) fun _ t => ¬ (t.lead (.wrsr 0 1 2) .D).toNat % 2 ^ 32 < 64) ∧
    (At (.wrsr 0 1 0x203) (reg 1 8) fun _ t => (t.lead (.wrsr 0 1 0x203) .D).toNat / 2 % 8 = 4) ∧ (At (.wrsr 0 1 0x203) (reg 1 10) fun _ t => (t.lead (.wrsr 0 1 0x203) .D).toNat / 2 % 8 = 5) ∧
    (At (.wrsr 0 1 0x203) (reg 1 1) fun _ t => (t.lead (.wrsr 0 1 0x203) .D).toNat / 2 % 8 = 0) ∧
    (At (.wrsr 0 1 0x207) (reg 1 0x108) fun _ t => (t.lead (.wrsr 0 1 0x207) .D).toNat % 16 ≤ 8 ∧ (t.lead (.wrsr 0 1 0x207) .D).toNat / 16 % 32 ≤ 16) ∧
    (At (.wrsr 0 1 0x207) (reg 1 0x119) fun _ t => 8 < (t.lead (.wrsr 0 1 0x207) .D).toNat % 16) ∧
    (At (.wrsr 0 1 0x20C) (reg 1 0x15_0000_0000_0000) fun _ t => 20 < (t.lead (.wrsr 0 1 0x20C) .D).toNat / 2 ^ 48 % 32) ∧
    (At (.wrsr 0 1 0x20C) (reg 1 0x14_0000_0000_0000) fun _ t => (t.lead (.wrsr 0 1 0x20C) .D).toNat / 2 ^ 48 % 32 ≤ 20) ∧
    (At (.wrsr 0 1 0x303) (reg 1 0x1366) fun _ t => (t.lead (.wrsr 0 1 0x303) .D).toNat % 16 = 6) ∧ (At (.wrsr 0 1 0x303) (reg 1 0x0366) fun _ t => (t.lead (.wrsr 0 1 0x303) .D).toNat / 2 ^ 12 % 16 = 0) := by
  decide +kernel

/-- Every register of R329 can be read, and every one that software may not write is named to be refused; a value of WDOG through the event (R333). -/
theorem witness_registers_read :
    (∀ i ∈ ([
      .rdsr 0 3 0, .rdsr 0 3 1, .rdsr 0 3 2, .rdsr 0 3 3, .rdsr 0 3 4, .rdsr 0 3 5, .rdsr 0 3 0x100, .rdsr 0 3 0x101, .rdsr 0 3 0x102, .rdsr 0 3 0x200,
      .rdsr 0 3 0x201, .rdsr 0 3 0x202, .rdsr 0 3 0x203, .rdsr 0 3 0x204, .rdsr 0 3 0x205, .rdsr 0 3 0x206, .rdsr 0 3 0x207, .rdsr 0 3 0x208,
      .rdsr 0 3 0x209, .rdsr 0 3 0x20A, .rdsr 0 3 0x20B, .rdsr 0 3 0x20C, .rdsr 0 3 0x300, .rdsr 0 3 0x301, .rdsr 0 3 0x302, .rdsr 0 3 0x303,
      .rdsr 0 3 0x304, .rdsr 0 3 0x305, .wrsr 0 1 0x001, .wrsr 0 1 0x003, .wrsr 0 1 0x004, .wrsr 0 1 0x005, .wrsr 0 1 0x201, .wrsr 0 1 0x202,
      .wrsr 0 1 0x204, .wrsr 0 1 0x208, .wrsr 0 1 0x209, .wrsr 0 1 0x20A, .wrsr 0 1 0x20B, .wrsr 0 1 0x302, .wrsr 0 1 0x100, .wrsr 0 1 0x101,
      .wrsr 0 1 0x102, .wrsr 0 1 0x200, .wrsr 0 1 0x206, .wrsr 0 1 0x300, .wrsr 0 1 0x301, .wrsr 0 1 0x304, .wrsr 0 1 0x305] : List Instr), At i id fun _ _ => True) ∧
    ¬ ((0x1_00000040#64).getLsbD 32 = true ∧ (0x1_00000040#64).toNat % 2 ^ 32 < 64) := by decide +kernel

/-- The reset values of FORKCFG, PREBOUND and QOSC as rdsr gives them; FPMODE keeps its flags where the value has ones there (R71, R113, R324, R352). -/
theorem test_registers :
    res (.rdsr 0 3 0x203) id 3 31 = 9 ∧ res (.rdsr 0 3 0x302) id 3 0 = 0x7530 ∧ res (.rdsr 0 3 0x303) id 3 0 = 0x1366 ∧
    ((done (.wrsr 0 1 0) (fun s => reg 1 0x1104 (grp (fun g => { g with fpmode := 0x1F00 }) s))).grp 0).fpmode = 0x1104 ∧
    ((done (.wrsr 0 1 0x20A) (reg 1 0xFFF0000000000103)).ctxOf 0).trapbase = 0x101 := by decide +kernel

/-- A block at the last place of the window, one beyond it, and one that is misplaced; the arguments of each function on both sides of its checks. -/
theorem witness_system_calls :
    (At (.syscLevel 0 3) (fun s => reg 3 65472 (win 65472 8 23 (win 65480 8 64 s))) fun _ t => let w (j : Nat) : Nat := Mem.num (t.crewOf 0).scratch (65472 + 8 * j) 8
      (t.lead (.syscLevel 0 3) .D).toNat % 64 = 0 ∧ 65472 + 64 ≤ (t.crewOf 0).window ∧ w 0 < 24 ∧ w 1 ≤ 64) ∧
    (At (.syscLevel 0 3) (fun s => reg 3 65536 s) fun _ t => (t.crewOf 0).window < (t.lead (.syscLevel 0 3) .D).toNat % 2 ^ 20 + 64) ∧
    (At (.syscLevel 0 3) (fun s => reg 3 32 s) fun _ t => (t.lead (.syscLevel 0 3) .D).toNat % 2 ^ 20 % 64 ≠ 0) ∧
    (At (.syscLevel 0 3) (fun s => { s with poison := [.scratch 0 1] }) fun _ t => (t.crewOf 0).window = 65536 ∧ t.boxPoison 0 0 64 = true) ∧
    (At (.syscShoot 0 3) (fun s => grp (fun g => { g with acks := [0] }) (win 0 8 1 s)) fun _ t =>
      t.findCtx (t.partNo 0) (Mem.num (t.crewOf 0).scratch 0 8) = some 0 ∧ t.boxPoison 0 0 64 = false ∧ t.inFlight 0 t.cur.cycle = true) ∧
    (At (.syscLevel 0 3) (fun s => win 0 8 24 s) fun _ t => 24 ≤ Mem.num (t.crewOf 0).scratch 0 8) ∧
    (At (.syscShoot 0 3) (win 0 8 1) fun _ t => t.findCtx (t.partNo 0) (Mem.num (t.crewOf 0).scratch 0 8) = some 0 ∧ t.inFlight 0 t.cur.cycle = false) ∧
    (At (.syscShoot 0 3) id fun _ t => t.findCtx (t.partNo 0) (Mem.num (t.crewOf 0).scratch 0 8) = none) ∧
    (At (.syscTerm 0 3) (win 0 8 1) fun _ t => t.findCtx (t.partNo 0) 1 = some 0 ∧ t.taggedCrew 0 0 = some (t.grp 0).crew ∧ t.taggedCrew 0 1 = none) ∧
    (At (.syscTerm 0 3) (fun s => win 0 8 1 (win 8 8 7 { s with groups := s.groups ++ [{ soleGroup with crew := 1, gtag := 7 }], crews := s.crews ++ [soleCrew] })) fun _ t =>
      t.findCtx (t.partNo 0) 1 = some 0 ∧ t.taggedCrew 0 7 = some 1 ∧ 1 ≠ (t.grp 0).crew) := by decide +kernel

theorem witness_system_call_arguments :
    (At (.syscQdesc 0 3) (win 8 8 (2 + 4 * 23)) fun _ t => let l := Mem.num (t.crewOf 0).scratch 8 8 / 4 % 32
      Mem.num (t.crewOf 0).scratch 0 8 < 65536 ∧ l ≤ 23 ∧ 3 ≤ l) ∧
    (At (.syscQdesc 0 3) (win 0 8 65536) fun _ t => 65536 ≤ Mem.num (t.crewOf 0).scratch 0 8) ∧
    (At (.syscRing 0 3) (win 0 8 15) fun _ t => Mem.num (t.crewOf 0).scratch 0 8 < 16) ∧ (At (.syscRing 0 3) (win 0 8 16) fun _ t => 16 ≤ Mem.num (t.crewOf 0).scratch 0 8) ∧
    (At (.syscPodwin 0 3) (fun s => win 0 8 1 (win 8 8 63 s)) fun _ t => t.findCtx (t.partNo 0) (Mem.num (t.crewOf 0).scratch 0 8) = some 0 ∧ Mem.num (t.crewOf 0).scratch 8 8 < 64) ∧
    (At (.syscPodwin 0 3) (fun s => win 0 8 1 (win 8 8 64 s)) fun _ t => 64 ≤ Mem.num (t.crewOf 0).scratch 8 8) ∧
    (At (.syscFpdef 0 3) (fun s => win 0 8 1 (win 8 8 28 s)) fun _ t => Mem.num (t.crewOf 0).scratch 8 8 < 32 ∧ Mem.num (t.crewOf 0).scratch 8 8 % 8 ≤ 4) ∧
    (At (.syscFpdef 0 3) (fun s => win 0 8 1 (win 8 8 29 s)) fun _ t => 4 < Mem.num (t.crewOf 0).scratch 8 8 % 8) := by decide +kernel

/-- sysc.level of level 23 and floor 64: the floor stands and the status is 0; of level 24 the status is 1 (R302, R335); sysc.where of core 0, slot 0 (R335). -/
theorem test_system_calls :
    ((done (.syscLevel 0 3) (fun s => win 0 8 23 (win 8 8 64 s))).part 0).levels[23]? = some 64 ∧ res (.syscLevel 0 3) (fun s => win 0 8 23 (win 8 8 64 s)) 3 31 = 0 ∧
    res (.syscLevel 0 3) (win 0 8 24) 3 31 = 1 ∧ res (.syscWhere 0 3) (reg 3 9) 3 31 = 0 := by decide +kernel

/-- A decode table in the mapped page at VA 0x1000: with zeros alone; with a value that is no shipping opcode, and with a stray bit (R334). -/
theorem witness_decode_table :
    At (.dtld 0 3 1) (reg 1 0x1000) fun s t => (t.lead (.dtld 0 3 1) .A).toNat % 256 = 0 ∧ t.ctxNo s.cur.g < t.ctxs.length ∧
      (t.plan (t.agent 0) .load 256 ((List.range 128).map fun k => ⟨k, lowest s.cur.lanes, (0x1000 + 32 * k) % 2 ^ 64, 0⟩)).void = none ∧
      (t.plan (t.agent 0) .load 256 ((List.range 128).map fun k => ⟨k, lowest s.cur.lanes, (0x1000 + 32 * k) % 2 ^ 64, 0⟩)).trap = none := by decide +kernel


/-- Entry k of the decode table at VA 0x1000 in the mapped page, with a value for entry 2. -/
def tableEntry (v k : Nat) : Nat :=
  let i : Instr := .dtld 0 3 1
  let t := (issuing i (fun s => reg 1 0x1000 (s.writeDram 0 0x31004 (leBytes 2 v)))).issued i
  leNat ((((t.loadElts (t.agent 0) 32 15 ((List.range 128).map fun j => ⟨j, 0, (0x1000 + 32 * j) % 2 ^ 64, 0⟩)).2.flatMap fun q => leBytes 32 q.2).drop (2 * k)).take 2)
theorem witness_decode_entries :
    (tableEntry 0x83FE 2 / 2 ^ 15 = 1 ∧ isShipping (decide (1024 ≤ 2)) (tableEntry 0x83FE 2 % 1024) = false) ∧ tableEntry 0x400 2 / 1024 % 32 ≠ 0 := by decide +kernel
/-! ## Memory (O41 to O44) -/

/-- Nothing is cached in these states, no line is lost, and no tile has replicas. -/
theorem only_dt {s : State} (h : s.cache = []) : s.onlyDt := by intro c hc; rw [h] at hc; simp at hc
theorem one_copy {s : State} (h : s.cache = []) : Sys2Proof.Machine.State.oneCopy s := by intro c hc; rw [h] at hc; simp at hc
theorem no_replica {s : State} (h : (s.ctxOf s.cur.g).halos = []) : s.noReplica := by intro x hx; rw [h] at hx; simp at hx

/-- What holds of an access to the mapped page, besides its alignment. -/
abbrev plain (s t : State) : Prop :=
  (s.grp s.cur.g).shadow = none ∧ t.cache = [] ∧ t.orphans = [] ∧ (t.ctxOf t.cur.g).halos = [] ∧ (t.ctxOf t.cur.g).regions = [] ∧ s.partNo s.cur.g < 4 ∧
  (t.agent t.cur.g).crew < t.crews.length

/-- ld and ldl at the end of the mapped page, lds at the end of the window, ldc in the constant store, and bases that are not aligned. -/
theorem witness_loads :
    (At (.ld none 0 3 1 15 2) (reg 1 0xFF00) fun s t => plain s t ∧ let i : Instr := .ld none 0 3 1 15 2
      t.sweepBase i 4 % 4 = 0 ∧ let p := t.planSpace (t.agent 0) 0 .load i.eb (t.sweep i (t.sweepBase i 4) 0); p.void = none ∧ p.bad = 0) ∧
    (At (.ld none 0 3 1 15 2) (reg 1 0xFF02) fun _ t => t.sweepBase (.ld none 0 3 1 15 2) 4 % 4 ≠ 0) ∧
    (At (.ldl none 0 3 1 15 2) (reg 1 0xFF00) fun s t => plain s t ∧ let i : Instr := .ldl none 0 3 1 15 2
      t.sweepBase i 256 % 256 = 0 ∧ let p := t.planSpace (t.agent 0) 0 .load i.eb (t.sweep i (t.sweepBase i 256) 0); p.void = none ∧ p.bad = 0) ∧
    (At (.ldl none 0 3 1 15 2) (reg 1 0xFF04) fun _ t => t.sweepBase (.ldl none 0 3 1 15 2) 256 % 256 ≠ 0) ∧
    (At (.lds none 0 3 1 2) (reg 1 65280) fun s t => plain s t ∧ let i : Instr := .lds none 0 3 1 2
      t.sweepBase i 4 % 4 = 0 ∧ let p := t.planSpace (t.agent 0) 1 .load i.eb (t.sweep i (t.sweepBase i 4) 0); p.void = none ∧ p.bad = 0) ∧
    (At (.ldc none 0 3 1 2) (reg 1 131072) fun _ t => ¬ (t.planSpace (t.agent 0) 2 .load 4 (t.sweep (.ldc none 0 3 1 2) (t.sweepBase (.ldc none 0 3 1 2) 4) 0)).bad = 0) ∧
    (At (.ldc none 0 3 1 2) (reg 1 130816) fun s t => plain s t ∧ let i : Instr := .ldc none 0 3 1 2
      t.sweepBase i 4 % 4 = 0 ∧ let p := t.planSpace (t.agent 0) 2 .load i.eb (t.sweep i (t.sweepBase i 4) 0); p.void = none ∧ p.bad = 0) := by decide +kernel

/-- sld in each space, beyond the last, and misaligned; and the address of an element that a walk of the page gives. -/
theorem witness_scalar_loads :
    (At (.sld 0 3 1 15 3) (reg 1 0xFFF8) fun s t => plain s t ∧ (t.lead (.sld 0 3 1 15 3) .A).toNat % 8 = 0 ∧ (t.lead (.sld 0 3 1 15 3) .A).toNat / 2 ^ 52 = 0 ∧
      let p := t.planSpace (t.agent 0) 0 .load 8 [⟨0, lowest s.cur.lanes, 0xFFF8, 0⟩]; p.void = none ∧ p.trap = none) ∧
    (At (.sld 0 3 1 15 3) (reg 1 0x0010_0000_0000_FFF8) fun s t => (t.lead (.sld 0 3 1 15 3) .A).toNat / 2 ^ 52 = 1 ∧
      let p := t.planSpace (t.agent 0) 1 .load 8 [⟨0, lowest s.cur.lanes, 0xFFF8, 0⟩]; p.void = none ∧ p.trap = none) ∧
    (At (.sld 0 3 1 15 3) (reg 1 0x0020_0000_0001_FFF8) fun s t => (t.lead (.sld 0 3 1 15 3) .A).toNat / 2 ^ 52 = 2 ∧
      let p := t.planSpace (t.agent 0) 2 .load 8 [⟨0, lowest s.cur.lanes, 0x1FFF8, 0⟩]; p.void = none ∧ p.trap = none) ∧
    (At (.sld 0 3 1 15 3) (reg 1 0x0030_0000_0000_0000) fun _ t => 2 < (t.lead (.sld 0 3 1 15 3) .A).toNat / 2 ^ 52) ∧
    (At (.sld 0 3 1 15 3) (reg 1 4) fun _ t => (t.lead (.sld 0 3 1 15 3) .A).toNat % 8 ≠ 0) := by decide +kernel

theorem witness_place_of : let t := (issuing (.ld none 0 3 1 15 2) (reg 1 0x100)).issued (.ld none 0 3 1 15 2)
    ∃ x, t.placeOf .load (t.elAddr (.ld none 0 3 1 15 2) 4 63) x := by
  have h : ∃ y, ((issuing (.ld none 0 3 1 15 2) (reg 1 0x100)).issued (.ld none 0 3 1 15 2)).reach 0 0 false .load 0x100 = .ok y ∧ True := reach_ok (by decide +kernel)
  have e : ((issuing (.ld none 0 3 1 15 2) (reg 1 0x100)).issued (.ld none 0 3 1 15 2)).elAddr (.ld none 0 3 1 15 2) 4 63 = 0x1FC := by decide +kernel
  have a : (((issuing (.ld none 0 3 1 15 2) (reg 1 0x100)).issued (.ld none 0 3 1 15 2)).agent 0).quad = 0 ∧ (((issuing (.ld none 0 3 1 15 2) (reg 1 0x100)).issued (.ld none 0 3 1 15 2)).agent 0).ctx = 0 ∧
      (((issuing (.ld none 0 3 1 15 2) (reg 1 0x100)).issued (.ld none 0 3 1 15 2)).agent 0).user = false := by decide +kernel
  obtain ⟨y, hy, -⟩ := h
  refine ⟨_, y, ?_, rfl⟩
  show State.reach _ _ _ _ .load (256 * (State.elAddr _ _ 4 63 / 256)) = _
  rw [e]
  have g : ((issuing (.ld none 0 3 1 15 2) (reg 1 0x100)).issued (.ld none 0 3 1 15 2)).cur.g = 0 := by decide +kernel
  rw [g, a.1, a.2.1, a.2.2]
  exact hy

/-- ld of 32-bit elements two to a lane from the bytes that stand at VA 0x100, sign extended by nothing; ldl reads a lane's own line place (R160, R164). -/
theorem test_loads :
    res (.ld none 0 3 1 15 2) (fun s => reg 1 0x100 (s.writeDram 0 0x30100 (leBytes 8 0x00000002_00000001))) 3 0 = 0x00000002_00000001 ∧
    res (.lds none 0 3 1 2) (fun s => reg 1 8 (win 8 8 0x1122334455667788 s)) 3 0 = 0x1122334455667788 ∧
    res (.sld 0 3 1 15 1) (fun s => reg 1 0x0010_0000_0000_0008 (win 8 8 0x1122334455667788 s)) 3 31 = 0x7788 := by decide +kernel

/-- st at the end of the page and misaligned, and in a continuation; sts at the end of the window. -/
theorem witness_stores :
    (At (.st none 0 3 1 15 2) (reg 1 0xFF00) fun s t => plain s t ∧ let i : Instr := .st none 0 3 1 15 2
      t.sweepBase i i.eb % i.eb = 0 ∧ let p := t.planSpace (t.agent 0) 0 .store i.eb (t.sweep i (t.sweepBase i i.eb) (t.src i .D)); p.void = none ∧ p.bad = 0) ∧
    (At (.st none 0 3 1 15 2) (reg 1 2) fun _ t => t.sweepBase (.st none 0 3 1 15 2) 4 % 4 ≠ 0) ∧
    (At (.st none 0 3 1 15 2) (fun s => grp (fun g => { g with shadow := some 0 }) (reg 1 0xFF00 s)) fun s t => (s.grp 0).shadow.isSome = true ∧ let i : Instr := .st none 0 3 1 15 2
      (t.planSpace (t.agent 0) 0 .store i.eb (t.sweep i (t.sweepBase i i.eb) (t.src i .D))).void = none) ∧
    (At (.sts none 0 3 1 2) (reg 1 65280) fun s t => plain s t ∧ let i : Instr := .sts none 0 3 1 2
      t.sweepBase i i.eb % i.eb = 0 ∧ (t.planSpace (t.agent 0) 1 .store i.eb (t.sweep i (t.sweepBase i i.eb) (t.src i .D))).bad = 0) ∧
    (At (.sts none 0 3 1 2) (grp fun g => { g with shadow := some 0 }) fun s _ => (s.grp 0).shadow.isSome = true) ∧
    (At (.sts none 0 3 1 2) (reg 1 1) fun _ t => t.sweepBase (.sts none 0 3 1 2) 4 % 4 ≠ 0) := by decide +kernel

/-- sst in each space, beyond the last, and misaligned. -/
theorem witness_scalar_stores :
    (At (.sst 0 3 1 15 3) (reg 1 0xFFF8) fun s t => plain s t ∧ let p := t.planSpace (t.agent 0) 0 .store 8 [⟨0, lowest s.cur.lanes, 0xFFF8, 0⟩]; p.void = none ∧ p.trap = none) ∧
    (At (.sst 0 3 1 15 3) (reg 1 0x0010_0000_0000_FFF8) fun s t => plain s t ∧ let p := t.planSpace (t.agent 0) 1 .store 8 [⟨0, lowest s.cur.lanes, 0xFFF8, 0⟩]; p.void = none ∧ p.trap = none) ∧
    (At (.sst 0 3 1 15 3) (reg 1 0x0020_0000_0001_FFF8) fun s t => plain s t ∧ let p := t.planSpace (t.agent 0) 2 .store 8 [⟨0, lowest s.cur.lanes, 0x1FFF8, 0⟩]; p.void = none ∧ p.trap = none) ∧
    (At (.sst 0 3 1 15 3) (reg 1 0x0030_0000_0000_0000) fun _ t => 2 < (t.lead (.sst 0 3 1 15 3) .A).toNat / 2 ^ 52) ∧
    (At (.sst 0 3 1 15 3) (reg 1 0xC) fun _ t => (t.lead (.sst 0 3 1 15 3) .A).toNat % 8 ≠ 0) := by decide +kernel

/-- st writes two 32-bit elements of lane 0 at 0x200 and no byte behind the last of lane 31; sts writes the window; sst the constant store (R160, R164, R165). -/
theorem test_stores :
    Mem.num (done (.st none 0 3 1 15 2) (fun s => reg 1 0x200 (reg 3 0x00000007_00000009 s))).dram 0x30200 8 = 0x00000007_00000009 ∧
    Mem.num (done (.st none 0 3 1 15 2) (fun s => reg 1 0x200 (reg 3 0x00000007_00000009 s))).dram 0x30300 8 = 0 ∧
    Mem.num ((done (.sts none 0 3 1 2) (fun s => reg 1 16 (reg 3 0x00000007_00000009 s))).crewOf 0).scratch 20 4 = 7 ∧
    Mem.num (done (.sst 0 3 1 15 1) (fun s => reg 1 0x0020_0000_0000_0010 (reg 3 0x12345 s))).const 16 4 = 0x2345 := by decide +kernel

/-- Lines of the mapped page to fetch ahead, to pin with a quota of one line and with none, and to unpin. -/
theorem witness_cache_operations :
    (At (.prf none 0 1 15 2) (reg 1 0x100) fun s t => s.cur.g < s.groups.length ∧ t.sweepBase (.prf none 0 1 15 2) 4 % 4 = 0 ∧ t.cache = []) ∧
    (At (.prf none 0 1 15 2) (reg 1 1) fun _ t => t.sweepBase (.prf none 0 1 15 2) 4 % 4 ≠ 0) ∧
    (∃ x, ((issuing (.pin none 0 3 1 2) (ctx fun c => { c with pinq := 0x10001 })).issued (.pin none 0 3 1 2)).reach 0 0 false .load 0 = .ok x ∧
      let t := (issuing (.pin none 0 3 1 2) (ctx fun c => { c with pinq := 0x10001 })).issued (.pin none 0 3 1 2)
      x.host = false ∧ t.pinFault (t.agent 0) 0 x = none ∧ ∀ v ∈ t.pinLevels (t.agent 0) x 2, t.pinRefusal (t.agent 0) x v = 0) ∧
    (∃ x, ((issuing (.pin none 0 3 1 1) id).issued (.pin none 0 3 1 1)).reach 0 0 false .load 0 = .ok x ∧
      let t := (issuing (.pin none 0 3 1 1) id).issued (.pin none 0 3 1 1)
      x.host = false ∧ t.pinFault (t.agent 0) 0 x = none ∧ ∀ v ∈ t.pinLevels (t.agent 0) x 1, t.pinRefusal (t.agent 0) x v = 2) ∧
    (∃ x, ((issuing (.unpin none 0 3 1 1) id).issued (.unpin none 0 3 1 1)).reach 0 0 false .load 0 = .ok x ∧
      let t := (issuing (.unpin none 0 3 1 1) id).issued (.unpin none 0 3 1 1)
      x.host = false ∧ ∀ v ∈ t.pinLevels (t.agent 0) x 1, t.unpinRefusal (t.agent 0) x v ≠ 0) :=
  ⟨by decide +kernel, by decide +kernel, reach_ok (by decide +kernel), reach_ok (by decide +kernel), reach_ok (by decide +kernel)⟩

/-- A line that has been pinned once in the quad's L1, which unpin frees. -/
theorem witness_unpin : let c : CLine := ⟨0, 0, 0, 0, 0x300, .dt .S, 0, false, 0, 1, 0⟩
    ∃ x, ((issuing (.unpin none 0 3 1 1) (fun s => { s with cache := [c] })).issued (.unpin none 0 3 1 1)).reach 0 0 false .load 0 = .ok x ∧
      let t := (issuing (.unpin none 0 3 1 1) (fun s => { s with cache := [c] })).issued (.unpin none 0 3 1 1)
      x.host = false ∧ ∀ v ∈ t.pinLevels (t.agent 0) x 1, t.unpinRefusal (t.agent 0) x v = 0 ∧ t.copyIn v.cache 0 (lineOf x.pa) = some c := reach_ok (by decide +kernel)

/-- pin of a line at both levels with a quota of one each: status 0, and the L1 holds it pinned; with no quota the status is 2 (R175). -/
theorem test_pin :
    res (.pin none 0 3 1 2) (ctx fun c => { c with pinq := 0x10001 }) 3 31 = 0 ∧
    (((done (.pin none 0 3 1 1) (ctx fun c => { c with pinq := 1 })).copyIn 0 0 0x300).map fun c => c.pins) = some 1 ∧ res (.pin none 0 3 1 0) id 3 0 = 2 := by decide +kernel

/-- Ranges of no line, of the most lines, and of one more; a base that is not aligned; and an SI page with a dirty copy in the quad. -/
theorem witness_self_invalidation :
    (At (.sinv none 0 3 1) (fun s => reg 1 0x100 (reg 3 4096 s)) fun s t => s.cur.g < s.groups.length ∧ t.sweepBase (.sinv none 0 3 1) 256 % 256 = 0 ∧
      (t.lead (.sinv none 0 3 1) .D).toNat ≤ 4096 ∧ t.cache = []) ∧
    (At (.swb none 0 3 1) (reg 3 4097) fun _ t => 4096 < (t.lead (.swb none 0 3 1) .D).toNat) ∧
    (At (.swbInv none 0 3 1) (reg 1 0x10) fun _ t => t.sweepBase (.swbInv none 0 3 1) 256 % 256 ≠ 0) ∧
    (At (.swb none 0 3 1) (fun s => reg 3 2 { s with cache := [⟨0, 0, 0, 0, 0x300, .si 7 1 true, 0, false, 0, 0, 0⟩] }) fun _ t =>
      (t.tlb.any fun e => e.covers 0 0 0) = true ∧ (t.tlb.any fun e => e.covers 0 0 256) = true ∧ (t.siCopy 0 0 0x300).isSome = true ∧ t.cache.length = 1) := by decide +kernel

/-- hdef that releases a tile, one with a base that is not aligned, one with a bad geometry, and one of 2 rows of 2 sectors in the mapped page. -/
theorem witness_halo :
    (At (.hdef 0 3 1 2) id fun _ t => (haloOf (t.lead (.hdef 0 3 1 2) .A) (t.lead (.hdef 0 3 1 2) .B)).rows = 0) ∧
    (At (.hdef 0 3 1 2) (fun s => reg 1 16 (reg 2 0x0001_1100_0200_2002 s)) fun _ t => let h := haloOf (t.lead (.hdef 0 3 1 2) .A) (t.lead (.hdef 0 3 1 2) .B)
      h.rows ≠ 0 ∧ h.base.toNat % 32 ≠ 0) ∧
    (At (.hdef 0 3 1 2) (fun s => reg 2 0x0001_1100_0100_2002 s) fun _ t => let h := haloOf (t.lead (.hdef 0 3 1 2) .A) (t.lead (.hdef 0 3 1 2) .B)
      h.rows ≠ 0 ∧ h.base.toNat % 32 = 0 ∧ (t.dropHalo 0 3).haloBad 0 h (t.lead (.hdef 0 3 1 2) .B) = true) ∧
    (At (.hdef 0 3 1 2) (fun s => reg 2 0x0001_1100_0200_2002 s) fun _ t => let h := haloOf (t.lead (.hdef 0 3 1 2) .A) (t.lead (.hdef 0 3 1 2) .B)
      (t.dropHalo 0 3).haloBad 0 h (t.lead (.hdef 0 3 1 2) .B) = false ∧ (match (t.dropHalo 0 3).haloPages 0 0 h with | .ok none => true | _ => false) = true ∧
      ((t.dropHalo 0 3).ctx 0).haloMeets h = false ∧ 0 < t.ctxs.length) ∧
    (At (.hdef 0 3 1 2) (fun s => reg 2 0x0001_1100_0200_2002 (ctx (fun c => { c with halos := [(4, haloOf 0 0x0001_1100_0200_2002)] }) s)) fun _ t =>
      let h := haloOf (t.lead (.hdef 0 3 1 2) .A) (t.lead (.hdef 0 3 1 2) .B)
      ((t.dropHalo 0 3).ctx 0).haloMeets h = true) := by decide +kernel

/-- Atomics on the last aligned place of the page, one lane apart from another. -/
theorem witness_atomics : ∀ i ∈ ([.atom none 0 3 1 15 0, .acas none 0 3 1 15 0, .abinc none 0 3 1 15 0, .atom (some ⟨0, 0, 0, 0, 0, 1⟩) 0 3 1 15 1] : List Instr),
    At i (fun s => regs 1 (fun l => BitVec.ofNat 64 (0xFFF8 - 8 * l)) s) fun s t => plain s t ∧ s.cur.g < s.groups.length ∧
      (∀ l < 32, (laneOf (t.src i .A) l).toNat % (i.width / 8) = 0) ∧ (∀ e ∈ t.tlb, 8 ≤ e.log) ∧ (t.takesPart i 64 0 = true) ∧
      let elts : List Elt := ((lanesOf s.cur.lanes).filter fun l => t.takesPart i 64 l).map fun l => ⟨l, l, (laneOf (t.src i .A) l).toNat, 0⟩
      (t.plan (t.agent 0) .atomic i.width elts).void = none ∧ (t.plan (t.agent 0) .atomic i.width elts).bad = 0 := by decide +kernel

/-- Every line of the mapped page is DT memory of the device. -/
theorem witness_atomic_pages : ∀ k < 256, (match ((issuing (.atom none 0 3 1 15 0) id).issued (.atom none 0 3 1 15 0)).reach 0 0 false .store (256 * k) with
    | .ok y => y.host == false && y.attr == 0 | _ => false) = true := by decide +kernel

/-- A load in a continuation that meets no fork boundary. -/
theorem witness_forked_load : At (.ld none 0 3 1 15 2) (fun s => grp (fun g => { g with shadow := some 0 }) (reg 1 0x100 s)) fun s t => let i : Instr := .ld none 0 3 1 15 2
    (s.grp 0).shadow.isSome = true ∧ let p := t.planSpace t.unitAgent 0 .load i.eb (t.sweep i (t.sweepBase i 4) 0)
      p.void = none ∧ p.bad = 0 ∧ t.forkStops t.unitAgent 0 .load i.eb s.cur.lanes (t.sweep i (t.sweepBase i 4) 0) p = 0 := by decide +kernel

/-- 32 lanes add 1 to one word that holds 5: each reads another value between 5 and 36, and 37 stands there; a compare that fails leaves the word (R213, R214). -/
theorem test_atomics : let f := fun s => reg 1 0x100 (reg 3 1 (s.writeDram 0 0x30100 [5]))
    Mem.num (done (.atom none 0 3 1 15 0) f).dram 0x30100 4 = 37 ∧ res (.atom none 0 3 1 15 0) f 3 0 = 5 ∧ res (.atom none 0 3 1 15 0) f 3 31 = 36 ∧
    Mem.num (done (.acas none 0 3 1 15 0) f).dram 0x30100 4 = 5 ∧ res (.acas none 0 3 1 15 0) f 3 7 = 5 ∧ Mem.num (done (.abinc none 0 3 1 15 0) f).dram 0x30100 4 = 5 := by
  decide +kernel

/-! ## Rooms, fences, barriers, buffers (O45 to O47) -/

/-- The same as At, with only some lanes active. -/
abbrev AtIn (ls : Lanes) (i : Instr) (f : State → State) (P : State → State → Prop) : Prop :=
  (fresh (issuingIn ls i f).cur = true ∧ ((issuingIn ls i f).begin i).gate i = .pass) ∧ P (issuingIn ls i f) ((issuingIn ls i f).issued i)
/-- A region that no rdecl names and a mode that a region lacks; four rooms held; rooms out of order; a broken region; an empty region, one open in the mode and one open
in another; OWN into an occupied room; and a draining one. -/
theorem witness_entries :
    ((issuing (.enter 0 3 1 0) id).ctx 0).region 0 = none ∧
    ((issuing (.enter 0 3 1 0) (rooms [(0, { plainRegion with modes := 2 })])).ctx 0).region 0 = some { plainRegion with modes := 2 } ∧
    ((issuing (.enter 0 3 1 0) (hold [⟨1, 0⟩, ⟨2, 0⟩, ⟨3, 0⟩, ⟨4, 0⟩])).lane 0 0).holds.length = 4 ∧ ((issuing (.enter 0 3 1 0) (hold [⟨1, 0⟩])).lane 0 0).holds = [⟨1, 0⟩] ∧
    (issuing (.enter 0 3 1 0) (rooms [(2, { plainRegion with open_ := some 0, admitting := true })])).entryOf 0 0 0 2 0 false = .letIn ∧
    (issuing (.enter 0 3 1 0) (rooms [(2, plainRegion)])).entryOf 0 0 0 2 4 false = .letIn ∧
    (issuing (.enter 0 3 1 0) (rooms [(2, { plainRegion with open_ := some 3, admitting := true })])).entryOf 0 0 0 2 0 true = .status 1 ∧
    (issuing (.enter 0 3 1 0) (fun s => hold [⟨2, 4⟩] (rooms [(2, { plainRegion with open_ := some 4, admitting := true })] s))).entryOf 0 0 1 2 4 true = .status 1 ∧
    (issuing (.enter 0 3 1 0) (rooms [(2, { plainRegion with drain := true })])).entryOf 0 0 0 2 0 false = .park ∧
    (issuing (.enter 0 3 1 0) (rooms [(2, { plainRegion with broken := true })])).entryOf 0 0 0 2 0 true = .status 2 ∧
    (issuing (.enter 0 3 1 0) (rooms [(2, { plainRegion with broken := true })])).entryOf 0 0 0 2 0 false = .fault cROOMBROKEN 0x01 := by decide +kernel

/-- One lane that is let in, that reads a status, that parks, and that faults. -/
theorem witness_enter :
    (AtIn 1 (.enter 0 3 1 0) (rooms [(0, plainRegion)]) fun s t => s.cur.lanes = BitVec.twoPow 32 0 ∧ t.entryOf 0 0 0 (laneOf (t.src (.enter 0 3 1 0) .A) 0).toNat 0 false = .letIn) ∧
    (AtIn 1 (.enterTry 0 3 1 0) (rooms [(0, plainRegion)]) fun s t => s.cur.lanes = BitVec.twoPow 32 0 ∧
      t.entryOf 0 0 0 (laneOf (t.src (.enterTry 0 3 1 0) .A) 0).toNat 0 true = .letIn) ∧
    (AtIn 0x80000000 (.enterTry 0 3 1 0) (rooms [(0, { plainRegion with open_ := some 1 })]) fun s t => s.cur.lanes = BitVec.twoPow 32 31 ∧
      t.entryOf 0 0 31 (laneOf (t.src (.enterTry 0 3 1 0) .A) 31).toNat 0 true = .status 1) ∧
    (AtIn 1 (.enter 0 3 1 0) (rooms [(0, { plainRegion with open_ := some 1 })]) fun s t => s.cur.lanes = BitVec.twoPow 32 0 ∧ 0 < t.ctxs.length ∧
      t.entryOf 0 0 0 (laneOf (t.src (.enter 0 3 1 0) .A) 0).toNat 0 false = .park) ∧
    (AtIn 1 (.enter 0 3 1 0) id fun s t => s.cur.lanes = BitVec.twoPow 32 0 ∧ t.entryOf 0 0 0 (laneOf (t.src (.enter 0 3 1 0) .A) 0).toNat 0 false = .fault cROOMMODE 0x02) := by
  decide +kernel

/-- One lane that leaves the room it holds, in a quiet group and in one that is not; lanes without the hold; a region to report; a declaration that is made, one that
has to wait, one that traps, and one that releases the entry. -/
theorem witness_rooms :
    (AtIn 1 (.leave 0 1) (hold [⟨0, 0⟩]) fun s t => s.cur.lanes ≠ 0 ∧ s.cur.rdone = false ∧ t.mayRelease (.leave 0 1) = true ∧
      ∀ l < 32, s.cur.lanes.getLsbD l = true → ((t.lane 0 l).holdOf (laneOf (t.src (.leave 0 1) .A) l).toNat).isSome) ∧
    (AtIn 1 (.leave 0 1) (fun s => unquiet (hold [⟨0, 0⟩] s)) fun s t => s.cur.lanes ≠ 0 ∧ t.mayRelease (.leave 0 1) = false ∧
      ∀ l < 32, s.cur.lanes.getLsbD l = true → ((t.lane 0 l).holdOf (laneOf (t.src (.leave 0 1) .A) l).toNat).isSome) ∧
    (At (.leave 0 1) id fun s t => s.cur.lanes ≠ 0 ∧ ∀ l < 32, s.cur.lanes.getLsbD l = true → ((t.lane 0 l).holdOf (laneOf (t.src (.leave 0 1) .A) l).toNat) = none) ∧
    (At (.rstat 0 3 1) (rooms [(0, { plainRegion with demands := [⟨0, 0, 4⟩], open_ := some 3 })]) fun _ t =>
      (t.ctx 0).region (laneOf (t.src (.rstat 0 3 1) .A) 0).toNat = some { plainRegion with demands := [⟨0, 0, 4⟩], open_ := some 3 }) ∧
    (At (.rstat 0 3 1) id fun _ t => (t.ctx 0).region (laneOf (t.src (.rstat 0 3 1) .A) 0).toNat = none) ∧
    (At (.rdecl 0 3 1 2) (reg 2 0x1F0000) fun s t => s.cur.rdone = false ∧ t.mayRelease (.rdecl 0 3 1 2) = true ∧ 0 < t.ctxs.length ∧
      (t.release 0 3).rdeclFault (t.agent 0).quad 0 0 0 0x1F0000 (regionOf 0 0 0x1F0000) = .ok none ∧ t.lead (.rdecl 0 3 1 2) .B = 0x1F0000) ∧
    (At (.rdecl 0 3 1 2) (fun s => unquiet (reg 2 0x1F0000 s)) fun s t => s.cur.rdone = false ∧ t.mayRelease (.rdecl 0 3 1 2) = false) ∧
    (At (.rdecl 0 3 1 2) id fun s t => s.cur.rdone = false ∧ t.mayRelease (.rdecl 0 3 1 2) = true ∧
      (t.release 0 3).rdeclFault (t.agent 0).quad 0 0 0 0 (regionOf 0 0 0) = .ok none) ∧
    (At (.rdecl 0 3 1 2) (reg 1 0x80) fun s t => s.cur.rdone = false ∧ t.mayRelease (.rdecl 0 3 1 2) = true ∧
      ∃ tr, (t.release 0 3).rdeclFault (t.agent 0).quad 0 0 0 0 (regionOf 0 0x80 0) = .ok (some tr)) := by
  refine ⟨?_, ?_, ?_, ?_, ?_, ?_, ?_, ?_, ⟨?_, ?_, ?_, _, rfl⟩⟩ <;> decide +kernel

/-- Two lanes enter an empty region for READ: the first opens the room, the second is let in too; OWN takes one and turns the other away with status 1; the report of a region
open for WRITE, admitting, with head 1 and tail 3 (R202, R204). -/
theorem test_rooms :
    res (.enterTry 0 3 1 0) (rooms [(0, plainRegion)]) 3 1 = 0 ∧
    (((done (.enter 0 3 1 0) (rooms [(0, plainRegion)])).ctx 0).region 0).map (fun q => (q.open_, q.admitting)) = some (some 0, true) ∧
    res (.enterTry 0 3 1 4) (rooms [(0, plainRegion)]) 3 0 = 0 ∧ res (.enterTry 0 3 1 4) (rooms [(0, plainRegion)]) 3 1 = 1 ∧
    res (.rstat 0 3 1) (rooms [(0, { plainRegion with open_ := some 3, admitting := true, head := 1, tail := 3 })]) 3 5 = 0x0000_0270_0000_008B := by decide +kernel

/-- Fences with each bit, quiet or not. -/
theorem witness_fences :
    (∀ i ∈ ([.fence 0 0 1, .fence 0 1 2, .fence 0 3 3, .fence 0 4 3] : List Instr), At i id fun s t => s.cur.g < s.groups.length ∧ s.cur.rdone = false ∧ t.mayRelease i = true) ∧
    (At (.fence 0 2 2) unquiet fun s t => s.cur.rdone = false ∧ t.mayRelease (.fence 0 2 2) = false) := by decide +kernel

/-- Arrivals that have to wait, that raise a trap, that are the last and not the last; waits that are over and not over. -/
theorem witness_barriers :
    (At (.barSync 0 1 1 0) unquiet fun s t => s.cur.rdone = false ∧ t.mayRelease (.barSync 0 1 1 0) = false) ∧
    (At (.barSync 0 1 1 0) (reg 1 2) fun s t => s.cur.rdone = false ∧ t.mayRelease (.barSync 0 1 1 0) = true ∧ let p := (t.release 0 0).barAt 0 1 0
      (p.1.bars[p.2]?).isSome = true ∧ (∀ b ∈ p.1.bars[p.2]?, p.1.barFault 0 1 0 2 b = none ∧ b.cnt + 1 ≠ 2) ∧
      let x := p.1.barArrive 0 1 0 2 p.2
      x.lost (.barSync 0 1 1 0) = false ∧ x.barMet x.bars 0 1 0 = false) ∧
    (At (.barSync 0 1 1 0) (reg 1 1) fun s t => s.cur.rdone = false ∧ t.mayRelease (.barSync 0 1 1 0) = true ∧ let p := (t.release 0 0).barAt 0 1 0
      (p.1.bars[p.2]?).isSome = true ∧ (∀ b ∈ p.1.bars[p.2]?, p.1.barFault 0 1 0 1 b = none ∧ b.cnt + 1 = 1) ∧
      let x := p.1.barArrive 0 1 0 1 p.2
      x.lost (.barSync 0 1 1 0) = false ∧ x.barMet x.bars 0 1 0 = true) ∧
    (At (.barArrive 0 1 1 1) (reg 1 1) fun s t => s.cur.rdone = false ∧ t.mayRelease (.barArrive 0 1 1 1) = true ∧ let p := (t.release 0 1).barAt 0 1 1
      (p.1.bars[p.2]?).isSome = true ∧ ∀ b ∈ p.1.bars[p.2]?, p.1.barFault 0 1 1 1 b = none) ∧
    (At (.barArrive 0 1 1 2) id fun s t => s.cur.rdone = false ∧ t.mayRelease (.barArrive 0 1 1 2) = true ∧ let p := (t.release 0 2).barAt 0 1 2
      (p.1.bars[p.2]?).isSome = true ∧ ∀ b ∈ p.1.bars[p.2]?, p.1.barFault 0 1 2 0 b ≠ none) ∧
    (At (.barArrive 0 1 1 0) (fun s => reg 1 3 { s with bars := [⟨0, some 0, 1, 0, 0, 0, 1, 2, false, 0⟩] }) fun _ t => let p := (t.release 0 0).barAt 0 1 0
      p.1.bars[p.2]? = some ⟨0, some 0, 1, 0, 0, 0, 1, 2, false, 0⟩ ∧ p.1.barFault 0 1 0 3 ⟨0, some 0, 1, 0, 0, 0, 1, 2, false, 0⟩ ≠ none) ∧
    (At (.barWait 0 1 1 0) (grp fun g => { g with bars := [⟨1, 0, 0⟩] }) fun s t => s.cur.rdone = false ∧ t.lost (.barWait 0 1 1 0) = false ∧ t.barMet t.bars 0 1 0 = false) ∧
    (At (.barWait 0 1 1 0) id fun s t => s.cur.rdone = false ∧ t.lost (.barWait 0 1 1 0) = false ∧ t.barMet t.bars 0 1 0 = true) := by decide +kernel

/-- A word of a phased barrier: misplaced, beyond the window, bad, and good; each phase. -/
theorem witness_phased_barriers :
    (∀ i ∈ ([.pbarInit 0 1 2, .pbarArrive 0 1, .pbarWait 0 1 2] : List Instr),
      (At i (reg 1 4) fun s t => s.cur.rdone = false ∧ (t.lead i .A).toNat % 8 ≠ 0) ∧ (At i (reg 1 65536) fun _ t => (t.lead i .A).toNat % 8 = 0 ∧ (t.crewOf 0).window < (t.lead i .A).toNat + 8) ∧
      (At i (reg 1 65528) fun _ t => (t.lead i .A).toNat % 8 = 0 ∧ (t.lead i .A).toNat + 8 ≤ (t.crewOf 0).window ∧ t.mayRelease i = true ∧ t.lost i = false ∧
        Mem.num (t.crewOf 0).scratch 65528 8 % 2 ^ 16 = 0)) ∧
    (At (.pbarInit 0 1 2) (reg 2 0x10001) fun _ t => (t.lead (.pbarInit 0 1 2) .B).toNat % 2 ^ 16 = 1) ∧
    (At (.pbarArrive 0 1) unquiet fun _ t => t.mayRelease (.pbarArrive 0 1) = false) ∧
    (At (.pbarArrive 0 1) (win 0 8 0x2_0001_0002) fun _ t => ∃ w, w = Mem.num (t.crewOf 0).scratch 0 8 ∧ w / 2 ^ 33 ≠ 0) ∧
    (At (.pbarArrive 0 1) (win 0 8 0x0_0001_0002) fun _ t => ∃ w, w = Mem.num (t.crewOf 0).scratch 0 8 ∧ w % 2 ^ 16 = 2 ∧ w / 2 ^ 16 % 2 ^ 16 = 1 ∧ w / 2 ^ 33 = 0) ∧
    (At (.pbarWait 0 1 2) (win 0 8 0x1_0002_0002) fun _ t => Mem.num (t.crewOf 0).scratch 0 8 / 2 ^ 32 % 2 = 1 ∧ (t.lead (.pbarWait 0 1 2) .B).toNat % 2 = 0) ∧
    (At (.pbarWait 0 1 2) (win 0 8 0x0_0002_0002) fun _ t => Mem.num (t.crewOf 0).scratch 0 8 / 2 ^ 32 % 2 = 0) := by
  refine ⟨?_, ?_, ?_, ⟨?_, _, rfl, ?_⟩, ⟨?_, _, rfl, ?_⟩, ?_, ?_⟩ <;> decide +kernel

/-- The last arrival of two opens phase 1 with both pending again; the first of two barrier arrivals waits, a lone one goes on (R229, R231). -/
theorem test_barriers :
    Mem.num ((done (.pbarArrive 0 1) (win 0 8 0x0_0001_0002)).crewOf 0).scratch 0 8 = 0x1_0002_0002 ∧ Mem.num ((done (.pbarInit 0 1 2) (reg 2 3)).crewOf 0).scratch 0 8 = 0x30003 ∧
    ((done (.barSync 0 1 1 0) (reg 1 2)).grp 0).waits.length = 1 ∧ ((done (.barSync 0 1 1 0) (reg 1 1)).grp 0).waits.length = 0 := by decide +kernel

def sword (w : SyncWord) (s : State) : State := crew (fun c => { c with sw := c.sw.set 1 w }) s


/-- Declarations: misplaced, beyond the window, invalid, of a busy buffer, of one whose ends fit, and of none. -/
theorem witness_buffer_declarations :
    (At (.cbdef 0 1 1 2) (reg 1 16) fun _ t => (t.lead (.cbdef 0 1 1 2) .A).toNat % 32 ≠ 0) ∧
    (At (.cbdef 0 1 1 2) (fun s => reg 1 65504 (reg 2 0x100002 s)) fun _ t => let x := (t.lead (.cbdef 0 1 1 2) .A).toNat; let y := (t.lead (.cbdef 0 1 1 2) .B).toNat
      x % 32 = 0 ∧ bufInvalid x y = false ∧ (t.crew 0).window < (bufOf x y).base + (bufOf x y).cap * (bufOf x y).elem) ∧
    (At (.cbdef 0 1 1 2) (reg 2 0x100001) fun _ t => bufInvalid (t.lead (.cbdef 0 1 1 2) .A).toNat (t.lead (.cbdef 0 1 1 2) .B).toNat = true) ∧
    (At (.cbdef 0 1 1 2) (fun s => cbuf halfFull (reg 2 0x100002 s)) fun _ t => let x := (t.lead (.cbdef 0 1 1 2) .A).toNat; let y := (t.lead (.cbdef 0 1 1 2) .B).toNat
      x % 32 = 0 ∧ bufInvalid x y = false ∧ (bufOf x y).base + (bufOf x y).cap * (bufOf x y).elem ≤ (t.crew 0).window ∧ t.bufBusy 0 1 = true) ∧
    (At (.cbdef 0 1 1 2) (fun s => reg 1 65472 (reg 2 0x100002 s)) fun s t => let x := (t.lead (.cbdef 0 1 1 2) .A).toNat; let y := (t.lead (.cbdef 0 1 1 2) .B).toNat
      s.cur.rdone = false ∧ x % 32 = 0 ∧ bufInvalid x y = false ∧ (bufOf x y).base + (bufOf x y).cap * (bufOf x y).elem = (t.crew 0).window ∧ t.bufBusy 0 1 = false ∧
      (bufOf x y).hin = 0) := by decide +kernel

/-- Of each of the four forms: on no buffer, on the wrong side, of too many elements, of none, with room or data and without; moving a pointer only once quiet. -/
theorem witness_buffer_waits :
    (∀ i ∈ ([.cbadvPut 0 1 1, .cbadvWroom 0 1 1, .cbadvGet 0 1 1, .cbadvWdata 0 1 1] : List Instr),
      (At i id fun s t => s.cur.rdone = false ∧ ((t.crew 0).buf 1).cap = 0) ∧
      (At i (fun s => cbuf { halfFull with pside := .copy, cside := .index } s) fun _ t => ((t.crew 0).buf 1).cap ≠ 0 ∧ ((t.crew 0).buf 1).pside ≠ .groups ∧ ((t.crew 0).buf 1).cside ≠ .groups) ∧
      (At i (fun s => reg 1 5 (cbuf halfFull s)) fun _ t => ((t.crew 0).buf 1).pside = .groups ∧ ((t.crew 0).buf 1).cside = .groups ∧ ((t.crew 0).buf 1).hin = 0 ∧
        ((t.crew 0).buf 1).cap < (t.lead i .A).toNat % 2 ^ 16) ∧
      (At i (fun s => reg 1 0x10000 (cbuf halfFull s)) fun _ t => (t.lead i .A).toNat % 2 ^ 16 = 0) ∧
      (At i (fun s => reg 1 2 (cbuf halfFull s)) fun _ t => t.lost i = false ∧ t.mayRelease i = true ∧ let b := (t.crew 0).buf 1
        (t.lead i .A).toNat = 2 ∧ 2 ≤ b.cap - (b.pp - b.cp).toNat ∧ 2 ≤ (b.pp - b.cp).toNat) ∧
      (At i (fun s => reg 1 3 (cbuf halfFull s)) fun _ t => t.lost i = false ∧ t.mayRelease i = true ∧ let b := (t.crew 0).buf 1
        (t.lead i .A).toNat = 3 ∧ 3 ≤ b.cap ∧ ¬ 3 ≤ b.cap - (b.pp - b.cp).toNat ∧ ¬ 3 ≤ (b.pp - b.cp).toNat)) ∧
    (∀ i ∈ ([.cbadvPut 0 1 1, .cbadvGet 0 1 1] : List Instr), At i (fun s => unquiet (reg 1 2 (cbuf halfFull s))) fun _ t => t.mayRelease i = false) := by decide +kernel

/-- A sync word below its new target, at it, and with target 0; waits for a generation and for a count that are over and not over, and for a parked context. -/
theorem witness_sync_words :
    (At (.swarm 0 1 1) (fun s => reg 1 5 (sword ⟨0, 5, 7⟩ s)) fun s t => s.cur.rdone = false ∧ (t.crew 0).sw[1]? = some ⟨0, 5, 7⟩ ∧ (t.lead (.swarm 0 1 1) .A).toNat = 5) ∧
    (At (.swarm 0 1 1) (fun s => reg 1 6 (sword ⟨0, 5, 7⟩ s)) fun _ t => (t.crew 0).sw[1]? = some ⟨0, 5, 7⟩ ∧ (t.lead (.swarm 0 1 1) .A).toNat = 6) ∧
    (At (.swwait 0 1 1) (fun s => reg 1 6 (sword ⟨0, 5, 7⟩ s)) fun _ t => (t.crew 0).sw[1]? = some ⟨0, 5, 7⟩ ∧ (t.lead (.swwait 0 1 1) .A).toNat < 7) ∧
    (At (.swwait 0 1 1) (fun s => reg 1 7 (sword ⟨0, 5, 7⟩ s)) fun _ t => (t.crew 0).sw[1]? = some ⟨0, 5, 7⟩ ∧ 7 ≤ (t.lead (.swwait 0 1 1) .A).toNat) ∧
    (At (.tlwait 0 1 1) id fun _ t => (t.lead (.tlwait 0 1 1) .A).toNat ≤ ((t.crew 0).tline 1).count) ∧
    (At (.tlwait 0 1 1) (reg 1 1) fun _ t => ((t.crew 0).tline 1).count < (t.lead (.tlwait 0 1 1) .A).toNat ∧ t.parkDue 1 = none) ∧
    (At (.tlwait 0 0 1) (fun s => reg 1 1 (tline (fun x => { x with parked := some ⟨1, 0, plainTrap cENGINE 0x60, none, false⟩ }) s)) fun _ t =>
      ((t.crew 0).tline 0).count < (t.lead (.tlwait 0 0 1) .A).toNat ∧ t.parkDue 0 = some ⟨1, 0, plainTrap cENGINE 0x60, none, false⟩) := by decide +kernel

/-- put of two into a half full buffer fills it, and get of two empties it; swarm with target 5 of a word that counted 5 opens the next generation (R233, R245). -/
theorem test_buffers :
    ((done (.cbadvPut 0 1 1) (fun s => reg 1 2 (cbuf halfFull s))).crew 0).buf 1 = { halfFull with pp := 4 } ∧
    ((done (.cbadvGet 0 1 1) (fun s => reg 1 2 (cbuf halfFull s))).crew 0).buf 1 = { halfFull with cp := 2 } ∧
    ((done (.swarm 0 1 1) (fun s => reg 1 5 (sword ⟨0, 5, 7⟩ s))).crew 0).sw[1]? = some ⟨0, 0, 8⟩ ∧
    ((done (.cbdef 0 1 1 2) (fun s => reg 1 64 (reg 2 0x100002 s))).crew 0).buf 1 = ⟨64, 2, 0, .copy, .groups, 0, 0, 0⟩ := by decide +kernel

/-- A group of the crew has died, when its window and its buffers held nothing. -/
def bereaved (s : State) : State := crew (fun c => { c with failed := true, atDeath := some ⟨[], Vector.replicate 16 CircBuf.undeclared, []⟩ }) s

/-- Waits that the death of a peer has ended, each with its condition not met; and a poisoned word of a phased barrier. -/
theorem witness_peer_lost :
    (At (.barSync 0 1 1 0) (fun s => bereaved (reg 1 2 s)) fun s t => s.cur.rdone = false ∧ t.mayRelease (.barSync 0 1 1 0) = true ∧ let p := (t.release 0 0).barAt 0 1 0
      (∀ b ∈ p.1.bars[p.2]?, p.1.barFault 0 1 0 2 b = none) ∧ (p.1.barArrive 0 1 0 2 p.2).lost (.barSync 0 1 1 0) = true) ∧
    (At (.barWait 0 1 1 1) (fun s => bereaved (grp (fun g => { g with bars := [⟨1, 1, 0⟩] }) s)) fun _ t => t.lost (.barWait 0 1 1 1) = true) ∧
    (At (.pbarWait 0 1 2) (fun s => bereaved (win 0 8 0x2_0002 s)) fun _ t => t.lost (.pbarWait 0 1 2) = true ∧ t.boxPoison 0 0 8 = false) ∧
    (∀ i ∈ ([.cbadvWroom 0 1 1, .cbadvWdata 0 1 1] : List Instr), At i (fun s => bereaved (reg 1 3 (cbuf halfFull s))) fun _ t => t.lost i = true ∧ ((t.crew 0).buf 1).cap = 4) ∧
    (At (.pbarWait 0 1 2) (fun s => { s with poison := [.scratch 0 0] }) fun _ t => t.boxPoison 0 0 8 = true ∧ 8 ≤ (t.crewOf 0).window) := by decide +kernel

/-- A wait of a bereaved crew raises PEERLOST: where no trap is enabled that is the death of its group too (R325, R326). -/
theorem test_peer_lost : ((done (.cbadvWdata 0 1 1) (fun s => bereaved (reg 1 3 (cbuf halfFull s)))).grp 0).place = .dead := by decide +kernel
/-! ## Engines and launching (O48 to O50) -/

/-- The words of a block in registers 4 to 7; a tensor of 128 rows of 128 elements, 512 bytes apart, under identifier 0; a pod window 0. -/
def words (a b c d : Word) (s : State) : State := reg 4 a (reg 5 b (reg 6 c (reg 7 d s)))
def tens (fmt : Nat) (s : State) : State :=
  ctx (fun c => { c with tensors := [(0, #v[BitVec.ofNat 64 (fmt * 2 ^ 52), 0, 0x8000000080, 0x100000001, 512, 0, 0, 0x1_0000_0000])] }) s
def podwin (s : State) : State := ctx (fun c => { c with podwins := c.podwins.set 0 (3, 0, 0x1000) }) s
/-- The timeline is free for a command of an engine, and the command passes: as it stands, unbound, with room. -/
abbrev passes (i : Instr) (e : Engine) (f : State → State) (bad : State → Option TrapInfo) : Prop :=
  At i f fun s t => s.cur.g < s.groups.length ∧ t.parkDue 0 = none ∧ ((t.crew 0).tline 0).engine = none ∧ t.queueFull 0 e = false ∧ bad t = none ∧ (t.grp 0).crew < t.crews.length
abbrev fails (i : Instr) (f : State → State) (bad : State → Option TrapInfo) : Prop := At i f fun _ t => t.parkDue 0 = none ∧ (bad t).isSome

/-- A parked context of the group's own; a timeline bound to the engine and to another; a queue of the group that is full. -/
theorem witness_timelines :
    (At (.mclr 0 0 0 15) (tline fun x => { x with parked := some parkedCmd }) fun _ t => t.parkDue 0 = some parkedCmd) ∧
    (At (.mclr 0 0 0 15) (tline fun x => { x with engine := some .copy }) fun _ t => t.parkDue 0 = none ∧ ((t.crew 0).tline 0).engine = some .copy ∧ Engine.copy ≠ .matrix) ∧
    (At (.mclr 0 0 0 15) (tline fun x => { x with engine := some .matrix }) fun _ t => ((t.crew 0).tline 0).engine = some .matrix ∧ t.queueFull 0 .matrix = false) ∧
    (At (.mclr 0 0 0 15) (tline fun x => { x with engine := some .matrix, cmds := (List.range 16).map (cmd0 (.mclr 0 0 0 15)) }) fun _ t => t.parkDue 0 = none ∧ t.queueFull 0 .matrix = true) ∧
    passes (.mclr 0 0 0 15) .matrix id (fun _ => none) := by decide +kernel

/-- A copy of the last 32 bytes of the window, and one of no bytes; rows of a tensor copied into the window, and of one that is not there. -/
theorem witness_copies :
    passes (.cpy 0 0 4 6) .copy (words 0x001000000000FFE0 0x0010000000000000 0x200000 0) (fun t => t.cpyFault (t.newCmd (.cpy 0 0 4 6) (t.block (.cpy 0 0 4 6) .A 2 ++ t.block (.cpy 0 0 4 6) .B 1) none none)) ∧
    fails (.cpy 0 0 4 6) id (fun t => t.cpyFault (t.newCmd (.cpy 0 0 4 6) (t.block (.cpy 0 0 4 6) .A 2 ++ t.block (.cpy 0 0 4 6) .B 1) none none)) ∧
    passes (.cpyx 0 0 4 6) .copy (fun s => words 0 0 0x0010_1F00_1000_0000 0x1000000 (tens 0 s)) (fun t => let l := t.block (.cpyx 0 0 4 6) .A 2 ++ t.block (.cpyx 0 0 4 6) .B 2
      t.cpyxFault (t.newCmd (.cpyx 0 0 4 6) l (t.tensor 0 ((l.getD 2 0).toNat / 2 ^ 16 % 256)) none)) ∧
    fails (.cpyx 0 0 4 6) id (fun t => let l := t.block (.cpyx 0 0 4 6) .A 2 ++ t.block (.cpyx 0 0 4 6) .B 2
      t.cpyxFault (t.newCmd (.cpyx 0 0 4 6) l (t.tensor 0 ((l.getD 2 0).toNat / 2 ^ 16 % 256)) none)) := by decide +kernel

/-- Matrix commands on a tensor of e4m3 elements, and with no tensor. -/
theorem witness_matrix :
    (let i : Instr := .mld 0 0 4 15
     let bad (t : State) : Option TrapInfo := let x := t.matCmd i 2
      firstTrap ([(!mldZero (x.w 0) || x.strayBuf, engTrap 0x60), (x.ent.isNone, engTrap 0x41), (fmtDiffers 15 x.tens || (pairRow x.tens.fmt).isNone, engTrap 0x60)] ++ t.matBuf x false 16384)
     passes i .matrix (tens 3) bad ∧ fails i id bad) ∧
    (let i : Instr := .mma 0 0 4 15 1
     let bad (t : State) : Option TrapInfo := let x := t.matCmd i 2
      firstTrap ([(!mmaZero (x.w 0) || x.strayBuf, engTrap 0x60), (x.ent.isNone, engTrap 0x41),
        (fmtDiffers 15 x.tens || (pairRow x.tens.fmt).isNone || ((1 : BitVec 1) == 1 && !northOk x.tens.fmt), engTrap 0x60)] ++ t.matBuf x false (128 * x.rows))
     passes i .matrix (tens 4) bad ∧ fails i (tens 1) bad) ∧
    (let i : Instr := .mmas 0 0 4 3
     let bad (t : State) : Option TrapInfo := let y := t.matCmd i 3
      let x := { y with ent2 := t.tensor t.cur.g (y.f 2 0 8) }
      firstTrap ([(!mmaZero (x.w 0) || x.ws != 0 || x.strayBuf || x.abmp % 16 != 0 || x.bbmp % 16 != 0, engTrap 0x60), (x.ent.isNone || x.ent2.isNone, engTrap 0x41),
        (fmtDiffers 3 x.tens || !sparseOk x.tens.fmt || !sparseOk x.wtens.fmt, engTrap 0x60),
        (decide ((t.crewOf t.cur.g).window < x.abmp + 16 * x.rows) || decide ((t.crewOf t.cur.g).window < x.bbmp + 2048), engTrap 0x14)] ++ t.matBuf x false (128 * x.rows))
     passes i .matrix (tens 3) bad ∧ fails i id bad) ∧
    (let i : Instr := .mwb 0 0 4 15
     let bad (t : State) : Option TrapInfo := let x := t.matCmd i 2
      firstTrap ([(!mwbZero (x.w 0) || x.strayBuf || decide (5 ≤ x.mwbRm), engTrap 0x60), (x.ent.isNone, engTrap 0x41), (fmtDiffers 15 x.tens || x.mwbRefused, engTrap 0x60)] ++
        t.matBuf x true (2048 * x.tens.width))
     passes i .matrix (tens 0) bad ∧ fails i id bad) := by decide +kernel

/-- A gather and a scatter of one row, and of no tensor. -/
theorem witness_index :
    (let i : Instr := .ixg 0 0 4 0
     let bad (t : State) : Option TrapInfo := let x := t.matCmd i 2; t.indexFault x 0 false false x.tens.rowSize true
     passes i .index (tens 0) bad ∧ fails i id bad) ∧
    (let i : Instr := .ixs 0 0 4 0
     let bad (t : State) : Option TrapInfo := let x := t.matCmd i 3
      t.indexFault x 0 (x.f 0 8 5 != 0 || x.f 2 21 43 != 0 || (x.jen && x.jrn % 32 != 0)) (x.tens.fmt != 0 && x.tens.fmt != 2) x.tens.srcSize false
     passes i .index (tens 0) bad ∧ fails i id bad) := by decide +kernel

/-- Collectives on a valid ring, on an invalid one, and with a stray bit; a remote write within its window, and one of no bytes. -/
theorem witness_collectives :
    ((∀ i ∈ ([.rredRs 0 0 4 0 0, .rredAr 0 0 4 1 1] : List Instr),
      passes i .copy rings (fun _ => none) ∧ (At i rings fun _ t => (ringOf ((t.part 0).rings[0]?.getD (0, 0))).isSome ∧ (t.newCmd i (t.block i .A 4 ++ [3, 0x10001]) none none).rredBad (i = .rredAr 0 0 4 1 1) = false) ∧
      (At i id fun _ t => t.parkDue 0 = none ∧ ringOf ((t.part 0).rings[0]?.getD (0, 0)) = none) ∧
      (At i (fun s => words 0x10 0 0 0 (rings s)) fun _ t => (t.newCmd i (t.block i .A 4 ++ [3, 0x10001]) none none).rredBad (i = .rredAr 0 0 4 1 1) = true))) ∧
    passes (.rcat 0 0 4) .copy rings (fun _ => none) ∧ (At (.rcat 0 0 4) rings fun _ t => (t.newCmd (.rcat 0 0 4) (t.block (.rcat 0 0 4) .A 3 ++ [3, 0x10001]) none none).collStray 2 = false) ∧
    (At (.rcat 0 0 4) (fun s => words 0 1 0 0 (rings s)) fun _ t => (t.newCmd (.rcat 0 0 4) (t.block (.rcat 0 0 4) .A 3 ++ [3, 0x10001]) none none).f 1 0 5 ≠ 0) ∧
    (let bad (t : State) : Option TrapInfo := let w := (t.ctx 0).podwins[0]?.getD (0, 0, 0)
      if lputBad (t.newCmd (.lput 0 0 4) (t.block (.lput 0 0 4) .A 3 ++ [w.1, w.2.1, w.2.2]) none none) w then some ⟨cENGINE, 0x81, 0, none⟩ else none
     passes (.lput 0 0 4) .copy (fun s => words 0x200000 0 0xFE0 0 (podwin s)) bad ∧ fails (.lput 0 0 4) id bad) := by decide +kernel

/-- A command of a bound timeline is its second; the count has not moved; the first collective takes number 1 of its ring (R237, R290). -/
theorem test_commands :
    ((((done (.mclr 0 0 0 15) (tline fun x => { x with engine := some .matrix, issued := 1, count := 1 })).crew 0).tline 0).cmds.map fun x => x.n) = [2] ∧
    (((done (.rcat 0 0 4) rings).part 0).ringNth[0]?) = some 1 := by decide +kernel

/-- Each control of a timeline on an unbound one, a bound one, one with commands, a resident one and a parked one. -/
theorem witness_engine_contexts :
    (∀ i ∈ ([.ectxBind 0 0 0, .ectxBind 0 0 2, .ectxUnbind 0 0, .ectxDrain 0 0, .ectxPin 0 0, .ectxUnpin 0 0, .ectxResume 0 0, .ectxAbort 0 0] : List Instr),
      (At i id fun s t => s.cur.g < s.groups.length ∧ t.parkDue 0 = none ∧ ((t.crew 0).tline 0).engine = none ∧ ((t.crew 0).tline 0).parked = none ∧ ((t.crew 0).tline 0).resident = false) ∧
      (At i (tline fun x => { x with engine := some .index, parked := some { parkedCmd with taken := true }, resident := true, cmds := [cmd0 (.ixg 0 0 4 0) 1] }) fun _ t =>
        t.parkDue 0 = none ∧ ((t.crew 0).tline 0).engine = some .index ∧ ((t.crew 0).tline 0).resident = true ∧ ((t.crew 0).tline 0).cmds ≠ [] ∧ ((t.crew 0).tline 0).parked.isSome = true ∧
        (t.grp 0).crew < t.crews.length ∧ t.otherPinned 0 0 (some .index) = false)) ∧
    (At (.ectxBind 0 0 1) (tline fun x => { x with engine := some .index }) fun _ t => ((t.crew 0).tline 0).engine = some .index ∧ Engine.index ≠ engOf 1) ∧
    (At (.ectxUnbind 0 0) (tline fun x => { x with engine := some .index }) fun _ t => ((t.crew 0).tline 0).engine ≠ none ∧ ((t.crew 0).tline 0).cmds = []) ∧
    (At (.ectxDrain 0 0) (tline fun x => { x with parked := some parkedCmd }) fun _ t => t.parkDue 0 = some parkedCmd) ∧
    (At (.ectxPin 0 0) (fun s => crew (fun c => { c with tl := c.tl.set 1 { Timeline.unbound with engine := some .index, pinned := true } }) (tline (fun x => { x with engine := some .index }) s)) fun _ t =>
      ((t.crew 0).tline 0).engine = some .index ∧ t.otherPinned 0 0 (some .index) = true) := by decide +kernel

/-- A timeline's items; a descriptor at the end of the window, beyond it, misplaced, of format 15, invalid and valid. -/
theorem witness_tensor_table :
    (∀ i ∈ ([.estat 0 0 3 0, .estat 0 0 3 1, .estat 0 0 3 2, .estat 0 0 3 3, .estat 0 0 3 4] : List Instr), At i id fun s _ => s.cur.g < s.groups.length) ∧
    (At (.tdef 0 3 1) (reg 1 32) fun _ t => (t.lead (.tdef 0 3 1) .A).toNat % 64 ≠ 0) ∧
    (At (.tdef 0 3 1) (reg 1 65536) fun _ t => (t.lead (.tdef 0 3 1) .A).toNat % 64 = 0 ∧ (t.crewOf 0).window < (t.lead (.tdef 0 3 1) .A).toNat + 64) ∧
    (At (.tdef 0 3 1) (fun s => reg 1 65472 (win 65472 8 0x00F0_0000_0000_0000 s)) fun _ t => (t.lead (.tdef 0 3 1) .A).toNat + 64 = (t.crewOf 0).window ∧ (t.descriptor 0 65472).fmt = 15) ∧
    (At (.tdef 0 3 1) (fun s => { s with poison := [.scratch 0 1] }) fun _ t => t.boxPoison 0 0 64 = true ∧ 64 ≤ (t.crewOf 0).window) ∧
    (At (.tdef 0 3 1) id fun _ t => t.boxPoison 0 0 64 = false ∧ (t.descriptor 0 0).fmt ≠ 15 ∧ (t.descriptor 0 0).invalid = true) ∧
    (At (.tdef 0 3 1) (fun s => win 16 8 0x100000001 (win 24 8 0x100000001 s)) fun _ t => (t.descriptor 0 0).fmt ≠ 15 ∧ (t.descriptor 0 0).invalid = false ∧ t.ctxNo 0 < t.ctxs.length) := by
  decide +kernel

/-- bind binds; unbind of a bound timeline waits for its command; the status word of a bound, resident, pinned timeline (R254, R255). -/
theorem test_engine_contexts :
    (((done (.ectxBind 0 0 1) id).crew 0).tline 0).engine = some .matrix ∧ ((done (.ectxUnbind 0 0) (tline fun x => { x with engine := some .index, cmds := [cmd0 (.ixg 0 0 4 0) 1] })).grp 0).waits.length = 1 ∧
    res (.estat 0 0 3 2) (tline fun x => { x with engine := some .index, resident := true, pinned := true, cmds := [cmd0 (.ixg 0 0 4 0) 1] }) 3 7 = 0x1000E := by decide +kernel
def tape (base : Word) (depth : Nat) (run : Option TapeRun) (s : State) : State := ctx (fun c => { c with tapebase := base, tapeDepth := depth, tapeRun := run }) s

/-- Each form of a launch that has to wait for its group; a record misplaced and beyond the window; stray bits; and a packet that is malformed. -/
theorem witness_launch_records :
    (∀ i ∈ ([.launch 0 3 1 2, .gnode 0 3 1 2, .tapePush 0 1] : List Instr),
      (At i unquiet fun s t => s.cur.g < s.groups.length ∧ s.cur.rdone = false ∧ s.cur.data = [] ∧ t.mayRelease i = false) ∧
      (At i (reg 1 16) fun _ t => t.mayRelease i = true ∧ (t.lead i .A).toNat % 2 ^ 20 % 32 ≠ 0) ∧
      (At i (reg 1 65536) fun _ t => (t.lead i .A).toNat % 2 ^ 20 % 64 = 0 ∧ (t.crew 0).window < (t.lead i .A).toNat % 2 ^ 20 + 64) ∧
      (At i (reg 1 0x100000) fun _ t => (t.lead i .A).toNat % 2 ^ 20 = 0 ∧ (t.lead i .A).toNat / 2 ^ 20 % 2 ^ 12 ≠ 0) ∧
      (At i (fun s => { s with poison := [.scratch 0 1] }) fun _ t => (t.lead i .A).toNat % 2 ^ 20 = 0 ∧ t.boxPoison 0 0 64 = true)) ∧
    (At (.launch 0 3 1 2) (win 0 8 2) fun _ t => (launchOf (Mem.read (t.crew 0).scratch 0 64)).malformed = true) ∧
    (At (.gnode 0 3 1 2) (win 0 8 8) fun _ t => (launchOf (Mem.read (t.crew 0).scratch 0 160)).malformed = false ∧ (launchOf (Mem.read (t.crew 0).scratch 0 160)).ordq = true) := by decide +kernel

/-- Queues that are not valid, not filled by launch, of another context, with room and full; with TRY and without. -/
theorem witness_launches :
    (At (.launch 0 3 1 2) id fun _ t => (launchOf (Mem.read (t.crew 0).scratch 0 64)).malformed = false ∧ let x := (t.readBox (.launch 0 3 1 2) 64).release 0 3
      x.queueValid 0 (x.queue 0 0) = false) ∧
    (At (.launch 0 3 1 2) (queue 0x10101 0 0) fun _ t => let x := (t.readBox (.launch 0 3 1 2) 64).release 0 3
      x.queueValid 0 (x.queue 0 0) = true ∧ (x.queue 0 0).w0.testBit 1 = false) ∧
    (At (.launch 0 3 1 2) (fun s => queue 0x20103 0 0 { s with ctxs := s.ctxs ++ [{ soleCtx with ctxid := 0x10002 }] }) fun _ t => let x := (t.readBox (.launch 0 3 1 2) 64).release 0 3
      x.queueValid 0 (x.queue 0 0) = true ∧ (x.queue 0 0).w0.testBit 1 = true ∧ (x.queue 0 0).ctxid ≠ (x.ctxOf 0).id.toNat) ∧
    (At (.launch 0 3 1 2) (fun s => reg 1 0xFFC0 (queue goodQueue 0 1 s)) fun s t => s.cur.rdone = false ∧ s.cur.data = [] ∧ t.mayRelease (.launch 0 3 1 2) = true ∧
      let x := (t.readBox (.launch 0 3 1 2) 64).release 0 3; let q := x.queue 0 0
      x.queueValid 0 q = true ∧ q.w0.testBit 1 = true ∧ q.ctxid = (x.ctxOf 0).id.toNat ∧ q.held ≠ 2 ^ q.elog ∧ x.ringVoid 0 q q.wptr = none ∧ t.cache = [] ∧ t.orphans = []) ∧
    (At (.launch 0 3 1 2) (fun s => reg 1 0x1_0000_0000 (queue goodQueue 0 2 s)) fun _ t => (t.lead (.launch 0 3 1 2) .A).getLsbD 32 = true ∧
      let x := (t.readBox (.launch 0 3 1 2) 64).release 0 3; (x.queue 0 0).held = 2 ^ (x.queue 0 0).elog) := by decide +kernel

/-- A graph node with an empty pool; and one for a queue that launch does not fill. -/
theorem witness_nodes :
    (At (.gnode 0 3 1 2) (queue goodQueue 0 0) fun s t => s.cur.rdone = false ∧ s.cur.data = [] ∧ t.mayRelease (.gnode 0 3 1 2) = true ∧
      let x := (t.readBox (.gnode 0 3 1 2) 160).release 0 3; let q := x.queue 0 0
      x.queueValid 0 q = true ∧ q.w0.testBit 1 = true ∧ q.ctxid = (x.ctxOf 0).id.toNat ∧ (x.part 0).nodes = [] ∧ (launchOf (Mem.read (t.crew 0).scratch 0 160)).malformed = false ∧
      (launchOf (Mem.read (t.crew 0).scratch 0 160)).ordq = false ∧ nodeOps (Mem.read (t.crew 0).scratch 0 160) = List.replicate 8 0) ∧
    (At (.gnode 0 3 1 2) (queue 0x10101 0 0) fun _ t => let x := (t.readBox (.gnode 0 3 1 2) 160).release 0 3; let q := x.queue 0 0
      x.queueValid 0 q = true ∧ q.w0.testBit 1 = false) := by decide +kernel

/-- The tape without a base, full, running, deeper than the mark, and with room; a queue to run it on. -/
theorem witness_tape :
    (At (.tapePush 0 1) id fun s t => s.cur.rdone = false ∧ s.cur.data = [] ∧ t.mayRelease (.tapePush 0 1) = true ∧ (t.ctxOf 0).tapeLog = 0) ∧
    (At (.tapePush 0 1) (tape 0x0001_0000_0042_0000 2 none) fun _ t => (t.ctxOf 0).tapeLog ≠ 0 ∧ (t.ctxOf 0).tapeDepth = 2 ^ (t.ctxOf 0).tapeLog) ∧
    (At (.tapePush 0 1) (tape 0x0001_0000_0042_0000 1 (some ⟨0, 0, none⟩)) fun _ t => (t.ctxOf 0).tapeDepth ≠ 2 ^ (t.ctxOf 0).tapeLog ∧ (t.ctxOf 0).tapeRun.isSome = true) ∧
    (At (.tapePush 0 1) (tape 0x0001_0000_0042_0000 1 none) fun _ t => let x := (t.readBox (.tapePush 0 1) 64).release 0 3
      x.beyond 0 ((x.ctxOf 0).tapeAt 1) 64 = none ∧ x.ctxNo 0 < x.ctxs.length ∧ t.cache = [] ∧ t.orphans = [] ∧ (launchOf (Mem.read (t.crew 0).scratch 0 64)).malformed = false) ∧
    (At (.tapeRun 0 3 1) (fun s => reg 1 2 (tape 0x0001_0000_0042_0000 1 none s)) fun _ t => (t.ctxOf 0).tapeLog ≠ 0 ∧ (t.ctxOf 0).tapeDepth < (t.lead (.tapeRun 0 3 1) .A).toNat) ∧
    (At (.tapeRun 0 3 1) (fun s => reg 1 0 (tape 0x0001_0000_0042_0000 1 none (queue 0x10101 0 0 s))) fun _ t =>
      (t.lead (.tapeRun 0 3 1) .A).toNat = 0 ∧ (t.ctxOf 0).tapeRun = none ∧ t.queueValid 0 (t.queue 0 0) = true ∧ (t.queue 0 0).ctxid = (t.ctxOf 0).id.toNat) ∧
    (At (.tapeRun 0 3 1) (fun s => reg 1 1 (tape 0x0001_0000_0042_0000 1 none (queue 0x10101 0 0 s))) fun _ t =>
      (t.lead (.tapeRun 0 3 1) .A).toNat = 1 ∧ (t.ctxOf 0).tapeRun = none ∧ t.queueValid 0 (t.queue 0 0) = true ∧ (t.queue 0 0).ctxid = (t.ctxOf 0).id.toNat) ∧
    (At (.tapeDepth 0 3) (tape 0x0001_0000_0042_0000 1 none) fun _ t => (t.ctxOf 0).tapeLog ≠ 0) ∧ (At (.tapeDepth 0 3) id fun _ t => (t.ctxOf 0).tapeLog = 0) ∧
    (At (.tcut 0 1) (tape 0x0001_0000_0042_0000 1 none) fun _ t => (t.ctxOf 0).tapeLog ≠ 0 ∧ (t.ctxOf 0).tapeRun = none) ∧
    (At (.tcut 0 1) (tape 0x0001_0000_0042_0000 1 (some ⟨0, 0, none⟩)) fun _ t => (t.ctxOf 0).tapeRun.isSome = true) ∧ (At (.prio 0 1) id fun s _ => s.cur.g < s.groups.length) := by
  refine ⟨?_, ?_, ?_, ?_, ?_, ?_, ?_, ?_, ?_, ?_, ?_, ?_⟩ <;> decide +kernel

/-- launch puts the packet at place WPTR mod 2 of the ring, moves WPTR and reads back the old one; with the ring full and TRY the status is 2^63; gnode's first handle is 0 (R310, R311). -/
theorem test_launch :
    (let t := done (.launch 0 3 1 2) (fun s => win 24 8 5 (queue goodQueue 0 1 s))
     Mem.num t.dram 0x410058 8 = 5 ∧ Mem.num t.dram 0x400018 8 = 2) ∧
    res (.launch 0 3 1 2) (queue goodQueue 0 1) 2 0 = 1 ∧ res (.launch 0 3 1 2) (fun s => reg 1 0x1_0000_0000 (queue goodQueue 0 2 s)) 2 0 = 0x8000000000000000 ∧
    res (.gnode 0 3 1 2) (fun s => reg 2 9 (queue goodQueue 0 0 s)) 2 0 = 0 ∧ ((done (.prio 0 1) (reg 1 7)).grp 0).prio = 0xE0 := by decide +kernel

/-- tcut to depth 1 of 3; a run down to the depth itself ends at once (R312). -/
theorem test_tape :
    ((done (.tcut 0 1) (fun s => reg 1 1 (tape 0x0002_0000_0042_0000 3 none s))).ctxOf 0).tapeDepth = 1 ∧ res (.tapeDepth 0 3) (tape 0x0002_0000_0042_0000 3 none) 3 0 = 3 ∧
    ((done (.tapeRun 0 3 1) (fun s => reg 1 1 (tape 0x0001_0000_0042_0000 1 none (queue 0x10101 0 0 s)))).ctxOf 0).tapeRun = none ∧
    ((done (.tapePush 0 1) (tape 0x0001_0000_0042_0000 1 none)).ctxOf 0).tapeDepth = 2 := by decide +kernel
/-- A pool with every index taken, and the launch of a node into it. -/
def pool (l : List Node) (s : State) : State := part (fun p => { p with nodes := l }) (queue goodQueue 0 0 s)
def fullPool (s : State) : State := pool ((List.range 16384).map fun k => ⟨k, 0, 0, 0, k, Vector.replicate 8 0, [], [], false, none⟩) s
theorem pool_nodes (i : Instr) (l : List Node) : ((issuing i (pool l)).part 0).nodes = l := rfl
theorem issued_parts (s : State) (i : Instr) : (s.issued i).parts = s.parts := by
  have h1 (s : State) : (s.countIssue i).parts = s.parts := by unfold State.countIssue; split <;> rfl
  have h2 (s : State) : (s.advance i).parts = s.parts := by unfold State.advance; split <;> rfl
  have h3 (s : State) (g : Nat) (ls : Lanes) (a : Word) : (s.addDisagree g ls a).parts = s.parts := by unfold State.addDisagree; split <;> rfl
  have h4 : (s.begin i).parts = s.parts := by unfold State.begin; dsimp only; split <;> rfl
  have h5 (s : State) : (s.occupy i).parts = s.parts := by unfold State.occupy; split <;> (try split) <;> (try split) <;> rfl
  unfold State.issued State.passed
  dsimp only
  rw [h5, h1, h2]
  split
  · rw [h3, h4]
  · exact h4
theorem release_parts (s : State) (g scope : Nat) (h : s.cache = []) (p : s.poison = []) : (s.release g scope).parts = s.parts := by
  unfold State.release
  dsimp only
  split
  · rfl
  · have h' : (s.publish (s.agent g).crew (levelOf scope) (s.agent g).core).cache = [] := h
    have p' : (s.publish (s.agent g).crew (levelOf scope) (s.agent g).core).poison = [] := p
    unfold State.flushSi
    rw [h']
    unfold State.pushHalos
    simp [p']
    rfl
theorem readBox_parts (s : State) (i : Instr) (n : Nat) : (s.readBox i n).parts = s.parts := by unfold State.readBox; split <;> rfl
abbrev pooled : State := (((issuing (.gnode 0 3 1 2) fullPool).issued (.gnode 0 3 1 2)).readBox (.gnode 0 3 1 2) 160).release 0 3
theorem pooled_parts : pooled.parts = (issuing (.gnode 0 3 1 2) fullPool).parts := by
  rw [pooled, release_parts _ _ _ (by decide +kernel) (by decide +kernel), readBox_parts, issued_parts]
theorem witness_full_pool : At (.gnode 0 3 1 2) fullPool fun _ _ => pooled.queueValid 0 (pooled.queue 0 0) = true ∧ ∀ k < 16384, ∃ n ∈ (pooled.part 0).nodes, n.idx = k := by
  refine ⟨by decide +kernel, by decide +kernel, fun k hk => ?_⟩
  have h : (pooled.part 0).nodes = ((issuing (.gnode 0 3 1 2) fullPool).part 0).nodes := by unfold State.part; rw [pooled_parts]
  rw [h]
  have e : ((issuing (.gnode 0 3 1 2) fullPool).part 0).nodes = (List.range 16384).map fun k => ⟨k, 0, 0, 0, k, Vector.replicate 8 0, [], [], false, none⟩ := pool_nodes _ _
  rw [e]
  exact ⟨_, List.mem_map.2 ⟨k, List.mem_range.2 hk, rfl⟩, rfl⟩
/-! ## Events (O51 to O60) -/

/-- An image for buffer 1 of the crew, and one for the input W of quad 1 from the quad to its west. -/
def toBuffer : UnitRec := unitOf (.iadd (some ⟨0, 0, 0, 1, 0, 1⟩) 0 2 1 2) [] (some 5)
def toEast : UnitRec := unitOf (.iadd (some ⟨0, 0, 0, 1, 0, 0⟩) 0 8 1 2) [] (some 5)
def eastern (s : State) : State :=
  { s with groups := s.groups ++ [{ soleGroup with crew := 1, core := 4 }], crews := s.crews ++ [{ soleCrew with quad := 1, groups := [1], cb := soleCrew.cb.set 3 ⟨0, 4, 3, .groups, .copy, 8, 0, 0⟩ }] }
theorem witness_image_consumers :
    ((mach (fun s => waiting [toBuffer] (cbuf ⟨0, 4, 3, .groups, .copy, 0, 0, 0⟩ s))).readyConsumer 0 = some (toBuffer, 1) ∧
      (mach (fun s => waiting [toBuffer] (cbuf ⟨0, 4, 3, .groups, .copy, 0, 0, 0⟩ s))).accepts 0 1 1 = some (0, 1) ∧ toBuffer.iss.res = some 5) ∧
    ((mach (fun s => eastern (waiting [toEast] s))).atInput 1 3 = some (0, toEast, 3) ∧ (mach (fun s => eastern (waiting [toEast] s))).accepts 0 0 3 = some (1, 3) ∧
      toEast.iss.res = some 5) ∧
    (mach (waiting [unitOf (.iadd (some ⟨0, 0, 1, 1, 0, 5⟩) 0 3 1 2) [] (some 5)])).readyConsumer 0 = some (unitOf (.iadd (some ⟨0, 0, 1, 1, 0, 5⟩) 0 3 1 2) [] (some 5), 0) := by decide +kernel

/-- The image stands at the head of the buffer, one element is in it, and the unit has retired (R49, R242, R244). -/
theorem test_image_consumers :
    (let t := evOut (.consumerAccept 0) (mach (fun s => waiting [toBuffer] (cbuf ⟨0, 4, 3, .groups, .copy, 0, 0, 0⟩ s)))
     ((t.crew 0).buf 1).pp = 1 ∧ Mem.num (t.crew 0).scratch 0 1 = 5 ∧ (t.grp 0).waits = []) ∧
    (let t := evOut (.hypnumImageAccept 1 3) (mach (fun s => eastern (waiting [toEast] s)))
     ((t.crew 1).buf 3).pp = 1 ∧ Mem.num (t.crew 1).scratch 0 1 = 5 ∧ (t.grp 0).waits = []) := by decide +kernel

/-- A unit in flight that is performed with its operands, an atomic without elements, and a fence that waits and may go on. -/
theorem witness_late_units :
    (let s := mach (flying [unitOf (.cfd none 0 3 1) [7]])
     let u := unitOf (.cfd none 0 3 1) [7]
     let t := { s.modGrp 0 fun gr => { gr with units := gr.units.filter fun v => v != u } with cur := u.iss }
     (s.grp 0).place = .resident ∧ s.nextUnit 0 = some u ∧ u.iss.left = none ∧ t.cur.res = none ∧ t.cur.replay = true ∧ u.instr.rt = false ∧ (t.begin u.instr).gate u.instr = .pass ∧ t.cur.lanes ≠ 0) ∧
    (let s := mach (flying [unitOf (.atom none 0 3 1 15 0) []])
     let u := unitOf (.atom none 0 3 1 15 0) []
     let t := { s.modGrp 0 fun gr => { gr with units := gr.units.filter fun v => v != u } with cur := u.iss }
     s.nextUnit 0 = some u ∧ u.iss.left = none ∧ t.cur.res = none ∧ t.cur.replay = true ∧ u.instr.rt = false ∧ (t.begin u.instr).gate u.instr = .pass ∧ ∀ l < 32, (t.issued u.instr).takesPart u.instr 64 l = false) ∧
    (let s := mach (waiting [unitOf (.fence 0 3 3) []])
     let u := unitOf (.fence 0 3 3) []
     let t := { s.modGrp 0 fun gr => { gr with waits := gr.waits.filter fun w => w != u } with cur := u.iss }
     s.readyWait 0 = some u ∧ u.iss.rdone = false ∧ t.cur.res = none ∧ t.cur.replay = true ∧ u.instr.rt = false ∧ (t.begin u.instr).gate u.instr = .pass ∧ (t.issued u.instr).mayRelease u.instr = true) := by
  decide +kernel

/-- A watchdog at its window, masked and not; lanes at one counter; held lanes with the handler free; groups that take a pre-emption, defer it, and have deferred it. -/
theorem witness_group_events :
    (let s := mach (grp fun g => { g with wdog := 0x1_0000_0005, wdN := 5 })
     (s.grp 0).place = .resident ∧ (s.grp 0).wdog.getLsbD 32 = true ∧ (s.grp 0).inMode .running ≠ 0 ∧ (s.grp 0).wdog.toNat % 2 ^ 32 ≤ (s.grp 0).wdN ∧ (s.grp 0).trapmask.getLsbD 2 = false) ∧
    (let s := mach (grp fun g => { g with wdog := 0x1_0000_0005, wdN := 5, trapmask := 4 })
     (s.grp 0).wdog.toNat % 2 ^ 32 ≤ (s.grp 0).wdN ∧ (s.grp 0).trapmask.getLsbD 2 = true) ∧
    ((mach id).grp 0).oneSet 3 = true ∧
    (let s := mach (fun s => s.modLane 0 0 fun x => { x with mode := .held, held := some ⟨plainTrap cILLEGAL 2, [], 0, 0, 0, 0⟩ })
     (s.grp 0).heldReady = true ∧ 0 < s.groups.length ∧ ∀ l < 32, (s.lane 0 l).mode = .held → (s.lane 0 l).held.isSome = true) ∧
    ((mach id).defersPreempt 0 = false ∧ ((mach id).grp 0).shadow = none) ∧
    (mach (fun s => (grp (fun g => { g with trapmask := 1 }) s).modLane 0 0 fun x => { x with mode := .handler })).defersPreempt 0 = true ∧
    (let s := mach (grp fun g => { g with preempt := some ⟨0⟩ }); (s.grp 0).preempt.isSome = true ∧ s.defersPreempt 0 = false) := by decide +kernel

/-- WATCHDOG_EXPIRY under the mask clears EN and sets FIRED; PREEMPT_REQUEST evicts; WRITE_ACK takes one from the count (R16, R87, R324). -/
theorem test_group_events :
    ((evOut (.watchdogExpiry 0) (mach (grp fun g => { g with wdog := 0x1_0000_0005, wdN := 5, trapmask := 4 }))).grp 0).wdog = 0x2_0000_0005 ∧
    ((evOut (.preemptRequest 0) (mach id)).grp 0).place = .evicted ∧ ((evOut (.writeAck 0) (mach (grp fun g => { g with acks := [3, 4] }))).grp 0).acks = [4] := by decide +kernel

/-! ### Bracken -/

/-- The queues with these numbers are mapped. -/
def slots (l : List Nat) (s : State) : State := part (fun p => { p with slots := l.zipIdx.map fun x => ⟨x.1, s.queueStored 0 x.1, x.2, 0, false⟩ }) s
/-- A packet of type 1, which does nothing, at the head of the ring of queue 0. -/
def nopPacket (s : State) : State := slots [0] ((queue 0x10101 0 1 s).writeDram 0 0x410000 [1])
/-- Doorbells on no queue, on one filled by launch, beyond the ring, behind WPTR, and at its end. -/
theorem witness_doorbells :
    ((mach id).queueValid 0 ((mach id).queue 0 0) = false) ∧ ((mach (queue 0x10103 0 0)).queue 0 0).w0.testBit 1 = true ∧
    (let s := mach (queue 0x10101 1 2); s.queueValid 0 (s.queue 0 0) = true ∧ (s.queue 0 0).w0.testBit 1 = false ∧ (s.queue 0 0).wptr = 2 ∧ (s.queue 0 0).rptr + 2 ^ (s.queue 0 0).elog = 3) := by
  decide +kernel
theorem test_doorbell :
    Mem.num (evOut (.doorbell 0 0 3) (mach (queue 0x10101 1 2))).dram 0x400018 8 = 3 ∧ Mem.num (evOut (.doorbell 0 0 4) (mach (queue 0x10101 1 2))).dram 0x400000 8 = 0x10181 ∧
    (evOut (.doorbell 0 0 1) (mach (queue 0x10103 1 2))).pkg.dropq = 0 := by decide +kernel

/-- A queue with work and a free slot; with every slot taken, by queues without work, and by one that does not give way; and a slot whose slice has passed. -/
theorem witness_slots :
    (let s := mach (queue 0x10101 0 1)
     s.queueLive 0 (s.queue 0 0) = true ∧ (s.queue 0 0).held ≠ 0 ∧ (s.part 0).slots = [] ∧ (s.part 0).quiesce = none ∧ (s.part 0).swapped = false ∧ (s.part 0).live = true) ∧
    (let s := mach (fun s => slots ((List.range 64).map fun k => k + 1) (queue 0x10101 0 1 s))
     (∀ x ∈ (s.part 0).slots, x.q ≠ 0) ∧ 64 ≤ (s.part 0).slots.length ∧ (s.displaced 0 (s.queue 0 0).level).isSome = true) ∧
    (let s := mach (fun s => slots (List.replicate 64 1) ((queue 0x10101 0 1 s).writeDram 0 0x400058 [1]))
     (∀ x ∈ (s.part 0).slots, x.q ≠ 0) ∧ 64 ≤ (s.part 0).slots.length ∧ s.displaced 0 (s.queue 0 0).level = none) ∧
    (let s := mach (fun s => { slots [0] (queue 0x10101 0 1 s) with now := 10 ^ 9 }); (s.queue 0 0).slice * s.cyclesPerUs ≤ s.now) := by decide +kernel

/-- Work that can be done next, of a queue and of an evicted group. -/
theorem work_ok {o : Option (Nat × Work × Out)} {w : Work} (h : (match o with | some (_, v, .next _) => decide (v = w) | _ => false) = true) : ∃ l u, o = some (l, w, .next u) := by
  rcases o with _ | ⟨l, v, _ | _ | _⟩ <;> simp at h
  subst h
  exact ⟨l, _, rfl⟩
theorem witness_work :
    (∃ l u, (mach nopPacket).nextWork 0 = some (l, .queue 0, .next u)) ∧ look ((mach nopPacket).part 0).placing 0 = none ∧
    (∃ l u, (mach (grp fun g => { g with place := .evicted })).nextWork 0 = some (l, .resume 0, .next u)) ∧
    (mach (grp fun g => { g with place := .evicted })).groupPart ((mach (grp fun g => { g with place := .evicted })).grp 0) = 0 :=
  ⟨work_ok (by decide +kernel), by decide +kernel, work_ok (by decide +kernel), by decide +kernel⟩

/-- An evicted group whose quad is filled with groups of a lower level: a plan of evictions. -/
def packed (s : State) : State :=
  { s with groups := { soleGroup with place := .evicted } :: (List.range 4).map fun k => { soleGroup with crew := 1, nregs := 768, core := k, prio := 0x85 }, crews := s.crews ++ [soleCrew] }
theorem witness_eviction : ((mach packed).nextPlan 0).isSome = true := by decide +kernel

/-- A GANG task of two crews that need the scratchpad of a quad each, where quad 1 alone is free and quad 0 holds a group of level 5: it is evicted, and the crews are placed
on quads 1 and 0 together (R305, R309). -/
def gang (s : State) : State :=
  let full (k : Nat) : Crew := { soleCrew with quad := k + 2, granules := (List.range 16).map fun j => (j / 4, j % 4) }
  let s := grp (fun g => { g with prio := 0x85 }) { s with crews := s.crews ++ (List.range 62).map full }
  slots [0] (((queue 0x10101 0 1 s).writeDram 0 0x410000 (leBytes 8 4 ++ leBytes 8 0x100 ++ leBytes 8 0 ++ leBytes 8 1)).writeDram 0 0x30100
    (leBytes 8 0x100000 ++ leBytes 8 0 ++ leBytes 8 0x30_0000_0000))
theorem witness_gang : (mach gang).nextPlan 0 = some (0, .queue 0, [(1, none), (0, some [0])]) := by decide +kernel
theorem test_gang : let t := evOut (.eviction 0) (mach gang)
    (t.grp 0).place = .evicted ∧ (t.crew 63).quad = 1 ∧ (t.crew 64).quad = 0 ∧ (t.task 1).placed = 2 := by decide +kernel

/-- Dispatch of the packet adds a task of no crews and moves RPTR; the evicted group comes back resident (R301, R309). -/
theorem test_dispatch :
    (evOut (.dispatch 0) (mach nopPacket)).tasks.length = 2 ∧ Mem.num (evOut (.dispatch 0) (mach nopPacket)).dram 0x400010 8 = 1 ∧
    ((evOut (.groupResume 0) (mach (grp fun g => { g with place := .evicted }))).grp 0).place = .resident := by decide +kernel

/-- A crew whose group has retired; tasks that complete without a counter, with a vector that is unmasked and one that is not, and with a counter in the mapped page. -/
def taskOf (compl msiv : Word) (failed : Bool) (s : State) : State :=
  { s with tasks := [{ soleTask with retired := 1, failed := failed, pkt := #v[0, 0, 0, 0, compl, msiv, 0, 0] }] }
theorem witness_ends :
    (let s := mach (grp fun g => { g with place := .retired })
     0 < s.crews.length ∧ (s.crew 0).retired = false ∧ (∀ g ∈ (s.crew 0).groups, ((s.grp g).place = .retired ∨ (s.grp g).place = .dead) ∧ (s.grp g).acks = []) ∧
      (∀ k < 8, ((s.crew 0).tline k).cmds = []) ∧ (s.crew 0).task < s.tasks.length) ∧
    (let s := mach (taskOf 0 16 false)
     0 < s.tasks.length ∧ (s.task 0).complete = false ∧ (s.task 0).placed = (s.task 0).ncrews ∧ (s.task 0).retired = (s.task 0).ncrews ∧ (s.task 0).source = .queue 0 0 ∧
      (s.task 0).pkt.compl = 0 ∧ 16 ≤ (s.task 0).pkt.msiv ∧ (s.task 0).pkt.msiv ∉ s.pkg.unmasked) ∧
    (let s := mach (fun s => taskOf 0 16 false { s with pkg := { s.pkg with unmasked := [16] } }); (s.task 0).pkt.msiv ∈ s.pkg.unmasked) ∧
    (let s := mach (taskOf 0xFFF8 0 true)
     (s.task 0).pkt.compl % 8 = 0 ∧ (s.task 0).pkt.compl ≠ 0 ∧ ((s.ctx 0).regionAt (s.task 0).pkt.compl).isNone = true ∧ s.cache = [] ∧ s.orphans = [] ∧ (s.ctx 0).part < 4) := by decide +kernel
theorem witness_completion : let s := mach (taskOf 0xFFF8 0 true)
    ∃ x, s.reach (s.firstQuad (s.ctx 0).part) 0 (!(s.ctx 0).isSys) .store (s.task 0).pkt.compl = .ok x ∧ x.host = false ∧ s.lostHome (s.ctx 0).part x.pa = false ∧
      s.poisoned (s.ctx 0).part x.pa = false := reach_ok (by decide +kernel)

/-- The completion of a failed task adds 2^32; a crew that has ended gives up its granules and counts toward its task (R307). -/
theorem test_ends :
    Mem.num (evOut (.taskComplete 0) (mach (taskOf 0xFFF8 0 true))).dram 0x3FFF8 8 = 2 ^ 32 ∧ ((evOut (.crewRetire 0) (mach (grp fun g => { g with place := .retired }))).task 0).retired = 1 ∧
    (evOut (.taskComplete 0) (mach (taskOf 0 16 false))).pkg.msiPending = [16] := by decide +kernel
/-! ### Rooms, caches, memory -/

/-- Region 0 of the context, in some state. -/
def room (q : Region) (s : State) : State := rooms [(0, q)] s
def partials (l : List Partial) (s : State) : State := ctx (fun c => { c with partials := l }) s
def parkRec : ParkRec := ⟨0, 0, 3, unitOf (.enter 0 3 1 0) [], 5, 5, false⟩
theorem witness_regions :
    (let s := mach (room { plainRegion with window := some 0, open_ := some 0, admitting := true }); 0 < s.ctxs.length ∧
      (s.ctx 0).region 0 = some { plainRegion with window := some 0, open_ := some 0, admitting := true }) ∧
    (∀ q ∈ ([{ plainRegion with drain := true, open_ := some 0 }, { plainRegion with drain := true, open_ := some 1 }, { plainRegion with drain := true, demands := [⟨0, 0, 3⟩] }] : List Region),
      q.drain = true ∧ (mach (room q)).occupants 0 0 = 0 ∧ ((mach (room q)).ctx 0).region 0 = some q ∧ (mach (room q)).cache = [] ∧ ((mach (room q)).ctx 0).partials = []) ∧
    (let s := mach (fun s => partials [⟨0, 0, 0x300, 7⟩] (room { plainRegion with drain := true, open_ := some 1 } s))
     ((s.ctx 0).partials.filter fun p => p.region == 0) = [⟨0, 0, 0x300, 7⟩] ∧ s.occupants 0 0 = 0 ∧ s.cache = []) ∧
    (let s := mach (room { plainRegion with open_ := some 0, admitting := true, demands := [⟨0, 31, 0⟩] })
     0 < s.groups.length ∧ (s.ctx 0).region 0 = some { plainRegion with open_ := some 0, admitting := true, demands := [⟨0, 31, 0⟩] }) ∧
    (let s := mach (fun s => (room { plainRegion with open_ := some 3, demands := [⟨0, 0, 0⟩] } s).modLane 0 0 fun x => { x with mode := .parked, park := some parkRec })
     (s.lane 0 0).park = some parkRec ∧ (s.grp 0).place = .resident ∧ parkRec.limit ≠ 0 ∧ parkRec.limit ≤ parkRec.count ∧ s.ctxNo 0 = 0 ∧ parkRec.region = 0) := by decide +kernel

/-- A window that has passed over an occupied room; the demand of a draining empty room opens its mode; a partial of ones added into memory (R200, R205, R206). -/
theorem test_regions :
    (((evOut (.admitWindowExpiry 0 0) (mach (fun s => hold [⟨0, 0⟩] (room { plainRegion with window := some 0, open_ := some 0, admitting := true } s)))).ctx 0).region 0).map (fun q => (q.admitting, q.drain)) =
      some (false, false) ∧
    (((evOut (.drainComplete 0 0) (mach (room { plainRegion with drain := true, demands := [⟨0, 0, 3⟩] }))).ctx 0).region 0).map (fun q => (q.open_, q.drain)) = some (some 3, false) ∧
    Mem.num (evOut (.partialFlush 0 0 0 0x300) (mach (fun s => partials [⟨0, 0, 0x300, splat 1⟩] (room { plainRegion with etype := 1, open_ := some 1 } s)))).dram 0x30008 8 = 1 ∧
    ((evOut (.demandAdmit 0 0) (mach (room { plainRegion with open_ := some 0, admitting := true, demands := [⟨0, 31, 0⟩] }))).lane 0 31).holds = [⟨0, 0⟩] := by decide +kernel

/-- An epoch that has passed; CREWPACE to be recomputed; windows of samples above, between and below; copies in other quads, in the quad itself, and none; a page to walk. -/
def copies (l : List (Nat × Moesi)) (s : State) : State := { s with cache := l.map fun p => ⟨p.1, 0, 0, 0, 0x300, .dt p.2, 0, false, 0, 0, 0⟩ }
theorem dt_only {l : List (Nat × Moesi)} {s : State} (h : s.cache = l.map fun p => ⟨p.1, 0, 0, 0, 0x300, .dt p.2, 0, false, 0, 0, 0⟩) : s.onlyDt := by
  intro c hc
  rw [h] at hc
  obtain ⟨p, -, rfl⟩ := List.mem_map.1 hc
  exact ⟨p.2, rfl⟩
theorem witness_caches :
    (let s := mach fun s => { s with now := 64 }; s.epoch < s.now / 64) ∧ (let s := mach (crew fun c => { c with paceSeen := true }); 0 < s.crews.length ∧ (s.crew 0).paceSeen = true) ∧
    ((mach id).crewResident 0 = true ∧ (let s := mach (grp fun g => { g with place := .evicted }); (s.crew 0).paceSeen = false ∧ s.crewResident 0 = false)) ∧
    ((mach fun s => unquiet s).inFlight 0 5 = true ∧ (mach id).inFlight 0 0 = false) ∧ ((mach (crew fun c => { c with paceDue := true })).crew 0).paceDue = true ∧
    (∀ o ∈ ([32769, 32768, 16384, 16383] : List Nat), let st : Word := BitVec.ofNat 64 (65536 - o + 2 ^ 17 * o)
      65536 ≤ st.toNat % 2 ^ 17 + st.toNat / 2 ^ 17 % 2 ^ 17) ∧
    (let s := mach (copies [(1, .M)]); s.dtPossible 0 0 0x300 = true ∧ s.dtState 0 0 0x300 = .I ∧ s.dtState 1 0 0x300 = .M) ∧
    (let s := mach (copies [(0, .S), (1, .S)]); s.dtPossible 0 0 0x300 = true ∧ s.dtState 0 0 0x300 ≠ .M ∧
      s.copyIn 0 0 0x300 = some ⟨0, 0, 0, 0, 0x300, .dt .S, 0, false, 0, 0, 0⟩) := by decide +kernel
theorem witness_only_dt : (mach (copies [(0, .S), (1, .S)])).onlyDt ∧ (mach (copies [(1, .M)])).onlyDt := ⟨dt_only (l := [(0, .S), (1, .S)]) rfl, dt_only (l := [(1, .M)]) rfl⟩
theorem witness_walk : ((mach id).ctx 0).live = true ∧ ∃ x, (mach id).xlate 3 0 (0x100 : Word).toNat = .page x := by
  refine ⟨by decide +kernel, ?_⟩
  have h : (match (mach id).xlate 3 0 (0x100 : Word).toNat with | .page _ => true | _ => false) = true := by decide +kernel
  generalize (mach id).xlate 3 0 (0x100 : Word).toNat = w at h
  cases w <;> simp at h ⊢

/-- A read miss leaves the M copy O and takes S; ownership takes the other copies away; CREWPACE is never below 1; overstated samples above half raise LOG (R169, R173, R183). -/
theorem test_caches :
    (let t := evOut (.dtReadMiss 0 0 0x300) (mach (copies [(1, .M)])); t.dtState 0 0 0x300 = .S ∧ t.dtState 1 0 0x300 = .O) ∧
    (let t := evOut (.dtWriteOwnership 0 0 0x300) (mach (copies [(0, .S), (1, .S)])); t.dtState 0 0 0x300 = .M ∧ t.dtState 1 0 0x300 = .I) ∧
    ((evOut (.crewpaceRecompute 0) (mach (crew fun c => { c with paceDue := true }))).crew 0).pace = 1 ∧
    ((evOut (.reusefAdjust 0) (mach (ctx fun c => { c with reusef := 4, reusest := BitVec.ofNat 64 (32767 + 2 ^ 17 * 32769) }))).ctx 0).reusef = 4 := by decide +kernel

/-- Sectors of every kind, poisoned and not: a line of SI contents, a halo with one replica; an error that is logged already; dies that stand; writes from outside into each memory. -/
def siLine (s : State) : State := { s with cache := [⟨0, 0, 0, 0, 0x300, .si 0 0 true, 0, false, 0, 0, 0⟩] }
def haloed (s : State) : State := ctx (fun c => { c with halos := [(0, ⟨0, 0, 0, 0, 0, 0, 0, 0, [⟨3, 0x1800, 0⟩], []⟩)] }) s
theorem witness_spots : (mach id).poison = [] ∧ (mach siLine).poison = [] ∧ (mach haloed).poison = [] ∧ 32 * 0x1800 < ((mach id).part 0).dramSize ∧
    ((mach id).crew 0).retired = false ∧ 32 * 7 < ((mach id).crew 0).window ∧ 32 * 4095 < 131072 ∧ ((mach siLine).siCopy 0 0 (0x1803 / 8)).isSome = true ∧
    (∃ h ∈ ((mach haloed).ctx 0).halos, ∃ r ∈ h.2.replicas, r.quad = 3 ∧ r.sector = 0x1800) := by
  refine ⟨?_, ?_, ?_, ?_, ?_, ?_, ?_, ?_, _, List.mem_cons_self .., _, List.mem_cons_self .., rfl, rfl⟩ <;> decide +kernel
theorem witness_memory_events :
    (.home 0 0x1800) ∈ (mach fun s => { s with poison := [.home 0 0x1800] }).poison ∧
    (let s := mach fun s => { s with pkg := { s.pkg with ras := [⟨1, 7, 9, 0, 0⟩] } }; s.pkg.ras = [] ++ ⟨1, 7, 9, 0, 0⟩ :: [] ∧ s.now - 0 ≤ 1000 * s.cyclesPerUs) ∧
    (mach id).deadDies = [] ∧ 0x30000 + 40 ≤ ((mach id).part 0).dramSize ∧ (let s := mach fun s => { s with pkg := { s.pkg with boot := 3 } }; s.pkg.boot = 3 ∧ s.pkg.mailbox.state ≠ 1 ∧ 0x800 < 0x801) := by
  decide +kernel

/-- An uncorrectable error poisons its sector once; an M copy in a surviving quad of a line homed beside the die that fails is kept as an orphan, and an S copy is lost; a command of 1 starts
a recovery fetch (R193, R194, R349). -/
theorem test_memory_events :
    (evOut (.eccUncorrectable (.home 0 0x1800) 3 0) (mach id)).poison = [.home 0 0x1800] ∧ ((evOut (.eccUncorrectable (.scratch 0 7) 3 0) (mach id)).pkg.ras.map fun e => e.kind) = [2] ∧
    ((evOut (.dieFailure 0) (mach (copies [(64, .M)]))).orphans.map fun o => (o.1, o.2.1)) = [(0x300, 64)] ∧ ((evOut (.dieFailure 0) (mach (copies [(64, .S)]))).orphans) = [] ∧
    (evOut (.hostMemoryWrite .bar4 0x800 [1, 0, 0, 0, 0, 0, 0, 0]) (mach fun s => { s with pkg := { s.pkg with boot := 3 } })).pkg.mailbox.state = 1 ∧
    (evOut (.hostMemoryWrite .bar4 0x801 [0, 0, 0, 0, 0, 0, 0]) (mach fun s => { s with pkg := { s.pkg with boot := 3, mailbox := ⟨1, 0, 0, 2, 0, 0⟩ } })).pkg.mailbox.state = 2 := by decide +kernel
/-! ### Engines, links, the package -/

/-- A command in progress on timeline 0, which is resident on its engine. -/
def running (e : Engine) (x : Cmd) (s : State) : State := { tline (fun t => { t with engine := some e, resident := true, issued := x.n, cmds := [x] }) s with now := 5 }
def winCopy : Cmd := { cmd0 (.cpy 0 0 4 6) 1 with started := true, blk := [0x0010000000000100, 0x0010000000000010, 0x300000] }
def oneClear : Cmd := { cmd0 (.mclr 0 0 1 5) 1 with started := true }
theorem witness_engine_starts :
    (let s := mach (running .copy { winCopy with started := false }); 0 < s.crews.length ∧ s.startable 0 0 = some { winCopy with started := false } ∧ ((s.crew 0).tline 0).resident = true) ∧
    (let s := mach (fun s => { tline (fun t => { t with engine := some .copy, issued := 1, cmds := [{ winCopy with started := false }] }) s with now := 5 })
     s.startable 0 0 = some { winCopy with started := false } ∧ (s.residents 0 0).length < 2) := by decide +kernel
theorem witness_engine_steps :
    (let s := mach (running .copy winCopy)
     s.liveCmd 0 0 1 = some winCopy ∧ s.engineRuns 0 = true ∧ winCopy.w 0 / 2 ^ 52 % 8 = 1 ∧ winCopy.w 1 / 2 ^ 52 % 8 = 1 ∧ winCopy.f 2 10 1 = 0 ∧ ((s.crew 0).tline 0).cmds = [winCopy] ∧ s.sched.splits = [] ∧ s.poison = []) ∧
    (let s := mach (running .matrix oneClear); s.liveCmd 0 0 1 = some oneClear ∧ s.engineRuns 0 = true ∧ ((s.crew 0).tline 0).held oneClear = false) ∧
    (let s := mach (running .copy { winCopy with done := true }); s.cmdAt 0 0 1 = some { winCopy with done := true }) ∧
    (let s := mach (tline fun t => { t with engine := some .copy, resident := true, draining := true }); ((s.crew 0).tline 0).draining = true ∧ ((s.crew 0).tline 0).inProgress = false) ∧
    (let s := mach (fun s => tline (fun t => { t with draining := true }) (running .copy winCopy s)); ((s.crew 0).tline 0).draining = true ∧ ((s.crew 0).tline 0).inProgress = true) := by decide +kernel

def copyContext (start : Nat) (resident : Bool) (l : List Cmd) : Timeline := { Timeline.unbound with engine := some .copy, resident := resident, lastStart := start, issued := 1, cmds := l }
def threeContexts (s : State) : State :=
  let tl (c : Crew) := ((c.tl.set 0 (copyContext 0 true [])).set 1 (copyContext 1 true [])).set 2 (copyContext 0 false [{ winCopy with started := false }])
  { crew (fun c => { c with tl := tl c }) s with now := 5 }
/-- A context that has to leave: two are resident, a third waits, and its own is the one that started longest ago. -/
theorem witness_forced_drain :
    let s := mach threeContexts
    ((s.crew 0).tline 0).draining = false ∧ ((s.crew 0).tline 0).resident = true ∧ s.mustLeave 0 0 = true := by decide +kernel

/-- The promotion of a row of sums: a slot loaded with e4m3 weights, a tensor without scales, a step counter at its rows. -/
def tensorOf (fmt : Nat) : Tensor := #v[BitVec.ofNat 64 (fmt * 2 ^ 52), 0, 0x8000000080, 0x100000001, 512, 0, 0, 0x1_0000_0000]
def lastStep : Cmd := { cmd0 (.mma 0 0 4 15 0) 1 with started := true, opened := true, step := 1, blk := [0, 0], ent := some (tensorOf 3) }
def slotOf (fmt : Nat) : WSlot := { WSlot.empty with loaded := true, fmt := fmt, sb := oneCode }
def summed (s : State) : State :=
  tline (fun t => { t with mat := { MatCtx.empty with w := #v[slotOf 3, WSlot.empty], part := [List.replicate 128 (fOne, fZero)] } }) (running .matrix lastStep s)
theorem witness_kstep :
    let s := mach summed
    s.liveCmd 0 0 1 = some lastStep ∧ s.engineRuns 0 = true ∧ lastStep.step = lastStep.rows ∧ lastStep.nft = false ∧ lastStep.tens.scaled = false ∧ lastStep.pins = [] ∧ lastStep.opened = true ∧
    let m := ((s.crew 0).tline 0).mat
    (m.slot lastStep.ws).loaded = true ∧ pairRow (m.slot lastStep.ws).fmt = pairRow lastStep.tens.fmt ∧ (m.tile lastStep.acc).isInt = false ∧ intRow lastStep.tens.fmt = false ∧
    s.kReady 0 0 lastStep = true ∧ s.otherTurn 0 0 = false ∧ m.part.length = lastStep.rows ∧ s.arrayTaken 0 0 lastStep = false ∧ ∀ row ∈ m.part, row.length = 128 := by decide +kernel

/-- A scatter with one update in flight whose first sector is to be added, and with two; its source rows are ones. -/
def upd (k : Nat) : Upd := ⟨k, List.replicate 512 1, some ((List.range 16).map fun j => (512 * k + 32 * j, 32, 0x30000 + 512 * k + 32 * j)), 0, 0⟩
def adding (l : List Upd) : Cmd := { cmd0 (.ixs 0 0 4 0) 1 with started := true, opened := true, blk := [0, 0, 0], ent := some (tensorOf 0), ups := l }
theorem witness_sector_add :
    (∀ l ∈ ([[upd 0], [upd 0, upd 1]] : List (List Upd)), let x := adding l
      let s := mach (running .index x)
      s.liveCmd 0 0 1 = some x ∧ s.engineRuns 0 = true ∧ ((x.ups.filterMap fun v => (s.nextAdd (s.agent x.g) x v).map fun q => (v, q)).map (·.1)).head? = some (upd 0)) ∧
    (let x := adding [upd 0]
     let s := mach (running .index x)
     (x.ups.filterMap fun v => (s.nextAdd (s.agent x.g) x v).map fun q => (v, q)) = [(upd 0, 0, 32, 0x30000)] ∧ s.lostHome (s.agent x.g).part 0x30000 = false) ∧
    (mach (running .index (adding [upd 0, upd 1]))).sched.splits = [] ∧ (adding [upd 0]).tens.width / 8 = 4 ∧
    (mach (running .index (adding [upd 0]))).poisoned 0 0x30000 = false ∧ (mach (running .index (adding [upd 0]))).cache = [] ∧
    ((mach (running .index (adding [upd 0]))).agent 0).part = 0 := by decide +kernel

/-- A command of a ring that has heard nothing for 2^26 cycles. -/
def oneCat : Cmd := { cmd0 (.rcat 0 0 4) 1 with started := true, blk := [0, 0, 0, 3, 0x10001], nth := 1 }
theorem witness_silence : (mach fun s => { rings (running .copy oneCat s) with now := 2 ^ 26 }).silentCmd 0 0 = some oneCat ∧ (mach (running .copy oneCat) |>.crew 0 |>.tline 0).parked = none := by decide +kernel

/-- A step of a copy between windows moves one sector; a clear zeroes tiles 0 and 2 of type i32; the promoted sum of ones is 1; a finished command leaves COUNT at its number (R238, R249,
R266, R269). -/
theorem test_engines :
    (let t := evOut (.engineStep 0 0 1) (mach (fun s => running .copy winCopy (win 0x100 8 77 s))); Mem.num (t.crew 0).scratch 0x10 8 = 77) ∧
    (let m := ((evOut (.engineStep 0 0 1) (mach (running .matrix oneClear))).crew 0).tline 0; (m.mat.tile 0).isInt = true ∧ (m.mat.tile 1).isInt = false ∧ (m.mat.tile 2).isInt = true) ∧
    (let t := ((evOut (.commandFinish 0 0 1) (mach (running .copy { winCopy with done := true }))).crew 0).tline 0; t.count = 1 ∧ t.cmds = []) ∧
    ((((evOut (.peerSilentTimeout 0 0) (mach fun s => { rings (running .copy oneCat s) with now := 2 ^ 26 })).crew 0).tline 0).parked.map fun p => p.trap.sub) = some 0x85 := by decide +kernel
/-- A drained context gives up its place, and the drain that waits for it sees it saved (R239, R254). -/
theorem test_drain :
    let s := mach fun s => waiting [unitOf (.ectxDrain 0 0) [], unitOf (.ectxDrain 0 1) []] (tline (fun t => { t with engine := some .copy, resident := true, draining := true }) s)
    let t := evOut (.contextDrain 0 0) s
    (((t.crew 0).tline 0).resident, ((t.grp 0).waits.map fun u => u.iss.rdone)) = (false, [true, false]) := by decide +kernel
theorem test_promotion : ((((evOut (.matrixKstep 0 0 1) (mach summed)).crew 0).tline 0).mat.tile 0).get 0 127 = 0x3F800000 := by decide +kernel

/-- Packets that are refused, kept and acknowledged; ports up and down; a sector of a remote write at the mapped page. -/
def pkt (k : PacketKind) (seq : Nat) : Packet :=
  { kind := k, seq := seq, crcOk := true, poison := false, src := 1, dst := 0, ring := 0, nth := 0, opcode := 0, form := 0, rm := 0, ef := false, chunk := 0, hop := 0, crew := 0, tl := 0, ctx := 1, addr := 0x100,
    cause := 0, sub := 0, payload := List.replicate 32 9 }
def portIs (f : Port → Port) (s : State) : State := s.modPort 15 f
def arrived (s : State) : State := { s with pkg := { s.pkg with inbox := [(15, pkt .lput 0)] } }
theorem witness_links :
    ((mach id).port 15).up = true ∧ (pkt .lput 0).seq = ((mach id).port 15).rxSeq ∧ ((mach id).port 15).rxSeq < (pkt .lput 1).seq ∧ (let s := mach (portIs fun q => { q with rxSeq := 3 }); (pkt .lput 1).seq < (s.port 15).rxSeq) ∧
    (pkt .lput 0).poison = false ∧ (mach id).pkg.boot = 2 ∧
    (let s := mach (portIs fun q => { q with buffer := [pkt .collective 4] }); ∀ x ∈ (s.port 15).buffer, x.seq = (pkt .linkAck 4).seq → x.kind ≠ .lput) ∧
    (let s := mach (portIs fun q => { q with buffer := [pkt .lput 4] }); ∀ x ∈ (s.port 15).buffer, x.seq = (pkt .linkAck 4).seq → x.kind = .lput) ∧
    (let s := mach (portIs fun q => { q with buffer := [pkt .lput 4], replays := 8 }); (s.port 15).buffer ≠ [] ∧ 8 ≤ (s.port 15).replays) ∧ ((mach (portIs fun q => { q with buffer := [pkt .lput 4] })).port 15).replays < 8 ∧
    ((mach (portIs fun q => { q with up := false })).port 15).up = false ∧ (15, pkt .lput 0) ∈ (mach arrived).pkg.inbox ∧
    (findIx (fun c : Context => c.live && c.id == (pkt .lput 0).ctx) (mach arrived).ctxs).map (·.1) = some 0 := by decide +kernel
theorem witness_remote_write : ∃ x, (mach arrived).reach 0 0 (!((mach arrived).ctx 0).isSys) .store (pkt .lput 0).addr = .ok x ∧
    (((mach arrived).ctx 0).regionAt (pkt .lput 0).addr).isNone = true ∧ x.host = false ∧ (mach arrived).lostHome ((mach arrived).ctx 0).part x.pa = false := reach_ok (by decide +kernel)
/-- The same sector, poisoned on its way. -/
def spoilt : Packet := { pkt .lput 0 with poison := true }
theorem witness_spoilt : spoilt.kind = .lput ∧ spoilt.poison = true ∧ (15, spoilt) ∈ (mach fun s => { s with pkg := { s.pkg with inbox := [(15, spoilt)] } }).pkg.inbox := by decide +kernel

/-- A packet in its sequence moves the receive number; the eighth failed replay takes the port down and logs it; the sector is written, and the acknowledgement stands in the replay buffer (R286, R294). -/
theorem test_links :
    ((evOut (.yarrowPacketReceive 15 (pkt .lput 0)) (mach id)).port 15).rxSeq = 1 ∧ ((evOut (.yarrowPacketReceive 15 (pkt .lput 0)) (mach id)).port 15).acked = [0] ∧
    (let t := evOut (.yarrowReplay 15) (mach (portIs fun q => { q with buffer := [pkt .lput 4], replays := 8 })); (t.port 15).up = false ∧ (t.pkg.ras.map fun e => e.kind) = [3]) ∧
    (let t := evOut (.lputSectorReceive 15 (pkt .lput 0)) (mach arrived); Mem.num t.dram 0x3011F 1 = 9 ∧ ((t.port 15).buffer.map fun a => a.kind) = [.lputAck]) ∧
    (let t := evOut (.lputSectorReceive 15 spoilt) (mach fun s => { s with pkg := { s.pkg with inbox := [(15, spoilt)] } }); ((t.port 15).buffer.map fun a => (a.kind, a.cause)) = [(.lputRefusal, cPOISON)]) := by decide +kernel

/-- States before boot, in recovery with a fetch under way, and running; vectors; identifiers that are free; a context that is idle. -/
def package (f : Package → Package) (s : State) : State := { s with pkg := f s.pkg }
def fetching (cmd : BitVec 2) (len : BitVec 32) (s : State) : State := package (fun p => { p with boot := 3, mailbox := ⟨cmd, 0x1000, len, 1, len, 0x1000⟩ }) s
theorem witness_package :
    (State.reset.pkg.boot < 2 ∧ (∀ p ∈ State.reset.parts, p.live = false)) ∧ ((mach (package fun p => { p with boot := 1 })).pkg.boot < 2 ∧ ∃ p ∈ (mach (package fun p => { p with boot := 1 })).parts, p.live = true) ∧
    2 ≤ (mach id).pkg.boot ∧ (∀ n ∈ ([1, 2] : List (BitVec 2)), (mach (fetching n 4096)).pkg.mailbox.state = 1 ∧ (mach (fetching n 4096)).pkg.mailbox.cmd = n ∧ (mach (fetching n 4096)).pkg.boot = 3) ∧
    (mach (fetching 1 0x4001000)).pkg.mailbox.fetch.toNat % 4096 = 0 ∧ (List.replicate 64 (0 : Byte)).length = 64 ∧ 7 ∉ (mach id).pkg.unmasked ∧ 7 ∉ (mach id).pkg.msiPending ∧
    (7 ∈ (mach (package fun p => { p with msiPending := [7] })).pkg.msiPending) ∧ (mach id).findCtx 0 5 = none ∧ (0x7 : Word).toNat = 3 + 4 ∧
    (let s := mach (crew fun c => { c with retired := true }); let s := { s with tasks := [] }; (s.ctx 0).live = true ∧ s.ctxIdle 0 = true ∧ 0 < s.ctxs.length) := by
  refine ⟨by decide +kernel, ⟨by decide +kernel, _, List.mem_cons_self .., by decide +kernel⟩, ?_⟩
  decide +kernel

/-- A boot that verifies its image forms a partition of four dies, whatever the image is (R341, R347). -/
theorem test_boot (h : verdict Config.firmwareImage = 2) :
    (evOut (.boot 0x400000) State.reset).pkg.boot = 2 ∧ ((evOut (.boot 0x400000) State.reset).part 0).dies = 0xF ∧ ((evOut (.boot 0x400000) State.reset).part 0).qtbase = 0x400000 := by
  have e : exec (.boot 0x400000) State.reset = if verdict Config.firmwareImage != 2 then .next ((State.reset.setBoot 1).setBoot 3) else
      .next { (State.reset.setBoot 1).setBoot 2 with parts := Partition.fresh 0 0xF 0x400000 :: List.replicate 3 Partition.reset } := rfl
  simp only [evOut, e, h]
  decide +kernel

/-- A fetch that storage does not answer, and a length that is no multiple of 4 KiB, end in result 5 (R349). -/
theorem test_package :
    (evOut (.recoveryFetchNvme none) (mach (fetching 2 4096))).pkg.mailbox.state = 5 ∧ (evOut (.recoveryFetchHost false) (mach (fetching 1 5))).pkg.mailbox.state = 5 ∧
    (evOut (.contextCreate 0 5 false 0x10000 0) (mach id)).ctxs.length = 2 ∧ (evOut (.msixVectorUnmask 7) (mach (package fun p => { p with msiPending := [7] }))).pkg.msiSent = [7] ∧
    (evOut (.clockStepChange 2 true false) (mach id)).pkg.pwrst = 6 ∧ (List.range 3).map (mach id).bar4 = [2, 1, 0] ∧
    (mach (fetching 2 4096)).bar4 0x818 = 1 ∧ (mach (fetching 2 4096)).bar4 0x811 = 0x10 ∧ (mach id).bar4 0x811 = 0 := by decide +kernel

/-- A configuration that changes the one partition into two; a request whose partitions are quiet, and not; one whose time has run out; partitions with no group, with one, and swapped out. -/
def asked (ms : List (BitVec 4)) (s : State) : State := package (fun p => { p with reconfig := some ⟨ms, [0x400000, 0x800000], 0⟩ }) s
def idleMachine (s : State) : State := { crew (fun c => { c with retired := true }) (grp (fun g => { g with place := .retired }) s) with tasks := [] }
theorem witness_partitions :
    ((mach id).pkg.reconfig = none ∧ (mach id).pkg.boot = 2 ∧ legalConfig [3, 12, 0, 0] = true ∧ (mach id).changed [3, 12, 0, 0] ≠ [] ∧ legalConfig [15, 0, 0, 0] = true) ∧
    (let s := mach (asked [3, 12, 0, 0]); (s.changed [3, 12, 0, 0]).all s.partQuiet = false) ∧
    (let s := mach (fun s => asked [3, 12, 0, 0] (idleMachine s)); (s.changed [3, 12, 0, 0]).all s.partQuiet = true ∧ s.parts.length = 4) ∧
    (let s := mach (fun s => asked [3, 12, 0, 0] (part (fun p => { p with quiesce := some 0 }) s)); ∃ p ∈ s.parts, ∃ q, p.quiesce = some q ∧ q ≤ s.now) ∧
    (let s := mach idleMachine; (s.part 0).live = true ∧ (s.part 0).swapped = false ∧ s.groupsOf 0 = []) ∧
    ((mach id).groupsOf 0 = [0] ∧ (mach id).defersPreempt 0 = false ∧ 0 < (mach id).parts.length) ∧
    (let s := mach (fun s => part (fun p => { p with swapped := true }) (idleMachine s)); (s.part 0).swapped = true ∧ (s.part 0).live = true ∧ s.groupsOf 0 = []) := by
  refine ⟨?_, ?_, ?_, ⟨_, List.mem_cons_self .., 0, rfl, Nat.zero_le _⟩, ?_, ?_, ?_⟩ <;> decide +kernel

/-- The two partitions that stand when the old one is quiet; a swap evicts the group (R341, R342). -/
theorem test_partitions :
    (((evOut (.partitionReconfig [(3, 0), (12, 0), (0, 0), (0, 0)]) (mach (fun s => asked [3, 12, 0, 0] (idleMachine s)))).parts.map fun p => (p.dies, p.qtbase)).take 2) = [(3, 0x400000), (12, 0x800000)] ∧
    ((evOut (.partitionSwap (0, 1)) (mach id)).grp 0).place = .evicted ∧ ((evOut (.partitionSwap (0, 1)) (mach id)).part 0).swapped = true := by decide +kernel

/-! ## Completion: units that start, and what the clauses ask beyond the witnesses of O32 to O60 -/

/-- The unit starts in an ordinary group: all that `starts` and the statement of the data forms ask of the state. -/
abbrev Starts (i : Instr) (f : State → State) : Prop :=
  At i f fun s t => s.cur.g < s.groups.length ∧ s.cur.rdone = false ∧ s.cur.regOnly = false ∧ (t.grp 0).crew < t.crews.length ∧ s.cur.lanes ≠ 0 ∧ s.partNo 0 < 4 ∧
    (s.grp 0).shadow = none ∧ (s.grp 0).nft = false
theorem witness_control_forms_complete :
    (∀ p ∈ ([(.fcall 0 3 1 4, small), (.ret 0 1, id), (.fsyncSq 0, id), (.fhint 0 1 2, id), (.exit 0, id), (.yield 0 3, reg 3 9), (.yieldX 0 3, id),
        (.tmaskSet 0 3 1, id), (.tmaskClr 0 3 1, id), (.tmaskWr 0 3 1, id), (.rdsr 0 3 0x203, id), (.wrsr 0 1 5, id), (.syscWhere 0 3, id), (.syscShoot 0 3, id),
        (.syscTerm 0 3, id), (.syscPodwin 0 3, id), (.syscFpdef 0 3, id), (.syscQdesc 0 3, win 8 8 12), (.syscLevel 0 3, id), (.syscRing 0 3, id), (.dtld 0 3 1, id)]
        : List (Instr × (State → State))), Starts p.1 p.2) ∧
    (At (.ret 0 1) id fun _ t => ∀ l < 32, (laneOf (t.src (.ret 0 1) .A) l).toNat % 4 = 0 ∧ (t.lane 0 l).recs = []) ∧
    (At (.yieldX 0 3) id fun _ t => t.lacksRoom (t.partNo 0) (t.grp 0).level = none) ∧
    (At (.syscQdesc 0 3) (win 8 8 12) fun _ t => (t.lead (.syscQdesc 0 3) .D).toNat % 2 ^ 20 = 0 ∧ 64 ≤ (t.crewOf 0).window ∧ t.boxPoison 0 0 64 = false ∧
      Mem.num (t.crewOf 0).scratch 8 8 / 4 % 32 = 3) ∧
    (At (.syscShoot 0 3) id fun _ t => t.inFlight 0 t.cur.cycle = false) ∧
    (At (.rett 0) (fun s => handled (s.modLanes 0 (BitVec.allOnes 32) fun _ x => { x with mode := .handler })) fun s t => s.cur.rdone = false ∧ (t.lane 0 0).inHandler = true) := by decide +kernel

/-- Indices within their source; a page of the unit's own; a tile without copies elsewhere. -/
theorem witness_data_forms_complete :
    (∀ p ∈ ([(.fdot none 0 3 1 2, id), (.fclass none 0 3 1, id), (.frcp none 0 3 1, id), (.frsq none 0 3 1, id), (.fsqt none 0 3 1, id), (.fexp2 none 0 3 1, id), (.flog2 none 0 3 1, id),
        (.fsin none 0 3 1, id), (.fcos none 0 3 1, id), (.ftanh none 0 3 1, id), (.shfl none 0 3 1 2, id), (.bcast none 0 3 1 2, reg 2 63), (.rixG none 0 3 1 2, id), (.rixS ⟨0, 0, 0, 0, 0, 0x22⟩ 0 3 1 2, id),
        (.redl none 0 3 1, id), (.scan none 0 3 1 1, id), (.tmv none 0 4 1 2, id), (.redmi none 0 3 1 2, id), (.cfd none 0 3 1, id), (.comb none 0 3 1 2, id), (.ld none 0 3 1 15 2, reg 1 0x100),
        (.ldl none 0 3 1 15 2, id), (.lds none 0 3 1 2, id), (.ldc none 0 3 1 2, id), (.st none 0 3 1 15 2, id), (.sts none 0 3 1 2, id), (.sld 0 3 1 15 3, id), (.sst 0 3 1 15 3, id), (.prf none 0 1 15 2, id),
        (.pin none 0 3 1 0, id), (.unpin none 0 3 1 0, id), (.sinv none 0 3 1, id), (.swb none 0 3 1, id), (.swbInv none 0 3 1, id), (.hdef 0 3 1 2, id), (.atom none 0 3 1 15 0, id),
        (.acas none 0 3 1 15 0, id), (.abinc none 0 3 1 15 0, id)] : List (Instr × (State → State))), Starts p.1 p.2) ∧
    (At (.bcast none 0 3 1 2) (reg 2 63) fun s t => (laneOf (t.src (.bcast none 0 3 1 2) .B) (lowest s.cur.lanes)).toNat < 2048 / (Instr.bcast none 0 3 1 2).width) ∧
    (∀ i ∈ ([.rixG none 0 3 1 2, .rixS ⟨0, 0, 0, 0, 0, 0x22⟩ 0 3 1 2] : List Instr), At i id fun _ t => ∀ e < 2048 / i.width, el i.width e (t.src i .B) < 2 ^ (i.x / 8 % 4) * (2048 / i.width)) := by
  decide +kernel

theorem witness_engine_forms_complete :
    (∀ p ∈ ([(.leave 0 1, hold [⟨0, 0⟩]), (.rstat 0 3 1, id), (.rdecl 0 3 1 2, id), (.fence 0 3 3, id), (.barArrive 0 1 1 1, reg 1 1), (.barSync 0 1 1 0, reg 1 1), (.barWait 0 1 1 0, id),
        (.pbarInit 0 1 2, reg 2 3), (.pbarArrive 0 1, win 0 8 0x0_0001_0002), (.pbarWait 0 1 2, win 0 8 0x1_0002_0002), (.cbdef 0 1 1 2, fun s => reg 1 64 (reg 2 0x100002 s)),
        (.cbadvWroom 0 1 1, fun s => reg 1 2 (cbuf halfFull s)), (.cbadvPut 0 1 1, fun s => reg 1 2 (cbuf halfFull s)), (.cbadvWdata 0 1 1, fun s => reg 1 2 (cbuf halfFull s)),
        (.cbadvGet 0 1 1, fun s => reg 1 2 (cbuf halfFull s)), (.swarm 0 1 1, fun s => reg 1 6 (sword ⟨0, 5, 7⟩ s)), (.swwait 0 1 1, fun s => reg 1 6 (sword ⟨0, 5, 7⟩ s)), (.tlwait 0 1 1, id),
        (.cpy 0 0 4 6, words 0x001000000000FFE0 0x0010000000000000 0x200000 0), (.cpyx 0 0 4 6, fun s => words 0 0 0x0010_1F00_1000_0000 0x1000000 (tens 0 s)), (.mld 0 0 4 15, tens 3),
        (.mma 0 0 4 15 1, tens 4), (.mmas 0 0 4 3, tens 3), (.mwb 0 0 4 15, tens 0), (.mclr 0 0 0 15, id), (.ixg 0 0 4 0, tens 0), (.ixs 0 0 4 0, tens 0), (.rredRs 0 0 4 0 0, rings),
        (.rredAr 0 0 4 1 1, rings), (.rcat 0 0 4, rings), (.lput 0 0 4, fun s => words 0x200000 0 0xFE0 0 (podwin s)), (.ectxBind 0 0 1, id), (.ectxUnbind 0 0, tline fun x => { x with engine := some .index }),
        (.ectxDrain 0 0, id), (.ectxPin 0 0, tline fun x => { x with engine := some .index }), (.ectxUnpin 0 0, tline fun x => { x with engine := some .index }),
        (.ectxResume 0 0, tline fun x => { x with engine := some .index, parked := some { parkedCmd with taken := true } }),
        (.ectxAbort 0 0, tline fun x => { x with engine := some .index, parked := some { parkedCmd with taken := true } }), (.estat 0 0 3 0, id),
        (.tdef 0 3 1, fun s => win 16 8 0x100000001 (win 24 8 0x100000001 s)), (.launch 0 3 1 2, fun s => reg 1 0xFFC0 (queue goodQueue 0 1 s)), (.gnode 0 3 1 2, queue goodQueue 0 0),
        (.tapePush 0 1, tape 0x0001_0000_0042_0000 1 none), (.tapeRun 0 3 1, fun s => reg 1 1 (tape 0x0001_0000_0042_0000 1 none (queue 0x10101 0 0 s))), (.tapeDepth 0 3, tape 0x0002_0000_0042_0000 3 none),
        (.tcut 0 1, tape 0x0002_0000_0042_0000 3 none), (.prio 0 1, id)] : List (Instr × (State → State))), Starts p.1 p.2) ∧
    (∀ p ∈ ([(.cpy 0 0 4 6, words 0x001000000000FFE0 0x0010000000000000 0x200000 0), (.cpyx 0 0 4 6, fun s => words 0 0 0x0010_1F00_1000_0000 0x1000000 (tens 0 s)), (.mld 0 0 4 15, tens 3),
        (.mma 0 0 4 15 1, tens 4), (.mmas 0 0 4 3, tens 3), (.mwb 0 0 4 15, tens 0), (.mclr 0 0 0 15, id), (.ixg 0 0 4 0, tens 0), (.ixs 0 0 4 0, tens 0), (.rredRs 0 0 4 0 0, rings),
        (.rredAr 0 0 4 1 1, rings), (.rcat 0 0 4, rings), (.lput 0 0 4, fun s => words 0x200000 0 0xFE0 0 (podwin s))] : List (Instr × (State → State))),
      At p.1 p.2 fun _ t => (t.commandRow p.1).map (fun x => (x.1, x.2.2.1)) = some (0, none)) ∧
    (∀ i ∈ ([.enter 0 3 1 0, .enterTry 0 3 1 0] : List Instr), AtIn 1 i (rooms [(0, plainRegion)]) fun s t => s.cur.rdone = false ∧ s.cur.regOnly = false ∧ (t.grp 0).crew < t.crews.length) := by
  decide +kernel

/-- Events: the hypotheses are those of the witnesses of O51 to O60; and a draining room without demands, a fence that only acquires, and an error that no entry of the log names. -/
theorem witness_events_complete :
    (let s := mach (room { plainRegion with drain := true, open_ := some 0 }); (s.ctx 0).region 0 = some { plainRegion with drain := true, open_ := some 0 } ∧ s.occupants 0 0 = 0) ∧
    (let s := mach (waiting [unitOf (.fence 0 3 1) []])
     let u := unitOf (.fence 0 3 1) []
     let t := { s.modGrp 0 fun gr => { gr with waits := gr.waits.filter fun w => w != u } with cur := u.iss }
     s.readyWait 0 = some u ∧ t.cur.res = none ∧ t.cur.replay = true ∧ u.instr.rt = false ∧ (t.begin u.instr).gate u.instr = .pass ∧ (t.issued u.instr).mayRelease u.instr = true) ∧
    (mach id).pkg.ras = [] ∧ (let s := mach nopPacket; 0 < s.parts.length) ∧ (let s := mach (queue 0x10101 0 1); (s.part 0).slots.length < 64) ∧
    (let s := mach (crew fun c => { c with paceDue := true }); (s.crew 0).paceDue = true ∧ 0 < s.crews.length) := by decide +kernel

/-! ## More clauses: what stands beside the witnesses above -/

/-- A group that starts; a handler lane that raises a cause; an index beyond the source of rix.g and the table of rix.s, in element 5 alone; targets of fcall and ret that are misaligned in lane 3, and in all. -/
theorem witness_start : 5 < 32 ∧ ((mach id).startGroup 0 0 0 0 5 ⟨0, 0, 0, []⟩ 0 (0, 48)).isSome = true := by decide +kernel
theorem witness_handler_death :
    let s := mach (fun s => s.modLanes 0 6 fun _ x => { x with mode := .handler })
    let r : Raise := ⟨0, 6, plainTrap cBREAK 1, none, false, false, 0, 0, 4⟩
    r.g = 0 ∧ r.lanes ≠ 0 ∧ (s.grp 0).place ≠ .dead ∧ (s.grp 0).shadow = none ∧ ((s.grp 0).lane (lowest r.lanes)).inHandler = true := by decide +kernel
theorem witness_index_beyond :
    (At (.rixG none 0 3 1 2) (regs 2 fun l => if l = 2 then 0x40_00000000 else 0) fun _ t => let i : Instr := .rixG none 0 3 1 2
      (t.cur.lanes.getLsbD 2 = true ∧ (t.wmask i).getLsbD 20 = true ∧ 64 ≤ el 32 5 (t.src i .B)) ∧ i.width = 32 ∧ 2 ^ (i.x / 8 % 4) = 1 ∧ ∀ e < 5, ¬ (64 ≤ el 32 e (t.src i .B))) ∧
    (At (.rixS ⟨0, 0, 0, 0, 0, 0x20⟩ 0 4 1 2) (regs 2 fun l => if l = 2 then 0x40_00000000 else 0) fun _ t => let i : Instr := .rixS ⟨0, 0, 0, 0, 0, 0x20⟩ 0 4 1 2
      (t.cur.lanes.getLsbD 2 = true ∧ (t.wmask i).getLsbD 20 = true ∧ 64 ≤ el 32 5 (t.src i .B)) ∧ i.width = 32 ∧ 2 ^ (i.x / 8 % 4) = 1 ∧ ∀ e < 5, ¬ (64 ≤ el 32 e (t.src i .B))) := by decide +kernel
theorem witness_fork_targets : ∀ p ∈ ([(.fcall 0 3 1 4, small), (.ret 0 1, id)] : List (Instr × (State → State))),
    (At p.1 (fun s => p.2 (regs 1 (fun l => if l = 3 then 2 else 0x80) s)) fun s t => s.cur.g < s.groups.length ∧ s.cur.regOnly = false ∧
      ∀ l < 32, (8#32).getLsbD l = true ↔ s.cur.lanes.getLsbD l = true ∧ (laneOf (t.src p.1 .A) l).toNat % 4 ≠ 0) ∧
    (At p.1 (fun s => p.2 (reg 1 0x81 s)) fun s t => BitVec.allOnes 32 = s.cur.lanes ∧ ∀ l < 32, (laneOf (t.src p.1 .A) l).toNat % 4 ≠ 0) := by decide +kernel

/-- With TRAPBASE.EN = 0 the trap of rix.g in lane 2 alone ends the group (R152, R325). -/
theorem test_index_trap : ((done (.rixG none 0 3 1 2) (regs 2 fun l => if l = 2 then 0x40_00000000 else 0)).grp 0).place = .dead := by decide +kernel

/-- Powers of two as operands and as results: 2^3 = 8 in FP32, FP16 and BF16 (R140). -/
theorem witness_powers : ∀ p ∈ ([(0, 0x40400000, 0x41000000), (1, 0x4200, 0x4800), (2, 0x4040, 0x4100)] : List (Nat × Nat × Nat)),
    (decodeF p.1 p.2.1).nonFinite = false ∧ (decodeF p.1 p.2.2).nonFinite = false ∧ p.2.2 < 2 ^ fmtWidth p.1 ∧ (decodeF p.1 p.2.1).rat = 3 ∧ (decodeF p.1 p.2.2).rat = 8 := by decide +kernel
theorem test_powers : ∀ p ∈ ([(0, 0x40400000, 0x41000000), (1, 0x4200, 0x4800), (2, 0x4040, 0x4100)] : List (Nat × Nat × Nat)),
    specialElem .exp2 p.1 false p.2.1 = ⟨p.2.2, 0⟩ ∧ specialElem .log2 p.1 false p.2.2 = ⟨p.2.1, 0⟩ := by decide +kernel

/-- An access in parts that goes on, and one that meets a fault there; an atomic of the same kind of unit is none. -/
def begun (i : Instr) (l : List Nat) : UnitRec := let u := unitOf i [0, 0]; { u with iss := { u.iss with left := some l } }
theorem witness_parts :
    let u := begun (.ld none 0 3 1 15 2) [0x1800, 0x1801]
    let s := mach (flying [u])
    let t := s.takeUnit 0 u
    s.nextUnit 0 = some u ∧ u.iss.left.isSome = true ∧ isAtomic u.instr = false ∧ (t.popSplit.2.sweepPart u t.popSplit.1).2.2 = none := by decide +kernel

/-- A resumed command reads again what it has read of memory, and keeps what it took out of its buffer; a remote write sends its sector again; updates in flight are found anew. -/
theorem witness_again :
    (let x := { winCopy with got := [(5, 9), (streamBase + 1, 7)] }; x.pos ≠ operandsGone ∧ x.again.got = [(streamBase + 1, 7)]) ∧
    (cmd0 (.lput 0 0 4) 1).instr = .lput 0 0 4 ∧ (cmd0 (.lput 0 0 4) 1).again.pos = 0 ∧
    (let x := adding [upd 0, upd 1]; x.f 0 6 1 = 0 ∧ x.again.ups = []) ∧
    (let x := { adding [upd 0, upd 1] with blk := [0x40, 0, 0] }; x.f 0 6 1 = 1 ∧ (x.again.ups.map fun u => (u.k, u.row)) = [(0, none), (1, none)]) := by decide +kernel

/-- Doorbells end at 65,535. -/
theorem witness_doorbell_end : (65536 ≤ 65536) ∧ ¬ (65536 ≤ 65535) ∧ evOut (.doorbell 0 65536 3) (mach (queue 0x10101 1 2)) = mach (queue 0x10101 1 2) := by decide +kernel

/-- Room for a copy in its set, and none where every way is pinned. -/
def pinnedSet (s : State) : State := { s with cache := (List.range (waysOf 0)).map fun w => ⟨0, l1Set 0x300, w, 0, 0x300 + 2 ^ 20 * (w + 1), .dt .E, 0, false, 0, 1, 0⟩ }
theorem witness_room :
    ((mach (copies [(1, .M)])).pickWay 0 (l1Set 0x300) ((mach id).ctxNo 0)).isSome = true ∧ ((mach (copies [(0, .S)])).copyIn 0 0 0x300).isSome = true ∧
    (let s := mach pinnedSet
     s.dtPossible 0 0 0x300 = true ∧ s.dtState 0 0 0x300 = .I ∧ (s.copyIn 0 0 0x300).isSome = false ∧ (s.pickWay 0 (l1Set 0x300) (s.ctxNo 0)).isSome = false) := by decide +kernel
theorem witness_pinned_dt : (mach pinnedSet).onlyDt := by
  intro c hc
  obtain ⟨w, -, rfl⟩ := List.mem_map.1 (show c ∈ (List.range (waysOf 0)).map fun w => (⟨0, l1Set 0x300, w, 0, 0x300 + 2 ^ 20 * (w + 1), .dt .E, 0, false, 0, 1, 0⟩ : CLine) from hc)
  exact ⟨.E, rfl⟩

/-- An error in a copy in an L1, and in a partial; atomics from outside; the MSI-X table; a device's write to the mapped page, and to one that is not mapped. -/
theorem witness_outside :
    ((mach (copies [(1, .M)])).holdsDt 1 0 (32 * 0x1800) = true ∧ (mach (copies [(1, .M)])).poison = []) ∧
    (∃ p ∈ ((mach (partials [⟨0, 0, 0x300, 7⟩])).ctx 0).partials, p.region = 0 ∧ p.quad = 0 ∧ p.line = 0x1803 / 8) ∧
    (∀ n ∈ ([4, 8] : List Nat), 0x30008 % n = 0 ∧ 0x30008 + 2 * n ≤ ((mach id).part 0).dramSize ∧ (leBytes (2 * n) 7).length = (if HostOp.cas = .cas then 2 * n else n)) ∧ (mach id).orphans = [] ∧
    (mach id).findCtx 0 (1#16).toNat = some 0 ∧ ((mach id).ctx 0).part < 4 ∧ 0x100 % 256 + (leBytes 8 7).length ≤ 256 := by
  refine ⟨by decide +kernel, ⟨⟨0, 0, 0x300, 7⟩, List.mem_singleton.2 rfl, by decide⟩, ?_⟩
  decide +kernel
theorem witness_device : ∃ x, (mach id).ioReach 0 .store 0x100 = .ok x ∧ x.host = false := reach_ok (by decide +kernel)
theorem fault_ok {r : Reach} (h : (match r with | .fault _ _ => true | _ => false) = true) : ∃ c e, r = .fault c e := by
  cases r with
  | fault c e => exact ⟨c, e, rfl⟩
  | ok x => simp at h
  | void p => simp at h
theorem witness_device_fault : ∃ c e, (mach id).ioReach 0 .store 0x100000 = .fault c e := fault_ok (by decide +kernel)

/-- FetchAdd adds and answers the old value, CAS compares; the host masks a vector; a device writes the mapped page (R343, R344, R346). -/
theorem test_outside :
    (let s := mach fun s => s.writeDram 0 0x30008 (leBytes 8 5)
     (let t := evOut (.hostMemoryWrite (.memory 0 .fetchAdd) 0x30008 (leBytes 8 3)) s; t.pkg.replies = [5] ∧ Mem.num t.dram 0x30008 8 = 8) ∧
     (let t := evOut (.hostMemoryWrite (.memory 0 .cas) 0x30008 (leBytes 4 5 ++ leBytes 4 9)) s; t.pkg.replies = [5] ∧ Mem.num t.dram 0x30008 8 = 9) ∧
     (let t := evOut (.hostMemoryWrite (.memory 0 .swap) 0x30008 (leBytes 4 6)) s; Mem.num t.dram 0x30008 8 = 6)) ∧
    (evOut (.hostMemoryWrite .msix (16 * 7 + 12) [1]) (mach (package fun p => { p with unmasked := [7, 8] }))).pkg.unmasked = [8] ∧
    Mem.num (evOut (.hostMemoryWrite (.device 0 1) 0x100 (leBytes 4 77)) (mach id)).dram 0x30100 4 = 77 := by decide +kernel

/-- A fetch from the host of a whole image, one that runs out of the host's window, and one from storage; and images of a partition. -/
theorem witness_fetches :
    (let m := (mach (fetching 1 4096)).pkg.mailbox; m.fetch.toNat % 4096 = 0 ∧ m.fetch.toNat ≤ 64 * 2 ^ 20 ∧ m.from_.toNat + m.fetch.toNat ≤ 2 ^ 48) ∧
    (let m := (mach (package fun p => { p with boot := 3, mailbox := ⟨1, 0, 4096, 1, 4096, 0xFFFF_FFFF_FFFF⟩ })).pkg.mailbox; 2 ^ 48 < m.from_.toNat + m.fetch.toNat) ∧
    (mach (fetching 2 4096)).pkg.mailbox.cmd = 2 ∧ (List.replicate 4096 (0 : Byte)).length = (mach (fetching 2 4096)).pkg.mailbox.fetch.toNat ∧
    (let s := mach (fun s => part (fun p => { p with swapped := true }) (grp (fun g => { g with place := .evicted }) s))
     (s.part 0).live = true ∧ (s.part 0).swapped = true ∧ s.groupsOf 0 = [] ∧ 0 < s.parts.length ∧ 1 ≠ (s.part 0).image ∧ (s.crew 0).retired = false ∧ (s.ctx (s.crew 0).ctx).part = 0 ∧
       (s.ctx (s.crew 0).ctx).image = (s.part 0).image) := by decide +kernel
/-- The crew of the image that leaves gives up its granules (R342). -/
theorem test_image : let t := evOut (.partitionSwap (0, 1)) (mach (fun s => part (fun p => { p with swapped := true }) (grp (fun g => { g with place := .evicted }) s)))
    (t.part 0).image = 1 ∧ (t.crew 0).granules = [] := by decide +kernel
/-- The acknowledgement of the oldest packet of a replay buffer, after which its replays are counted anew, and of another (R286). -/
theorem test_ack :
    let s := mach (portIs fun q => { q with buffer := [pkt .lput 4, pkt .lput 5], replays := 3 })
    ((evOut (.yarrowPacketReceive 15 (pkt .linkAck 4)) s).port 15).replays = 0 ∧ ((evOut (.yarrowPacketReceive 15 (pkt .linkAck 5)) s).port 15).replays = 3 := by decide +kernel
/-- A table of decoded words that is sound; with a value that is no shipping opcode it is not (the entries above). -/
theorem witness_sound_table : tableEntry 0 2 / 1024 % 32 = 0 ∧ ¬ (tableEntry 0 2 / 2 ^ 15 = 1) ∧ (tableEntry 0x8001 2 / 2 ^ 15 = 1) ∧ isShipping (decide (1024 ≤ 2)) (tableEntry 0x8001 2 % 1024) = true := by decide +kernel

end Sys2Proof.Tests
end

section
/-! PROOFS. Errors of memory and writes from outside (O52), and events of a group (O47): what a write from outside makes of DRAM, lane results and `cfd`
performed later than it issued, and the states in which the two statements fail. -/

namespace Sys2Proof.Machine

/-! ## Writes from outside (R193, R220, R343) -/

/-- A fold of steps that each leave a field leaves it. -/
theorem foldl_keeps {α β γ : Type} (p : β → γ) (f : β → α → β) (h : ∀ b a, p (f b a) = p b) (l : List α) (b : β) : p (l.foldl f b) = p b := by
  induction l generalizing b with
  | nil => rfl
  | cons a l ih => rw [List.foldl_cons, ih, h]

/-- Bytes written one after the other are one write. -/
theorem Mem.write_append (a : Nat) (bs cs : List Byte) (m : List Host.Cell) : Mem.write a (bs ++ cs) m = Mem.write (a + bs.length) cs (Mem.write a bs m) := by
  induction bs generalizing a m with
  | nil => rfl
  | cons b bs ih =>
    rw [List.cons_append, Mem.write, ih, Mem.write, List.length_cons]
    congr 1
    omega

@[simp] theorem State.returnMarks_dram (s : State) (c : CLine) : (s.returnMarks c).dram = s.dram := by
  unfold State.returnMarks State.putMarks
  split
  · exact foldl_keeps State.dram _ (fun _ _ => State.setPoison_dram ..) _ _
  · rfl

@[simp] theorem State.filterCache_dram (s : State) (f : CLine → Option CLine) : (s.filterCache f).dram = s.dram :=
  foldl_keeps State.dram (fun t (c : CLine) => t.resolve c.ctx false) (fun _ _ => rfl) _ _

@[simp] theorem State.invalidate_dram (s : State) (pick : Nat → Bool) (part line : Nat) : (s.invalidate pick part line).dram = s.dram := by
  unfold State.invalidate State.loseCopies
  rw [State.filterCache_dram]
  split
  · rfl
  · exact foldl_keeps State.dram _ State.returnMarks_dram _ _

@[simp] theorem State.clearPoison_dram (s : State) (part pa : Nat) : (s.clearPoison part pa).dram = s.dram := by
  unfold State.clearPoison
  split
  · rfl
  · exact State.setPoison_dram ..

/-- A write of Bracken, or from outside, within a line reaches DRAM at its place. -/
theorem State.physWrite_dram (s : State) (part pa : Nat) (bs : List Byte) (h : part < 4) :
    (s.physWrite part pa bs).dram = Mem.write (dramKey part pa) bs s.dram := by
  unfold State.physWrite
  rw [foldl_keeps State.dram (fun (s : State) k => s.unmark part (32 * (pa / 32 + k))) (fun _ _ => rfl), State.homeWrite, if_neg (by simp; omega),
    State.writeDram_dram, State.invalidate_dram]

/-- The pieces of a list of bytes cut at the ends of lines, written in turn, are one write of the list. -/
theorem State.physWrite_cutLines_dram (part : Nat) (h : part < 4) (n addr : Nat) (bs : List Byte) (hn : bs.length < n) (s : State) :
    ((cutLines n addr bs).foldl (fun s p => s.physWrite part p.1 p.2) s).dram = Mem.write (dramKey part addr) bs s.dram := by
  induction n generalizing addr bs s with
  | zero => omega
  | succ n ih =>
    cases bs with
    | nil => rfl
    | cons b bs =>
      let k := 256 - addr % 256
      have hk : 0 < k := by simp only [k]; omega
      have hcut : cutLines (n + 1) addr (b :: bs) = (addr, (b :: bs).take k) :: cutLines n (addr + k) ((b :: bs).drop k) := rfl
      rw [hcut, List.foldl_cons, ih _ _ (by rw [List.length_drop]; simp at hn ⊢; omega), State.physWrite_dram _ _ _ _ h]
      rcases Nat.lt_or_ge k (b :: bs).length with hlt | hge
      · have hlen : dramKey part addr + ((b :: bs).take k).length = dramKey part (addr + k) := by
          rw [List.length_take, Nat.min_eq_left hlt.le, dramKey, dramKey, Nat.add_assoc]
        rw [← hlen, ← Mem.write_append, List.take_append_drop]
      · rw [List.drop_of_length_le hge, List.take_of_length_le hge, Mem.write]

/-- A write from outside into device memory writes its bytes at its place in DRAM, and no other (R220, R343). -/
theorem State.outerWrite_dram (s : State) (part addr : Nat) (bs : List Byte) (h : part < 4) :
    (s.outerWrite part addr bs).dram = Mem.write (dramKey part addr) bs s.dram := by
  unfold State.outerWrite
  rw [foldl_keeps State.dram (fun (s : State) k => s.clearPoison part (32 * k)) (fun _ _ => State.clearPoison_dram ..),
    foldl_keeps State.dram (fun (s : State) k => s.noteStrips part (32 * k)) (fun _ _ => rfl), State.physWrite_cutLines_dram part h _ _ _ (Nat.lt_succ_self _)]

/-- HOST_MEMORY_WRITE of bytes that a partition's DRAM holds is a write from outside (R343). -/
theorem exec_hostMemoryWrite_memory (s : State) (part addr : Nat) (bs : List Byte) (hb : bs ≠ []) (hr : addr + bs.length ≤ (s.part part).dramSize) :
    exec (.hostMemoryWrite (.memory part .write) addr bs) s = .next (s.outerWrite part addr bs) := by
  have hfits : ((s.part part).dramSize < addr + bs.length || bs.isEmpty) = false := by simp [hb, hr]
  have harm : exec (.hostMemoryWrite (.memory part .write) addr bs) s = execHostMemoryWrite (.memory part .write) addr bs s := rfl
  rw [harm, execHostMemoryWrite, hfits]
  rfl

/-- Where DRAM is in canonical form, the bytes that the host writes read back, and every other byte of DRAM stands. -/
theorem hostMemoryWrite_reads_back (s : State) (part addr : Nat) (bs : List Byte) (hp : part < 4) (hb : bs ≠ [])
    (hr : addr + bs.length ≤ (s.part part).dramSize) (hw : Mem.wf s.dram = true) :
    ∃ t, exec (.hostMemoryWrite (.memory part .write) addr bs) s = .next t ∧ Mem.read t.dram (dramKey part addr) bs.length = bs ∧
      ∀ k, (k < dramKey part addr ∨ dramKey part addr + bs.length ≤ k) → Mem.get t.dram k = Mem.get s.dram k := by
  refine ⟨_, exec_hostMemoryWrite_memory s part addr bs hb hr, ?_, fun k hk => ?_⟩
  · rw [s.outerWrite_dram part addr bs hp, Mem.read_write hw]
  · rw [s.outerWrite_dram part addr bs hp, Mem.get_write_outside hw _ _ _ hk]

/-- A zero byte written below the first cell of a memory lists nothing, and takes no cell away. -/
theorem Mem.set_unlisted_below (a k : Nat) (b : Byte) (m : List Host.Cell) (h : a < k) : Mem.set a unlisted ((k, b) :: m) = (k, b) :: m := by
  simp [Mem.set, h]

/-! ## Errors of memory and writes from outside -/

/-- A package of one partition, whose DRAM lists address 1 with 7 before address 0 with 9. -/
def unsortedDram : State := { State.reset with parts := [Partition.fresh 0 0xF 0], dram := [(1, 7), (0, 9)] }

theorem unsortedDram_canonical : unsortedDram.canonical = false := by decide +kernel

/-- Refutes O52, in its clause about the host's write: the statement is about every state, one whose DRAM is out of order too (`unsortedDram_canonical`). The host
writes a zero byte to address 0 of `unsortedDram`; the write stops at the cell of address 1, and address 0 goes on reading 9. Where DRAM is in canonical form
(log entry 3) the bytes read back (`hostMemoryWrite_reads_back`). -/
theorem not_memoryEvents : ¬ Obligations.MemoryEvents := by
  unfold Obligations.MemoryEvents
  intro h
  obtain ⟨-, -, -, -, -, writes, -⟩ := h unsortedDram
  have hfits : 0 + [(0 : Byte)].length ≤ (unsortedDram.part 0).dramSize := by decide
  obtain ⟨t, ht, hread, -⟩ := writes 0 0 [0] (by decide) (by decide) hfits
  rw [exec_hostMemoryWrite_memory _ _ _ _ (by decide) hfits] at ht
  have hdram : t.dram = [(1, 7), (0, 9)] := by
    rw [← Host.Outcome.next.inj ht, unsortedDram.outerWrite_dram 0 0 [0] (by decide)]
    exact Mem.set_unlisted_below 0 1 7 _ (by decide)
  rw [hdram] at hread
  exact absurd hread (by decide)

/-! ## Units performed later than they issued (R52, R316) -/

/-- A unit performed again, with no image to deliver, has its effect where its checks pass (R60, R322). -/
theorem State.issue_of_passesAgain (s : State) (i : Instr) (body : State → Out) (h : s.passesAgain i) : s.issue i body = body (s.issued i) := by
  obtain ⟨-, hres, -, hgate⟩ := h
  have hnone : ((s.begin i).passed i).cur.res = none := by simp [hres]
  unfold State.issue
  dsimp only
  rw [hgate]
  dsimp only
  rw [hnone]
  rfl

/-! ## Lane results (R47, R117) -/

/-- Elements that take part, as the claims say it and as the model tests it. -/
theorem State.live_iff (s : State) (i : Instr) (w e : Nat) : s.live i w e ↔ s.takesPart i w e = true := by
  simp [State.live, State.takesPart, laneIx, enabled]

/-- A result given element by element is a lane result with those values (R47, R117). -/
theorem State.result_lanewise (s : State) (i : Instr) (w : Nat) (f : Nat → Nat) (P : Nat → Nat → Prop) (hw : w ∣ 64)
    (h : ∀ e < 2048 / w, s.live i w e → P e (f e % 2 ^ w)) : (s.result i w s.cur.lanes f).lanewise s i w P := by
  intro e he
  have hval := el_result_val s i w s.cur.lanes f e he
  refine ⟨fun hl => ?_, fun hl hlane hz => ?_, fun hl hout => ?_⟩
  · have hpart : (s.cur.lanes.getLsbD (laneIx w e) && enabled (s.wmask i) w e) = true := (s.live_iff i w e).1 hl
    refine ⟨?_, by rw [hval, if_pos hpart]; exact h e he hl⟩
    cases hz : i.zeroFill with
    | false => rw [el_result_en s i w _ f hz e he, if_pos hpart]
    | true => rw [el_result_fill s i w _ f hz hw e he]; exact if_pos hl.1
  · have hpart : ¬ (s.cur.lanes.getLsbD (laneIx w e) && enabled (s.wmask i) w e) = true := fun hp => hl ((s.live_iff i w e).2 hp)
    exact ⟨by rw [el_result_fill s i w _ f hz hw e he]; exact if_pos hlane, by rw [hval, if_neg hpart]⟩
  · have hpart : ¬ (s.cur.lanes.getLsbD (laneIx w e) && enabled (s.wmask i) w e) = true := fun hp => hl ((s.live_iff i w e).2 hp)
    cases hz : i.zeroFill with
    | false => rw [el_result_en s i w _ f hz e he, if_neg hpart]
    | true =>
      have hlane : s.cur.lanes.getLsbD (laneIx w e) = false := hout.resolve_right (by simp [hz])
      rw [el_result_fill s i w _ f hz hw e he, hlane]
      rfl

/-- A bit of a mask that is given bit by bit. -/
theorem getLsbD_buildMask (f : Nat → Bool) (b : Nat) (h : b < 256) : (buildMask f).getLsbD b = f b := by
  have hel := buildNat_el 1 (fun b => (f b).toNat) 256 b h
  rw [Nat.one_mul, pow_one] at hel
  rw [buildMask, BitVec.getLsbD_ofNat, decide_eq_true h, Bool.true_and, Nat.testBit_eq_decide_div_mod_eq, hel]
  cases f b <;> rfl

/-! ## Conflicts (R155) -/

/-- The nearest earlier element that takes part and has an element's key. -/
theorem lastWith_eq_some {w e p : Nat} {part : Nat → Bool} {keys : Img} (h : lastWith w part keys e = some p) :
    (p < e ∧ part p = true ∧ el w p keys = el w e keys) ∧ ∀ q < e, part q = true → el w q keys = el w e keys → q ≤ p := by
  obtain ⟨front, hfront⟩ := List.getLast?_eq_some_iff.1 h
  have hmem : ∀ q, q ∈ front ++ [p] ↔ q < e ∧ part q = true ∧ el w q keys = el w e keys := by
    intro q; rw [← hfront]; simp
  have hsorted : (front ++ [p]).Pairwise (· < ·) := by rw [← hfront]; exact List.pairwise_lt_range.filter _
  refine ⟨(hmem p).1 (by simp), fun q hq hpart hkey => ?_⟩
  rcases List.mem_append.1 ((hmem q).2 ⟨hq, hpart, hkey⟩) with hin | hlast
  · exact ((List.pairwise_append.1 hsorted).2.2 q hin p (by simp)).le
  · simp at hlast; exact hlast.le

/-- No earlier element that takes part has an element's key. -/
theorem lastWith_eq_none {w e : Nat} {part : Nat → Bool} {keys : Img} :
    lastWith w part keys e = none ↔ ∀ q < e, part q = true → el w q keys ≠ el w e keys := by
  simp [lastWith]

/-- e' is an earlier element of the unit that takes part and has the key of element e. -/
def State.twin (x : State) (i : Instr) (e' e : Nat) : Prop :=
  e' < e ∧ x.live i i.width e' ∧ el i.width e' (x.src i .A) = el i.width e (x.src i .A)

/-- The nearest twin that `cfd` finds for an element; itself where there is none, which is when `cfd` marks it as the first of its key. -/
theorem State.lastWith_twin (x : State) (i : Instr) (e : Nat) :
    let last := lastWith i.width (x.takesPart i i.width) (x.src i .A) e
    ((x.twin i (last.getD e) e ∧ ∀ e', x.twin i e' e → e' ≤ last.getD e) ∨ (last.getD e = e ∧ ∀ e', ¬ x.twin i e' e)) ∧
      (last.isNone = true ↔ ∀ e', ¬ x.twin i e' e) := by
  intro last
  cases hlast : last with
  | some p =>
    obtain ⟨⟨hlt, hpart, hkey⟩, hmax⟩ := lastWith_eq_some hlast
    have htwin : x.twin i p e := ⟨hlt, (x.live_iff _ _ _).2 hpart, hkey⟩
    exact ⟨.inl ⟨htwin, fun e' ht => hmax e' ht.1 ((x.live_iff _ _ _).1 ht.2.1) ht.2.2⟩, by simpa using ⟨p, htwin⟩⟩
  | none =>
    have hno : ∀ e', ¬ x.twin i e' e := fun e' ht => lastWith_eq_none.1 hlast e' ht.1 ((x.live_iff _ _ _).1 ht.2.1) ht.2.2
    exact ⟨.inr ⟨rfl, hno⟩, by simpa using hno⟩

/-- The mask of `cfd` and `comb`. -/
theorem conflictMask_firstsOf (x : State) (w : Nat) (first : Nat → Bool) (P : Nat → Prop) (h : ∀ b < 256, first (8 * b / w) = true ↔ P (8 * b / w)) :
    firstsOf x w (conflictMask w x.cur.lanes first) P := by
  intro b hb
  simp only [conflictMask, getLsbD_buildMask _ b hb]
  exact ⟨fun hl => by simp [hl, h b hb], fun hl => hl⟩

/-- A list made from the numbers below n, read at one of them. -/
theorem getD_map_range {α : Type} (f : Nat → Option α) {n e : Nat} (h : e < n) : ((List.range n).map f).getD e none = f e := by
  simp [h]

/-- At the widths of a key every element number fits an element (R155). -/
theorem elements_fit : ∀ w ∈ [8, 16, 32, 64], w ∣ 64 ∧ 2048 / w ≤ 2 ^ w := by decide

/-- `cfd` performed later than it issued, at a width that check 3 of R60 lets pass: each element that takes part receives its nearest twin, or itself, and
the mask marks the first of each key (R52, R155). -/
theorem exec_cfd_again (s : State) (pf : Option Pfx) (sc : BitVec 3) (d a : BitVec 6) :
    let i : Instr := .cfd pf sc d a
    let x := s.issued i
    let w := i.width
    s.passesAgain i → s.cur.lanes ≠ 0 → w ∈ [8, 16, 32, 64] →
    ∃ (r : Result) (m : Mask × Mask), exec i s = .next ((x.writeReg x.cur.g d r).finishMask i (i.x / 16) m []) ∧
      r.lanewise x i w (fun e v => (x.twin i v e ∧ ∀ e', x.twin i e' e → e' ≤ v) ∨ (v = e % 2 ^ w ∧ ∀ e', ¬ x.twin i e' e)) ∧
      firstsOf x w m fun e => x.live i w e ∧ ∀ e', ¬ x.twin i e' e := by
  intro i x w hagain hlanes hw
  let last (e : Nat) : Option Nat := ((List.range (2048 / w)).map fun e => lastWith w (x.takesPart i w) (x.src i .A) e).getD e none
  have hlast : ∀ e < 2048 / w, last e = lastWith w (x.takesPart i w) (x.src i .A) e := fun e he => getD_map_range _ he
  obtain ⟨hdvd, hfits⟩ := elements_fit w hw
  refine ⟨x.result i w x.cur.lanes fun e => (last e).getD e, conflictMask w x.cur.lanes fun e => x.takesPart i w e && (last e).isNone, ?_, ?_, ?_⟩
  · have harm : exec i s = execCfd pf sc d a s := rfl
    have hissued : x.cur.lanes ≠ 0 := by simpa [x] using hlanes
    rw [harm, ← State.finish_now x i d _ x.cur.lanes hissued hagain.2.2.1 rfl, execCfd, State.issue_of_passesAgain _ _ _ hagain]
  · refine x.result_lanewise i w _ _ hdvd fun e he _ => ?_
    have htwin := (x.lastWith_twin i e).1
    rw [← hlast e he] at htwin
    rcases htwin with ⟨ht, hmax⟩ | ⟨hself, hno⟩
    · rw [Nat.mod_eq_of_lt (lt_of_lt_of_le (ht.1.trans he) hfits)]
      exact .inl ⟨ht, hmax⟩
    · exact .inr ⟨by rw [hself], hno⟩
  · refine conflictMask_firstsOf x w _ _ fun b hb => ?_
    have he : 8 * b / w < 2048 / w := Nat.div_lt_div_of_lt_of_dvd (hdvd.trans (by decide)) (by omega)
    rw [hlast _ he, Bool.and_eq_true, x.live_iff]
    exact and_congr_right fun _ => (x.lastWith_twin i _).2

/-! ## Registers written at once (R47, R52) -/

/-- An element whose bits are all enabled takes the new value. -/
theorem el_blend_of_full {w e : Nat} {en : Img} (new old : Img) (h : el w e en = 2 ^ w - 1) : el w e (blend en new old) = el w e new := by
  apply Nat.eq_of_testBit_eq
  intro j
  simp only [el, Nat.testBit_mod_two_pow, Nat.testBit_div_two_pow, BitVec.testBit_toNat]
  by_cases hj : j < w
  · have hen : en.getLsbD (j + w * e) = true := by
      have := congrArg (Nat.testBit · j) h
      simpa [el, Nat.testBit_mod_two_pow, Nat.testBit_div_two_pow, BitVec.testBit_toNat, Nat.testBit_two_pow_sub_one, hj] using this
    simp [blend, hen]
  · simp [hj]

/-- A mask written by a unit of variable latency leaves every register (R52). -/
theorem State.finishMask_reg (s : State) (i : Instr) (k : Nat) (m : Mask × Mask) (g w : Nat) (d : BitVec 6) (h : i.latency = none) :
    ((s.finishMask i k m []).grp g).reg w d = (s.grp g).reg w d := by
  unfold State.finishMask
  rw [h, State.modGrp_grp]
  split
  · rw [Group.setMask_keeps]; rfl
  · rfl

/-- A register written at once holds the result under its enables (R47, R52). -/
theorem State.writeReg_reg (s : State) (g w : Nat) (d : BitVec 6) (r : Result) (hg : g < s.groups.length) (hd : d.toNat < 56) :
    ∃ old, ((s.writeReg g d r).grp g).reg w d = blend r.en r.val old := by
  unfold State.writeReg
  rw [State.modGrp_self _ _ _ hg]
  exact ⟨_, Group.setReg_reg _ _ _ _ _ hd⟩

/-! ## Events of a group -/

/-- `cfd` of the keys in v1 to v3 with X = 4: elements of four bits. -/
def nibbleCfd : Instr := .cfd (some ⟨0, 0, 0, 0, 0, 4⟩) 0 3 1

/-- Check 3 of R60 refuses that word at its issue. -/
theorem nibbleCfd_staticCheck : nibbleCfd.staticCheck = some 3 := by decide

/-- Elements 17 and 18 share the key 1, all others have the key 0. -/
def nibbleKeys : Img := build 4 fun e => if e = 17 ∨ e = 18 then 1 else 0

/-- That unit in flight for lane 1 of group 0, with the keys captured and every element enabled. -/
def nibbleUnit : UnitRec :=
  { instr := nibbleCfd, bad := none, illegal := false
    iss := { Issue.idle with lanes := 2, replay := true, late := true, imgs := [nibbleKeys], kimg := BitVec.allOnes 256 } }

/-- A machine whose one group has that unit in flight. -/
def nibbleState : State :=
  { State.reset with groups := [{ Group.fresh 0 0 48 0 0 0 0 0 0 with units := [nibbleUnit] }] }

/-- The machine once the unit has been performed. -/
def nibbleDone : State := match exec (.variableResultWrite 0) nibbleState with | .next t => t | _ => State.reset

theorem exec_nibbleState : exec (.variableResultWrite 0) nibbleState = .next nibbleDone := rfl
theorem nibbleState_nextUnit : nibbleState.nextUnit 0 = some nibbleUnit := by decide +kernel
theorem nibbleState_passesAgain : (nibbleState.takeUnit 0 nibbleUnit).passesAgain nibbleCfd := by unfold State.passesAgain; decide +kernel
/-- v3 names element 1, not 17, for element 18: 17 does not fit four bits. -/
theorem nibbleDone_element : el 4 18 ((nibbleDone.grp 0).reg 64 3) = 1 := by decide +kernel

/-- The state from which the unit has its effect. -/
def nibbleIssued : State := (nibbleState.takeUnit 0 nibbleUnit).issued nibbleCfd

theorem nibbleIssued_live : nibbleIssued.live nibbleCfd 4 18 := by unfold State.live; decide +kernel
theorem nibbleIssued_keys : el 4 1 (nibbleIssued.src nibbleCfd .A) ≠ el 4 18 (nibbleIssued.src nibbleCfd .A) := by decide +kernel

/-- Refutes O47, in its clause about `cfd`: the statement is about every unit in flight, one with four-bit elements too. `nibbleUnit` has issued (`late`), so that
no check is made again, and element 18 has element 17 as its nearest twin. The number 17 does not fit an element of four bits: v3 receives 1, which is no twin
of element 18. No unit comes to fly so, since its issue is refused (`nibbleCfd_staticCheck`); at the widths that the check lets pass the clause holds
(`exec_cfd_again`). -/
theorem not_groupEvents : ¬ Obligations.GroupEvents := by
  unfold Obligations.GroupEvents
  intro h
  obtain ⟨-, -, units, -⟩ := h nibbleState 0
  obtain ⟨-, -, cfd, -⟩ := units nibbleUnit nibbleState_nextUnit
  obtain ⟨r, m, hexec, hlane, -⟩ := cfd (some ⟨0, 0, 0, 0, 0, 4⟩) 0 3 1 rfl rfl nibbleState_passesAgain (by decide)
  obtain ⟨hen, hval⟩ := (hlane 18 (by decide)).1 nibbleIssued_live
  obtain ⟨old, hreg⟩ := nibbleIssued.writeReg_reg 0 64 3 r (by decide) (by decide)
  have hdone : nibbleDone = (nibbleIssued.writeReg 0 3 r).finishMask nibbleCfd 0 m [] := Host.Outcome.next.inj (exec_nibbleState.symm.trans hexec)
  have hone : el 4 18 r.val = 1 := by
    rw [← nibbleDone_element, hdone, State.finishMask_reg _ nibbleCfd 0 m 0 64 3 rfl, hreg]
    exact (el_blend_of_full r.val old hen).symm
  rcases hval with ⟨⟨-, -, hkey⟩, -⟩ | ⟨hself, -⟩
  · have hkeys : el 4 (el 4 18 r.val) (nibbleIssued.src nibbleCfd .A) = el 4 18 (nibbleIssued.src nibbleCfd .A) := hkey
    rw [hone] at hkeys
    exact nibbleIssued_keys hkeys
  · exact absurd (hone.symm.trans hself) (by decide)

end Sys2Proof.Machine
end

section
/-! PROOFS. Reading and writing registers and masks (O11): a register and a mask after a write, and what the source-only specifiers read. -/

namespace Sys2Proof.Machine

/-! ## Registers and masks (R20, R44, R46, R122) -/

/-- A register other than the one written reads as before. -/
theorem Group.setReg_reg_other (gr : Group) (d spec : BitVec 6) (en val : Img) (w : Nat) (h : spec ≠ d) :
    (gr.setReg d en val).reg w spec = gr.reg w spec := by
  have hne : d.toNat ≠ spec.toNat := fun e => h (BitVec.eq_of_toNat_eq e.symm)
  rcases Nat.lt_or_ge d.toNat 48 with hv | hv
  · by_cases hs : spec.toNat < 48
    · simp [Group.setReg, Group.reg, hv, hs, hne]
    · simp only [Group.setReg, Group.reg, Group.lane, hv, hs, if_true, if_false]
  · rcases Nat.lt_or_ge d.toNat 56 with ho | ho
    · by_cases hs : spec.toNat < 48 ∨ 56 ≤ spec.toNat
      · simp only [Group.setReg, Group.reg, Group.lane, ho, Nat.not_lt.2 hv, if_true, if_false]
        rcases hs with hs | hs
        · simp only [hs, if_true]
        · simp only [show ¬ spec.toNat < 56 by omega, if_false]
      · simp [Group.setReg, Group.reg, ho, Nat.not_lt.2 hv, show ¬ spec.toNat < 48 by omega, show spec.toNat < 56 by omega,
          show d.toNat - 48 ≠ spec.toNat - 48 by omega]
    · rw [Group.setReg_discard _ _ _ _ ho]

/-- The mask registers after a write: k0 stands, and another is merged under the enables (R20, R122). -/
theorem Group.setMask_mask (gr : Group) (j k : Nat) (en val : Mask) (hk : k < 8) :
    (gr.setMask j en val).mask k = if k = j ∧ j ≠ 0 then (val &&& en) ||| (gr.mask k &&& ~~~en) else gr.mask k := by
  rcases Nat.eq_zero_or_pos j with rfl | hj
  · simp [Group.setMask_zero]
  · by_cases hkj : k = j
    · subst hkj
      simp [Group.setMask, Group.mask, hj.ne', hk]
    · simp [Group.setMask, Group.mask, hj.ne', hkj, Ne.symm hkj]

/-- lid reads the lane's number in every element (R46). -/
theorem Group.reg_lid (gr : Group) (w e : Nat) (hw : w ∈ [8, 16, 32, 64]) (he : e < 2048 / w) : el w e (gr.reg w 59) = w * e / 64 := by
  have hreg : gr.reg w 59 = build w fun e => laneIx w e := rfl
  have hpow : 2 ^ 5 ≤ 2 ^ w := Nat.pow_le_pow_right (by decide) ((by decide : ∀ w ∈ [8, 16, 32, 64], 5 ≤ w) w hw)
  have hlane : e * w < 2048 := by
    have := (Nat.lt_div_iff_mul_lt ((by decide : ∀ w ∈ [8, 16, 32, 64], 0 < w) w hw)).1 he
    omega
  rw [hreg, el_build _ _ _ he, laneIx, Nat.mul_comm w e]
  exact Nat.mod_eq_of_lt (by omega)

/-- Registers are written under their enables alone; z and the source-only specifiers discard what is written, and read as R46 has it. -/
theorem registerFile : RegisterFile := by
  refine ⟨fun gr d en val w spec => ⟨?_, fun hd => gr.setReg_discard d en val hd⟩, fun _ _ => rfl, fun gr w e hw he => ⟨gr.reg_lid w e hw he, ?_⟩,
    fun gr w l hl => laneOf_ofLanes (fun l => (gr.lane l).pc) l hl⟩
  · by_cases hsame : spec = d
    · subst hsame
      rcases Nat.lt_or_ge spec.toNat 56 with hlt | hge
      · rw [gr.setReg_reg spec en val w hlt, if_pos ⟨rfl, hlt⟩]; rfl
      · rw [gr.setReg_discard spec en val hge, if_neg (by omega)]
    · rw [gr.setReg_reg_other d spec en val w hsame, if_neg (fun h => hsame h.1)]
  · exact el_build w (fun _ => gr.cid) e he

/-- Settles O11, by the register or mask that is read: the one written, or another. -/
theorem registerAndMaskFile : Obligations.RegisterAndMaskFile :=
  ⟨registerFile, fun gr j k en val _ hk => ⟨rfl, gr.setMask_mask j k en val hk⟩⟩

end Sys2Proof.Machine
end

section
/-! PROOFS. Events of the package (O55): boot and recovery, attestation, the bytes of BAR 4, the clock, MSI-X, contexts. -/

namespace Sys2Proof.Machine

/-! ## Boot and recovery (R347 to R350) -/

theorem State.sameMemory.trans {s t u : State} (a : s.sameMemory t) (b : t.sameMemory u) : s.sameMemory u := by
  obtain ⟨hdram, hconst, hhost, hscratch⟩ := a
  obtain ⟨hdram', hconst', hhost', hscratch'⟩ := b
  exact ⟨hdram'.trans hdram, hconst'.trans hconst, hhost'.trans hhost, fun c => (hscratch' c).trans (hscratch c)⟩
theorem State.modPkg_sameMemory (s : State) (f : Package → Package) : s.sameMemory (s.modPkg f) := ⟨rfl, rfl, rfl, fun _ => rfl⟩

/-- An event that is reported changes the package's record of vectors alone. -/
theorem State.msi_pkg (s : State) (v : Nat) : (s.msi v).pkg = { s.pkg with msiSent := (s.msi v).pkg.msiSent, msiPending := (s.msi v).pkg.msiPending } := by
  simp only [State.msi, State.modPkg]
  split <;> rfl

/-- BOOT is set and reported; the rest of the package but its vectors stands. -/
theorem State.setBoot_pkg (s : State) (n : Nat) :
    (s.setBoot n).pkg = { s.pkg with boot := n, msiSent := (s.setBoot n).pkg.msiSent, msiPending := (s.setBoot n).pkg.msiPending } :=
  State.msi_pkg ..

@[simp] theorem State.setBoot_boot (s : State) (n : Nat) : (s.setBoot n).pkg.boot = n := by rw [State.setBoot_pkg]
@[simp] theorem State.setBoot_mailbox (s : State) (n : Nat) : (s.setBoot n).pkg.mailbox = s.pkg.mailbox := by rw [State.setBoot_pkg]
@[simp] theorem State.setBoot_flash (s : State) (n : Nat) : (s.setBoot n).pkg.flash = s.pkg.flash := by rw [State.setBoot_pkg]
@[simp] theorem State.setBoot_image (s : State) (n : Nat) : (s.setBoot n).pkg.image = s.pkg.image := by rw [Package.image, State.setBoot_flash]; rfl
@[simp] theorem State.setBoot_parts (s : State) (n : Nat) : (s.setBoot n).parts = s.parts := rfl
@[simp] theorem State.setBoot_groups (s : State) (n : Nat) : (s.setBoot n).groups = s.groups := rfl
theorem State.setBoot_sameMemory (s : State) (n : Nat) : s.sameMemory (s.setBoot n) := ⟨rfl, rfl, rfl, fun _ => rfl⟩

/-- What the ROM finds of an image (R347, R349). -/
theorem verdict_iff (im : List Byte) :
    (verdict im = 2 ↔ Config.imageSigned im = true ∧ Config.firmwareMinVersion ≤ Config.imageVersion im) ∧ (verdict im = 3 ↔ Config.imageSigned im = false) ∧
      (verdict im = 4 ↔ Config.imageSigned im = true ∧ Config.imageVersion im < Config.firmwareMinVersion) := by
  unfold verdict
  cases Config.imageSigned im with
  | false => simp
  | true => by_cases hlow : Config.imageVersion im < Config.firmwareMinVersion <;> simp [hlow]; omega

/-- The queue table of a partition that is formed is the base named, cut to its bits 22 to 47 (R299). -/
theorem Partition.fresh_qtbase (num : BitVec 2) (dies : BitVec 4) (qt : Word) (b : Nat) :
    (Partition.fresh num dies qt).qtbase.getLsbD b = (decide (22 ≤ b ∧ b < 48) && qt.getLsbD b) := by
  have hmask : (0xFFFFFFC00000#64).getLsbD b = decide (22 ≤ b ∧ b < 48) := by
    rcases Nat.lt_or_ge b 64 with hlt | hge
    · exact (by decide : ∀ b < 64, (0xFFFFFFC00000#64).getLsbD b = decide (22 ≤ b ∧ b < 48)) b hlt
    · rw [BitVec.getLsbD_of_ge _ _ hge, decide_eq_false (by omega)]
  rw [Partition.fresh, BitVec.getLsbD_and, hmask, Bool.and_comm]

/-- The package once a boot is under way (R347). -/
def State.booting (s : State) : State := if s.pkg.boot = 0 then s.setBoot 1 else s

theorem State.booting_image (s : State) : s.booting.pkg.image = s.pkg.image := by
  unfold State.booting
  split
  · exact s.setBoot_image 1
  · rfl
theorem State.booting_parts (s : State) : s.booting.parts = s.parts := by unfold State.booting; split <;> rfl
theorem State.booting_groups (s : State) : s.booting.groups = s.groups := by unfold State.booting; split <;> rfl
theorem State.booting_sameMemory (s : State) : s.sameMemory s.booting := by unfold State.booting; split <;> exact ⟨rfl, rfl, rfl, fun _ => rfl⟩

/-- The partitions that the firmware forms where none stands: one of the four dies (R299, R348). -/
def formedParts (qt : Word) : List Partition := Partition.fresh 0 0xF qt :: List.replicate 3 Partition.reset

/-- BOOT before the firmware runs and outside recovery goes by the ROM's verdict on the image in flash (R347). -/
theorem exec_boot (s : State) (qt : Word) (h : s.pkg.boot < 2) :
    exec (.boot qt) s = .next (if verdict s.pkg.image != 2 then s.booting.setBoot 3
      else if s.parts.any Partition.live then s.booting.setBoot 2 else { s.booting.setBoot 2 with parts := formedParts qt }) := by
  have harm : exec (.boot qt) s = if 2 ≤ s.pkg.boot then .next s else if verdict s.booting.pkg.image != 2 then .next (s.booting.setBoot 3)
      else .next (if (s.booting.setBoot 2).parts.any Partition.live then s.booting.setBoot 2 else { s.booting.setBoot 2 with parts := formedParts qt }) := by
    simp only [State.booting, ← beq_iff_eq (a := s.pkg.boot)]
    rfl
  rw [harm, if_neg (by omega), State.setBoot_parts, s.booting_image, s.booting_parts]
  split <;> rfl

/-- BOOT runs a verified image, and enters recovery with any other; it forms a partition where none stands (R347, R348). -/
theorem boot_runs (s : State) (qt : Word) (h : s.pkg.boot < 2) : ∃ t, exec (.boot qt) s = .next t ∧
    t.pkg.boot = (if verdict s.pkg.image = 2 then 2 else 3) ∧ t.groups = s.groups ∧ s.sameMemory t ∧
    (verdict s.pkg.image ≠ 2 ∨ (∃ p ∈ s.parts, p.live = true) → t.parts = s.parts) ∧
    (verdict s.pkg.image = 2 → (∀ p ∈ s.parts, p.live = false) →
      (t.part 0).live = true ∧ (t.part 0).dies = 0xF ∧ ∀ b, (t.part 0).qtbase.getLsbD b = (decide (22 ≤ b ∧ b < 48) && qt.getLsbD b)) := by
  have hgroups := s.booting_groups
  have hparts := s.booting_parts
  have hmem := s.booting_sameMemory
  rw [exec_boot s qt h]
  generalize s.booting = x at hgroups hparts hmem
  refine ⟨_, rfl, ?_⟩
  by_cases hv : verdict s.pkg.image = 2
  · rw [if_neg (by simpa using hv), if_pos hv]
    by_cases hlive : ∃ p ∈ s.parts, p.live = true
    · rw [if_pos (by simpa using hlive)]
      refine ⟨State.setBoot_boot .., hgroups, hmem, fun _ => hparts, fun _ hnone => ?_⟩
      obtain ⟨p, hp, hl⟩ := hlive
      exact absurd (hnone p hp) (by simp [hl])
    · rw [if_neg (by simpa using hlive)]
      exact ⟨State.setBoot_boot .., hgroups, hmem, fun hno => absurd hno (by simpa [hv] using hlive),
        fun _ _ => ⟨rfl, rfl, Partition.fresh_qtbase 0 0xF qt⟩⟩
  · rw [if_pos (by simpa using hv), if_neg hv]
    exact ⟨State.setBoot_boot .., hgroups, hmem, fun _ => hparts, fun hv' => absurd hv' hv⟩

/-- BOOT does nothing while the firmware runs or in recovery. -/
theorem exec_boot_done (s : State) (v : Word) (h : 2 ≤ s.pkg.boot) : exec (.boot v) s = .next s := by
  have harm : exec (.boot v) s = execBoot v s := rfl
  rw [harm, execBoot, if_pos h]

/-! ## Recovery (R348, R349) -/

/-- A recovery command has ended: what it fetched, if anything, is judged, and goes to flash where it verifies, whereupon the boot begins again. -/
def State.recoveryEnds (s t : State) (got : Option (List Byte)) : Prop :=
  s.sameMemory t ∧
    (∀ im, got = some im → t.pkg.mailbox = { s.pkg.mailbox with state := verdict im } ∧ t.pkg.boot = (if verdict im = 2 then 1 else 3) ∧
      t.pkg.flash = if verdict im = 2 then some im else s.pkg.flash) ∧
    (got = none → t.pkg.mailbox = { s.pkg.mailbox with state := 5 } ∧ t.pkg.boot = 3 ∧ t.pkg.flash = s.pkg.flash)

theorem Mailbox.lenOk_iff (m : Mailbox) : m.lenOk = true ↔ m.fetch.toNat % 4096 = 0 ∧ m.fetch.toNat ≤ 64 * 2 ^ 20 := by
  simp [Mailbox.lenOk]

/-- A recovery command of a sound length that has fetched an image of it. -/
theorem State.recover_some (s : State) (cmd : BitVec 2) (im : List Byte) (hb : s.pkg.boot = 3) (hs : s.pkg.mailbox.state = 1) (hc : s.pkg.mailbox.cmd = cmd)
    (hlen : s.pkg.mailbox.lenOk = true) (him : im.length = s.pkg.mailbox.fetch.toNat) : s.recoveryEnds (s.recover cmd (some im)) (some im) := by
  have hrun : (s.pkg.boot != 3 || s.pkg.mailbox.cmd != cmd || s.pkg.mailbox.state != 1) = false := by simp [hb, hs, hc]
  have hgot : (some im).filter (fun b => b.length == s.pkg.mailbox.fetch.toNat) = some im := by simp [Option.filter, him]
  unfold State.recover
  dsimp only
  rw [hrun, if_neg Bool.false_ne_true, hlen, if_pos rfl, hgot]
  dsimp only
  by_cases hv : verdict im = 2
  · rw [if_pos (by simpa using hv)]
    refine ⟨(s.modPkg_sameMemory _).trans (State.setBoot_sameMemory ..), fun im' he => ?_, fun he => by simp at he⟩
    cases he
    rw [if_pos hv, if_pos hv, State.setBoot_mailbox, State.setBoot_boot, State.setBoot_flash]
    exact ⟨rfl, rfl, if_pos (by simpa using hv)⟩
  · rw [if_neg (by simpa using hv)]
    refine ⟨s.modPkg_sameMemory _, fun im' he => ?_, fun he => by simp at he⟩
    cases he
    rw [if_neg hv, if_neg hv]
    exact ⟨rfl, hb, if_neg (by simpa using hv)⟩

/-- A recovery command that has fetched nothing, or whose length is bad. -/
theorem State.recover_none (s : State) (cmd : BitVec 2) (got : Option (List Byte)) (hb : s.pkg.boot = 3) (hs : s.pkg.mailbox.state = 1) (hc : s.pkg.mailbox.cmd = cmd)
    (h : got = none ∨ s.pkg.mailbox.lenOk = false) : s.recoveryEnds (s.recover cmd got) none := by
  have hrun : (s.pkg.boot != 3 || s.pkg.mailbox.cmd != cmd || s.pkg.mailbox.state != 1) = false := by simp [hb, hs, hc]
  have hgot : (if s.pkg.mailbox.lenOk = true then got.filter fun b => b.length == s.pkg.mailbox.fetch.toNat else none) = none := by
    rcases h with rfl | hl
    · simp
    · simp [hl]
  unfold State.recover
  dsimp only
  rw [hrun, if_neg Bool.false_ne_true, hgot]
  exact ⟨s.modPkg_sameMemory _, fun _ he => by simp at he, fun _ => ⟨rfl, hb, rfl⟩⟩

/-- RECOVERY_FETCH_HOST of a sound length, within the host window (R349). -/
theorem exec_recoveryFetchHost_read (s : State) (hb : s.pkg.boot = 3) (hs : s.pkg.mailbox.state = 1) (hc : s.pkg.mailbox.cmd = 1)
    (hlen : s.pkg.mailbox.lenOk = true) (hin : s.pkg.mailbox.from_.toNat + s.pkg.mailbox.fetch.toNat ≤ 2 ^ 48) :
    ∃ t, exec (.recoveryFetchHost false) s = .next t ∧ s.recoveryEnds t (some (Mem.read s.hostMem s.pkg.mailbox.from_.toNat s.pkg.mailbox.fetch.toNat)) := by
  have harm : exec (.recoveryFetchHost false) s = execRecoveryFetchHost false s := rfl
  refine ⟨_, harm.trans ?_, s.recover_some 1 _ hb hs hc hlen (Mem.read_length ..)⟩
  simp only [execRecoveryFetchHost, hlen, if_true]
  rw [if_neg (by simpa using hin)]

/-- RECOVERY_FETCH_HOST with a bad length, beyond the host window, or whose transfer fails (R349). -/
theorem exec_recoveryFetchHost_fails (s : State) (failed : Bool) (hb : s.pkg.boot = 3) (hs : s.pkg.mailbox.state = 1) (hc : s.pkg.mailbox.cmd = 1)
    (h : failed = true ∨ s.pkg.mailbox.lenOk = false ∨ 2 ^ 48 < s.pkg.mailbox.from_.toNat + s.pkg.mailbox.fetch.toNat) :
    ∃ t, exec (.recoveryFetchHost failed) s = .next t ∧ s.recoveryEnds t none := by
  have harm : exec (.recoveryFetchHost failed) s = execRecoveryFetchHost failed s := rfl
  refine ⟨_, harm, s.recover_none 1 _ hb hs hc ?_⟩
  cases hlen : s.pkg.mailbox.lenOk with
  | false => exact .inr rfl
  | true => exact .inl (if_pos (by simpa [hlen] using h))

/-- RECOVERY_FETCH_NVME (R349). -/
theorem exec_recoveryFetchNvme (s : State) (got : Option (List Byte)) : exec (.recoveryFetchNvme got) s = .next (s.recover 2 got) := rfl

/-! ## Attestation, the clock, MSI-X (R344, R350, R351) -/

/-- ATTESTATION_REPORT while the firmware runs, on a nonce of 64 bytes (R350). -/
theorem exec_attestationReport (s : State) (nonce : List Byte) (hn : nonce.length = 64) (hb : s.pkg.boot = 2) :
    let config := (s.parts.filter Partition.live).map Partition.dies
    exec (.attestationReport nonce) s = .next (s.modPkg fun p => { p with reports :=
      ⟨Config.imageHash s.pkg.image, Config.imageVersion s.pkg.image, Config.firmwareMinVersion, config, nonce, Config.signature (reportBytes s.pkg.image config nonce)⟩ :: p.reports }) := by
  have harm : exec (.attestationReport nonce) s = execAttestationReport nonce s := rfl
  rw [harm, execAttestationReport, if_neg (by simp [hn, hb])]

/-- CLOCK_STEP_CHANGE to a step that is used: PWRST takes it, and a change is reported (R351). -/
theorem exec_clockStepChange (s : State) (n : BitVec 2) (p t : Bool) (hn : n ≠ 3) (v : Word)
    (hv : v.toNat = n.toNat + (if p then 4 else 0) + (if t then 8 else 0)) :
    exec (.clockStepChange n p t) s = .next (if v = s.pkg.pwrst then s else (s.modPkg fun k => { k with pwrst := v }).msi 5) := by
  have harm : exec (.clockStepChange n p t) s = execClockStepChange n p t s := rfl
  have hval : (BitVec.ofNat 64 (n.toNat + 2 ^ 2 * p.toNat + 2 ^ 3 * t.toNat) : Word) = v := by
    apply BitVec.eq_of_toNat_eq
    rw [BitVec.toNat_ofNat, hv]
    have := n.isLt
    cases p <;> cases t <;> simp <;> omega
  rw [harm, execClockStepChange]
  simp only [hval, Bool.or_eq_true, beq_iff_eq, hn, false_or]

/-- MSIX_VECTOR_UNMASK: a masked vector is unmasked, and raised if it was pending (R344). -/
theorem exec_msixVectorUnmask (s : State) (v : Nat) (hv : v < 2048) (hm : v ∉ s.pkg.unmasked) :
    ∃ t, exec (.msixVectorUnmask v) s = .next t ∧ t = { s with pkg := t.pkg } ∧ t.pkg.unmasked = v :: s.pkg.unmasked ∧ v ∉ t.pkg.msiPending ∧
      t.pkg.msiSent = (if v ∈ s.pkg.msiPending then v :: s.pkg.msiSent else s.pkg.msiSent) := by
  have harm : exec (.msixVectorUnmask v) s = .next (s.msiUnmask v) := rfl
  have hmasked : (s.pkg.unmasked.contains v || decide (2048 ≤ v)) = false := by simp [hm, hv]
  refine ⟨_, harm, rfl, ?_⟩
  simp only [State.msiUnmask, State.modPkg, hmasked, Bool.false_eq_true, if_false]
  by_cases hp : v ∈ s.pkg.msiPending <;> simp [hp]

/-! ## The bytes of BAR 4 (R345, R349) -/

/-- Byte k of n little-endian bytes. -/
theorem getD_leBytes (n x k : Nat) (h : k < n) : (leBytes n x).getD k 0 = BitVec.ofNat 8 (x / 2 ^ (8 * k)) := by
  simp [leBytes, h]

/-- Byte k of word j of a block of 64-bit words; beyond the block it is zero. -/
theorem getD_words (ws : List Nat) (j k : Nat) (h : k < 8) : (ws.flatMap (leBytes 8)).getD (8 * j + k) 0 = BitVec.ofNat 8 (ws.getD j 0 / 2 ^ (8 * k)) := by
  induction ws generalizing j with
  | nil => simp
  | cons w ws ih =>
    rw [List.flatMap_cons]
    cases j with
    | zero => rw [List.getD_append _ _ _ _ (by rw [leBytes_length]; omega), Nat.mul_zero, Nat.zero_add, getD_leBytes 8 w k h]; rfl
    | succ j =>
      rw [List.getD_append_right _ _ _ _ (by rw [leBytes_length]; omega), leBytes_length, show 8 * (j + 1) + k - 8 = 8 * j + k by omega, ih]
      rfl

/-- The words of the status block, and those of the mailbox with its STATE. -/
def State.statusWords (s : State) : List Nat :=
  [s.pkg.boot + 2 ^ 8 * (s.parts.filter Partition.live).length, s.pkg.dropq.toNat, s.pkg.pwrst.toNat, s.pkg.rasn, s.pkg.orphn]
def Mailbox.words (m : Mailbox) : List Nat := [m.cmd.toNat, m.src.toNat, m.len.toNat, m.state.toNat]

/-- Byte k of word j of the status block. -/
theorem State.bar4_status (s : State) (j k : Nat) (hk : k < 8) (hj : 8 * j + k < 0x800) :
    s.bar4 (8 * j + k) = BitVec.ofNat 8 (s.statusWords.getD j 0 / 2 ^ (8 * k)) := by
  have hblock : s.statusBlock = s.statusWords.flatMap (leBytes 8) := by simp [State.statusBlock, State.statusWords]
  rw [State.bar4, if_pos hj, hblock, getD_words _ _ _ hk]

/-- Byte k of word j of the mailbox, in recovery. -/
theorem State.bar4_mailbox (s : State) (hb : s.pkg.boot = 3) (j k : Nat) (hk : k < 8) :
    s.bar4 (0x800 + 8 * j + k) = BitVec.ofNat 8 (s.pkg.mailbox.words.getD j 0 / 2 ^ (8 * k)) := by
  have hblock : s.pkg.mailbox.bytes ++ leBytes 8 s.pkg.mailbox.state.toNat = s.pkg.mailbox.words.flatMap (leBytes 8) := by
    simp [Mailbox.bytes, Mailbox.words]
  rw [State.bar4, if_neg (by omega), if_pos (by simp [hb]), hblock, show 0x800 + 8 * j + k - 0x800 = 8 * j + k by omega, getD_words _ _ _ hk]

/-- Outside recovery the mailbox reads as zero. -/
theorem State.bar4_hidden (s : State) (hb : s.pkg.boot ≠ 3) (k : Nat) (hk : 0x800 ≤ k) : s.bar4 k = 0 := by
  rw [State.bar4, if_neg (by omega), if_neg (by simpa using hb)]

/-- A byte of a number that a bit vector holds. -/
theorem ofNat_byte {n : Nat} (v : BitVec n) (k : Nat) : BitVec.ofNat 8 (v.toNat / 2 ^ (8 * k)) = (v >>> (8 * k)).truncate 8 := by
  apply BitVec.eq_of_toNat_eq
  simp [BitVec.toNat_setWidth, BitVec.toNat_ushiftRight, Nat.shiftRight_eq_div_pow]

/-- The host reads the status block, and the mailbox in recovery alone (R345, R349). -/
theorem bar4_reads (s : State) :
    (s.bar4 0).toNat = s.pkg.boot % 256 ∧ (s.bar4 1).toNat = (s.pkg.boot / 256 + (s.parts.filter Partition.live).length) % 256 ∧
      s.bar4 8 = s.pkg.dropq.truncate 8 ∧ s.bar4 9 = (s.pkg.dropq >>> 8).truncate 8 ∧ (∀ k < 8, s.bar4 (0x10 + k) = (s.pkg.pwrst >>> (8 * k)).truncate 8) ∧
      (∀ k < 8, (s.bar4 (0x18 + k)).toNat = s.pkg.rasn / 2 ^ (8 * k) % 256 ∧ (s.bar4 (0x20 + k)).toNat = s.pkg.orphn / 2 ^ (8 * k) % 256) ∧
      (∀ k, 0x28 ≤ k → k < 0x800 → s.bar4 k = 0) ∧ (s.pkg.boot ≠ 3 → ∀ k, 0x800 ≤ k → s.bar4 k = 0) ∧
      (s.pkg.boot = 3 → (s.bar4 0x800).toNat = s.pkg.mailbox.cmd.toNat ∧ (s.bar4 0x818).toNat = s.pkg.mailbox.state.toNat ∧
        (∀ k < 8, s.bar4 (0x808 + k) = (s.pkg.mailbox.src >>> (8 * k)).truncate 8) ∧ (∀ k < 4, s.bar4 (0x810 + k) = (s.pkg.mailbox.len >>> (8 * k)).truncate 8) ∧
        ∀ k, 0x820 ≤ k → s.bar4 k = 0) := by
  refine ⟨?_, ?_, ?_, ?_, fun k hk => ?_, fun k hk => ⟨?_, ?_⟩, fun k hlo hhi => ?_, fun hb => s.bar4_hidden hb, fun hb => ⟨?_, ?_, fun k hk => ?_, fun k hk => ?_, fun k hk => ?_⟩⟩
  · rw [s.bar4_status 0 0 (by decide) (by decide)]
    simp [State.statusWords]
  · rw [s.bar4_status 0 1 (by decide) (by decide)]
    simp only [State.statusWords, List.getD_cons_zero, BitVec.toNat_ofNat]
    omega
  · exact (s.bar4_status 1 0 (by decide) (by decide)).trans (ofNat_byte s.pkg.dropq 0)
  · exact (s.bar4_status 1 1 (by decide) (by decide)).trans (ofNat_byte s.pkg.dropq 1)
  · exact (s.bar4_status 2 k hk (by omega)).trans (ofNat_byte s.pkg.pwrst k)
  · rw [show 0x18 + k = 8 * 3 + k from rfl, s.bar4_status 3 k hk (by omega), BitVec.toNat_ofNat]; rfl
  · rw [show 0x20 + k = 8 * 4 + k from rfl, s.bar4_status 4 k hk (by omega), BitVec.toNat_ofNat]; rfl
  · have h := s.bar4_status (k / 8) (k % 8) (Nat.mod_lt _ (by decide)) (by omega)
    rw [Nat.div_add_mod, List.getD_eq_default _ _ (by simp [State.statusWords]; omega), Nat.zero_div] at h
    exact h
  · have hlt : s.pkg.mailbox.cmd.toNat < 2 ^ 8 := s.pkg.mailbox.cmd.isLt.trans (by decide)
    exact (congrArg BitVec.toNat (s.bar4_mailbox hb 0 0 (by decide))).trans (by simpa [Mailbox.words] using Nat.mod_eq_of_lt hlt)
  · have hlt : s.pkg.mailbox.state.toNat < 2 ^ 8 := s.pkg.mailbox.state.isLt.trans (by decide)
    exact (congrArg BitVec.toNat (s.bar4_mailbox hb 3 0 (by decide))).trans (by simpa [Mailbox.words] using Nat.mod_eq_of_lt hlt)
  · exact (s.bar4_mailbox hb 1 k hk).trans (ofNat_byte s.pkg.mailbox.src k)
  · exact (s.bar4_mailbox hb 2 k (by omega)).trans (ofNat_byte s.pkg.mailbox.len k)
  · have h := s.bar4_mailbox hb ((k - 0x800) / 8) ((k - 0x800) % 8) (Nat.mod_lt _ (by decide))
    rw [List.getD_eq_default _ _ (by simp [Mailbox.words]; omega), Nat.zero_div, show 0x800 + 8 * ((k - 0x800) / 8) + (k - 0x800) % 8 = k by omega] at h
    exact h

/-! ## Contexts (R25, R175, R216, R337) -/

/-- The fields of a context as it is created: the registers named are cut to their fields, the others hold their reset values (R25, R337). -/
theorem Context.created_fields (part image : Nat) (id : BitVec 16) (sys : Bool) (root base : Word) :
    let c := Context.created part image id sys root base
    c.live = true ∧ c.part = part ∧ c.image = image ∧ c.id = id ∧ c.isSys = sys ∧ c.xlbase.getLsbD 0 = true ∧
      (∀ b, 16 ≤ b → b < 48 → c.xlbase.getLsbD b = root.getLsbD b) ∧ (∀ b, 16 ≤ b → b < 52 → c.savebase.getLsbD b = base.getLsbD b) ∧
      c.trapbase = 0 ∧ c.sbchk = 0 ∧ c.unichk = 0 ∧ c.wayq = 0 ∧ c.tapebase = 0 ∧ c.regions = [] ∧ c.tensors = [] := by
  refine ⟨rfl, rfl, rfl, ?_, ?_, ?_, fun b hlo hhi => ?_, fun b hlo hhi => ?_, rfl, rfl, rfl, rfl, rfl, rfl, rfl⟩
  · apply BitVec.eq_of_toNat_eq
    have := id.isLt
    simp [Context.id, Context.created, Context.fresh]
    omega
  · have := id.isLt
    have hbit : (id.toNat + 2 ^ 16 * sys.toNat).testBit 16 = sys := by
      rw [Nat.testBit_eq_decide_div_mod_eq]
      cases sys <;> simp <;> omega
    exact (BitVec.getLsbD_ofNat ..).trans (by rw [hbit]; rfl)
  · simp [Context.created]
  · have hmask : (0xFFFFFFFF0000#64).getLsbD b = true := (by decide : ∀ b < 48, 16 ≤ b → (0xFFFFFFFF0000#64).getLsbD b = true) b hhi hlo
    have hone : (1#64).getLsbD b = false := (by decide : ∀ b < 48, 16 ≤ b → (1#64).getLsbD b = false) b hhi hlo
    rw [Context.created, BitVec.getLsbD_or, BitVec.getLsbD_and, hmask, hone, Bool.and_true, Bool.or_false]
  · have hmask : (0xFFFFFFFFF0000#64).getLsbD b = true := (by decide : ∀ b < 52, 16 ≤ b → (0xFFFFFFFFF0000#64).getLsbD b = true) b hhi hlo
    rw [Context.created, BitVec.getLsbD_and, hmask, Bool.and_true]

/-- CONTEXT_CREATE under a free identifier, in a partition that accepts contexts. -/
theorem exec_contextCreate (s : State) (part : Nat) (id : BitVec 16) (sys : Bool) (root base : Word) (hb : s.pkg.boot = 2) (hl : (s.part part).live = true)
    (hq : (s.part part).quiesce = none) (hsw : (s.part part).swapped = false) (hfree : s.findCtx part id.toNat = none) :
    exec (.contextCreate part id sys root base) s = .next { s with ctxs := s.ctxs ++ [Context.created part (s.part part).image id sys root base] } := by
  have harm : exec (.contextCreate part id sys root base) s = execContextCreate part id sys root base s := rfl
  rw [harm, execContextCreate]
  exact if_neg (by simp [hb, hl, hq, hsw, hfree])

@[simp] theorem State.filterCache_const (s : State) (f : CLine → Option CLine) : (s.filterCache f).const = s.const :=
  foldl_keeps State.const (fun t (c : CLine) => t.resolve c.ctx false) (fun _ _ => rfl) _ _
@[simp] theorem State.filterCache_hostMem (s : State) (f : CLine → Option CLine) : (s.filterCache f).hostMem = s.hostMem :=
  foldl_keeps State.hostMem (fun t (c : CLine) => t.resolve c.ctx false) (fun _ _ => rfl) _ _
@[simp] theorem State.filterCache_crews (s : State) (f : CLine → Option CLine) : (s.filterCache f).crews = s.crews :=
  foldl_keeps State.crews (fun t (c : CLine) => t.resolve c.ctx false) (fun _ _ => rfl) _ _
@[simp] theorem State.filterCache_groups (s : State) (f : CLine → Option CLine) : (s.filterCache f).groups = s.groups :=
  foldl_keeps State.groups (fun t (c : CLine) => t.resolve c.ctx false) (fun _ _ => rfl) _ _
@[simp] theorem State.filterCache_ctxs_length (s : State) (f : CLine → Option CLine) : (s.filterCache f).ctxs.length = s.ctxs.length :=
  foldl_keeps (fun t : State => t.ctxs.length) (fun t (c : CLine) => t.resolve c.ctx false) (fun _ _ => modAt_length ..) _ _
theorem State.filterCache_cache (s : State) (f : CLine → Option CLine) : (s.filterCache f).cache = s.cache.filterMap f :=
  congrArg (List.filterMap f) (foldl_keeps State.cache (fun t (c : CLine) => t.resolve c.ctx false) (fun _ _ => rfl) _ _)

/-- A way that a destroyed context leaves has no pin of it (R175). -/
theorem CLine.release_pins (k : Nat) (c d : CLine) (h : c.release k = some d) (hk : d.pinCtx = k) : d.pins = 0 := by
  have hd : d = if c.pinCtx == k then { c with pins := 0 } else c := by
    unfold CLine.release at h
    dsimp only at h
    split at h <;> (try split at h) <;> simp_all
  subst hd
  split at hk <;> simp_all

/-- CONTEXT_DESTROY of an idle context (R175, R216). -/
theorem exec_contextDestroy (s : State) (k : Nat) (hl : (s.ctx k).live = true) (hi : s.ctxIdle k = true) (hk : k < s.ctxs.length) :
    ∃ t, exec (.contextDestroy k) s = .next t ∧ (t.ctx k).live = false ∧ (t.ctx k).regions = [] ∧ (t.ctx k).tensors = [] ∧
      (∀ c ∈ t.cache, c.pinCtx = k → c.pins = 0) ∧ s.sameMemory t ∧ t.groups = s.groups := by
  let clear (c : Context) : Context := { c with live := false, partials := [], regions := [], tensors := [], halos := [], tapeRun := none }
  let x := s.filterCache (CLine.release k)
  have harm : exec (.contextDestroy k) s = if !(s.ctx k).live || !s.ctxIdle k then .next s else .next (x.modCtx k clear) := rfl
  have hctx : (x.modCtx k clear).ctx k = clear (x.ctx k) := x.modCtx_self k _ (by simpa [x] using hk)
  refine ⟨x.modCtx k clear, by rw [harm, if_neg (by simp [hl, hi])], by rw [hctx], by rw [hctx], by rw [hctx], fun c hc hpin => ?_,
    ⟨s.filterCache_dram _, s.filterCache_const _, s.filterCache_hostMem _, fun c => ?_⟩, s.filterCache_groups _⟩
  · rw [State.modCtx_cache, s.filterCache_cache] at hc
    obtain ⟨b, -, hb⟩ := List.mem_filterMap.1 hc
    exact CLine.release_pins k b c hb hpin
  · exact congrArg (fun l : List Crew => (l.getD c Crew.absent).scratch) (s.filterCache_crews _)

/-! ## Events of the package -/

/-- Settles O55, event by event: what the ROM and a recovery command make of an image by its verdict, and each other event by its effect. -/
theorem packageEvents : Obligations.PackageEvents := by
  unfold Obligations.PackageEvents
  intro s
  refine ⟨verdict_iff, boot_runs s, exec_boot_done s, fun hb hs => ⟨fun hc failed => ⟨?_, ?_⟩, fun hc got => ⟨?_, ?_⟩⟩, ?_, bar4_reads s,
    exec_clockStepChange s, exec_msixVectorUnmask s, ?_, exec_contextDestroy s⟩
  · rintro rfl hsound hin
    exact exec_recoveryFetchHost_read s hb hs hc ((Mailbox.lenOk_iff _).2 hsound) hin
  · intro h
    exact exec_recoveryFetchHost_fails s failed hb hs hc (by simpa [Mailbox.lenOk_iff, ← Bool.not_eq_true] using h)
  · rintro im rfl hlen hsound
    exact ⟨_, exec_recoveryFetchNvme s _, s.recover_some 2 im hb hs hc ((Mailbox.lenOk_iff _).2 hsound) hlen⟩
  · intro h
    exact ⟨_, exec_recoveryFetchNvme s _, s.recover_none 2 got hb hs hc (by simpa [Mailbox.lenOk_iff, ← Bool.not_eq_true] using h)⟩
  · exact fun nonce hn hb => ⟨_, exec_attestationReport s nonce hn hb, rfl, rfl, rfl, rfl, rfl, rfl⟩
  · intro part id sys root base hb hl hq hsw hfree
    obtain ⟨hlive, hfields⟩ := Context.created_fields part (s.part part).image id sys root base
    exact ⟨_, exec_contextCreate s part id sys root base hb hl hq hsw hfree, hlive, hfields⟩

end Sys2Proof.Machine
end

section
/-! PROOFS. What updates of memory and of the caches leave: the groups, the crews, the tasks, the barriers and the unit being issued stand through
writes, flushes and releases. -/

namespace Sys2Proof.Machine

/-! ## Updates of memory (R183, R185, R193, R221 to R224) -/

/-- Two states differ in memory, in the caches with their marks and poison, and in what contexts note of them, alone. -/
def State.memoryOnly (s t : State) : Prop :=
  t = { s with ctxs := t.ctxs, dram := t.dram, hostMem := t.hostMem, cache := t.cache, marks := t.marks, poison := t.poison }

theorem State.memoryOnly.refl (s : State) : s.memoryOnly s := rfl
theorem State.memoryOnly.trans {s t u : State} (a : s.memoryOnly t) (b : t.memoryOnly u) : s.memoryOnly u := by
  unfold State.memoryOnly at a b ⊢
  rw [b, a]
theorem State.memoryOnly.foldl {α : Type} {f : State → α → State} (h : ∀ (s : State) (a : α), s.memoryOnly (f s a)) (l : List α) (s : State) : s.memoryOnly (l.foldl f s) := by
  induction l generalizing s with
  | nil => exact .refl s
  | cons a l ih => exact (h s a).trans (ih _)

theorem State.memoryOnly.groups {s t : State} (h : s.memoryOnly t) : t.groups = s.groups := by rw [h]
theorem State.memoryOnly.crews {s t : State} (h : s.memoryOnly t) : t.crews = s.crews := by rw [h]
theorem State.memoryOnly.tasks {s t : State} (h : s.memoryOnly t) : t.tasks = s.tasks := by rw [h]
theorem State.memoryOnly.bars {s t : State} (h : s.memoryOnly t) : t.bars = s.bars := by rw [h]
theorem State.memoryOnly.cur {s t : State} (h : s.memoryOnly t) : t.cur = s.cur := by rw [h]

theorem State.setPoison_memoryOnly (s : State) (x : Spot) (b : Bool) : s.memoryOnly (s.setPoison x b) := by
  unfold State.setPoison; split <;> exact rfl
theorem State.homeWrite_memoryOnly (s : State) (cp a : Nat) (bs : List Byte) : s.memoryOnly (s.homeWrite cp a bs) := by
  unfold State.homeWrite; split <;> exact rfl
theorem State.modCtx_memoryOnly (s : State) (c : Nat) (f : Context → Context) : s.memoryOnly (s.modCtx c f) := rfl
theorem State.publish_memoryOnly (s : State) (c level core : Nat) : s.memoryOnly (s.publish c level core) := rfl

theorem State.filterCache_memoryOnly (s : State) (f : CLine → Option CLine) : s.memoryOnly (s.filterCache f) :=
  (State.memoryOnly.foldl (fun t (c : CLine) => t.modCtx_memoryOnly c.ctx _) _ s).trans rfl

theorem State.writeBack_memoryOnly (s : State) (q cp line : Nat) (data : Img) (dirty : BitVec 8) : s.memoryOnly (s.writeBack q cp line data dirty) := by
  refine State.memoryOnly.foldl (fun t n => ?_) _ s
  split
  · exact (t.homeWrite_memoryOnly ..).trans (State.setPoison_memoryOnly ..)
  · exact .refl t

theorem State.flushCopy_memoryOnly (s : State) (d : Bool) (c : CLine) : s.memoryOnly (s.flushCopy d c) := by
  unfold State.flushCopy
  split
  · exact (s.writeBack_memoryOnly ..).trans (State.filterCache_memoryOnly ..)
  · exact .refl s

theorem State.flushSi_memoryOnly (s : State) (q : Nat) (d : Bool) : s.memoryOnly (s.flushSi q d) :=
  State.memoryOnly.foldl (fun t (c : CLine) => t.flushCopy_memoryOnly d c) _ s

theorem State.replicaMark_memoryOnly (s : State) (c q v : Nat) : s.memoryOnly (s.replicaMark c q v) := by
  unfold State.replicaMark
  split
  · exact s.setPoison_memoryOnly ..
  · exact .refl s

theorem State.pushHalos_memoryOnly (s : State) (c q : Nat) : s.memoryOnly (s.pushHalos c q) := by
  unfold State.pushHalos
  dsimp only
  split
  · exact s.modCtx_memoryOnly ..
  · exact (State.memoryOnly.foldl (fun t (r : Replica) => t.replicaMark_memoryOnly ..) _ s).trans (State.modCtx_memoryOnly ..)

/-- A release changes memory, marks and replicas alone (R221, R224). -/
theorem State.release_memoryOnly (s : State) (g scope : Nat) : s.memoryOnly (s.release g scope) := by
  unfold State.release
  dsimp only
  split
  · exact s.publish_memoryOnly ..
  · exact ((s.publish_memoryOnly ..).trans (State.flushSi_memoryOnly ..)).trans (State.pushHalos_memoryOnly ..)

@[simp] theorem State.release_groups (s : State) (g scope : Nat) : (s.release g scope).groups = s.groups := (s.release_memoryOnly g scope).groups
@[simp] theorem State.release_crews (s : State) (g scope : Nat) : (s.release g scope).crews = s.crews := (s.release_memoryOnly g scope).crews
@[simp] theorem State.release_tasks (s : State) (g scope : Nat) : (s.release g scope).tasks = s.tasks := (s.release_memoryOnly g scope).tasks
@[simp] theorem State.release_bars (s : State) (g scope : Nat) : (s.release g scope).bars = s.bars := (s.release_memoryOnly g scope).bars
@[simp] theorem State.release_cur (s : State) (g scope : Nat) : (s.release g scope).cur = s.cur := (s.release_memoryOnly g scope).cur
@[simp] theorem State.release_grp (s : State) (g scope h : Nat) : (s.release g scope).grp h = s.grp h := by rw [State.grp, State.release_groups]; rfl
@[simp] theorem State.release_crew (s : State) (g scope c : Nat) : (s.release g scope).crew c = s.crew c := by rw [State.crew, State.release_crews]; rfl

end Sys2Proof.Machine
end

section
/-! PROOFS. Fences and barriers (O42): the operands of a unit that issues, the parts of a wait and of a release, arrivals at a barrier, and barrier
words of the scratchpad. -/

namespace Sys2Proof.Machine

/-! ## A unit at its first issue -/

@[simp] theorem State.issued_rdone (s : State) (i : Instr) : (s.issued i).cur.rdone = s.cur.rdone := by
  rw [State.issued_cur]; obtain ⟨_, _, _, _, _, h⟩ := s.begin_cur i; rw [h]
@[simp] theorem State.issued_met (s : State) (i : Instr) : (s.issued i).cur.met = s.cur.met := by
  rw [State.issued_cur]; obtain ⟨_, _, _, _, _, h⟩ := s.begin_cur i; rw [h]

theorem State.goes.met {s : State} {i : Instr} (h : s.goes i) : s.cur.met = false := by
  obtain ⟨⟨-, -, -, -, -, -, -, -, -, hmet, -⟩, -⟩ := h; exact hmet
theorem State.goes.low {s : State} {i : Instr} (h : s.goes i) : s.cur.low = none := by
  obtain ⟨⟨-, -, -, -, -, -, -, -, hlow, -⟩, -⟩ := h; exact hlow
theorem State.goes.late {s : State} {i : Instr} (h : s.goes i) : s.cur.late = false := by
  obtain ⟨⟨-, hlate, -⟩, -⟩ := h; exact hlate
theorem State.goes.replay {s : State} {i : Instr} (h : s.goes i) : s.cur.replay = false := by
  obtain ⟨⟨hreplay, -⟩, -⟩ := h; exact hreplay

theorem State.occupy_groups (s : State) (i : Instr) : (s.occupy i).groups = s.groups := by unfold State.occupy; split <;> (try split) <;> (try split) <;> rfl
theorem State.countIssue_groups (s : State) (i : Instr) : (s.countIssue i).groups = s.groups := by unfold State.countIssue; split <;> rfl
theorem State.begin_groups (s : State) (i : Instr) : (s.begin i).groups = (s.settle s.cur.g).groups := by unfold State.begin; dsimp only; split <;> rfl
theorem State.passed_groups (s : State) (i : Instr) :
    (s.passed i).groups = ((if !s.cur.late && s.disagree i then s.addDisagree s.cur.g s.cur.lanes s.cur.addr else s).advance i).groups := by
  unfold State.passed
  dsimp only
  rw [State.occupy_groups, State.countIssue_groups]

/-- The issue of a unit makes no group. -/
@[simp] theorem State.issued_groups_length (s : State) (i : Instr) : (s.issued i).groups.length = s.groups.length := by
  have hbegin : (s.begin i).groups.length = s.groups.length := by rw [State.begin_groups]; exact (s.settle_onlyGroup _).2.1
  rw [State.issued, State.passed_groups, (State.advance_onlyGroup _ i).2.1, ← hbegin]
  split
  · exact (State.addDisagree_onlyGroup ..).2.1
  · rfl

/-- A unit that issues reads its scalars in the lowest active lane (R84, R160). -/
theorem State.issued_lowLane {s : State} {i : Instr} (h : s.goes i) : (s.issued i).cur.lowLane = lowest (s.issued i).cur.lanes := by
  have hlate : (s.settle s.cur.g).cur.late = false := h.late
  have hlow : (s.begin i).cur.low = some s.cur.lowLane := by
    unfold State.begin
    dsimp only
    rw [hlate]
    rfl
  rw [State.issued_cur, Issue.lowLane, hlow, State.begin_lanes, Issue.lowLane, h.low]
  rfl

theorem State.scal_eq_lead {s : State} (h : s.cur.lowLane = lowest s.cur.lanes) (i : Instr) (f : Fld) : s.scal i f = s.lead i f := by
  rw [State.scal, State.scalAt, h]; rfl

theorem State.issued_scal {s : State} {i : Instr} (h : s.goes i) (f : Fld) : (s.issued i).scal i f = (s.issued i).lead i f :=
  State.scal_eq_lead (State.issued_lowLane h) i f

/-- A scalar is read from the unit and its group alone. -/
theorem State.scal_congr {s t : State} (hc : t.cur = s.cur) (hg : t.grp s.cur.g = s.grp s.cur.g) (i : Instr) (f : Fld) : t.scal i f = s.scal i f := by
  simp only [State.scal, State.scalAt, State.srcAt, hc, hg]

@[simp] theorem State.release_scal (s : State) (g scope : Nat) (i : Instr) (f : Fld) : (s.release g scope).scal i f = s.scal i f :=
  State.scal_congr (s.release_cur ..) (s.release_grp ..) i f

/-- The record of a unit bears the unit's own group, lanes, words and address. -/
theorem State.unitRec_iss (s : State) (i : Instr) : ∃ r im k m, (s.unitRec i).iss = { s.cur with replay := r, imgs := im, kimg := k, simg := m } := by
  unfold State.unitRec
  split <;> exact ⟨_, _, _, _, rfl⟩
@[simp] theorem State.unitRec_instr (s : State) (i : Instr) : (s.unitRec i).instr = i := by unfold State.unitRec; split <;> rfl

/-- A unit at fault raises its cause as an entry of the frame (R317). -/
theorem State.raises_fault (s : State) (i : Instr) (ls : Lanes) (tr : TrapInfo) (keep : Bool) : s.raises i ls tr true (.next (s.fault i ls tr keep)) := by
  obtain ⟨_, _, _, _, hiss⟩ := s.unitRec_iss i
  refine ⟨s.unitRec i, keep, s.unitRec_instr i, by rw [hiss], ?_⟩
  simp only [State.fault, State.faultUnit, hiss]

/-- An acquire of the unit's lanes, written with its group and lanes. -/
theorem State.acquireLanes_eq {x : State} {g : Nat} {ls : Lanes} (hg : x.cur.g = g) (hl : x.cur.lanes = ls) (scope : Nat) :
    x.acquireLanes scope = (x.acquire g scope).acquireMarks g ls := by subst hg hl; rfl

/-! ## Waits and releases (R226, R326) -/

theorem State.waitThen_lost {s : State} {i : Instr} {rest : State → Out} (hm : s.cur.met = false) (hl : s.lost i = true) :
    s.waitThen i rest = .next (s.fault i s.cur.lanes (addrTrap cPEERLOST ((peerWait i).getD 0) (BitVec.ofNat 64 s.deadCid)) false) := by
  simp [State.waitThen, hm, hl]
theorem State.waitThen_over {s : State} {i : Instr} {rest : State → Out} (hm : s.cur.met = false) (hl : s.lost i = false) (hc : s.cond i = true) :
    s.waitThen i rest = rest s := by simp [State.waitThen, hm, hl, hc]
theorem State.waitThen_waits {s : State} {i : Instr} {rest : State → Out} (hm : s.cur.met = false) (hl : s.lost i = false) (hc : s.cond i = false) :
    s.waitThen i rest = .next (s.await i true) := by simp [State.waitThen, hm, hl, hc]

theorem State.releaseThen_waits {s : State} {i : Instr} {scope : Nat} {rest : State → Out} (hr : s.cur.rdone = false) (hq : s.mayRelease i = false) :
    s.releaseThen i scope rest = .next (s.await i false) := by simp [State.releaseThen, hr, hq]
theorem State.releaseThen_goes {s : State} {i : Instr} {scope : Nat} {rest : State → Out} (hr : s.cur.rdone = false) (hq : s.mayRelease i = true) :
    s.releaseThen i scope rest = rest (s.release s.cur.g scope) := by simp [State.releaseThen, hr, hq]

/-! ## Fences (R228) -/

/-- fence waits for the older operations of its group, then releases and acquires as its mode says (R16, R226, R228). -/
theorem exec_fence (s : State) (sc c : BitVec 3) (m : BitVec 2) :
    let i : Instr := .fence sc c m
    let t := s.issued i
    s.goes i →
      (t.mayRelease i = false → exec i s = .next (t.await i false)) ∧
      (t.mayRelease i = true →
        let x := if m.getLsbD 1 then t.release s.cur.g c.toNat else t
        exec i s = .next (if m.getLsbD 0 then (x.acquire s.cur.g c.toNat).acquireMarks s.cur.g s.cur.lanes else x)) := by
  intro i t h
  have harm : exec i s = execFence sc c m s := rfl
  have hg : t.cur.g = s.cur.g := s.issued_g i
  have hcur : (if m.getLsbD 1 then t.release s.cur.g c.toNat else t).cur = t.cur := by split <;> simp
  rw [harm, execFence, s.issue_of_goes _ _ h]
  refine ⟨fun hq => if_pos (by simpa using hq), fun hq => ?_⟩
  dsimp only
  rw [if_neg (by simpa using hq), hg, State.acquireLanes_eq (g := s.cur.g) (ls := s.cur.lanes) (by rw [hcur, hg]) (by rw [hcur]; exact s.issued_lanes i)]

/-! ## Barriers (R229, R231) -/

theorem State.setCur_grp (s : State) (c : Issue) (g : Nat) : ({ s with cur := c } : State).grp g = s.grp g := rfl
theorem State.setCur_bars (s : State) (c : Issue) : ({ s with cur := c } : State).bars = s.bars := rfl

/-- Making a barrier instance changes the barriers alone. -/
theorem State.barAt_frame (s : State) (g id scope : Nat) : (s.barAt g id scope).1 = { s with bars := (s.barAt g id scope).1.bars } := by
  unfold State.barAt; split <;> rfl
@[simp] theorem State.barAt_cur (s : State) (g id scope : Nat) : (s.barAt g id scope).1.cur = s.cur := by rw [State.barAt_frame]
@[simp] theorem State.barAt_groups (s : State) (g id scope : Nat) : (s.barAt g id scope).1.groups = s.groups := by rw [State.barAt_frame]

/-- The limit of a barrier instance once an arrival has been counted (R229). -/
def State.barLimit (s : State) (g scope n : Nat) (b : BarInst) : Nat := if b.cnt ≠ 0 then b.limit else if n ≠ 0 then n else s.barDefault g scope

/-- A group's records with one set anew hold it. -/
theorem barRec_replaced (gr : Group) (id scope gen : Nat) :
    ({ gr with bars := (gr.bars.filter fun r => !(r.id == id && r.scope == scope)) ++ [⟨id, scope, gen⟩] } : Group).barRec id scope = some gen := by
  have hgone : (gr.bars.filter fun r => !(r.id == id && r.scope == scope)).find? (fun r => r.id == id && r.scope == scope) = none := by
    simp
    tauto
  rw [Group.barRec, List.find?_append, hgone]
  simp

/-- An arrival below pod scope: the group's record takes the generation, and the instance counts the arrival, or opens the next generation. -/
theorem State.barArrive_counts (s : State) (g id scope n k : Nat) (b : BarInst) (hb : s.bars[k]? = some b) (hg : g < s.groups.length) (hscope : scope ≠ 4) :
    let x := s.barArrive g id scope n k
    (x.grp g).barRec id scope = some b.gen ∧ ∃ b', x.bars[k]? = some b' ∧ (b.cnt + 1 = s.barLimit g scope n b → b'.cnt = 0 ∧ b'.gen = b.gen + 1) ∧
      (b.cnt + 1 ≠ s.barLimit g scope n b → b'.cnt = b.cnt + 1 ∧ b'.gen = b.gen ∧ b'.limit = s.barLimit g scope n b) := by
  let limit := s.barLimit g scope n b
  let upd (q : BarInst) : BarInst := if b.cnt + 1 == limit then { q with cnt := 0, limit := limit, gen := q.gen + 1 } else { q with cnt := q.cnt + 1, limit := limit }
  let mark (gr : Group) : Group := { gr with bars := (gr.bars.filter fun r => !(r.id == id && r.scope == scope)) ++ [⟨id, scope, b.gen⟩] }
  have hx : s.barArrive g id scope n k = { s.modGrp g mark with bars := modAt upd k s.bars } := by
    have hlimit : (if b.cnt != 0 then b.limit else if n != 0 then n else s.barDefault g scope) = limit := by simp [limit, State.barLimit]
    unfold State.barArrive
    dsimp only
    rw [List.getD_eq_getElem?_getD, hb, Option.getD_some, hlimit]
    simp [hscope, upd, mark]
  have hgrp : (s.barArrive g id scope n k).grp g = mark (s.grp g) := by rw [hx]; exact s.modGrp_self g mark hg
  have hbar : (s.barArrive g id scope n k).bars[k]? = some (upd b) := by rw [hx, modAt_get, if_pos rfl, hb]; rfl
  refine ⟨by rw [hgrp]; exact barRec_replaced .., upd b, hbar, fun hfull => ?_, fun hopen => ?_⟩
  · simp only [upd, limit, if_pos (beq_iff_eq.2 hfull), and_self]
  · simp only [upd, limit, if_neg (mt beq_iff_eq.1 hopen), and_self]

/-- The arrive part of `bar` waits until the group is quiet (R226). -/
theorem State.arriveThen_waits {t : State} {i : Instr} {id scope : Nat} {rest : State → Out} (hr : t.cur.rdone = false) (hq : t.mayRelease i = false) :
    t.arriveThen i id scope rest = .next (t.await i false) := by
  rw [State.arriveThen, if_neg (by simp [hr]), State.releaseThen_waits hr hq]

/-- The arrive part of `bar` of a quiet group releases, and is counted unless it faults (R229, R231). -/
theorem State.arriveThen_counts {t : State} {i : Instr} {g id scope n : Nat} {rest : State → Out} (hg : t.cur.g = g) (hn : (t.scal i .A).toNat % 2 ^ 16 = n)
    (hr : t.cur.rdone = false) (hq : t.mayRelease i = true) {p : State × Nat} (hp : (t.release g scope).barAt g id scope = p) {b : BarInst} (hb : p.1.bars[p.2]? = some b) :
    (∀ tr, p.1.barFault g id scope n b = some tr → t.arriveThen i id scope rest = .next (p.1.fault i t.cur.lanes tr false)) ∧
    (p.1.barFault g id scope n b = none → t.arriveThen i id scope rest = rest { p.1.barArrive g id scope n p.2 with cur := { t.cur with rdone := true } }) := by
  subst hg hn
  have hcur : p.1.cur = t.cur := by rw [← hp, State.barAt_cur, State.release_cur]
  rw [State.arriveThen, if_neg (by simp [hr]), State.releaseThen_goes hr hq]
  dsimp only
  rw [State.release_cur, State.release_scal, show bits (t.scal i .A).toNat 0 16 = (t.scal i .A).toNat % 2 ^ 16 by simp [bits], hp, hcur,
    List.getD_eq_getElem?_getD, hb, Option.getD_some]
  exact ⟨fun tr htr => by rw [htr], fun hnone => by rw [hnone]⟩

/-- The wait part of `bar`: PEERLOST where a death has ended it, an acquire where the barrier has passed the group's record, a wait otherwise. -/
theorem State.barWaitThen_cases {x : State} {i : Instr} {g id scope : Nat} {ls : Lanes} (hm : x.cur.met = false) (hg : x.cur.g = g) (hl : x.cur.lanes = ls)
    (hcond : x.cond i = x.barMet x.bars g id scope) :
    (x.lost i = true → x.raises i ls ⟨cPEERLOST, (peerWait i).getD 0, BitVec.ofNat 64 x.deadCid, none⟩ true (x.barWaitThen i id scope)) ∧
    (x.lost i = false →
      (x.barMet x.bars g id scope = true → x.barWaitThen i id scope =
        .next (((x.modGrp g fun gr => { gr with bars := gr.bars.filter fun q => !(q.id == id && q.scope == scope) }).acquire g scope).acquireMarks g ls)) ∧
      (x.barMet x.bars g id scope = false → x.barWaitThen i id scope = .next (x.await i true))) := by
  subst hg hl
  rw [← hcond]
  refine ⟨fun hlost => ?_, fun hlost => ⟨fun hmet => ?_, fun hmet => ?_⟩⟩
  · rw [State.barWaitThen, State.waitThen_lost hm hlost]
    exact x.raises_fault ..
  · rw [State.barWaitThen, State.waitThen_over hm hlost hmet]
    rfl
  · rw [State.barWaitThen, State.waitThen_waits hm hlost hmet]

theorem exec_barSync (s : State) (sc : BitVec 3) (d a : BitVec 6) (c : BitVec 3) (h : s.goes (.barSync sc d a c)) :
    exec (.barSync sc d a c) s = (s.issued (.barSync sc d a c)).arriveThen (.barSync sc d a c) d.toNat c.toNat fun x => x.barWaitThen (.barSync sc d a c) d.toNat c.toNat := by
  have harm : exec (.barSync sc d a c) s = execBarSync sc d a c s := rfl
  rw [harm, execBarSync, s.issue_of_goes _ _ h]
theorem exec_barArrive (s : State) (sc : BitVec 3) (d a : BitVec 6) (c : BitVec 3) (h : s.goes (.barArrive sc d a c)) :
    exec (.barArrive sc d a c) s = (s.issued (.barArrive sc d a c)).arriveThen (.barArrive sc d a c) d.toNat c.toNat fun x => .next x := by
  have harm : exec (.barArrive sc d a c) s = execBarArrive sc d a c s := rfl
  rw [harm, execBarArrive, s.issue_of_goes _ _ h]
theorem exec_barWait (s : State) (sc : BitVec 3) (d a : BitVec 6) (c : BitVec 3) (h : s.goes (.barWait sc d a c)) :
    exec (.barWait sc d a c) s = (s.issued (.barWait sc d a c)).barWaitThen (.barWait sc d a c) d.toNat c.toNat := by
  have harm : exec (.barWait sc d a c) s = execBarWait sc d a c s := rfl
  rw [harm, execBarWait, s.issue_of_goes _ _ h]

/-! ## Barrier words (R193, R230, R231) -/

theorem leNat_lt (bs : List Byte) : leNat bs < 2 ^ (8 * bs.length) := by
  induction bs with
  | nil => simp [leNat]
  | cons b bs ih =>
    have hb : b.toNat < 2 ^ 8 := b.isLt
    have hsplit : 2 ^ (8 * (b :: bs).length) = 2 ^ 8 * 2 ^ (8 * bs.length) := by rw [← pow_add, List.length_cons]; congr 1; omega
    rw [leNat, hsplit]
    omega

theorem Mem.num_lt (m : List Host.Cell) (a n : Nat) : Mem.num m a n < 2 ^ (8 * n) := by
  have h := leNat_lt (Mem.read m a n)
  rwa [Mem.read_length] at h

/-- The barrier words that R231 refuses. -/
theorem pbarBad_iff {w : Nat} (hw : w < 2 ^ 64) :
    pbarBad w = true ↔ w % 2 ^ 16 = 0 ∨ w / 2 ^ 16 % 2 ^ 16 = 0 ∨ w % 2 ^ 16 < w / 2 ^ 16 % 2 ^ 16 ∨ w / 2 ^ 33 ≠ 0 := by
  have hhigh : w / 2 ^ 33 % 2 ^ 31 = w / 2 ^ 33 := Nat.mod_eq_of_lt (by omega)
  simp only [pbarBad, pbarEXP, pbarPEND, bits, hhigh, pow_zero, Nat.div_one, Bool.or_eq_true, beq_iff_eq, decide_eq_true_eq, bne_iff_ne, or_assoc]

/-- The word after an arrival: the last one of a phase begins the next (R230). -/
theorem pbarStep_eq {w : Nat} (h : w / 2 ^ 16 % 2 ^ 16 ≠ 0) :
    pbarStep w = if w / 2 ^ 16 % 2 ^ 16 = 1 then w % 2 ^ 16 + 2 ^ 16 * (w % 2 ^ 16) + 2 ^ 32 * (1 - w / 2 ^ 32 % 2)
      else w % 2 ^ 16 + 2 ^ 16 * (w / 2 ^ 16 % 2 ^ 16 - 1) + 2 ^ 32 * (w / 2 ^ 32 % 2) := by
  have hlast : (w / 2 ^ 16 % 2 ^ 16 - 1 == 0) = decide (w / 2 ^ 16 % 2 ^ 16 = 1) := by rw [Bool.eq_iff_iff]; simp; omega
  simp only [pbarStep, pbarEXP, pbarPEND, pbarPH, bits, pow_zero, Nat.div_one, pow_one, hlast, decide_eq_true_eq]

/-- The offset of a barrier word is checked in order, for alignment, for the window, for poison; a sound one goes on (R193, R230). -/
theorem State.pbarThen_cases {t : State} {i : Instr} {g : Nat} {ls : Lanes} {o : Word} (rest : Nat → Out) (hg : t.cur.g = g) (hl : t.cur.lanes = ls)
    (ho : t.scal i .A = o) :
    (o.toNat % 8 ≠ 0 → t.raises i ls ⟨cALIGN, 0, o, none⟩ true (t.pbarThen i rest)) ∧
    (o.toNat % 8 = 0 → (t.crewOf g).window < o.toNat + 8 → t.raises i ls ⟨cPROT, 0x04, o, none⟩ true (t.pbarThen i rest)) ∧
    (o.toNat % 8 = 0 → o.toNat + 8 ≤ (t.crewOf g).window → t.boxPoison (t.grp g).crew o.toNat 8 = true →
      t.raises i ls ⟨cPOISON, 0, o, none⟩ true (t.pbarThen i rest)) ∧
    (o.toNat % 8 = 0 → o.toNat + 8 ≤ (t.crewOf g).window → t.boxPoison (t.grp g).crew o.toNat 8 = false → t.pbarThen i rest = rest o.toNat) := by
  subst hg hl ho
  have hfault : ∀ tr, t.pbarOffset i = some tr → t.raises i t.cur.lanes tr true (t.pbarThen i rest) := fun tr htr => by
    rw [State.pbarThen, htr]; exact t.raises_fault ..
  refine ⟨fun ha => hfault _ ?_, fun ha hw => hfault _ ?_, fun ha hw hp => hfault _ ?_, fun ha hw hp => ?_⟩
  · simp [State.pbarOffset, addrTrap, ha]
  · simp [State.pbarOffset, addrTrap, ha, hw]
  · simp [State.pbarOffset, addrTrap, ha, Nat.not_lt.2 hw, hp]
  · have hsound : t.pbarOffset i = none := by simp [State.pbarOffset, ha, Nat.not_lt.2 hw, hp]
    rw [State.pbarThen, hsound]

/-- The wait part of pbar is over where its word is not sound, or is of another phase than B (R230, R231). -/
theorem State.cond_pbarWait {t : State} {sc : BitVec 3} {a b : BitVec 6} {g : Nat} {o : Word} (hg : t.cur.g = g) (ho : t.scal (.pbarWait sc a b) .A = o) :
    t.cond (.pbarWait sc a b) = (pbarBad (Mem.num (t.crewOf g).scratch o.toNat 8) ||
      Mem.num (t.crewOf g).scratch o.toNat 8 / 2 ^ 32 % 2 != (t.scal (.pbarWait sc a b) .B).toNat % 2) := by
  subst hg ho
  simp only [State.cond, State.condOver, pbarWord, pbarPH, bits, pow_zero, Nat.div_one, pow_one]

/-- A barrier word at fault raises ENGINE 0x50 with its offset (R231). -/
theorem State.raises_pbarBad (t : State) (i : Instr) : t.raises i t.cur.lanes ⟨cENGINE, 0x50, t.scal i .A, none⟩ true (t.pbarBadAt i) := t.raises_fault ..

/-- pbar.init sets both counts of the word at its offset, unless they would be zero (R230, R231). -/
theorem exec_pbarInit (s : State) (sc : BitVec 3) (a b : BitVec 6) :
    let i : Instr := .pbarInit sc a b
    let t := s.issued i
    let n := (t.lead i .B).toNat % 2 ^ 16
    s.goes i → exec i s = t.pbarThen i fun o => if n = 0 then t.pbarBadAt i else .next (t.writeScratch (t.grp t.cur.g).crew o (leBytes 8 (n + 2 ^ 16 * n))) := by
  dsimp only
  intro h
  have harm : exec (.pbarInit sc a b) s = execPbarInit sc a b s := rfl
  rw [harm, execPbarInit, s.issue_of_goes _ _ h]
  dsimp only
  rw [State.issued_scal h]
  simp only [bits, pow_zero, Nat.div_one, beq_iff_eq, Nat.mul_comm]

/-- pbar.arrive releases at quad scope once the group is quiet, and counts the arrival in the word at its offset (R226, R230, R231). -/
theorem exec_pbarArrive (s : State) (sc : BitVec 3) (a : BitVec 6) :
    let i : Instr := .pbarArrive sc a
    let t := s.issued i
    s.goes i → exec i s = t.pbarThen i fun o => t.releaseThen i 1 fun x =>
      let w := Mem.num (x.crewOf x.cur.g).scratch o 8
      if pbarBad w then x.pbarBadAt i else .next (x.writeScratch (x.grp x.cur.g).crew o (leBytes 8 (pbarStep w))) := by
  intro i t h
  have harm : exec i s = execPbarArrive sc a s := rfl
  rw [harm, execPbarArrive, s.issue_of_goes _ _ h]
  rfl

/-- pbar.wait waits for the phase of the word at its offset to change, and acquires at quad scope (R230, R231). -/
theorem exec_pbarWait (s : State) (sc : BitVec 3) (a b : BitVec 6) :
    let i : Instr := .pbarWait sc a b
    let t := s.issued i
    s.goes i → exec i s = t.pbarThen i fun o => t.waitThen i fun x =>
      if pbarBad (Mem.num (x.crewOf x.cur.g).scratch o 8) then x.pbarBadAt i else .next (x.acquireLanes 1) := by
  intro i t h
  have harm : exec i s = execPbarWait sc a b s := rfl
  rw [harm, execPbarWait, s.issue_of_goes _ _ h]
  rfl

/-! ## Fences and barriers -/

/-- Settles O42, form by form. -/
theorem fencesAndBarriers : Obligations.FencesAndBarriers := by
  unfold Obligations.FencesAndBarriers
  intro s i hgoes hg hr t g cr acq
  have hr' : t.cur.rdone = false := (s.issued_rdone i).trans hr
  have hm : t.cur.met = false := (s.issued_met i).trans hgoes.met
  have hcg : t.cur.g = g := s.issued_g i
  have hcl : t.cur.lanes = s.cur.lanes := s.issued_lanes i
  have hlead : ∀ f, t.scal i f = t.lead i f := State.issued_scal hgoes
  refine ⟨?_, ?_, ?_⟩
  · rintro sc c m rfl
    exact exec_fence s sc c m hgoes
  · intro sc d a c arrive wait hform scope id n
    have hwait : wait = true → ∀ x : State, x.cond i = x.barMet x.bars x.cur.g id scope := by
      rintro rfl x
      rcases hform with ⟨-, -, rfl⟩ | ⟨-, h, -⟩ | ⟨-, -, rfl⟩
      · rfl
      · simp at h
      · rfl
    have harrive : arrive = true → exec i s = t.arriveThen i id scope fun x => if wait then x.barWaitThen i id scope else .next x := by
      rintro rfl
      rcases hform with ⟨-, rfl, rfl⟩ | ⟨-, rfl, rfl⟩ | ⟨h, -⟩
      · exact exec_barSync s sc d a c hgoes
      · exact exec_barArrive s sc d a c hgoes
      · simp at h
    have honly : arrive = false → exec i s = t.barWaitThen i id scope ∧ wait = true := by
      rintro rfl
      rcases hform with ⟨h, -⟩ | ⟨h, -⟩ | ⟨-, rfl, rfl⟩
      · simp at h
      · simp at h
      · exact ⟨exec_barWait s sc d a c hgoes, rfl⟩
    refine ⟨fun ha hq => ?_, fun ha hq => ?_, fun ha => ?_, fun ha => ?_⟩
    · rw [harrive ha, State.arriveThen_waits hr' hq]
    · intro p b hb
      obtain ⟨hfault, hcount⟩ := State.arriveThen_counts (rest := fun x => if wait then x.barWaitThen i id scope else .next x) hcg (by rw [hlead]) hr' hq rfl hb
      rw [← harrive ha] at hfault hcount
      refine ⟨fun tr htr => ?_, fun hnone => ?_⟩
      · rw [hfault tr htr, ← hcl]
        exact p.1.raises_fault ..
      · intro limit x
        have hexec : exec i s = if wait then x.barWaitThen i id scope else .next x := hcount hnone
        have hcases (hw : wait = true) := State.barWaitThen_cases (x := x) (i := i) (id := id) (scope := scope) (g := g) (ls := s.cur.lanes) hm hcg hcl
          (by rw [hwait hw]; exact congrArg (fun g => x.barMet x.bars g id scope) hcg)
        have hlen : g < p.1.groups.length := by simpa [p, t] using hg
        have hgrp : x.grp g = (p.1.barArrive g id scope n p.2).grp g := (p.1.barArrive g id scope n p.2).setCur_grp _ g
        have hbars : x.bars = (p.1.barArrive g id scope n p.2).bars := (p.1.barArrive g id scope n p.2).setCur_bars _
        refine ⟨fun hscope => ?_, fun hw => ?_, fun hw => ?_, fun hw => ?_⟩
        · rw [hgrp, hbars]
          exact p.1.barArrive_counts g id scope n p.2 b hb hlen hscope
        · rw [hexec, hw]; rfl
        · rw [hexec, if_pos hw]
          exact (hcases hw).1
        · rw [hexec, if_pos hw]
          exact (hcases hw).2
    · obtain ⟨hexec, hw⟩ := honly ha
      rw [hexec]
      exact (State.barWaitThen_cases hm hcg hcl (by rw [hwait hw, hcg])).1
    · obtain ⟨hexec, hw⟩ := honly ha
      rw [hexec]
      exact (State.barWaitThen_cases hm hcg hcl (by rw [hwait hw, hcg])).2
  · intro sc a b hform o w exp pend ph badWord
    have hbad : pbarBad w = true ↔ badWord := pbarBad_iff (Mem.num_lt _ o 8)
    have hbegun : ∃ rest, exec i s = t.pbarThen i rest := by
      simp only [List.mem_cons, List.not_mem_nil, or_false] at hform
      rcases hform with rfl | rfl | rfl
      · exact ⟨_, exec_pbarInit s sc a b hgoes⟩
      · exact ⟨_, exec_pbarArrive s sc a hgoes⟩
      · exact ⟨_, exec_pbarWait s sc a b hgoes⟩
    obtain ⟨rest, hrest⟩ := hbegun
    obtain ⟨halign, hwindow, hpoison, -⟩ := State.pbarThen_cases rest hcg hcl (hlead .A)
    rw [← hrest] at halign hwindow hpoison
    have hsound (ha : o % 8 = 0) (hw : o + 8 ≤ (t.crewOf g).window) (hp : t.boxPoison cr o 8 = false) (rest : Nat → Out) : t.pbarThen i rest = rest o :=
      (State.pbarThen_cases rest hcg hcl (hlead .A)).2.2.2 ha hw hp
    refine ⟨halign, hwindow, hpoison, fun ha hw hp => ⟨?_, ?_, ?_, ?_⟩⟩
    · rintro rfl n
      rw [exec_pbarInit s sc a b hgoes, hsound ha hw hp, hcg]
      exact ⟨fun hn => by rw [if_pos hn, ← hcl, ← hlead]; exact t.raises_pbarBad _, fun hn => if_neg hn⟩
    · rintro rfl
      rw [exec_pbarArrive s sc a hgoes, hsound ha hw hp]
      refine ⟨fun hq => State.releaseThen_waits hr' hq, fun hq => ?_⟩
      rw [State.releaseThen_goes hr' hq, hcg]
      have hword : Mem.num ((t.release g 1).crewOf (t.release g 1).cur.g).scratch o 8 = w := by simp [State.crewOf, hcg, w]
      dsimp only
      rw [hword]
      refine ⟨fun hb => ?_, fun hb => ?_⟩
      · have hraise := State.raises_pbarBad (t.release g 1) (.pbarArrive sc a)
        rw [State.release_cur, State.release_scal, hcl, hlead] at hraise
        rw [if_pos (hbad.2 hb)]
        exact hraise
      · have hpend : w / 2 ^ 16 % 2 ^ 16 ≠ 0 := fun h0 => hb (.inr (.inl h0))
        rw [if_neg (mt hbad.1 hb), pbarStep_eq hpend, State.release_cur, State.release_grp, hcg]
    · rintro rfl hlost
      rw [exec_pbarWait s sc a b hgoes, hsound ha hw hp, State.waitThen_lost hm hlost, ← hcl]
      exact t.raises_fault ..
    · rintro rfl hlost
      have hcond : t.cond (.pbarWait sc a b) = (pbarBad w || ph != (t.lead (.pbarWait sc a b) .B).toNat % 2) := by
        rw [State.cond_pbarWait hcg (hlead .A), hlead]
      have hgood : ¬ badWord → pbarBad w = false := fun hb => Bool.eq_false_iff.2 (mt hbad.1 hb)
      rw [exec_pbarWait s sc a b hgoes, hsound ha hw hp]
      refine ⟨fun hb => ?_, fun hb hph => ?_, fun hb hph => ?_⟩
      · rw [State.waitThen_over hm hlost (by rw [hcond, hbad.2 hb]; rfl), if_pos (by rw [hcg]; exact hbad.2 hb), ← hcl, ← hlead]
        exact t.raises_pbarBad _
      · exact State.waitThen_waits hm hlost (by rw [hcond, hgood hb, ← hph, Bool.false_or, bne_self_eq_false])
      · rw [State.waitThen_over hm hlost (by simp [hcond, hph]), if_neg (by rw [hcg]; exact mt hbad.1 hb), State.acquireLanes_eq hcg hcl]

end Sys2Proof.Machine
end

section
/-! PROOFS. exit (O31): what it leaves of a group that is no continuation, and the continuation in which the statement fails. -/

namespace Sys2Proof.Machine

/-! ## Pending writes of a group that is no continuation (R52, R55) -/

/-- A group with other lanes and another save slot. -/
def Group.withLanes (gr : Group) (ls : Vector Lane 32) (sv : Option SaveSlot) : Group := { gr with lanes := ls, save := sv }

theorem Group.setReg_withLanes (gr : Group) (spec : BitVec 6) (en val : Img) (ls : Vector Lane 32) (sv : Option SaveSlot) :
    (gr.withLanes ls sv).setReg spec en val = (gr.setReg spec en val).withLanes ls sv := by
  unfold Group.setReg
  dsimp only
  split
  · rfl
  · split <;> rfl
theorem Group.setMask_withLanes (gr : Group) (k : Nat) (en val : Mask) (ls : Vector Lane 32) (sv : Option SaveSlot) :
    (gr.withLanes ls sv).setMask k en val = (gr.setMask k en val).withLanes ls sv := by
  unfold Group.setMask
  split <;> rfl
theorem Group.enterLast_withLanes (gr : Group) (m : Lanes) (val : Img) (q : Nat) (ls : Vector Lane 32) (sv : Option SaveSlot) :
    (gr.withLanes ls sv).enterLast m val q = (gr.enterLast m val q).withLanes ls sv := rfl
theorem Group.addFlags_withLanes (gr : Group) (fs : List (Nat × BitVec 5)) (ls : Vector Lane 32) (sv : Option SaveSlot) (h : gr.shadow = none) :
    (gr.withLanes ls sv).addFlags fs = (gr.addFlags fs).withLanes ls sv := by
  have h' : (gr.withLanes ls sv).shadow = none := h
  simp only [Group.addFlags, h, h']
  rfl
theorem Group.reg_withLanes (gr : Group) (spec : BitVec 6) (hs : spec.toNat < 56) (ls : Vector Lane 32) (sv : Option SaveSlot) :
    (gr.withLanes ls sv).reg 64 spec = gr.reg 64 spec := by
  unfold Group.reg
  dsimp only
  split
  · rfl
  · rfl

/-- A pending write looks at no lane outside a continuation. -/
theorem Group.perform_withLanes (gr : Group) (p : Pending) (ls : Vector Lane 32) (sv : Option SaveSlot) (h : gr.shadow = none) :
    (gr.withLanes ls sv).perform p = (gr.perform p).withLanes ls sv := by
  have hflags : (if p.flags.isEmpty then gr.withLanes ls sv else (gr.withLanes ls sv).addFlags p.flags) =
      (if p.flags.isEmpty then gr else gr.addFlags p.flags).withLanes ls sv := by
    rw [Group.addFlags_withLanes gr p.flags ls sv h]
    split <;> rfl
  unfold Group.perform
  dsimp only
  rw [hflags]
  split
  · next spec _ =>
    rw [Group.setReg_withLanes, Group.enterLast_withLanes]
    have hread (g : Group) : (if spec.toNat < 56 then (g.withLanes ls sv).reg 64 spec else p.val &&& p.en) = if spec.toNat < 56 then g.reg 64 spec else p.val &&& p.en := by
      split
      · next hs => exact g.reg_withLanes spec hs ls sv
      · rfl
    rw [hread]
    split <;> rfl
  · rw [Group.setMask_withLanes]

/-- Registers, masks and FPMODE alone differ. -/
def Group.regsOnly (x y : Group) : Prop :=
  ∃ v o la lb laSeq lbSeq k fp, y = { x with v := v, o := o, la := la, lb := lb, laSeq := laSeq, lbSeq := lbSeq, k := k, fpmode := fp }

theorem Group.perform_regsOnly (gr : Group) (p : Pending) (h : gr.shadow = none) : gr.regsOnly (gr.perform p) := by
  have hflags : ∃ fp, (if p.flags.isEmpty then gr else gr.addFlags p.flags) = { gr with fpmode := fp } := by
    split
    · exact ⟨_, rfl⟩
    · exact ⟨_, by simp only [Group.addFlags, h]; rfl⟩
  obtain ⟨fp, hfp⟩ := hflags
  unfold Group.regsOnly Group.perform
  dsimp only
  rw [hfp]
  split
  · rw [Group.setReg_keeps]
    split
    · exact ⟨_, _, _, _, _, _, _, _, rfl⟩
    · exact ⟨_, _, _, _, _, _, _, _, rfl⟩
  · rw [Group.setMask_keeps]
    exact ⟨_, _, _, _, _, _, _, _, rfl⟩

theorem Group.performs_regsOnly (ps : List Pending) (gr : Group) (h : gr.shadow = none) : gr.regsOnly (ps.foldl Group.perform gr) := by
  induction ps generalizing gr with
  | nil => exact ⟨_, _, _, _, _, _, _, _, rfl⟩
  | cons p ps ih =>
    obtain ⟨_, _, _, _, _, _, _, _, hp⟩ := gr.perform_regsOnly p h
    have hshadow : (gr.perform p).shadow = none := by rw [hp]; exact h
    obtain ⟨_, _, _, _, _, _, _, _, hps⟩ := ih (gr.perform p) hshadow
    rw [hp] at hps
    rw [List.foldl_cons, hp, hps]
    exact ⟨_, _, _, _, _, _, _, _, rfl⟩

theorem Group.performs_withLanes (ps : List Pending) (gr : Group) (ls : Vector Lane 32) (sv : Option SaveSlot) (h : gr.shadow = none) :
    ps.foldl Group.perform (gr.withLanes ls sv) = (ps.foldl Group.perform gr).withLanes ls sv := by
  induction ps generalizing gr with
  | nil => rfl
  | cons p ps ih =>
    obtain ⟨_, _, _, _, _, _, _, _, hp⟩ := gr.perform_regsOnly p h
    rw [List.foldl_cons, Group.perform_withLanes gr p ls sv h, ih (gr.perform p) (by rw [hp]; exact h), List.foldl_cons]

theorem Group.flush_withLanes (gr : Group) (ls : Vector Lane 32) (sv : Option SaveSlot) (h : gr.shadow = none) :
    (gr.withLanes ls sv).flush = gr.flush.withLanes ls sv := by
  have hfold := Group.performs_withLanes gr.fix gr ls sv h
  have hfix : (gr.withLanes ls sv).fix = gr.fix := rfl
  rw [Group.flush, hfix, hfold]
  rfl

/-! ## exit (R97) -/

theorem State.modLanes_shadow (s : State) (g h : Nat) (ls : Lanes) (f : Nat → Lane → Lane) : ((s.modLanes g ls f).grp h).shadow = (s.grp h).shadow := by
  rw [State.modLanes, State.modGrp_grp]
  split <;> rfl
theorem State.addDisagree_shadow (s : State) (g h : Nat) (ls : Lanes) (a : Word) : ((s.addDisagree g ls a).grp h).shadow = (s.grp h).shadow := by
  unfold State.addDisagree
  split
  · exact s.modLanes_shadow ..
  · rw [State.modGrp_grp]
    split <;> rfl
theorem State.issued_shadow (s : State) (i : Instr) (g : Nat) : ((s.issued i).grp g).shadow = ((s.begin i).grp g).shadow := by
  have hadvance (x : State) : ((x.advance i).grp g).shadow = (x.grp g).shadow := by
    unfold State.advance
    split
    · rfl
    · exact x.modLanes_shadow ..
  rw [State.issued, State.grp, State.passed_groups]
  refine (hadvance _).trans ?_
  split
  · exact State.addDisagree_shadow ..
  · rfl

/-- A fork boundary goes in no continuation, but for a unit of which only register writes are left (R104). -/
theorem State.goes.shadow {s : State} {i : Instr} (h : s.goes i) (hr : s.cur.regOnly = false) (hb : i.isBoundary = true) :
    ((s.issued i).grp s.cur.g).shadow = none := by
  have hl := h.late
  obtain ⟨-, hgate⟩ := h
  obtain ⟨_, _, _, _, _, hcur⟩ := s.begin_cur i
  rw [State.issued_shadow]
  by_contra hs
  have hshadow : ((s.begin i).grp (s.begin i).cur.g).shadow.isSome = true := by
    rw [State.begin_g]
    exact Option.isSome_iff_ne_none.2 hs
  rw [State.gate, hshadow, hb, hcur] at hgate
  simp [hl, hr] at hgate

theorem State.exitPark_of_parksTaken {s : State} (h : s.parksTaken) : s.exitPark = none := by
  have hdue : ∀ tl, s.parkDue tl = none := by
    intro tl
    unfold State.parkDue
    split
    · next p hp =>
      by_cases hg : p.g = s.cur.g
      · simp [h tl p hp hg]
      · simp [hg]
    · rfl
  unfold State.exitPark
  split
  · rfl
  · simp [hdue]

/-- A group of which some lanes exit at an address; its frame is released when no lane remains in the handler (R97, R322). -/
def Group.exits (gr : Group) (ls : Lanes) (a : Word) : Group :=
  let y := gr.modLanes ls fun _ x => { x with mode := .exited, pc := a }
  if (List.range 32).any fun l => (y.lane l).inHandler then y else { y with save := none }

theorem Group.exits_withLanes (gr : Group) (ls : Lanes) (a : Word) : ∃ L sv, gr.exits ls a = gr.withLanes L sv := by
  unfold Group.exits
  dsimp only
  split <;> exact ⟨_, _, rfl⟩
theorem Group.exits_lane (gr : Group) (ls : Lanes) (a : Word) (l : Nat) (h : l < 32) :
    (gr.exits ls a).lane l = if ls.getLsbD l then { gr.lane l with mode := .exited, pc := a } else gr.lane l := by
  rw [← gr.modLanes_lane ls (fun _ x => { x with mode := .exited, pc := a }) l h]
  unfold Group.exits
  dsimp only
  split <;> rfl
theorem Group.exits_save (gr : Group) (ls : Lanes) (a : Word) :
    ((∃ l < 32, ((gr.exits ls a).lane l).inHandler = true) → (gr.exits ls a).save = gr.save) ∧
    ((∀ l < 32, ((gr.exits ls a).lane l).inHandler = false) → (gr.exits ls a).save = none) := by
  have hlane (l : Nat) : (gr.exits ls a).lane l = (gr.modLanes ls fun _ x => { x with mode := .exited, pc := a }).lane l := by
    unfold Group.exits
    dsimp only
    split <;> rfl
  simp only [hlane]
  unfold Group.exits
  dsimp only
  refine ⟨fun ⟨l, hl, hin⟩ => ?_, fun hnone => ?_⟩
  · rw [if_pos (List.any_eq_true.2 ⟨l, List.mem_range.2 hl, hin⟩)]
    rfl
  · rw [if_neg (by simpa using hnone)]

theorem modAt_modAt {α : Type} (f h : α → α) (n : Nat) (l : List α) : modAt h n (modAt f n l) = modAt (fun x => h (f x)) n l := by
  induction l generalizing n with
  | nil => cases n <;> rfl
  | cons a t ih =>
    cases n with
    | zero => rfl
    | succ n => rw [modAt, modAt, ih]; rfl

/-- The lanes of a set in a group's state exit. -/
def State.exits (s : State) (g : Nat) (ls : Lanes) (a : Word) : State := s.modGrp g fun gr => gr.exits ls a

theorem State.releaseFrame_modLanes (s : State) (g : Nat) (ls : Lanes) (a : Word) :
    (s.modLanes g ls fun _ x => { x with mode := .exited, pc := a }).releaseFrame g = s.exits g ls a :=
  congrArg (fun gs => { s with groups := gs }) (modAt_modAt ..)

theorem foldl_fixed_of_mem {α β : Type} {f : β → α → β} {b : β} {l : List α} (h : ∀ a ∈ l, f b a = b) : l.foldl f b = b := by
  induction l with
  | nil => rfl
  | cons a l ih => rw [List.foldl_cons, h a List.mem_cons_self, ih fun x hx => h x (List.mem_cons_of_mem _ hx)]

/-- A lane without rooms and records leaves none and has none squashed. -/
theorem State.leaves_nothing {s : State} {g l : Nat} (hholds : (s.lane g l).holds = []) (hrecs : (s.lane g l).recs = []) :
    (s.leaveAll g l).squashLane g l = s := by
  have hleave : s.leaveAll g l = s := by
    unfold State.leaveAll
    rw [hholds]
    rfl
  rw [hleave, State.squashLane, hrecs]
  rfl

/-- exit of lanes without rooms and records, where no park is to be taken (R97). -/
theorem exec_exit {s : State} {sc : BitVec 3} (h : s.goes (.exit sc)) (hp : (s.issued (.exit sc)).parksTaken)
    (hfree : ∀ l < 32, s.active l → ((s.issued (.exit sc)).lane s.cur.g l).holds = [] ∧ ((s.issued (.exit sc)).lane s.cur.g l).recs = []) :
    exec (.exit sc) s = .next (((s.issued (.exit sc)).exits s.cur.g s.cur.lanes s.cur.addr).retireIfDone s.cur.g) := by
  have harm : exec (.exit sc) s = execExit sc s := rfl
  rw [harm, execExit, s.issue_of_goes _ _ h]
  have hg := s.issued_g (.exit sc)
  have hl := s.issued_lanes (.exit sc)
  have ha := s.issued_addr (.exit sc)
  generalize s.issued (.exit sc) = t at *
  have hmem : ∀ l ∈ lanesOf s.cur.lanes, (t.lane s.cur.g l).holds = [] ∧ (t.lane s.cur.g l).recs = [] := by
    intro l hin
    obtain ⟨hlt, hact⟩ := List.mem_filter.1 hin
    exact hfree l (List.mem_range.1 hlt) hact
  have hrooms : ((lanesOf s.cur.lanes).any fun l => !(t.lane s.cur.g l).holds.isEmpty) = false := by
    rw [List.any_eq_false]
    intro l hin
    simp [(hmem l hin).1]
  have hfold : (lanesOf s.cur.lanes).foldl (fun x l => (x.leaveAll s.cur.g l).squashLane s.cur.g l) t = t :=
    foldl_fixed_of_mem fun l hin => State.leaves_nothing (hmem l hin).1 (hmem l hin).2
  dsimp only
  rw [State.exitPark_of_parksTaken hp, hg, hl]
  dsimp only
  rw [hrooms, Bool.false_and, if_neg Bool.false_ne_true, if_neg Bool.false_ne_true, hfold, ha, State.releaseFrame_modLanes]

/-- exit where a lane holds a room waits until the group's operations have completed (R97, R226). -/
theorem exit_waits {s : State} {sc : BitVec 3} (h : s.goes (.exit sc)) (hp : (s.issued (.exit sc)).parksTaken)
    (hholds : ∃ l < 32, s.active l ∧ ((s.issued (.exit sc)).lane s.cur.g l).holds ≠ []) (hq : (s.issued (.exit sc)).mayRelease (.exit sc) = false) :
    exec (.exit sc) s = .next ((s.issued (.exit sc)).await (.exit sc) false) := by
  have harm : exec (.exit sc) s = execExit sc s := rfl
  have hrooms : ((lanesOf s.cur.lanes).any fun l => !((s.issued (.exit sc)).lane s.cur.g l).holds.isEmpty) = true := by
    obtain ⟨l, hl, hact, hne⟩ := hholds
    exact List.any_eq_true.2 ⟨l, List.mem_filter.2 ⟨List.mem_range.2 hl, hact⟩, by simpa using hne⟩
  rw [harm, execExit, s.issue_of_goes _ _ h]
  dsimp only
  rw [State.exitPark_of_parksTaken hp, s.issued_g, s.issued_lanes]
  dsimp only
  rw [hrooms, hq]
  rfl

/-- The group is resident, and every lane exits or has exited. -/
def Group.allExit (gr : Group) (ls : Lanes) : Prop := gr.place = .resident ∧ ∀ l < 32, ls.getLsbD l = true ∨ (gr.lane l).mode = .exited

/-- A group that retires: its pending writes are performed. -/
def Group.retires (gr : Group) : Group := { gr.flush with place := .retired }

theorem State.exits_grp {s : State} {g : Nat} (ls : Lanes) (a : Word) (hg : g < s.groups.length) : (s.exits g ls a).grp g = (s.grp g).exits ls a :=
  s.modGrp_self g _ hg

/-- After an exit the group retires where all its lanes have exited. -/
theorem State.retireIfDone_exits {s : State} {g : Nat} (ls : Lanes) (a : Word) (hg : g < s.groups.length) :
    (s.exits g ls a).retireIfDone g =
      if ((s.grp g).exits ls a).place == .resident && (List.range 32).all fun l => (((s.grp g).exits ls a).lane l).mode == .exited then
        ((s.exits g ls a).modGrp g Group.retires).modCrew (s.grp g).crew fun c => { c with paceSeen := true }
      else s.exits g ls a := by
  have hcrew : ((s.grp g).exits ls a).crew = (s.grp g).crew := by
    obtain ⟨_, _, h⟩ := (s.grp g).exits_withLanes ls a
    rw [h]; rfl
  rw [State.retireIfDone, State.exits_grp ls a hg, hcrew]
  rfl

theorem Group.exits_allExited (gr : Group) (ls : Lanes) (a : Word) :
    ((gr.exits ls a).place == .resident && (List.range 32).all fun l => ((gr.exits ls a).lane l).mode == .exited) = true ↔ gr.allExit ls := by
  have hplace : (gr.exits ls a).place = gr.place := by
    obtain ⟨_, _, h⟩ := gr.exits_withLanes ls a
    rw [h]; rfl
  rw [Bool.and_eq_true, hplace, beq_iff_eq, List.all_eq_true, Group.allExit]
  refine and_congr_right fun _ => ⟨fun h l hl => ?_, fun h l hl => ?_⟩
  · have hmode := h l (List.mem_range.2 hl)
    rw [gr.exits_lane ls a l hl] at hmode
    split at hmode
    · next hin => exact .inl hin
    · exact .inr (beq_iff_eq.1 hmode)
  · have hl := List.mem_range.1 hl
    rw [gr.exits_lane ls a l hl]
    rcases h l hl with hin | hexited
    · rw [if_pos hin]; rfl
    · split
      · rfl
      · rw [hexited]; rfl

/-- What a group that is no continuation keeps when lanes exit, and when it retires after that: the lanes and the save slot of the exit, and the registers,
which a retirement brings up to date. -/
theorem Group.retires_exits (gr : Group) (ls : Lanes) (a : Word) (h : gr.shadow = none) :
    ((gr.exits ls a).retires.lanes = (gr.exits ls a).lanes ∧ (gr.exits ls a).retires.save = (gr.exits ls a).save) ∧ gr.flush.sameRegs (gr.exits ls a).retires := by
  obtain ⟨L, sv, hy⟩ := gr.exits_withLanes ls a
  rw [hy, Group.retires, Group.flush_withLanes gr L sv h]
  exact ⟨⟨rfl, rfl⟩, rfl, rfl, rfl, rfl, rfl, rfl, rfl, rfl⟩

/-- The exit of lanes of a group that is no continuation, and its retirement where all have exited (R18, R97). -/
theorem State.exits_retires (t : State) (g : Nat) (ls : Lanes) (a : Word) (hg : g < t.groups.length) (hs : (t.grp g).shadow = none) :
    let u := (t.exits g ls a).retireIfDone g
    let all := (t.grp g).allExit ls
    u = { t with groups := u.groups, crews := u.crews } ∧ State.othersKept g t u ∧
    (¬ all → u.crews = t.crews ∧ (t.grp g).sameRegs (u.grp g)) ∧ (all → (t.grp g).flush.sameRegs (u.grp g)) ∧
    (∀ c, c ≠ (t.grp g).crew → u.crew c = t.crew c) ∧ u.crew (t.grp g).crew = { t.crew (t.grp g).crew with paceSeen := (u.crew (t.grp g).crew).paceSeen } ∧
    (∀ l < 32, u.lane g l = if ls.getLsbD l then { t.lane g l with mode := .exited, pc := a } else t.lane g l) ∧
    ((∃ l < 32, (u.lane g l).inHandler = true) → (u.grp g).save = (t.grp g).save) ∧
    ((∀ l < 32, (u.lane g l).inHandler = false) → (u.grp g).save = none) ∧
    (all → (u.grp g).place = .retired) ∧ (¬ all → (u.grp g).place = (t.grp g).place) := by
  have hx : (t.exits g ls a).grp g = (t.grp g).exits ls a := State.exits_grp ls a hg
  have hxframe : State.onlyGroup g t (t.exits g ls a) := t.modGrp_onlyGroup g _
  have hlanes := (t.grp g).exits_lane ls a
  have hsave := (t.grp g).exits_save ls a
  rw [State.retireIfDone_exits ls a hg]
  by_cases hall : (t.grp g).allExit ls
  · rw [if_pos (((t.grp g).exits_allExited ls a).2 hall)]
    obtain ⟨⟨hsameLanes, hsameSave⟩, hregs⟩ := (t.grp g).retires_exits ls a hs
    intro u all
    have hu : u.grp g = ((t.grp g).exits ls a).retires :=
      ((t.exits g ls a).modGrp_self g Group.retires (by rw [hxframe.2.1]; exact hg)).trans (by rw [hx])
    have hulane (l : Nat) : u.lane g l = ((t.grp g).exits ls a).lane l := by rw [State.lane, hu, Group.lane, hsameLanes]; rfl
    have hframe : State.onlyGroup g t ((t.exits g ls a).modGrp g Group.retires) := hxframe.trans (State.modGrp_onlyGroup ..)
    refine ⟨rfl, hframe.2, fun h => absurd hall h, fun _ => by rw [hu]; exact hregs, fun c hc => State.modCrew_other _ _ _ _ hc, ?_, fun l hl => ?_, ?_, ?_,
      fun _ => by rw [hu]; rfl, fun h => absurd hall h⟩
    · simp only [u, State.modCrew_crew]
      split <;> rfl
    · rw [hulane]
      exact hlanes l hl
    · simp only [hulane, hu, hsameSave]
      exact hsave.1
    · simp only [hulane, hu, hsameSave]
      exact hsave.2
  · rw [if_neg (mt ((t.grp g).exits_allExited ls a).1 hall)]
    obtain ⟨_, _, hy⟩ := (t.grp g).exits_withLanes ls a
    refine ⟨rfl, hxframe.2, fun _ => ⟨rfl, ?_⟩, fun h => absurd h hall, fun _ _ => rfl, rfl, fun l hl => ?_, ?_, ?_, fun h => absurd h hall, fun _ => ?_⟩
    · rw [hx, hy]
      exact ⟨rfl, rfl, rfl, rfl, rfl, rfl, rfl, rfl⟩
    · rw [State.lane, hx]
      exact hlanes l hl
    · simp only [State.lane, hx]
      exact hsave.1
    · simp only [State.lane, hx]
      exact hsave.2
    · rw [hx, hy]
      rfl

/-- The first part of O31 for exits without rooms and records, of a unit with effects still to perform (`regOnly` is false): such a unit exits in no
continuation (R18, R97). -/
theorem exit_lanes (s : State) (sc : BitVec 3) (hg : s.cur.g < s.groups.length) (hr : s.cur.regOnly = false) :
    let i : Instr := .exit sc
    let t := s.issued i
    let g := s.cur.g
    s.goes i → t.parksTaken → (∀ l < 32, s.active l → (t.lane g l).holds = [] ∧ (t.lane g l).recs = []) →
      let all : Prop := (t.grp g).place = .resident ∧ ∀ l < 32, s.active l ∨ (t.lane g l).mode = .exited
      ∃ u, exec i s = .next u ∧ u = { t with groups := u.groups, crews := u.crews } ∧ State.othersKept g t u ∧
        (¬ all → u.crews = t.crews ∧ (t.grp g).sameRegs (u.grp g)) ∧ (all → (t.grp g).flush.sameRegs (u.grp g)) ∧
        (∀ c, c ≠ (t.grp g).crew → u.crew c = t.crew c) ∧ u.crew (t.grp g).crew = { t.crew (t.grp g).crew with paceSeen := (u.crew (t.grp g).crew).paceSeen } ∧
        (∀ l < 32, u.lane g l = if s.cur.lanes.getLsbD l then { t.lane g l with mode := .exited, pc := s.cur.addr } else t.lane g l) ∧
        ((∃ l < 32, (u.lane g l).inHandler = true) → (u.grp g).save = (t.grp g).save) ∧
        ((∀ l < 32, (u.lane g l).inHandler = false) → (u.grp g).save = none) ∧
        (all → (u.grp g).place = .retired) ∧ (¬ all → (u.grp g).place = (t.grp g).place) := by
  intro i t g hgoes hp hfree all
  exact ⟨_, exec_exit hgoes hp hfree, t.exits_retires g s.cur.lanes s.cur.addr (by simpa [t] using hg) (hgoes.shadow hr rfl)⟩

/-! ## exit of a continuation -/

/-- Where no timeline of a crew is parked, no park waits to be taken. -/
theorem State.parksTaken_of_unparked {s : State} (h : ∀ tl < 8, ((s.crewOf s.cur.g).tline tl).parked = none) : s.parksTaken := by
  intro tl p hp
  by_cases htl : tl < 8
  · simp [h tl htl] at hp
  · simp [Crew.tline, htl, Timeline.unbound] at hp

/-- `exit` of all lanes of a continuation, noted as a unit of which only register writes are left (`regOnly`). -/
def shadowUnit : Issue := { Issue.idle with lanes := BitVec.allOnes 32, regOnly := true }

/-- A write of v3 that falls due in cycle 10, with an NX flag of lane 0. -/
def shadowWrite : Pending := ⟨.reg 3, 0, 0, 0, 0, 10, 0, false, none, [(0, 1)]⟩

/-- A machine whose one group is a resident continuation with that write pending. -/
def shadowState : State :=
  { State.reset with groups := [{ Group.fresh 0 0 48 0 0 0 0 0 0 with shadow := some 0, fix := [shadowWrite] }], cur := shadowUnit }

/-- The machine once its lanes have exited. -/
def shadowDone : State := match exec (.exit 0) shadowState with | .next t => t | _ => State.reset

theorem exec_shadowState : exec (.exit 0) shadowState = .next shadowDone := rfl
theorem shadowState_goes : shadowState.goes (.exit 0) := by unfold State.goes Issue.isNew; decide +kernel
theorem shadowState_unheld : ∀ l < 32, shadowState.active l → ((shadowState.issued (.exit 0)).lane 0 l).holds = [] ∧ ((shadowState.issued (.exit 0)).lane 0 l).recs = [] := by
  unfold State.active; decide +kernel
theorem shadowState_parks : (shadowState.issued (.exit 0)).parksTaken :=
  State.parksTaken_of_unparked (by decide +kernel)
theorem shadowDone_flags : (shadowDone.lane 0 0).flags = 1 ∧ ((shadowState.issued (.exit 0)).lane 0 0).flags = 0 := by decide +kernel

/-- Refutes O31, in its first part: the statement is about every unit that goes, one with `regOnly` set too, and such a unit is held by no gate, so that
`shadowState` exits in a continuation, where exit is a fork boundary. The write that its retirement performs raises a flag, and a continuation keeps the flags
in its lanes: lane 0 does not stand as it did. Where `regOnly` is false the first part holds (`exit_lanes`, `exit_waits`). -/
theorem not_exitAndYield : ¬ Obligations.ExitAndYield := by
  unfold Obligations.ExitAndYield
  rintro ⟨hexit, -⟩
  obtain ⟨hall, -⟩ := hexit shadowState 0 (by decide) (by decide) shadowState_goes shadowState_parks
  obtain ⟨u, hu, -, -, -, -, -, -, hlanes, -⟩ := hall shadowState_unheld
  have hdone : u = shadowDone := Host.Outcome.next.inj (hu.symm.trans exec_shadowState)
  have hlane : shadowDone.lane 0 0 = { (shadowState.issued (.exit 0)).lane 0 0 with mode := .exited, pc := 0 } := by
    rw [← hdone]; exact hlanes 0 (by decide)
  obtain ⟨hnow, hthen⟩ := shadowDone_flags
  have hflags : (shadowDone.lane 0 0).flags = ((shadowState.issued (.exit 0)).lane 0 0).flags := by rw [hlane]
  rw [hnow, hthen] at hflags
  exact absurd hflags (by decide)

end Sys2Proof.Machine
end

section
/-! PROOFS. The ends of crews and tasks (O49): what CREW_RETIRE and TASK_COMPLETE do, and the state in which the completion add fails. -/

namespace Sys2Proof.Machine

/-! ## The end of a crew (R18, R221) -/

/-- The release of a crew that retires, at scope pkg, by its first group. -/
def State.crewReleased (s : State) (n : Nat) : State := match (s.crew n).groups.head? with | some g => s.release g 3 | none => s

theorem State.crewReleased_memoryOnly (s : State) (n : Nat) : s.memoryOnly (s.crewReleased n) := by
  unfold State.crewReleased
  split
  · exact s.release_memoryOnly ..
  · exact .refl s

/-- A crew without its granules, buffers and bindings. -/
def Crew.ended (c : Crew) : Crew :=
  { c with retired := true, granules := [], cb := Vector.replicate 16 CircBuf.undeclared, tl := Vector.replicate 8 Timeline.unbound }

/-- A task that counts a crew that has retired. -/
def Task.counts (t : Task) (c : Crew) : Task := { t with retired := t.retired + 1, failed := t.failed || c.failed }

/-- A crew has ended where its groups have, with every write acknowledged, and its commands have finished. -/
theorem State.crewDone_of {s : State} {n : Nat} (hn : n < s.crews.length) (hret : (s.crew n).retired = false)
    (hgroups : ∀ g ∈ (s.crew n).groups, ((s.grp g).place = .retired ∨ (s.grp g).place = .dead) ∧ (s.grp g).acks = []) (hcmds : ∀ k < 8, ((s.crew n).tline k).cmds = []) :
    s.crewDone n = true := by
  have htl : (s.crew n).tl.all (fun t => t.cmds.isEmpty) = true := by
    rw [Vector.all_eq_true]
    intro k hk
    have hline : (s.crew n).tline k = (s.crew n).tl[k] := by simp [Crew.tline, hk]
    rw [← hline, hcmds k hk, List.isEmpty_nil]
  simp only [State.crewDone, Bool.and_eq_true, Bool.not_eq_true', decide_eq_true_eq, List.all_eq_true, Bool.or_eq_true, beq_iff_eq, List.isEmpty_iff]
  exact ⟨⟨⟨hret, hn⟩, hgroups⟩, htl⟩

theorem exec_crewRetire {s : State} {n : Nat} (h : s.crewDone n = true) :
    exec (.crewRetire n) s =
      .next (({ (s.crewReleased n).modCrew n Crew.ended with bars := (s.crewReleased n).bars.filter fun b => b.crew != some n } : State).modTask (s.crew n).task
        fun t => t.counts (s.crew n)) := by
  have harm : exec (.crewRetire n) s = execCrewRetire n s := rfl
  rw [harm, execCrewRetire, h]
  rfl

/-- The part of O49 about crews: CREW_RETIRE of a crew whose groups have ended with every write acknowledged, and whose commands have finished (R18, R221). -/
theorem crewRetire_ends (s : State) (n : Nat) :
    let c := s.crew n
    n < s.crews.length → c.retired = false → (∀ g ∈ c.groups, ((s.grp g).place = .retired ∨ (s.grp g).place = .dead) ∧ (s.grp g).acks = []) →
    (∀ k < 8, (c.tline k).cmds = []) → c.task < s.tasks.length →
    ∃ t, exec (.crewRetire n) s = .next t ∧ (t.crew n).retired = true ∧ (t.crew n).granules = [] ∧ (∀ k < 16, (t.crew n).buf k = CircBuf.undeclared) ∧
      (∀ k < 8, (t.crew n).tline k = Timeline.unbound) ∧ (t.task c.task).retired = (s.task c.task).retired + 1 ∧
      (t.task c.task).failed = ((s.task c.task).failed || c.failed) ∧ (∀ b ∈ t.bars, b.crew ≠ some n) ∧ t.groups = s.groups ∧ ∀ m, m ≠ n → t.crew m = s.crew m := by
  intro c hn hret hgroups hcmds htask
  have hr := s.crewReleased_memoryOnly n
  refine ⟨_, exec_crewRetire (State.crewDone_of hn hret hgroups hcmds), ?_⟩
  generalize s.crewReleased n = r at hr
  let t : State := ({ r.modCrew n Crew.ended with bars := r.bars.filter fun b => b.crew != some n } : State).modTask c.task fun t => t.counts c
  have hcrews : t.crews = modAt Crew.ended n s.crews := by rw [← hr.crews]; rfl
  have htasks : t.tasks = modAt (fun t => t.counts c) c.task s.tasks := by rw [← hr.tasks]; rfl
  have hcrew : t.crew n = c.ended := by rw [State.crew, hcrews, modAt_getD, if_pos ⟨rfl, hn⟩]; rfl
  have hother : ∀ m, m ≠ n → t.crew m = s.crew m := fun m hm => by rw [State.crew, hcrews, modAt_getD, if_neg fun h => hm h.1]; rfl
  have hcount : t.task c.task = (s.task c.task).counts c := by rw [State.task, htasks, modAt_getD, if_pos ⟨rfl, htask⟩]; rfl
  have hbars : ∀ b ∈ t.bars, b.crew ≠ some n := by simp [t]
  change (t.crew n).retired = true ∧ _
  rw [hcrew, hcount]
  refine ⟨rfl, rfl, fun k hk => ?_, fun k hk => ?_, rfl, rfl, hbars, hr.groups, hother⟩
  · simp [Crew.buf, Crew.ended, hk]
  · simp [Crew.tline, Crew.ended, hk]

/-! ## The completion of a task (R307) -/

theorem leNat_leBytes (n x : Nat) : leNat (leBytes n x) = x % 2 ^ (8 * n) := by
  induction n generalizing x with
  | zero => simp [leBytes, leNat, Nat.mod_one]
  | succ n ih =>
    have hcons : leBytes (n + 1) x = BitVec.ofNat 8 x :: leBytes n (x / 2 ^ 8) := by
      simp only [leBytes, List.range_succ_eq_map, List.map_cons, List.map_map, Nat.mul_zero, pow_zero, Nat.div_one, Nat.div_div_eq_div_mul, ← Nat.pow_add,
        Function.comp_def, Nat.succ_eq_add_one, Nat.mul_add, Nat.mul_one, Nat.add_comm 8]
    rw [hcons, leNat, ih, BitVec.toNat_ofNat, show 8 * (n + 1) = 8 + 8 * n by omega, pow_add, Nat.mod_mul]

theorem State.returnMarks_memoryOnly (s : State) (c : CLine) : s.memoryOnly (s.returnMarks c) := by
  unfold State.returnMarks State.putMarks
  split
  · exact State.memoryOnly.foldl (fun t _ => t.setPoison_memoryOnly ..) _ s
  · exact .refl s
theorem State.invalidate_memoryOnly (s : State) (pick : Nat → Bool) (part line : Nat) : s.memoryOnly (s.invalidate pick part line) := by
  unfold State.invalidate State.loseCopies
  refine State.memoryOnly.trans ?_ (State.filterCache_memoryOnly ..)
  split
  · exact .refl s
  · exact State.memoryOnly.foldl (fun t c => t.returnMarks_memoryOnly c) _ s

/-- The completion add of a sound counter in device memory changes memory alone, and in DRAM the counter's eight bytes. -/
theorem State.completionAdd_dram {s : State} {k : Task} {x : Xl} (h0 : k.pkt.compl ≠ 0) (halign : k.pkt.compl % 8 = 0)
    (hreach : s.reach (s.firstQuad (s.ctx k.ctx).part) k.ctx (!(s.ctx k.ctx).isSys) .store k.pkt.compl = .ok x)
    (hregion : ((s.ctx k.ctx).regionAt k.pkt.compl).isNone) (hhost : x.host = false)
    (hlost : s.lostHome (s.ctx k.ctx).part x.pa = false) (hpoison : s.poisoned (s.ctx k.ctx).part x.pa = false) (hpart : (s.ctx k.ctx).part < 4) :
    ∃ u, s.completionAdd k = .next u ∧ s.memoryOnly u ∧
      u.dram = let at_ := dramKey (s.ctx k.ctx).part x.pa; Mem.write at_ (leBytes 8 (Mem.num s.dram at_ 8 + if k.failed then 2 ^ 32 else 1)) s.dram := by
  have hcp : cachePart (s.ctx k.ctx).part x = (s.ctx k.ctx).part := by simp [cachePart, hhost]
  have h4 : ((s.ctx k.ctx).part == 4) = false := by simp; omega
  refine ⟨_, by simp only [State.completionAdd, h0, halign, hreach, beq_iff_eq, bne_self_eq_false, if_false, Bool.false_eq_true, hlost, hpoison, hhost,
    Option.isSome_eq_false_iff.2 hregion, Bool.or_false, Bool.not_false, Bool.and_false, hcp]; rfl, ?_, ?_⟩
  · split
    · exact ((s.invalidate_memoryOnly ..).trans (State.homeWrite_memoryOnly ..)).trans (State.modCtx_memoryOnly ..)
    · exact (s.homeWrite_memoryOnly ..).trans (State.modCtx_memoryOnly ..)
  · have hread (t : State) (ht : t.dram = s.dram) : t.homeRead (s.ctx k.ctx).part x.pa 8 = Mem.read s.dram (dramKey (s.ctx k.ctx).part x.pa) 8 := by
      simp [State.homeRead, h4, State.readDram, ht]
    split <;> simp [State.homeWrite, State.homeRead, State.readDram, State.writeDram_dram, h4, Mem.num]

theorem addNo_self_mem (k : Nat) (l : List Nat) : k ∈ addNo k l := by
  induction l with
  | nil => simp [addNo]
  | cons x l ih =>
    rw [addNo]
    split
    · exact List.mem_cons_self
    · split
      · next h => exact h ▸ List.mem_cons_self
      · exact List.mem_cons_of_mem _ ih

/-- A task whose crews have all retired, of a queue, completes once its counter has been served: it raises its vector, and its barriers end (R307). -/
def State.completed (u : State) (n : Nat) (k : Task) : State :=
  let v := if 16 ≤ k.pkt.msiv then u.msi k.pkt.msiv else u
  { v.modTask n fun x => { x with complete := true } with bars := u.bars.filter fun b => b.task != n }

theorem exec_taskComplete {s u : State} {n : Nat} (hn : n < s.tasks.length) (hopen : (s.task n).complete = false) (hplaced : (s.task n).placed = (s.task n).ncrews)
    (hretired : (s.task n).retired = (s.task n).ncrews) (hsource : ∃ part q, (s.task n).source = .queue part q) (hadd : s.completionAdd (s.task n) = .next u) :
    exec (.taskComplete n) s = .next (u.completed n (s.task n)) := by
  obtain ⟨part, q, hqueue⟩ := hsource
  have hdone : (decide (s.tasks.length ≤ n) || !(s.task n).done) = false := by
    simp [Task.done, Task.allPlaced, hopen, hplaced, hretired, hn]
  have hvector : ((s.task n).pkt.msiv != 0 && decide (16 ≤ (s.task n).pkt.msiv)) = decide (16 ≤ (s.task n).pkt.msiv) := by
    rw [Bool.eq_iff_iff]; simp; omega
  have harm : exec (.taskComplete n) s = execTaskComplete n s := rfl
  rw [harm, execTaskComplete, if_neg (by simp [hdone])]
  dsimp only
  rw [hadd]
  simp only [hvector, State.sourceDone, hqueue, State.completed, decide_eq_true_eq]
  split <;> rfl

theorem State.completed_sameMemory (u : State) (n : Nat) (k : Task) : (u.completed n k).sameMemory u := by
  unfold State.completed
  split <;> exact ⟨rfl, rfl, rfl, fun _ => rfl⟩
theorem State.completed_complete {u : State} {n : Nat} (k : Task) (hn : n < u.tasks.length) : ((u.completed n k).task n).complete = true := by
  have htasks : (u.completed n k).tasks = modAt (fun x => { x with complete := true }) n u.tasks := by
    unfold State.completed
    split <;> rfl
  rw [State.task, htasks, modAt_getD, if_pos ⟨rfl, hn⟩]
theorem State.completed_bars (u : State) (n : Nat) (k : Task) : ∀ b ∈ (u.completed n k).bars, b.task ≠ n := by simp [State.completed]

/-- The part of O49 about a task without a completion counter (R307). -/
theorem taskComplete_ends (s : State) (n : Nat) :
    let k := s.task n
    n < s.tasks.length → k.complete = false → k.placed = k.ncrews → k.retired = k.ncrews → (∃ part q, k.source = .queue part q) → k.pkt.compl = 0 →
    ∃ t, exec (.taskComplete n) s = .next t ∧ t.sameMemory s ∧ (t.task n).complete = true ∧ (∀ b ∈ t.bars, b.task ≠ n) ∧
      (16 ≤ k.pkt.msiv → k.pkt.msiv ∈ s.pkg.unmasked → t.pkg.msiSent = k.pkt.msiv :: s.pkg.msiSent) ∧
      (16 ≤ k.pkt.msiv → k.pkt.msiv ∉ s.pkg.unmasked → k.pkt.msiv ∈ t.pkg.msiPending) := by
  intro k hn hopen hplaced hretired hsource hnone
  have hadd : s.completionAdd k = .next s := by simp [State.completionAdd, hnone]
  refine ⟨_, exec_taskComplete hn hopen hplaced hretired hsource hadd, s.completed_sameMemory n k, State.completed_complete k hn, s.completed_bars n k,
    fun hv hin => ?_, fun hv hout => ?_⟩
  · simp [State.completed, k, hv, State.msi, State.modPkg, State.modTask, hin]
  · simp [State.completed, k, hv, State.msi, State.modPkg, State.modTask, hout, addNo_self_mem]

/-- The part of O49 about a completion counter, where DRAM is in canonical form: the counter takes 1, or 2^32 for a failed task, and every other byte of DRAM
stands (R307). -/
theorem taskComplete_adds (s : State) (n : Nat) (x : Xl) :
    let k := s.task n
    let c := s.ctx k.ctx
    n < s.tasks.length → k.complete = false → k.placed = k.ncrews → k.retired = k.ncrews → (∃ part q, k.source = .queue part q) → k.pkt.compl % 8 = 0 →
    k.pkt.compl ≠ 0 → s.reach (s.firstQuad c.part) k.ctx (!c.isSys) .store k.pkt.compl = .ok x → (c.regionAt k.pkt.compl).isNone → x.host = false →
    s.lostHome c.part x.pa = false → s.poisoned c.part x.pa = false → c.part < 4 → Mem.wf s.dram = true →
    ∃ t, exec (.taskComplete n) s = .next t ∧ (t.task n).complete = true ∧
      let at_ := dramKey c.part x.pa
      Mem.num t.dram at_ 8 = (Mem.num s.dram at_ 8 + if k.failed then 2 ^ 32 else 1) % 2 ^ 64 ∧
      ∀ j, (j < at_ ∨ at_ + 8 ≤ j) → Mem.get t.dram j = Mem.get s.dram j := by
  intro k c hn hopen hplaced hretired hsource halign hnonzero hreach hregion hhost hlost hpoison hpart hw
  obtain ⟨u, hadd, hframe, hdram⟩ := State.completionAdd_dram hnonzero halign hreach hregion hhost hlost hpoison hpart
  obtain ⟨hsame, -⟩ := u.completed_sameMemory n k
  refine ⟨_, exec_taskComplete hn hopen hplaced hretired hsource hadd, State.completed_complete k (by rw [hframe.tasks]; exact hn), ?_, fun j hj => ?_⟩
  · have hread := Mem.read_write hw (dramKey c.part x.pa) (leBytes 8 (Mem.num s.dram (dramKey c.part x.pa) 8 + if k.failed then 2 ^ 32 else 1))
    rw [leBytes_length] at hread
    rw [← hsame, hdram, Mem.num, hread, leNat_leBytes]
  · rw [← hsame, hdram, Mem.get_write_outside hw _ _ _ (by rwa [leBytes_length])]

/-! ## A completion counter in DRAM that is out of order -/

/-- A task whose crew has retired, with its completion counter at 0xFFF8. -/
def tallyTask : Task := { soleTask with retired := 1, pkt := #v[0, 0, 0, 0, 0xFFF8, 0, 0, 0] }

/-- A machine with that task, whose DRAM lists the counter's byte 1 before its byte 0: the counter reads 0x1FF. -/
def tallyState : State :=
  let m := State.reset.placeCode []
  { m with tasks := [tallyTask], dram := m.dram ++ [(0x3FFF9, 1), (0x3FFF8, 0xFF)] }

/-- The page that holds the counter. -/
def tallyPage : Xl := { pa := 0x3FFF8, attr := 0, host := false, w := true, x := true, u := true, base := 0, log := 16, leaf := placeLeaf }

/-- The machine once the task has completed. -/
def tallyDone : State := match exec (.taskComplete 0) tallyState with | .next t => t | _ => State.reset

theorem tallyState_canonical : tallyState.canonical = false := by decide +kernel
theorem tallyState_reach :
    tallyState.reach (tallyState.firstQuad (tallyState.ctx 0).part) 0 (!(tallyState.ctx 0).isSys) .store (tallyState.task 0).pkt.compl = .ok tallyPage := by decide +kernel
theorem tallyState_sound : tallyState.lostHome (tallyState.ctx 0).part tallyPage.pa = false ∧ tallyState.poisoned (tallyState.ctx 0).part tallyPage.pa = false ∧
    ((tallyState.ctx 0).regionAt (tallyState.task 0).pkt.compl).isNone = true := by decide +kernel
theorem exec_tallyState : exec (.taskComplete 0) tallyState = .next tallyDone := rfl
theorem tallyDone_counter : Mem.num tallyState.dram 0x3FFF8 8 = 0x1FF ∧ Mem.num tallyDone.dram 0x3FFF8 8 = 0x2FF := by decide +kernel

/-- Refutes O49, in its clause about a completion counter: the statement is about every state, one whose DRAM is out of order too (`tallyState_canonical`). The
counter of `tallyState` reads 0x1FF and should become 0x200; its byte 0 is zero then, the write of that byte stops at the cell of byte 1, and the counter reads
0x2FF. Where DRAM is in canonical form the counter takes what it should (`taskComplete_adds`), and the other clauses hold in every state (`crewRetire_ends`,
`taskComplete_ends`). -/
theorem not_retireAndComplete : ¬ Obligations.RetireAndComplete := by
  unfold Obligations.RetireAndComplete
  intro h
  obtain ⟨hlost, hpoison, hregion⟩ := tallyState_sound
  obtain ⟨-, ends⟩ := h tallyState 0
  obtain ⟨-, counts⟩ := ends (by decide) rfl rfl rfl ⟨0, 0, rfl⟩ (by decide)
  obtain ⟨t, ht, -, hcount, -⟩ := counts tallyPage (by decide) tallyState_reach hregion rfl hlost hpoison (fun c hc => absurd hc List.not_mem_nil) rfl (by decide)
  have hdone : t = tallyDone := Host.Outcome.next.inj (ht.symm.trans exec_tallyState)
  obtain ⟨hbefore, hafter⟩ := tallyDone_counter
  have hsum : Mem.num tallyDone.dram 0x3FFF8 8 = (Mem.num tallyState.dram 0x3FFF8 8 + 1) % 2 ^ 64 := by rw [← hdone]; exact hcount
  rw [hbefore, hafter] at hsum
  exact absurd hsum (by decide)

end Sys2Proof.Machine
end

section
/-! PROOFS. The decoder and the encoder (O1, O2, O3): a word that decodes is encoded again as itself, format by format, and the word of each row
decodes to the row. -/

namespace Sys2Proof.Words

/-! ## The words that the decoder accepts (R39, R40) -/

theorem fld_toNat (w lo n : Nat) : (fld w lo n).toNat = bitsAt w lo n := BitVec.toNat_ofNat ..

/-- Whatever instruction the decoder answers with has the prefix that was given, and the word that was given encodes it. -/
def Inverts (pf : Option Pfx) (w : Nat) (r : Except DecodeErr Instr) : Prop :=
  ∀ i, r = .ok i → i.pf? = pf ∧ encodeNat i = some w

theorem inverts_error (pf : Option Pfx) (w : Nat) (e : DecodeErr) : Inverts pf w (.error e) ↔ True :=
  iff_true_intro fun _ h => nomatch h

theorem inverts_ok {pf : Option Pfx} {w : Nat} {i : Instr} : Inverts pf w (.ok i) ↔ i.pf? = pf ∧ encodeNat i = some w :=
  ⟨fun h => h i rfl, fun h _ e => by cases e; exact h⟩

theorem inverts_ite {pf : Option Pfx} {w : Nat} {c : Prop} [Decidable c] {x y : Except DecodeErr Instr} :
    Inverts pf w (if c then x else y) ↔ (c → Inverts pf w x) ∧ (¬ c → Inverts pf w y) := by
  split <;> simp [*]

theorem inverts_noPfx {pf : Option Pfx} {w : Nat} {x : Except DecodeErr Instr} :
    Inverts pf w (noPfx pf x) ↔ (pf = none → Inverts none w x) := by
  cases pf <;> simp [noPfx, inverts_error]

/-! A word is its opcode, its fixed bits and its fields, format by format: the fields are named by where they begin, and a hypothesis gives
the bits that no field covers. -/

section
variable {s : Bool} {op w : Nat} (hw : w = opBits s op + w % 2 ^ 21)
include hw

theorem encWord_18_12_6_0 : encWord s op 0
    [((fld w 18 3).toNat, 18), ((fld w 12 6).toNat, 12), ((fld w 6 6).toNat, 6), ((fld w 0 6).toNat, 0)] = w := by
  simp only [encWord, List.map, List.sum_cons, List.sum_nil, fld_toNat, bitsAt]; omega

theorem encWord_18_12_6 {k : Nat} (h : bitsAt w 0 6 = k) :
    encWord s op k [((fld w 18 3).toNat, 18), ((fld w 12 6).toNat, 12), ((fld w 6 6).toNat, 6)] = w := by
  simp only [encWord, List.map, List.sum_cons, List.sum_nil, fld_toNat, bitsAt] at *; omega

theorem encWord_18_12_6_2 (h : bitsAt w 0 2 = 0) :
    encWord s op 0 [((fld w 18 3).toNat, 18), ((fld w 12 6).toNat, 12), ((fld w 6 6).toNat, 6), ((fld w 2 4).toNat, 2)] = w := by
  simp only [encWord, List.map, List.sum_cons, List.sum_nil, fld_toNat, bitsAt] at *; omega

theorem encWord_18_12_6_2_0 : encWord s op 0
    [((fld w 18 3).toNat, 18), ((fld w 12 6).toNat, 12), ((fld w 6 6).toNat, 6), ((fld w 2 4).toNat, 2), ((fld w 0 2).toNat, 0)] = w := by
  simp only [encWord, List.map, List.sum_cons, List.sum_nil, fld_toNat, bitsAt]; omega

theorem encWord_atomic (h : bitsAt w 1 1 = 1) : encWord s op 2
    [((fld w 18 3).toNat, 18), ((fld w 12 6).toNat, 12), ((fld w 6 6).toNat, 6), ((fld w 2 4).toNat, 2), ((fld w 0 1).toNat, 0)] = w := by
  simp only [encWord, List.map, List.sum_cons, List.sum_nil, fld_toNat, bitsAt] at *; omega

theorem encWord_size (h : bitsAt w 2 4 = 0) : encWord s op 0
    [((fld w 18 3).toNat, 18), ((fld w 12 6).toNat, 12), ((fld w 6 6).toNat, 6), ((fld w 0 2).toNat, 0)] = w := by
  simp only [encWord, List.map, List.sum_cons, List.sum_nil, fld_toNat, bitsAt] at *; omega

theorem encWord_18_12_0 : encWord s op 0 [((fld w 18 3).toNat, 18), ((fld w 12 6).toNat, 12), ((fld w 0 12).toNat, 0)] = w := by
  simp only [encWord, List.map, List.sum_cons, List.sum_nil, fld_toNat, bitsAt]; omega

theorem encWord_18_12 {k : Nat} (h : bitsAt w 0 12 = k) : encWord s op k [((fld w 18 3).toNat, 18), ((fld w 12 6).toNat, 12)] = w := by
  simp only [encWord, List.map, List.sum_cons, List.sum_nil, fld_toNat, bitsAt] at *; omega

theorem encWord_18 {k : Nat} (h : bitsAt w 0 18 = k) : encWord s op k [((fld w 18 3).toNat, 18)] = w := by
  simp only [encWord, List.map, List.sum_cons, List.sum_nil, fld_toNat, bitsAt] at *; omega

theorem encWord_18_6 {k : Nat} (h : bitsAt w 0 6 = k) (h' : bitsAt w 12 6 = 0) :
    encWord s op k [((fld w 18 3).toNat, 18), ((fld w 6 6).toNat, 6)] = w := by
  simp only [encWord, List.map, List.sum_cons, List.sum_nil, fld_toNat, bitsAt] at *; omega

theorem encWord_compare (h : bitsAt w 15 3 = 0) : encWord s op 0
    [((fld w 18 3).toNat, 18), ((fld w 12 3).toNat, 12), ((fld w 6 6).toNat, 6), ((fld w 0 6).toNat, 0)] = w := by
  simp only [encWord, List.map, List.sum_cons, List.sum_nil, fld_toNat, bitsAt] at *; omega

theorem encWord_code (h : bitsAt w 8 10 = 0) : encWord s op 0 [((fld w 18 3).toNat, 18), ((fld w 0 8).toNat, 0)] = w := by
  simp only [encWord, List.map, List.sum_cons, List.sum_nil, fld_toNat, bitsAt] at *; omega

theorem encWord_18_0 : encWord s op 0 [((fld w 18 3).toNat, 18), ((fld w 0 18).toNat, 0)] = w := by
  simp only [encWord, List.map, List.sum_cons, List.sum_nil, fld_toNat, bitsAt]; omega

theorem encWord_vote {k : Nat} (h : bitsAt w 3 6 = k) : encWord s op (k * 8)
    [((fld w 18 3).toNat, 18), ((fld w 12 6).toNat, 12), ((fld w 9 3).toNat, 9), ((fld w 0 3).toNat, 0)] = w := by
  simp only [encWord, List.map, List.sum_cons, List.sum_nil, fld_toNat, bitsAt] at *; omega

theorem encWord_mode {k : Nat} (h : bitsAt w 3 3 = k) : encWord s op (k * 8)
    [((fld w 18 3).toNat, 18), ((fld w 12 6).toNat, 12), ((fld w 6 6).toNat, 6), ((fld w 0 3).toNat, 0)] = w := by
  simp only [encWord, List.map, List.sum_cons, List.sum_nil, fld_toNat, bitsAt] at *; omega

theorem encWord_18_6_0 {k : Nat} (h : bitsAt w 12 6 = k) : encWord s op (k * 4096)
    [((fld w 18 3).toNat, 18), ((fld w 6 6).toNat, 6), ((fld w 0 6).toNat, 0)] = w := by
  simp only [encWord, List.map, List.sum_cons, List.sum_nil, fld_toNat, bitsAt] at *; omega

theorem encWord_barrier {k : Nat} (h : bitsAt w 0 2 = k) (h' : bitsAt w 5 1 = 0) : encWord s op k
    [((fld w 18 3).toNat, 18), ((fld w 12 6).toNat, 12), ((fld w 6 6).toNat, 6), ((fld w 2 3).toNat, 2)] = w := by
  simp only [encWord, List.map, List.sum_cons, List.sum_nil, fld_toNat, bitsAt] at *; omega

theorem encWord_reduce {k : Nat} (h : bitsAt w 0 2 = k) (h' : bitsAt w 4 2 = 0) : encWord s op k
    [((fld w 18 3).toNat, 18), ((fld w 12 6).toNat, 12), ((fld w 6 6).toNat, 6), ((fld w 3 1).toNat, 3), ((fld w 2 1).toNat, 2)] = w := by
  simp only [encWord, List.map, List.sum_cons, List.sum_nil, fld_toNat, bitsAt] at *; omega

end

theorem inverts_decodeLane {op w : Nat} (pf : Option Pfx) (hop : w = opBits false op + w % 2 ^ 21) :
    Inverts pf w (decodeLane op w pf) := by
  unfold decodeLane
  split
  case h_61 =>
    cases pf with
    | none => exact inverts_ok.2 ⟨rfl, congrArg some (encWord_18_12_6_0 hop)⟩
    | some p => exact inverts_ite.2 ⟨fun _ => inverts_ok.2 ⟨rfl, congrArg some (encWord_18_12_6_0 hop)⟩,
        fun _ => inverts_ok.2 ⟨rfl, congrArg some (encWord_18_12_6_0 hop)⟩⟩
  all_goals simp only [inverts_noPfx, inverts_ite, inverts_ok, inverts_error, implies_true, and_true]
  all_goals unfold encodeNat Instr.pf?
  all_goals simp +contextual (disch := assumption) only [beq_iff_eq, Option.some.injEq, Bool.and_eq_true, and_imp,
    encWord_18_12_6_0 hop, encWord_18_12_6 hop, encWord_18_12_6_2_0 hop, encWord_size hop, encWord_18_12_0 hop, encWord_18 hop,
    encWord_atomic hop, encWord_18_6 hop, encWord_compare hop, encWord_code hop, true_and, implies_true, and_true]
  case h_2 =>
    simp only [encWord, List.map, List.sum_cons, List.sum_nil, fld_toNat, bitsAt]; omega
  case h_8 => exact fun _ h => encWord_18_6_0 hop h
  case h_9 => exact fun _ => ⟨fun h => encWord_vote hop h, fun _ => ⟨fun h => encWord_vote hop h, fun _ h => encWord_vote hop h⟩⟩
  case h_47 =>
    simp only [encWord, List.map, List.sum_cons, List.sum_nil, fld_toNat, bitsAt]; omega
  case h_64 =>
    simp only [encWord, List.map, List.sum_cons, List.sum_nil, fld_toNat, bitsAt]; omega
  case h_74 =>
    simp only [encWord, List.map, List.sum_cons, List.sum_nil, fld_toNat, bitsAt]; omega
  case h_82 => exact fun _ => ⟨fun h => encWord_mode hop h, fun _ h => encWord_mode hop h⟩

theorem inverts_decodeUniform {op w : Nat} (hop : w = opBits true op + w % 2 ^ 21) :
    Inverts none w (decodeUniform op w) := by
  unfold decodeUniform
  split
  all_goals simp only [inverts_ite, inverts_ok, inverts_error, implies_true, and_true]
  all_goals unfold encodeNat Instr.pf?
  all_goals simp +contextual (disch := assumption) only [beq_iff_eq, Option.some.injEq, Bool.and_eq_true, and_imp,
    encWord_18_12_6_0 hop, encWord_18_12_6 hop, encWord_18_12_6_2 hop, encWord_18_12_6_2_0 hop, encWord_18_12_0 hop, encWord_18_12 hop,
    encWord_18_0 hop, encWord_18 hop, encWord_18_6 hop, encWord_barrier hop, encWord_reduce hop, true_and, implies_true, and_true]
  case h_25 =>
    simp only [encWord, List.map, List.sum_cons, List.sum_nil, fld_toNat, bitsAt]; omega
  case h_27 =>
    refine ⟨fun h => encWord_18_6_0 hop h, fun _ => ⟨fun h h' => ?_, fun _ h => encWord_18_6_0 hop h⟩⟩
    simp only [encWord, List.map, List.sum_cons, List.sum_nil, fld_toNat, bitsAt] at *; omega
  case h_37 =>
    simp only [encWord, List.map, List.sum_cons, List.sum_nil, fld_toNat, bitsAt]; omega
  case h_40 =>
    simp only [encWord, List.map, List.sum_cons, List.sum_nil, fld_toNat, bitsAt]; omega
  case h_43 =>
    simp only [encWord, List.map, List.sum_cons, List.sum_nil, fld_toNat, bitsAt]; omega
  case h_44 => exact fun h => encWord_mode hop h

/-- A word of 32 bits is its set, its opcode and its lower bits (R39). -/
theorem eq_opBits_add {w : Nat} (hw : w < 2 ^ 32) {s : Bool} (hs : (bitsAt w 31 1 == 1) = s) : w = opBits s (bitsAt w 21 10) + w % 2 ^ 21 := by
  cases s <;> simp [bitsAt, opBits] at * <;> omega

theorem inverts_decodeWord {w : Nat} (hw : w < 2 ^ 32) (pf : Option Pfx) : Inverts pf w (decodeWord shippingMap w pf) := by
  simp only [decodeWord, shippingMap]
  split
  next hs =>
    have hu := inverts_decodeUniform (eq_opBits_add hw hs)
    split
    · exact (inverts_error ..).2 trivial
    · exact inverts_noPfx.2 fun _ => hu
  next hs => exact inverts_decodeLane pf (eq_opBits_add hw (by simpa using hs))

theorem encodePfx_pfxOf {p : Nat} (hp : p < 2 ^ 32) (h : isPfxWord p = true) : encodePfx (pfxOf p) = p := by
  simp only [isPfxWord, Bool.and_eq_true, beq_iff_eq] at h
  simp only [encodePfx, pfxOf, fld_toNat, bitsAt] at *
  omega

/-- Settles O2: every branch of the decoder answers with an instruction whose encoding is the word it was given, format by format; a prefix
word is its fields. -/
theorem encodeOfDecode : Obligations.EncodeOfDecode := by
  refine ⟨fun w i h => ?_, fun p w i hp h => ?_⟩
  · unfold decodeWords at h
    split at h
    · exact nomatch h
    · obtain ⟨hpf, henc⟩ := inverts_decodeWord w.isLt none i h
      simp [encode, hpf, henc]
  · rw [decodeWords, if_pos hp] at h
    split at h
    · exact nomatch h
    · obtain ⟨hpf, henc⟩ := inverts_decodeWord w.isLt (some (pfxOf p.toNat)) i h
      simp [encode, hpf, henc, encodePfx_pfxOf p.isLt hp]

/-! ## The words that the encoder makes, read by the decoder (R39, R58, R59) -/

theorem fld_eq {w lo n : Nat} {v : BitVec n} (h : w / 2 ^ lo % 2 ^ n = v.toNat) : fld w lo n = v :=
  BitVec.eq_of_toNat_eq (by rw [fld, BitVec.toNat_ofNat, h])

/-- Below its opcode a word is its fixed bits and its fields. -/
theorem exists_eq_add_of_encWord {s : Bool} {op fixed w : Nat} {fs : List (Nat × Nat)} (hw : w = encWord s op fixed fs) :
    ∃ q, w = q * 2 ^ 21 + (fixed + (fs.map fun f => f.1 * 2 ^ f.2).sum) := by
  refine ⟨(if s then 2 ^ 10 else 0) + op, ?_⟩
  rw [hw, encWord, opBits]
  split <;> ring

/-! Format by format, a decoded field is the field that was encoded, and the bits that the decoder tests are those that the row fixes. -/

section
variable {s : Bool} {op w : Nat} {sc : BitVec 3} {d a b : BitVec 6}

theorem read_18_12_6_0 (f : BitVec 3 → BitVec 6 → BitVec 6 → BitVec 6 → Instr)
    (hw : w = encWord s op 0 [(sc.toNat, 18), (d.toNat, 12), (a.toNat, 6), (b.toNat, 0)]) :
    f (fld w 18 3) (fld w 12 6) (fld w 6 6) (fld w 0 6) = f sc d a b := by
  obtain ⟨q, h⟩ := exists_eq_add_of_encWord hw
  simp only [List.map, List.sum_cons, List.sum_nil] at h
  congr <;> exact fld_eq (by omega)

theorem read_18_12_6 {k : Nat} (hk : k < 64) (f : BitVec 3 → BitVec 6 → BitVec 6 → Instr)
    (hw : w = encWord s op k [(sc.toNat, 18), (d.toNat, 12), (a.toNat, 6)]) :
    bitsAt w 0 6 = k ∧ f (fld w 18 3) (fld w 12 6) (fld w 6 6) = f sc d a := by
  obtain ⟨q, h⟩ := exists_eq_add_of_encWord hw
  simp only [List.map, List.sum_cons, List.sum_nil] at h
  refine ⟨by simp only [bitsAt]; omega, ?_⟩
  congr <;> exact fld_eq (by omega)

theorem read_18 {k : Nat} (hk : k < 262144) (f : BitVec 3 → Instr)
    (hw : w = encWord s op k [(sc.toNat, 18)]) :
    bitsAt w 0 18 = k ∧ f (fld w 18 3) = f sc := by
  obtain ⟨q, h⟩ := exists_eq_add_of_encWord hw
  simp only [List.map, List.sum_cons, List.sum_nil] at h
  refine ⟨by simp only [bitsAt]; omega, ?_⟩
  congr; exact fld_eq (by omega)

theorem read_18_15_0 (f : BitVec 3 → BitVec 3 → BitVec 15 → Instr) {j : BitVec 3} {p : BitVec 15}
    (hw : w = encWord s op 0 [(sc.toNat, 18), (j.toNat, 15), (p.toNat, 0)]) :
    f (fld w 18 3) (fld w 15 3) (fld w 0 15) = f sc j p := by
  obtain ⟨q, h⟩ := exists_eq_add_of_encWord hw
  simp only [List.map, List.sum_cons, List.sum_nil] at h
  congr <;> exact fld_eq (by omega)

theorem read_18_6 {k : Nat} (hk : k < 64) {j : Nat} (hj : j < 64) (f : BitVec 3 → BitVec 6 → Instr)
    (hw : w = encWord s op (j * 4096 + k) [(sc.toNat, 18), (a.toNat, 6)]) :
    bitsAt w 0 6 = k ∧ bitsAt w 12 6 = j ∧ f (fld w 18 3) (fld w 6 6) = f sc a := by
  obtain ⟨q, h⟩ := exists_eq_add_of_encWord hw
  simp only [List.map, List.sum_cons, List.sum_nil] at h
  refine ⟨by simp only [bitsAt]; omega, by simp only [bitsAt]; omega, ?_⟩
  congr <;> exact fld_eq (by omega)

theorem read_18_6_0 {k : Nat} (hk : k < 64) (f : BitVec 3 → BitVec 6 → BitVec 6 → Instr)
    (hw : w = encWord s op (k * 4096) [(sc.toNat, 18), (a.toNat, 6), (b.toNat, 0)]) :
    bitsAt w 12 6 = k ∧ f (fld w 18 3) (fld w 6 6) (fld w 0 6) = f sc a b := by
  obtain ⟨q, h⟩ := exists_eq_add_of_encWord hw
  simp only [List.map, List.sum_cons, List.sum_nil] at h
  refine ⟨by simp only [bitsAt]; omega, ?_⟩
  congr <;> exact fld_eq (by omega)

theorem read_vote {k : Nat} (hk : k < 64) (f : BitVec 3 → BitVec 6 → BitVec 3 → BitVec 3 → Instr) {j : BitVec 3} {m : BitVec 3}
    (hw : w = encWord s op (k * 8) [(sc.toNat, 18), (d.toNat, 12), (j.toNat, 9), (m.toNat, 0)]) :
    bitsAt w 3 6 = k ∧ f (fld w 18 3) (fld w 12 6) (fld w 9 3) (fld w 0 3) = f sc d j m := by
  obtain ⟨q, h⟩ := exists_eq_add_of_encWord hw
  simp only [List.map, List.sum_cons, List.sum_nil] at h
  refine ⟨by simp only [bitsAt]; omega, ?_⟩
  congr <;> exact fld_eq (by omega)

theorem read_code (f : BitVec 3 → BitVec 8 → Instr) {c : BitVec 8}
    (hw : w = encWord s op 0 [(sc.toNat, 18), (c.toNat, 0)]) :
    bitsAt w 8 10 = 0 ∧ f (fld w 18 3) (fld w 0 8) = f sc c := by
  obtain ⟨q, h⟩ := exists_eq_add_of_encWord hw
  simp only [List.map, List.sum_cons, List.sum_nil] at h
  refine ⟨by simp only [bitsAt]; omega, ?_⟩
  congr <;> exact fld_eq (by omega)

theorem read_18_12_0 (f : BitVec 3 → BitVec 6 → BitVec 12 → Instr) {n : BitVec 12}
    (hw : w = encWord s op 0 [(sc.toNat, 18), (d.toNat, 12), (n.toNat, 0)]) :
    f (fld w 18 3) (fld w 12 6) (fld w 0 12) = f sc d n := by
  obtain ⟨q, h⟩ := exists_eq_add_of_encWord hw
  simp only [List.map, List.sum_cons, List.sum_nil] at h
  congr <;> exact fld_eq (by omega)

theorem read_18_12 {k : Nat} (hk : k < 4096) (f : BitVec 3 → BitVec 6 → Instr)
    (hw : w = encWord s op k [(sc.toNat, 18), (d.toNat, 12)]) :
    bitsAt w 0 12 = k ∧ f (fld w 18 3) (fld w 12 6) = f sc d := by
  obtain ⟨q, h⟩ := exists_eq_add_of_encWord hw
  simp only [List.map, List.sum_cons, List.sum_nil] at h
  refine ⟨by simp only [bitsAt]; omega, ?_⟩
  congr <;> exact fld_eq (by omega)

theorem read_compare (f : BitVec 3 → BitVec 3 → BitVec 6 → BitVec 6 → Instr) {j : BitVec 3}
    (hw : w = encWord s op 0 [(sc.toNat, 18), (j.toNat, 12), (a.toNat, 6), (b.toNat, 0)]) :
    bitsAt w 15 3 = 0 ∧ f (fld w 18 3) (fld w 12 3) (fld w 6 6) (fld w 0 6) = f sc j a b := by
  obtain ⟨q, h⟩ := exists_eq_add_of_encWord hw
  simp only [List.map, List.sum_cons, List.sum_nil] at h
  refine ⟨by simp only [bitsAt]; omega, ?_⟩
  congr <;> exact fld_eq (by omega)

theorem read_convert (f : BitVec 3 → BitVec 6 → BitVec 6 → BitVec 1 → BitVec 1 → BitVec 4 → Instr) {l : BitVec 1} {q : BitVec 1} {r : BitVec 4}
    (hw : w = encWord s op 0 [(sc.toNat, 18), (d.toNat, 12), (a.toNat, 6), (l.toNat, 5), (q.toNat, 4), (r.toNat, 0)]) :
    f (fld w 18 3) (fld w 12 6) (fld w 6 6) (fld w 5 1) (fld w 4 1) (fld w 0 4) = f sc d a l q r := by
  obtain ⟨q, h⟩ := exists_eq_add_of_encWord hw
  simp only [List.map, List.sum_cons, List.sum_nil] at h
  congr <;> exact fld_eq (by omega)

theorem read_scan (f : BitVec 3 → BitVec 6 → BitVec 6 → BitVec 1 → Instr) {e : BitVec 1}
    (hw : w = encWord s op 0 [(sc.toNat, 18), (d.toNat, 12), (a.toNat, 6), (e.toNat, 0)]) :
    bitsAt w 1 5 = 0 ∧ f (fld w 18 3) (fld w 12 6) (fld w 6 6) (fld w 0 1) = f sc d a e := by
  obtain ⟨q, h⟩ := exists_eq_add_of_encWord hw
  simp only [List.map, List.sum_cons, List.sum_nil] at h
  refine ⟨by simp only [bitsAt]; omega, ?_⟩
  congr <;> exact fld_eq (by omega)

theorem read_18_12_6_2_0 (f : BitVec 3 → BitVec 6 → BitVec 6 → BitVec 4 → BitVec 2 → Instr) {n : BitVec 4} {z : BitVec 2}
    (hw : w = encWord s op 0 [(sc.toNat, 18), (d.toNat, 12), (a.toNat, 6), (n.toNat, 2), (z.toNat, 0)]) :
    f (fld w 18 3) (fld w 12 6) (fld w 6 6) (fld w 2 4) (fld w 0 2) = f sc d a n z := by
  obtain ⟨q, h⟩ := exists_eq_add_of_encWord hw
  simp only [List.map, List.sum_cons, List.sum_nil] at h
  congr <;> exact fld_eq (by omega)

theorem read_size (f : BitVec 3 → BitVec 6 → BitVec 6 → BitVec 2 → Instr) {z : BitVec 2}
    (hw : w = encWord s op 0 [(sc.toNat, 18), (d.toNat, 12), (a.toNat, 6), (z.toNat, 0)]) :
    bitsAt w 2 4 = 0 ∧ f (fld w 18 3) (fld w 12 6) (fld w 6 6) (fld w 0 2) = f sc d a z := by
  obtain ⟨q, h⟩ := exists_eq_add_of_encWord hw
  simp only [List.map, List.sum_cons, List.sum_nil] at h
  refine ⟨by simp only [bitsAt]; omega, ?_⟩
  congr <;> exact fld_eq (by omega)

theorem read_prefetch (f : BitVec 3 → BitVec 6 → BitVec 4 → BitVec 2 → Instr) {n : BitVec 4} {z : BitVec 2}
    (hw : w = encWord s op 0 [(sc.toNat, 18), (a.toNat, 6), (n.toNat, 2), (z.toNat, 0)]) :
    bitsAt w 12 6 = 0 ∧ f (fld w 18 3) (fld w 6 6) (fld w 2 4) (fld w 0 2) = f sc a n z := by
  obtain ⟨q, h⟩ := exists_eq_add_of_encWord hw
  simp only [List.map, List.sum_cons, List.sum_nil] at h
  refine ⟨by simp only [bitsAt]; omega, ?_⟩
  congr <;> exact fld_eq (by omega)

theorem read_18_12_6_2_flag {k : Nat} (hk : k < 2) (f : BitVec 3 → BitVec 6 → BitVec 6 → BitVec 4 → BitVec 1 → Instr) {n : BitVec 4} {z : BitVec 1}
    (hw : w = encWord s op (k * 2) [(sc.toNat, 18), (d.toNat, 12), (a.toNat, 6), (n.toNat, 2), (z.toNat, 0)]) :
    bitsAt w 1 1 = k ∧ f (fld w 18 3) (fld w 12 6) (fld w 6 6) (fld w 2 4) (fld w 0 1) = f sc d a n z := by
  obtain ⟨q, h⟩ := exists_eq_add_of_encWord hw
  simp only [List.map, List.sum_cons, List.sum_nil] at h
  refine ⟨by simp only [bitsAt]; omega, ?_⟩
  congr <;> exact fld_eq (by omega)

theorem read_mode {k : Nat} (hk : k < 8) (f : BitVec 3 → BitVec 6 → BitVec 6 → BitVec 3 → Instr) {m : BitVec 3}
    (hw : w = encWord s op (k * 8) [(sc.toNat, 18), (d.toNat, 12), (a.toNat, 6), (m.toNat, 0)]) :
    bitsAt w 3 3 = k ∧ f (fld w 18 3) (fld w 12 6) (fld w 6 6) (fld w 0 3) = f sc d a m := by
  obtain ⟨q, h⟩ := exists_eq_add_of_encWord hw
  simp only [List.map, List.sum_cons, List.sum_nil] at h
  refine ⟨by simp only [bitsAt]; omega, ?_⟩
  congr <;> exact fld_eq (by omega)

theorem read_18_0 (f : BitVec 3 → BitVec 18 → Instr) {p : BitVec 18}
    (hw : w = encWord s op 0 [(sc.toNat, 18), (p.toNat, 0)]) :
    f (fld w 18 3) (fld w 0 18) = f sc p := by
  obtain ⟨q, h⟩ := exists_eq_add_of_encWord hw
  simp only [List.map, List.sum_cons, List.sum_nil] at h
  congr <;> exact fld_eq (by omega)

theorem read_fence (f : BitVec 3 → BitVec 3 → BitVec 2 → Instr) {c : BitVec 3} {m : BitVec 2}
    (hw : w = encWord s op 0 [(sc.toNat, 18), (c.toNat, 2), (m.toNat, 0)]) :
    bitsAt w 5 13 = 0 ∧ f (fld w 18 3) (fld w 2 3) (fld w 0 2) = f sc c m := by
  obtain ⟨q, h⟩ := exists_eq_add_of_encWord hw
  simp only [List.map, List.sum_cons, List.sum_nil] at h
  refine ⟨by simp only [bitsAt]; omega, ?_⟩
  congr <;> exact fld_eq (by omega)

theorem read_barrier {k : Nat} (hk : k < 4) (f : BitVec 3 → BitVec 6 → BitVec 6 → BitVec 3 → Instr) {c : BitVec 3}
    (hw : w = encWord s op k [(sc.toNat, 18), (d.toNat, 12), (a.toNat, 6), (c.toNat, 2)]) :
    bitsAt w 0 2 = k ∧ bitsAt w 5 1 = 0 ∧ f (fld w 18 3) (fld w 12 6) (fld w 6 6) (fld w 2 3) = f sc d a c := by
  obtain ⟨q, h⟩ := exists_eq_add_of_encWord hw
  simp only [List.map, List.sum_cons, List.sum_nil] at h
  refine ⟨by simp only [bitsAt]; omega, by simp only [bitsAt]; omega, ?_⟩
  congr <;> exact fld_eq (by omega)

theorem read_18_12_6_2 (f : BitVec 3 → BitVec 6 → BitVec 6 → BitVec 4 → Instr) {n : BitVec 4}
    (hw : w = encWord s op 0 [(sc.toNat, 18), (d.toNat, 12), (a.toNat, 6), (n.toNat, 2)]) :
    bitsAt w 0 2 = 0 ∧ f (fld w 18 3) (fld w 12 6) (fld w 6 6) (fld w 2 4) = f sc d a n := by
  obtain ⟨q, h⟩ := exists_eq_add_of_encWord hw
  simp only [List.map, List.sum_cons, List.sum_nil] at h
  refine ⟨by simp only [bitsAt]; omega, ?_⟩
  congr <;> exact fld_eq (by omega)

theorem read_clear (f : BitVec 3 → BitVec 6 → BitVec 1 → BitVec 4 → Instr) {t : BitVec 1} {m : BitVec 4}
    (hw : w = encWord s op 0 [(sc.toNat, 18), (d.toNat, 12), (t.toNat, 4), (m.toNat, 0)]) :
    bitsAt w 5 7 = 0 ∧ f (fld w 18 3) (fld w 12 6) (fld w 4 1) (fld w 0 4) = f sc d t m := by
  obtain ⟨q, h⟩ := exists_eq_add_of_encWord hw
  simp only [List.map, List.sum_cons, List.sum_nil] at h
  refine ⟨by simp only [bitsAt]; omega, ?_⟩
  congr <;> exact fld_eq (by omega)

theorem read_bind (f : BitVec 3 → BitVec 6 → BitVec 2 → Instr) {e : BitVec 2}
    (hw : w = encWord s op 0 [(sc.toNat, 18), (d.toNat, 12), (e.toNat, 3)]) :
    bitsAt w 0 3 = 0 ∧ bitsAt w 5 7 = 0 ∧ f (fld w 18 3) (fld w 12 6) (fld w 3 2) = f sc d e := by
  obtain ⟨q, h⟩ := exists_eq_add_of_encWord hw
  simp only [List.map, List.sum_cons, List.sum_nil] at h
  refine ⟨by simp only [bitsAt]; omega, by simp only [bitsAt]; omega, ?_⟩
  congr <;> exact fld_eq (by omega)

theorem read_reduce {k : Nat} (hk : k < 4) (f : BitVec 3 → BitVec 6 → BitVec 6 → BitVec 1 → BitVec 1 → Instr) {e : BitVec 1} {r : BitVec 1}
    (hw : w = encWord s op k [(sc.toNat, 18), (d.toNat, 12), (a.toNat, 6), (e.toNat, 3), (r.toNat, 2)]) :
    bitsAt w 0 2 = k ∧ bitsAt w 4 2 = 0 ∧ f (fld w 18 3) (fld w 12 6) (fld w 6 6) (fld w 3 1) (fld w 2 1) = f sc d a e r := by
  obtain ⟨q, h⟩ := exists_eq_add_of_encWord hw
  simp only [List.map, List.sum_cons, List.sum_nil] at h
  refine ⟨by simp only [bitsAt]; omega, by simp only [bitsAt]; omega, ?_⟩
  congr <;> exact fld_eq (by omega)

end

/-! ## The branches of the decoder, taken and passed over by the bits that the word is known to hold -/

section
variable {w lo n k j lo' n' j' : Nat} {p q c : Prop} {x y z : Except DecodeErr Instr} {i i' : Instr}

theorem take (h : bitsAt w lo n = k ∧ i' = i) : (if bitsAt w lo n == k then .ok i' else y) = (.ok i : Except DecodeErr Instr) := by
  rw [if_pos (beq_iff_eq.2 h.1), h.2]

theorem takeBoth (h : bitsAt w lo n = k ∧ bitsAt w lo' n' = j ∧ i' = i) :
    (if bitsAt w lo n == k && bitsAt w lo' n' == j then .ok i' else y) = (.ok i : Except DecodeErr Instr) := by
  simp only [h, beq_self_eq_true, Bool.and_self, if_true]

theorem skip (h : bitsAt w lo n = k ∧ p) (r : bitsAt w lo n = k ∧ p → y = z) (hj : k ≠ j := by decide) :
    (if bitsAt w lo n == j then x else y) = z := by
  rw [if_neg (by simp only [h.1, beq_iff_eq, hj, not_false_eq_true]), r h]

theorem skipBoth (h : bitsAt w lo n = k ∧ p) (r : bitsAt w lo n = k ∧ p → y = z) (hj : k ≠ j := by decide) :
    (if bitsAt w lo n == j && bitsAt w lo' n' == j' then x else y) = z := by
  rw [if_neg (by simp only [h.1, Bool.and_eq_true, beq_iff_eq, hj, false_and, not_false_eq_true]), r h]

theorem skipSecond (h : q ∧ bitsAt w lo n = k ∧ p) (r : q ∧ bitsAt w lo n = k ∧ p → y = z) (hj : k ≠ j := by decide) :
    (if bitsAt w lo n == j then x else y) = z :=
  skip h.2 (fun h' => r ⟨h.1, h'⟩) hj

theorem skipBothSecond (h : bitsAt w lo n = k ∧ p) (r : bitsAt w lo n = k ∧ p → y = z) (hj : k ≠ j := by decide) :
    (if bitsAt w lo' n' == j' && bitsAt w lo n == j then x else y) = z := by
  rw [Bool.and_comm]; exact skipBoth h r hj

/-- A sub-function other than 0 in the low twelve bits is not the first form of `ectx`. -/
theorem skipBind (h : bitsAt w 0 12 = k ∧ p) (r : bitsAt w 0 12 = k ∧ p → y = z) (hk : k % 8 ≠ 0 := by decide) :
    (if bitsAt w 0 3 == 0 && bitsAt w 5 7 == 0 then x else y) = z := by
  have : bitsAt w 0 3 ≠ 0 := by simp only [bitsAt] at h ⊢; omega
  rw [if_neg (by simp only [Bool.and_eq_true, beq_iff_eq, this, false_and, not_false_eq_true]), r h]

theorem rixForm_true {b : Bool} (hb : b = true) (h : i' = i) : (if b then .ok i' else y) = (.ok i : Except DecodeErr Instr) := by
  rw [if_pos hb, h]

theorem rixForm_false {b : Bool} (hb : b = false) (h : i' = i) : (if b then y else .ok i') = (.ok i : Except DecodeErr Instr) := by
  rw [hb, if_neg Bool.false_ne_true, h]

end

/-- Bit 5 of X tells the two forms of `rix` apart (R149, R152); no other row has such a bit. -/
def rixMatches : Instr → Bool
  | .rixG pf _ _ _ _ => !(pf.any fun p => p.x.getLsbD 5)
  | .rixS p _ _ _ _ => p.x.getLsbD 5
  | _ => true

/-- The word of a row, read by the decoder of its set, is the row. -/
def ReadsBack (i : Instr) : Prop :=
  rixMatches i = true → ∀ w, encodeNat i = some w →
    match i.key with
    | some (true, op) => decodeUniform op w = .ok i
    | some (false, op) => decodeLane op w i.pf? = .ok i
    | none => True

theorem eq_of_some_eq {w v : Nat} (h : some v = some w) : w = v := (Option.some.inj h).symm

theorem readsBack : (i : Instr) → ReadsBack i
  | .nop .. => fun _ _ h => take (read_18 (by decide) .nop (eq_of_some_eq h))
  | .brl .. => fun _ _ h => congrArg _ (read_18_15_0 .brl (eq_of_some_eq h))
  | .jmpl .. => fun _ _ h => takeBoth (read_18_6 (by decide) (by decide) .jmpl (eq_of_some_eq h))
  | .callv .. => fun _ _ h => take (read_18_12_6 (by decide) .callv (eq_of_some_eq h))
  | .ret .. => fun _ _ h => takeBoth (read_18_6 (by decide) (by decide) .ret (eq_of_some_eq h))
  | .fcall .. => fun _ _ h => congrArg _ (read_18_12_6_0 .fcall (eq_of_some_eq h))
  | .fsync .. => fun _ _ h => take (read_18 (by decide) .fsync (eq_of_some_eq h))
  | .fsyncSq .. => fun _ _ h => skip (read_18 (k := 1) (by decide) .fsyncSq (eq_of_some_eq h)) take
  | .fhint .. => fun _ _ h => take (read_18_6_0 (by decide) .fhint (eq_of_some_eq h))
  | .voteAny .. => fun _ _ h => take (read_vote (by decide) .voteAny (eq_of_some_eq h))
  | .voteAll .. => fun _ _ h => skip (read_vote (k := 16) (by decide) .voteAll (eq_of_some_eq h)) take
  | .voteBallot .. => fun _ _ h => skip (read_vote (k := 32) (by decide) .voteBallot (eq_of_some_eq h)) fun g => skip g take
  | .brk .. => fun _ _ h => take (read_code .brk (eq_of_some_eq h))
  | .exit .. => fun _ _ h => take (read_18 (by decide) .exit (eq_of_some_eq h))
  | .mov pf .. => fun _ _ h => take (read_18_12_6 (by decide) (.mov pf) (eq_of_some_eq h))
  | .movi pf .. => fun _ _ h => congrArg _ (read_18_12_0 (.movi pf) (eq_of_some_eq h))
  | .iadd pf .. => fun _ _ h => congrArg _ (read_18_12_6_0 (.iadd pf) (eq_of_some_eq h))
  | .iaddc pf .. => fun _ _ h => congrArg _ (read_18_12_6_0 (.iaddc pf) (eq_of_some_eq h))
  | .isub pf .. => fun _ _ h => congrArg _ (read_18_12_6_0 (.isub pf) (eq_of_some_eq h))
  | .imul pf .. => fun _ _ h => congrArg _ (read_18_12_6_0 (.imul pf) (eq_of_some_eq h))
  | .imulh pf .. => fun _ _ h => congrArg _ (read_18_12_6_0 (.imulh pf) (eq_of_some_eq h))
  | .imad pf .. => fun _ _ h => congrArg _ (read_18_12_6_0 (.imad pf) (eq_of_some_eq h))
  | .idot pf .. => fun _ _ h => congrArg _ (read_18_12_6_0 (.idot pf) (eq_of_some_eq h))
  | .iand pf .. => fun _ _ h => congrArg _ (read_18_12_6_0 (.iand pf) (eq_of_some_eq h))
  | .ior pf .. => fun _ _ h => congrArg _ (read_18_12_6_0 (.ior pf) (eq_of_some_eq h))
  | .ixor pf .. => fun _ _ h => congrArg _ (read_18_12_6_0 (.ixor pf) (eq_of_some_eq h))
  | .shl pf .. => fun _ _ h => congrArg _ (read_18_12_6_0 (.shl pf) (eq_of_some_eq h))
  | .shr pf .. => fun _ _ h => congrArg _ (read_18_12_6_0 (.shr pf) (eq_of_some_eq h))
  | .sar pf .. => fun _ _ h => congrArg _ (read_18_12_6_0 (.sar pf) (eq_of_some_eq h))
  | .imin pf .. => fun _ _ h => congrArg _ (read_18_12_6_0 (.imin pf) (eq_of_some_eq h))
  | .imax pf .. => fun _ _ h => congrArg _ (read_18_12_6_0 (.imax pf) (eq_of_some_eq h))
  | .iabs pf .. => fun _ _ h => take (read_18_12_6 (by decide) (.iabs pf) (eq_of_some_eq h))
  | .icmp pf .. => fun _ _ h => take (read_compare (.icmp pf) (eq_of_some_eq h))
  | .isel pf .. => fun _ _ h => congrArg _ (read_18_12_6_0 (.isel pf) (eq_of_some_eq h))
  | .bfx pf .. => fun _ _ h => congrArg _ (read_18_12_6_0 (.bfx pf) (eq_of_some_eq h))
  | .bfi pf .. => fun _ _ h => congrArg _ (read_18_12_6_0 (.bfi pf) (eq_of_some_eq h))
  | .popc pf .. => fun _ _ h => take (read_18_12_6 (by decide) (.popc pf) (eq_of_some_eq h))
  | .clz pf .. => fun _ _ h => take (read_18_12_6 (by decide) (.clz pf) (eq_of_some_eq h))
  | .brev pf .. => fun _ _ h => take (read_18_12_6 (by decide) (.brev pf) (eq_of_some_eq h))
  | .lea pf .. => fun _ _ h => congrArg _ (read_18_12_6_0 (.lea pf) (eq_of_some_eq h))
  | .pack pf .. => fun _ _ h => congrArg _ (read_18_12_6_0 (.pack pf) (eq_of_some_eq h))
  | .unpk pf .. => fun _ _ h => take (read_18_12_6 (by decide) (.unpk pf) (eq_of_some_eq h))
  | .fadd pf .. => fun _ _ h => congrArg _ (read_18_12_6_0 (.fadd pf) (eq_of_some_eq h))
  | .fsub pf .. => fun _ _ h => congrArg _ (read_18_12_6_0 (.fsub pf) (eq_of_some_eq h))
  | .fmul pf .. => fun _ _ h => congrArg _ (read_18_12_6_0 (.fmul pf) (eq_of_some_eq h))
  | .ffma pf .. => fun _ _ h => congrArg _ (read_18_12_6_0 (.ffma pf) (eq_of_some_eq h))
  | .fmin pf .. => fun _ _ h => congrArg _ (read_18_12_6_0 (.fmin pf) (eq_of_some_eq h))
  | .fmax pf .. => fun _ _ h => congrArg _ (read_18_12_6_0 (.fmax pf) (eq_of_some_eq h))
  | .fcmp pf .. => fun _ _ h => take (read_compare (.fcmp pf) (eq_of_some_eq h))
  | .fcvt pf .. => fun _ _ h => congrArg _ (read_convert (.fcvt pf) (eq_of_some_eq h))
  | .frcp pf .. => fun _ _ h => take (read_18_12_6 (by decide) (.frcp pf) (eq_of_some_eq h))
  | .frsq pf .. => fun _ _ h => take (read_18_12_6 (by decide) (.frsq pf) (eq_of_some_eq h))
  | .fsqt pf .. => fun _ _ h => take (read_18_12_6 (by decide) (.fsqt pf) (eq_of_some_eq h))
  | .fexp2 pf .. => fun _ _ h => take (read_18_12_6 (by decide) (.fexp2 pf) (eq_of_some_eq h))
  | .flog2 pf .. => fun _ _ h => take (read_18_12_6 (by decide) (.flog2 pf) (eq_of_some_eq h))
  | .fsin pf .. => fun _ _ h => take (read_18_12_6 (by decide) (.fsin pf) (eq_of_some_eq h))
  | .fcos pf .. => fun _ _ h => take (read_18_12_6 (by decide) (.fcos pf) (eq_of_some_eq h))
  | .ftanh pf .. => fun _ _ h => take (read_18_12_6 (by decide) (.ftanh pf) (eq_of_some_eq h))
  | .fclass pf .. => fun _ _ h => take (read_18_12_6 (by decide) (.fclass pf) (eq_of_some_eq h))
  | .fdot pf .. => fun _ _ h => congrArg _ (read_18_12_6_0 (.fdot pf) (eq_of_some_eq h))
  | .fscl pf .. => fun _ _ h => congrArg _ (read_18_12_6_0 (.fscl pf) (eq_of_some_eq h))
  | .tmv pf .. => fun _ _ h => congrArg _ (read_18_12_6_0 (.tmv pf) (eq_of_some_eq h))
  | .shfl pf .. => fun _ _ h => congrArg _ (read_18_12_6_0 (.shfl pf) (eq_of_some_eq h))
  | .redl pf .. => fun _ _ h => take (read_18_12_6 (by decide) (.redl pf) (eq_of_some_eq h))
  | .redmi pf .. => fun _ _ h => congrArg _ (read_18_12_6_0 (.redmi pf) (eq_of_some_eq h))
  | .scan pf .. => fun _ _ h => take (read_scan (.scan pf) (eq_of_some_eq h))
  | .cfd pf .. => fun _ _ h => take (read_18_12_6 (by decide) (.cfd pf) (eq_of_some_eq h))
  | .comb pf .. => fun _ _ h => congrArg _ (read_18_12_6_0 (.comb pf) (eq_of_some_eq h))
  | .bcast pf .. => fun _ _ h => congrArg _ (read_18_12_6_0 (.bcast pf) (eq_of_some_eq h))
  | .ld pf .. => fun _ _ h => congrArg _ (read_18_12_6_2_0 (.ld pf) (eq_of_some_eq h))
  | .st pf .. => fun _ _ h => congrArg _ (read_18_12_6_2_0 (.st pf) (eq_of_some_eq h))
  | .ldl pf .. => fun _ _ h => congrArg _ (read_18_12_6_2_0 (.ldl pf) (eq_of_some_eq h))
  | .lds pf .. => fun _ _ h => take (read_size (.lds pf) (eq_of_some_eq h))
  | .sts pf .. => fun _ _ h => take (read_size (.sts pf) (eq_of_some_eq h))
  | .ldc pf .. => fun _ _ h => take (read_size (.ldc pf) (eq_of_some_eq h))
  | .prf pf .. => fun _ _ h => take (read_prefetch (.prf pf) (eq_of_some_eq h))
  | .pin pf .. => fun _ _ h => take (read_size (.pin pf) (eq_of_some_eq h))
  | .unpin pf .. => fun _ _ h => take (read_size (.unpin pf) (eq_of_some_eq h))
  | .sinv pf .. => fun _ _ h => take (read_18_12_6 (by decide) (.sinv pf) (eq_of_some_eq h))
  | .swb pf .. => fun _ _ h => take (read_18_12_6 (by decide) (.swb pf) (eq_of_some_eq h))
  | .swbInv pf .. => fun _ _ h => skip (read_18_12_6 (k := 1) (by decide) (.swbInv pf) (eq_of_some_eq h)) take
  | .atom pf .. => fun _ _ h => take (read_18_12_6_2_flag (by decide) (.atom pf) (eq_of_some_eq h))
  | .acas pf .. => fun _ _ h => take (read_18_12_6_2_flag (by decide) (.acas pf) (eq_of_some_eq h))
  | .abinc pf .. => fun _ _ h => take (read_18_12_6_2_flag (by decide) (.abinc pf) (eq_of_some_eq h))
  | .enter .. => fun _ _ h => take (read_mode (by decide) .enter (eq_of_some_eq h))
  | .enterTry .. => fun _ _ h => skip (read_mode (k := 1) (by decide) .enterTry (eq_of_some_eq h)) take
  | .leave .. => fun _ _ h => takeBoth (read_18_6 (by decide) (by decide) .leave (eq_of_some_eq h))
  | .rstat .. => fun _ _ h => take (read_18_12_6 (by decide) .rstat (eq_of_some_eq h))
  | .trap .. => fun _ _ h => take (read_code .trap (eq_of_some_eq h))
  | .rett .. => fun _ _ h => take (read_18 (by decide) .rett (eq_of_some_eq h))
  | .tmaskSet .. => fun _ _ h => take (read_18_12_6 (by decide) .tmaskSet (eq_of_some_eq h))
  | .tmaskClr .. => fun _ _ h => skip (read_18_12_6 (k := 1) (by decide) .tmaskClr (eq_of_some_eq h)) take
  | .tmaskWr .. => fun _ _ h => skip (read_18_12_6 (k := 2) (by decide) .tmaskWr (eq_of_some_eq h)) fun g => skip g take
  | .snop .. => fun _ _ h => take (read_18 (by decide) .snop (eq_of_some_eq h))
  | .bra .. => fun _ _ h => congrArg _ (read_18_0 .bra (eq_of_some_eq h))
  | .brx .. => fun _ _ h => takeBoth (read_18_6 (by decide) (by decide) .brx (eq_of_some_eq h))
  | .call .. => fun _ _ h => congrArg _ (read_18_0 .call (eq_of_some_eq h))
  | .yield .. => fun _ _ h => takeBoth (read_18_6 (by decide) (by decide) .yield (eq_of_some_eq h))
  | .yieldX .. => fun _ _ h => skipBoth (read_18_6 (k := 1) (j := 0) (by decide) (by decide) .yieldX (eq_of_some_eq h)) takeBoth
  | .smov .. => fun _ _ h => congrArg _ (read_18_12_0 .smov (eq_of_some_eq h))
  | .sadd .. => fun _ _ h => congrArg _ (read_18_12_6_0 .sadd (eq_of_some_eq h))
  | .ssub .. => fun _ _ h => congrArg _ (read_18_12_6_0 .ssub (eq_of_some_eq h))
  | .smul .. => fun _ _ h => congrArg _ (read_18_12_6_0 .smul (eq_of_some_eq h))
  | .smad .. => fun _ _ h => congrArg _ (read_18_12_6_0 .smad (eq_of_some_eq h))
  | .sand .. => fun _ _ h => congrArg _ (read_18_12_6_0 .sand (eq_of_some_eq h))
  | .sor .. => fun _ _ h => congrArg _ (read_18_12_6_0 .sor (eq_of_some_eq h))
  | .sxor .. => fun _ _ h => congrArg _ (read_18_12_6_0 .sxor (eq_of_some_eq h))
  | .sshl .. => fun _ _ h => congrArg _ (read_18_12_6_0 .sshl (eq_of_some_eq h))
  | .sshr .. => fun _ _ h => congrArg _ (read_18_12_6_0 .sshr (eq_of_some_eq h))
  | .smin .. => fun _ _ h => congrArg _ (read_18_12_6_0 .smin (eq_of_some_eq h))
  | .smax .. => fun _ _ h => congrArg _ (read_18_12_6_0 .smax (eq_of_some_eq h))
  | .scmp .. => fun _ _ h => congrArg _ (read_18_12_6_0 .scmp (eq_of_some_eq h))
  | .ssel .. => fun _ _ h => congrArg _ (read_18_12_6_0 .ssel (eq_of_some_eq h))
  | .slea .. => fun _ _ h => congrArg _ (read_18_12_6_0 .slea (eq_of_some_eq h))
  | .sld .. => fun _ _ h => congrArg _ (read_18_12_6_2_0 .sld (eq_of_some_eq h))
  | .sst .. => fun _ _ h => congrArg _ (read_18_12_6_2_0 .sst (eq_of_some_eq h))
  | .hdef .. => fun _ _ h => congrArg _ (read_18_12_6_0 .hdef (eq_of_some_eq h))
  | .rdecl .. => fun _ _ h => congrArg _ (read_18_12_6_0 .rdecl (eq_of_some_eq h))
  | .fence .. => fun _ _ h => take (read_fence .fence (eq_of_some_eq h))
  | .barSync .. => fun _ _ h => takeBoth (read_barrier (by decide) .barSync (eq_of_some_eq h))
  | .barArrive .. => fun _ _ h => skipBoth (read_barrier (k := 1) (by decide) .barArrive (eq_of_some_eq h)) takeBoth
  | .barWait .. => fun _ _ h => skipBoth (read_barrier (k := 2) (by decide) .barWait (eq_of_some_eq h)) fun g => skipBoth g takeBoth
  | .pbarInit .. => fun _ _ h => take (read_18_6_0 (by decide) .pbarInit (eq_of_some_eq h))
  | .pbarArrive .. => fun _ _ h => skipSecond (read_18_6 (k := 0) (j := 1) (by decide) (by decide) .pbarArrive (eq_of_some_eq h)) takeBoth
  | .pbarWait .. => fun _ _ h => skip (read_18_6_0 (k := 2) (by decide) .pbarWait (eq_of_some_eq h)) fun g => skipBothSecond g take
  | .tlwait .. => fun _ _ h => take (read_18_12_6 (by decide) .tlwait (eq_of_some_eq h))
  | .swarm .. => fun _ _ h => take (read_18_12_6 (by decide) .swarm (eq_of_some_eq h))
  | .swwait .. => fun _ _ h => take (read_18_12_6 (by decide) .swwait (eq_of_some_eq h))
  | .cbdef .. => fun _ _ h => congrArg _ (read_18_12_6_0 .cbdef (eq_of_some_eq h))
  | .cbadvWroom .. => fun _ _ h => take (read_18_12_6 (by decide) .cbadvWroom (eq_of_some_eq h))
  | .cbadvPut .. => fun _ _ h => skip (read_18_12_6 (k := 1) (by decide) .cbadvPut (eq_of_some_eq h)) take
  | .cbadvWdata .. => fun _ _ h => skip (read_18_12_6 (k := 2) (by decide) .cbadvWdata (eq_of_some_eq h)) fun g => skip g take
  | .cbadvGet .. => fun _ _ h => skip (read_18_12_6 (k := 3) (by decide) .cbadvGet (eq_of_some_eq h)) fun g => skip g fun g => skip g take
  | .cpy .. => fun _ _ h => congrArg _ (read_18_12_6_0 .cpy (eq_of_some_eq h))
  | .cpyx .. => fun _ _ h => congrArg _ (read_18_12_6_0 .cpyx (eq_of_some_eq h))
  | .tdef .. => fun _ _ h => take (read_18_12_6 (by decide) .tdef (eq_of_some_eq h))
  | .mld .. => fun _ _ h => take (read_18_12_6_2 .mld (eq_of_some_eq h))
  | .mma .. => fun _ _ h => take (read_18_12_6_2_flag (by decide) .mma (eq_of_some_eq h))
  | .mmas .. => fun _ _ h => take (read_18_12_6_2 .mmas (eq_of_some_eq h))
  | .mwb .. => fun _ _ h => take (read_18_12_6_2 .mwb (eq_of_some_eq h))
  | .mclr .. => fun _ _ h => take (read_clear .mclr (eq_of_some_eq h))
  | .ixg .. => fun _ _ h => take (read_18_12_6_2 .ixg (eq_of_some_eq h))
  | .ixs .. => fun _ _ h => take (read_18_12_6_2 .ixs (eq_of_some_eq h))
  | .ectxBind .. => fun _ _ h => takeBoth (read_bind .ectxBind (eq_of_some_eq h))
  | .ectxUnbind .. => fun _ _ h => skipBind (read_18_12 (k := 1) (by decide) .ectxUnbind (eq_of_some_eq h)) take
  | .ectxDrain .. => fun _ _ h => skipBind (read_18_12 (k := 2) (by decide) .ectxDrain (eq_of_some_eq h)) fun g => skip g take
  | .ectxPin .. => fun _ _ h => skipBind (read_18_12 (k := 3) (by decide) .ectxPin (eq_of_some_eq h)) fun g => skip g fun g => skip g take
  | .ectxUnpin .. => fun _ _ h =>
    skipBind (read_18_12 (k := 4) (by decide) .ectxUnpin (eq_of_some_eq h)) fun g => skip g fun g => skip g fun g => skip g take
  | .ectxResume .. => fun _ _ h =>
    skipBind (read_18_12 (k := 5) (by decide) .ectxResume (eq_of_some_eq h)) fun g => skip g fun g => skip g fun g => skip g fun g => skip g take
  | .ectxAbort .. => fun _ _ h =>
    skipBind (read_18_12 (k := 6) (by decide) .ectxAbort (eq_of_some_eq h)) fun g => skip g fun g => skip g fun g => skip g fun g => skip g fun g => skip g take
  | .estat .. => fun _ _ h => take (read_mode (by decide) .estat (eq_of_some_eq h))
  | .rredRs .. => fun _ _ h => takeBoth (read_reduce (by decide) .rredRs (eq_of_some_eq h))
  | .rredAr .. => fun _ _ h => skipBoth (read_reduce (k := 1) (by decide) .rredAr (eq_of_some_eq h)) takeBoth
  | .rcat .. => fun _ _ h => take (read_18_12_6 (by decide) .rcat (eq_of_some_eq h))
  | .lput .. => fun _ _ h => take (read_18_12_6 (by decide) .lput (eq_of_some_eq h))
  | .launch .. => fun _ _ h => congrArg _ (read_18_12_6_0 .launch (eq_of_some_eq h))
  | .gnode .. => fun _ _ h => congrArg _ (read_18_12_6_0 .gnode (eq_of_some_eq h))
  | .tapePush .. => fun _ _ h => takeBoth (read_18_6 (by decide) (by decide) .tapePush (eq_of_some_eq h))
  | .tapeRun .. => fun _ _ h => skipBoth (read_18_12_6 (k := 1) (by decide) .tapeRun (eq_of_some_eq h)) take
  | .tapeDepth .. => fun _ _ h => skipBoth (read_18_6 (k := 2) (j := 0) (by decide) (by decide) .tapeDepth (eq_of_some_eq h)) fun g => skip g takeBoth
  | .tcut .. => fun _ _ h => takeBoth (read_18_6 (by decide) (by decide) .tcut (eq_of_some_eq h))
  | .prio .. => fun _ _ h => takeBoth (read_18_6 (by decide) (by decide) .prio (eq_of_some_eq h))
  | .rdsr .. => fun _ _ h => congrArg _ (read_18_12_0 .rdsr (eq_of_some_eq h))
  | .wrsr .. => fun _ _ h => congrArg _ (read_18_12_0 .wrsr (eq_of_some_eq h))
  | .dtld .. => fun _ _ h => take (read_18_12_6 (by decide) .dtld (eq_of_some_eq h))
  | .syscShoot .. => fun _ _ h => take (read_18_12 (by decide) .syscShoot (eq_of_some_eq h))
  | .syscTerm .. => fun _ _ h => skip (read_18_12 (k := 2) (by decide) .syscTerm (eq_of_some_eq h)) take
  | .syscQdesc .. => fun _ _ h => skip (read_18_12 (k := 3) (by decide) .syscQdesc (eq_of_some_eq h)) fun g => skip g take
  | .syscLevel .. => fun _ _ h => skip (read_18_12 (k := 4) (by decide) .syscLevel (eq_of_some_eq h)) fun g => skip g fun g => skip g take
  | .syscRing .. => fun _ _ h =>
    skip (read_18_12 (k := 5) (by decide) .syscRing (eq_of_some_eq h)) fun g => skip g fun g => skip g fun g => skip g take
  | .syscPodwin .. => fun _ _ h =>
    skip (read_18_12 (k := 6) (by decide) .syscPodwin (eq_of_some_eq h)) fun g => skip g fun g => skip g fun g => skip g fun g => skip g take
  | .syscFpdef .. => fun _ _ h =>
    skip (read_18_12 (k := 7) (by decide) .syscFpdef (eq_of_some_eq h)) fun g => skip g fun g => skip g fun g => skip g fun g => skip g fun g => skip g take
  | .syscWhere .. => fun _ _ h =>
    skip (read_18_12 (k := 256) (by decide) .syscWhere (eq_of_some_eq h)) fun g => skip g fun g => skip g fun g => skip g fun g => skip g fun g => skip g fun g => skip g take
  | .rixG none .. => fun _ _ h => congrArg _ (read_18_12_6_0 (.rixG none) (eq_of_some_eq h))
  | .rixG (some p) .. => fun hx _ h => rixForm_false (by simpa [rixMatches] using hx) (read_18_12_6_0 (.rixG (some p)) (eq_of_some_eq h))
  | .rixS p .. => fun hx _ h => rixForm_true hx (read_18_12_6_0 (.rixS p) (eq_of_some_eq h))
  | .wdogWrite .. | .consumerAccept .. | .variableResultWrite .. | .writeAck .. | .waitRelease .. | .watchdogExpiry .. 
  | .trapEntry .. | .heldTrapTake .. | .preemptRequest .. | .preboundExpiry .. | .doorbell .. | .queueMap .. | .sliceExpiry .. 
  | .dispatch .. | .eviction .. | .groupResume .. | .crewRetire .. | .taskComplete .. | .demandAdmit .. 
  | .admitWindowExpiry .. | .drainComplete .. | .roomwaitTimeout .. | .partialFlush .. | .crewpaceRecompute .. 
  | .reusefAdjust .. | .stampSweep .. | .dtReadMiss .. | .dtWriteOwnership .. | .dtEviction .. | .atomicExecute .. 
  | .pageWalkComplete .. | .shootdownComplete .. | .eccUncorrectable .. | .dieFailure .. | .hostMemoryWrite .. 
  | .engineCommandStart .. | .engineStep .. | .matrixKstep .. | .ixsSectorAdd .. | .commandFinish .. | .contextDrain .. 
  | .hypnumImageAccept .. | .yarrowPacketReceive .. | .yarrowReplay .. | .lputSectorReceive .. | .peerSilentTimeout .. 
  | .partitionReconfig .. | .partitionSwap .. | .clockStepChange .. | .boot .. | .recoveryFetchHost .. | .recoveryFetchNvme .. 
  | .attestationReport .. | .contextCreate .. | .contextDestroy .. | .yarrowPortRetrain .. | .correctedEccError .. 
  | .msixVectorUnmask .. | .podFormation .. | .instructionBufferFill .. | .reuseEpochTick .. | .quiesceTimeout .. => fun _ _ h => nomatch h
section
open Laws.Opcode

/-- The words of the opcode table, for every instruction. -/
theorem opcodeStatement : ∀ i : Instr, Laws.Opcode.Statement i
  | .nop .. => nop .. | .brl .. => brl .. | .jmpl .. => jmpl .. | .callv .. => callv .. | .ret .. => ret .. | .fcall .. => fcall ..
  | .fsync .. => fsync .. | .fsyncSq .. => fsyncSq .. | .fhint .. => fhint .. | .voteAny .. => voteAny .. | .voteAll .. => voteAll ..
  | .voteBallot .. => voteBallot .. | .brk .. => brk .. | .exit .. => exit .. | .mov .. => mov .. | .movi .. => movi .. | .iadd .. => iadd ..
  | .iaddc .. => iaddc .. | .isub .. => isub .. | .imul .. => imul .. | .imulh .. => imulh .. | .imad .. => imad .. | .idot .. => idot ..
  | .iand .. => iand .. | .ior .. => ior .. | .ixor .. => ixor .. | .shl .. => shl .. | .shr .. => shr .. | .sar .. => sar .. | .imin .. => imin ..
  | .imax .. => imax .. | .iabs .. => iabs .. | .icmp .. => icmp .. | .isel .. => isel .. | .bfx .. => bfx .. | .bfi .. => bfi ..
  | .popc .. => popc .. | .clz .. => clz .. | .brev .. => brev .. | .lea .. => lea .. | .pack .. => pack .. | .unpk .. => unpk ..
  | .fadd .. => fadd .. | .fsub .. => fsub .. | .fmul .. => fmul .. | .ffma .. => ffma .. | .fmin .. => fmin .. | .fmax .. => fmax ..
  | .fcmp .. => fcmp .. | .fcvt .. => fcvt .. | .frcp .. => frcp .. | .frsq .. => frsq .. | .fsqt .. => fsqt .. | .fexp2 .. => fexp2 ..
  | .flog2 .. => flog2 .. | .fsin .. => fsin .. | .fcos .. => fcos .. | .ftanh .. => ftanh .. | .fclass .. => fclass .. | .fdot .. => fdot ..
  | .fscl .. => fscl .. | .tmv .. => tmv .. | .shfl .. => shfl .. | .rixG .. => rixG .. | .rixS .. => rixS .. | .redl .. => redl ..
  | .redmi .. => redmi .. | .scan .. => scan .. | .cfd .. => cfd .. | .comb .. => comb .. | .bcast .. => bcast .. | .ld .. => ld .. | .st .. => st ..
  | .ldl .. => ldl .. | .lds .. => lds .. | .sts .. => sts .. | .ldc .. => ldc .. | .prf .. => prf .. | .pin .. => pin .. | .unpin .. => unpin ..
  | .sinv .. => sinv .. | .swb .. => swb .. | .swbInv .. => swbInv .. | .atom .. => atom .. | .acas .. => acas .. | .abinc .. => abinc ..
  | .enter .. => enter .. | .enterTry .. => enterTry .. | .leave .. => leave .. | .rstat .. => rstat .. | .trap .. => trap .. | .rett .. => rett ..
  | .tmaskSet .. => tmaskSet .. | .tmaskClr .. => tmaskClr .. | .tmaskWr .. => tmaskWr .. | .snop .. => snop .. | .bra .. => bra ..
  | .brx .. => brx .. | .call .. => call .. | .yield .. => yield .. | .yieldX .. => yieldX .. | .smov .. => smov .. | .sadd .. => sadd ..
  | .ssub .. => ssub .. | .smul .. => smul .. | .smad .. => smad .. | .sand .. => sand .. | .sor .. => sor .. | .sxor .. => sxor ..
  | .sshl .. => sshl .. | .sshr .. => sshr .. | .smin .. => smin .. | .smax .. => smax .. | .scmp .. => scmp .. | .ssel .. => ssel ..
  | .slea .. => slea .. | .sld .. => sld .. | .sst .. => sst .. | .hdef .. => hdef .. | .rdecl .. => rdecl .. | .fence .. => fence ..
  | .barSync .. => barSync .. | .barArrive .. => barArrive .. | .barWait .. => barWait .. | .pbarInit .. => pbarInit ..
  | .pbarArrive .. => pbarArrive .. | .pbarWait .. => pbarWait .. | .tlwait .. => tlwait .. | .swarm .. => swarm .. | .swwait .. => swwait ..
  | .cbdef .. => cbdef .. | .cbadvWroom .. => cbadvWroom .. | .cbadvPut .. => cbadvPut .. | .cbadvWdata .. => cbadvWdata ..
  | .cbadvGet .. => cbadvGet .. | .cpy .. => cpy .. | .cpyx .. => cpyx .. | .tdef .. => tdef .. | .mld .. => mld .. | .mma .. => mma ..
  | .mmas .. => mmas .. | .mwb .. => mwb .. | .mclr .. => mclr .. | .ixg .. => ixg .. | .ixs .. => ixs .. | .ectxBind .. => ectxBind ..
  | .ectxUnbind .. => ectxUnbind .. | .ectxDrain .. => ectxDrain .. | .ectxPin .. => ectxPin .. | .ectxUnpin .. => ectxUnpin ..
  | .ectxResume .. => ectxResume .. | .ectxAbort .. => ectxAbort .. | .estat .. => estat .. | .rredRs .. => rredRs .. | .rredAr .. => rredAr ..
  | .rcat .. => rcat .. | .lput .. => lput .. | .launch .. => launch .. | .gnode .. => gnode .. | .tapePush .. => tapePush ..
  | .tapeRun .. => tapeRun .. | .tapeDepth .. => tapeDepth .. | .tcut .. => tcut .. | .prio .. => prio .. | .rdsr .. => rdsr .. | .wrsr .. => wrsr ..
  | .wdogWrite .. => wdogWrite .. | .dtld .. => dtld .. | .syscShoot .. => syscShoot .. | .syscTerm .. => syscTerm .. | .syscQdesc .. => syscQdesc ..
  | .syscLevel .. => syscLevel .. | .syscRing .. => syscRing .. | .syscPodwin .. => syscPodwin .. | .syscFpdef .. => syscFpdef ..
  | .syscWhere .. => syscWhere .. | .consumerAccept .. => consumerAccept .. | .variableResultWrite .. => variableResultWrite ..
  | .writeAck .. => writeAck .. | .waitRelease .. => waitRelease .. | .watchdogExpiry .. => watchdogExpiry .. | .trapEntry .. => trapEntry ..
  | .heldTrapTake .. => heldTrapTake .. | .preemptRequest .. => preemptRequest .. | .preboundExpiry .. => preboundExpiry ..
  | .doorbell .. => doorbell .. | .queueMap .. => queueMap .. | .sliceExpiry .. => sliceExpiry .. | .dispatch .. => dispatch ..
  | .eviction .. => eviction .. | .groupResume .. => groupResume .. | .crewRetire .. => crewRetire .. | .taskComplete .. => taskComplete ..
  | .demandAdmit .. => demandAdmit .. | .admitWindowExpiry .. => admitWindowExpiry .. | .drainComplete .. => drainComplete ..
  | .roomwaitTimeout .. => roomwaitTimeout .. | .partialFlush .. => partialFlush .. | .crewpaceRecompute .. => crewpaceRecompute ..
  | .reusefAdjust .. => reusefAdjust .. | .stampSweep .. => stampSweep .. | .dtReadMiss .. => dtReadMiss ..
  | .dtWriteOwnership .. => dtWriteOwnership .. | .dtEviction .. => dtEviction .. | .atomicExecute .. => atomicExecute ..
  | .pageWalkComplete .. => pageWalkComplete .. | .shootdownComplete .. => shootdownComplete .. | .eccUncorrectable .. => eccUncorrectable ..
  | .dieFailure .. => dieFailure .. | .hostMemoryWrite .. => hostMemoryWrite .. | .engineCommandStart .. => engineCommandStart ..
  | .engineStep .. => engineStep .. | .matrixKstep .. => matrixKstep .. | .ixsSectorAdd .. => ixsSectorAdd .. | .commandFinish .. => commandFinish ..
  | .contextDrain .. => contextDrain .. | .hypnumImageAccept .. => hypnumImageAccept .. | .yarrowPacketReceive .. => yarrowPacketReceive ..
  | .yarrowReplay .. => yarrowReplay .. | .lputSectorReceive .. => lputSectorReceive .. | .peerSilentTimeout .. => peerSilentTimeout ..
  | .partitionReconfig .. => partitionReconfig .. | .partitionSwap .. => partitionSwap .. | .clockStepChange .. => clockStepChange ..
  | .boot .. => boot .. | .recoveryFetchHost .. => recoveryFetchHost .. | .recoveryFetchNvme .. => recoveryFetchNvme ..
  | .attestationReport .. => attestationReport .. | .contextCreate .. => contextCreate .. | .contextDestroy .. => contextDestroy ..
  | .yarrowPortRetrain .. => yarrowPortRetrain .. | .correctedEccError .. => correctedEccError .. | .msixVectorUnmask .. => msixVectorUnmask ..
  | .podFormation .. => podFormation .. | .instructionBufferFill .. => instructionBufferFill ..
  | .reuseEpochTick => reuseEpochTick | .quiesceTimeout => quiesceTimeout
end

theorem encodePfx_lt (p : Pfx) : encodePfx p < 2 ^ 32 := by
  simp only [encodePfx]; omega

theorem isPfxWord_encodePfx (p : Pfx) : isPfxWord (encodePfx p) = true := by
  have hs : bitsAt (encodePfx p) 31 1 = 0 := by simp only [encodePfx, bitsAt]; omega
  have ho : bitsAt (encodePfx p) 21 10 = 0x3FF := by simp only [encodePfx, bitsAt]; omega
  rw [isPfxWord, hs, ho]; rfl

theorem pfxOf_encodePfx (p : Pfx) : pfxOf (encodePfx p) = p := by
  obtain ⟨k, rm, mz, rt, c, x⟩ := p
  simp only [pfxOf, Pfx.mk.injEq]
  refine ⟨?_, ?_, ?_, ?_, ?_, ?_⟩ <;> exact fld_eq (by simp only [encodePfx]; omega)

theorem takeWord_wordBytes {w : Nat} (hw : w < 2 ^ 32) (rest : List Byte) :
    takeWord (wordBytes (BitVec.ofNat 32 w) ++ rest) = some (w, rest) := by
  simp only [wordBytes, List.cons_append, List.nil_append, takeWord, BitVec.extractLsb'_toNat, BitVec.toNat_ofNat, Nat.shiftRight_eq_div_pow,
    Option.some.injEq, Prod.mk.injEq, and_true]
  omega

/-- Where a row takes no consumer list, a legal prefix has RT = 0 and X as the row's class defines it (R47). -/
theorem xOk_of_pfxMisuse {i : Instr} {p : Pfx} (hp : i.pf? = some p) (hr : i.pfxRule.rt = .no) (h : i.pfxMisuse = false) :
    i.x = p.x.toNat ∧ i.pfxRule.xOk = true := by
  simp only [Instr.pfxMisuse, hp, hr, Bool.or_eq_false_iff] at h
  obtain ⟨⟨-, hrt⟩, hx⟩ := h
  have hb : i.namesBuffer = false := by
    simp_all [Instr.namesBuffer, Instr.consumers, Instr.rt]
  rw [hb] at hx
  exact ⟨by simp [Instr.x, hb, Instr.rawX, hp], by simpa using hx⟩

theorem getLsbD_5_iff (x : BitVec 7) : x.getLsbD 5 = (x.toNat / 32 % 2 == 1) := by
  rw [BitVec.getLsbD, Nat.testBit_eq_decide_div_mod_eq]; rfl

theorem rixMatches_of_wellFormed {i : Instr} (h : i.WellFormed = true) : rixMatches i = true := by
  have hm : i.pfxMisuse = false := by
    simp only [Instr.WellFormed, Instr.staticCheck, beq_iff_eq] at h
    split at h <;> simp_all
  unfold rixMatches
  split
  next pf sc d a b =>
    cases pf with
    | none => rfl
    | some p =>
      obtain ⟨hx, hok⟩ := xOk_of_pfxMisuse (p := p) rfl rfl hm
      have hok : (Instr.x (.rixG (some p) sc d a b) % 8 ≤ 4 && Instr.x (.rixG (some p) sc d a b) / 32 == 0) = true := hok
      simp only [hx, Bool.and_eq_true, beq_iff_eq] at hok
      simp only [Option.any, getLsbD_5_iff, hok.2]; rfl
  next p sc d a b =>
    obtain ⟨hx, hok⟩ := xOk_of_pfxMisuse (p := p) rfl rfl hm
    have hok : (Instr.x (.rixS p sc d a b) % 8 ≤ 4 && Instr.x (.rixS p sc d a b) / 32 == 1) = true := hok
    simp only [hx, Bool.and_eq_true, beq_iff_eq] at hok
    simp only [getLsbD_5_iff, hok.2]; rfl
  next => rfl

theorem decodeWord_of_encodeNat {i : Instr} {w : Nat} (hi : i.WellFormed = true) (hw : encodeNat i = some w) :
    decodeWord shippingMap w i.pf? = .ok i := by
  obtain ⟨hlt, hkey, -⟩ : w < 2 ^ 32 ∧ i.key = some (bitsAt w 31 1 == 1, bitsAt w 21 10) ∧ isPfxWord w = false := by
    have := opcodeStatement i
    rwa [Laws.Opcode.Statement, hw] at this
  have hr := readsBack i (rixMatches_of_wellFormed hi) w hw
  rw [hkey] at hr
  simp only [decodeWord, shippingMap]
  cases hs : bitsAt w 31 1 == 1
  · rw [hs] at hr; exact hr
  · rw [hs] at hr
    have hu : decodeUniform (bitsAt w 21 10) w = .ok i := hr
    rw [hu, (inverts_decodeUniform (eq_opBits_add hlt hs) i hu).1]
    rfl

/-- Settles O1: the word of every row is read back by the decoder of its set, format by format; a prefix word is its fields. -/
theorem decodeOfEncode : Obligations.DecodeOfEncode := by
  intro i rest hi he
  have hst := opcodeStatement i
  unfold Laws.Opcode.Statement at hst
  cases hw : encodeNat i with
  | none =>
    rw [hw] at hst
    simp [Instr.isEvent, hst.1] at he
  | some w =>
    rw [hw] at hst
    obtain ⟨hlt, -, hnp⟩ := hst
    have hd := decodeWord_of_encodeNat hi hw
    cases hp : i.pf? with
    | none =>
      rw [hp] at hd
      simp [decode, encodeBytes, encode, hw, hp, takeWord_wordBytes hlt, hnp, decodeWords, hd]
    | some p =>
      rw [hp] at hd
      simp [decode, encodeBytes, encode, hw, hp, takeWord_wordBytes hlt, takeWord_wordBytes (encodePfx_lt p), isPfxWord_encodePfx, hnp, decodeWords,
        pfxOf_encodePfx, hd]
/-- Settles O3: the decoder evaluates each word. -/
theorem wordsDecode : Obligations.WordsDecode := by
  unfold Obligations.WordsDecode
  decide

end Sys2Proof.Words
end

section
/-! PROOFS. The checks before effects (O9): every instruction issues through the gate, the order of its checks, and what is privileged. -/

namespace Sys2Proof.Machine

/-- Every instruction issues: its meaning is the gate of `State.issue` and then an effect. -/
def Issues (i : Instr) : Prop := ∃ body, ∀ s, exec i s = s.issue i body
theorem issues_of_not_event (i : Instr) (hi : i.isEvent = false) : Issues i := by
  unfold Issues
  cases i
  case nop | brl | jmpl | callv | ret | fcall | fsync | fsyncSq | fhint | voteAny | voteAll | voteBallot | brk | exit | mov | movi | iadd | iaddc |
      isub | imul | imulh | imad | idot | iand | ior | ixor | shl | shr | sar | imin | imax | iabs | icmp | isel | bfx | bfi | popc | clz | brev |
      lea | pack | unpk | fadd | fsub | fmul | ffma | fmin | fmax | fcmp | fcvt | frcp | frsq | fsqt | fexp2 | flog2 | fsin | fcos | ftanh | fclass |
      fdot | fscl | tmv | shfl | rixG | rixS | redl | redmi | scan | cfd | comb | bcast | ld | st | ldl | lds | sts | ldc | prf | pin | unpin |
      sinv | swb | swbInv | atom | acas | abinc | enter | enterTry | leave | rstat | trap | rett | tmaskSet | tmaskClr | tmaskWr | snop | bra | brx |
      call | yield | yieldX | smov | sadd | ssub | smul | smad | sand | sor | sxor | sshl | sshr | smin | smax | scmp | ssel | slea | sld | sst |
      hdef | rdecl | fence | barSync | barArrive | barWait | pbarInit | pbarArrive | pbarWait | tlwait | swarm | swwait | cbdef | cbadvWroom |
      cbadvPut | cbadvWdata | cbadvGet | cpy | cpyx | tdef | mld | mma | mmas | mwb | mclr | ixg | ixs | ectxBind | ectxUnbind | ectxDrain |
      ectxPin | ectxUnpin | ectxResume | ectxAbort | estat | rredRs | rredAr | rcat | lput | launch | gnode | tapePush | tapeRun | tapeDepth | tcut |
      prio | rdsr | wrsr | dtld | syscShoot | syscTerm | syscQdesc | syscLevel | syscRing | syscPodwin | syscFpdef | syscWhere =>
    unfold exec
    simp only [
    execNop, execBrl, execJmpl, execCallv, execRet, execFcall, execFsync, execFsyncSq, execFhint, execVoteAny, execVoteAll, execVoteBallot,
    execBrk, execExit, execMov, execMovi, execIadd, execIaddc, execIsub, execImul, execImulh, execImad, execIdot, execIand, execIor, execIxor,
    execShl, execShr, execSar, execImin, execImax, execIabs, execIcmp, execIsel, execBfx, execBfi, execPopc, execClz, execBrev, execLea,
    execPack, execUnpk, execFadd, execFsub, execFmul, execFfma, execFmin, execFmax, execFcmp, execFcvt, execFrcp, execFrsq, execFsqt,
    execFexp2, execFlog2, execFsin, execFcos, execFtanh, execFclass, execFdot, execFscl, execTmv, execShfl, execRixG, execRixS, execRedl,
    execRedmi, execScan, execCfd, execComb, execBcast, execLd, execSt, execLdl, execLds, execSts, execLdc, execPrf, execPin, execUnpin,
    execSinv, execSwb, execSwbInv, execAtom, execAcas, execAbinc, execEnter, execEnterTry, execLeave, execRstat, execTrap, execRett,
    execTmaskSet, execTmaskClr, execTmaskWr, execSnop, execBra, execBrx, execCall, execYield, execYieldX, execSmov, execSadd, execSsub,
    execSmul, execSmad, execSand, execSor, execSxor, execSshl, execSshr, execSmin, execSmax, execScmp, execSsel, execSlea, execSld, execSst,
    execHdef, execRdecl, execFence, execBarSync, execBarArrive, execBarWait, execPbarInit, execPbarArrive, execPbarWait, execTlwait,
    execSwarm, execSwwait, execCbdef, execCbadvWroom, execCbadvPut, execCbadvWdata, execCbadvGet, execCpy, execCpyx, execTdef, execMld,
    execMma, execMmas, execMwb, execMclr, execIxg, execIxs, execEctxBind, execEctxUnbind, execEctxDrain, execEctxPin, execEctxUnpin,
    execEctxResume, execEctxAbort, execEstat, execRredRs, execRredAr, execRcat, execLput, execLaunch, execGnode, execTapePush, execTapeRun,
    execTapeDepth, execTcut, execPrio, execRdsr, execWrsr, execDtld, execSyscShoot, execSyscTerm, execSyscQdesc, execSyscLevel, execSyscRing,
    execSyscPodwin, execSyscFpdef, execSyscWhere]
    exact ⟨_, fun _ => rfl⟩
  all_goals exact nomatch hi

/-! ## What the gate makes of a unit -/

theorem issue_of_trap {s : State} {i : Instr} {t : TrapInfo} (h : (s.begin i).gate i = .trap t) (body : State → Out) :
    s.issue i body = .next ((if movesCounters i then s.begin i else (s.begin i).advance i).fault i (s.begin i).cur.lanes t true) := by
  simp only [State.issue, h]

theorem issue_of_boundary {s : State} {i : Instr} (h : (s.begin i).gate i = .boundary) (body : State → Out) :
    s.issue i body = .next ((s.begin i).holdBoundary (s.begin i).cur.lanes) := by
  simp only [State.issue, h]

theorem checksBeforeEffects : ChecksBeforeEffects := by
  intro i s hi
  obtain ⟨body, hb⟩ := issues_of_not_event i hi
  exact ⟨fun t ht => by rw [hb, issue_of_trap ht], fun h => by rw [hb, issue_of_boundary h]⟩

/-! ## The order of the checks (R60) -/

theorem staticCheck_of_misuse {i : Instr} (h : i.pfxMisuse = true) : i.staticCheck = some 3 := by
  simp only [Instr.staticCheck, h, if_true]

theorem staticCheck_of_badField {i : Instr} (h : i.pfxMisuse = false) (hf : i.badField = true) : i.staticCheck = some 4 := by
  simp [Instr.staticCheck, h, hf]

theorem staticCheck_of_sound {i : Instr} (h : i.pfxMisuse = false) (hf : i.badField = false) :
    i.staticCheck = if i.specsOk then none else some 5 := by
  cases hs : i.specsOk <;> simp [Instr.staticCheck, h, hf, hs]

theorem checkOrder : CheckOrder := by
  intro s i
  refine ⟨fun h => by simp only [State.checks, staticCheck_of_misuse h]; rfl, fun hm => ⟨?_, fun hf ho => ?_⟩⟩
  · rintro (hf | ho)
    · simp only [State.checks, staticCheck_of_badField hm hf]; rfl
    · cases hf : i.badField with
      | true => simp only [State.checks, staticCheck_of_badField hm hf]; rfl
      | false => cases hs : i.specsOk <;> simp [State.checks, staticCheck_of_sound hm hf, hs, ho, plainTrap]
  · refine ⟨?_, fun hs hc => ?_⟩
    · rintro (hs | hc)
      · simp [State.checks, staticCheck_of_sound hm hf, hs, ho, plainTrap]
      · cases hs : i.specsOk <;> simp [State.checks, staticCheck_of_sound hm hf, hs, ho, hc, plainTrap]
    · have hcks : s.checks i = match s.privSub i with
          | some d => some (plainTrap cPRIVILEGE d)
          | none =>
            if (s.ctxOf s.cur.g).sbchk.getLsbD 0 && !s.cur.replay && s.uncovered i then some (plainTrap cSTALLCHK 0x00)
            else if (s.ctxOf s.cur.g).unichk.getLsbD 0 && s.disagree i then some (plainTrap cUNIFORM 0x00)
            else none := by
        simp only [State.checks, staticCheck_of_sound hm hf, hs, ho, hc, if_true]; rfl
      refine ⟨fun d hd => by rw [hcks, hd]; rfl, fun hp => ⟨fun ⟨h1, h2, h3⟩ => ?_, fun hn => ⟨fun ⟨h1, h2⟩ => ?_, fun hu => ?_⟩⟩⟩ 
      · simp [hcks, hp, h1, h2, h3, plainTrap]
      · rw [hcks, hp]
        dsimp only
        rw [if_neg (by simpa [and_assoc] using hn), if_pos (by simpa using And.intro h1 h2)]; rfl
      · rw [hcks, hp]
        dsimp only
        rw [if_neg (by simpa [and_assoc] using hn), if_neg (by simpa using hu)]

/-! ## What is privileged (R157, R329, R334, R335) -/

theorem privileged_iff (n : Nat) : privileged n = true ↔
    n ∈ [0x100, 0x101, 0x102, 0x200, 0x205, 0x206, 0x207, 0x208, 0x209, 0x20A, 0x20B, 0x20C, 0x300, 0x301, 0x302, 0x303, 0x304, 0x305] := by
  simp only [privileged, Bool.or_eq_true, Bool.and_eq_true, decide_eq_true_eq, beq_iff_eq, List.mem_cons, List.not_mem_nil, or_false]
  omega

theorem privSub_of_isSys {s : State} (h : (s.ctxOf s.cur.g).isSys = true) (i : Instr) : s.privSub i = none := by
  simp only [State.privSub, h, if_true]

theorem privSub_wrsr_iff {s : State} (h : (s.ctxOf s.cur.g).isSys = false) (sc : BitVec 3) (d : BitVec 6) (n : BitVec 12) :
    s.privSub (.wrsr sc d n) = some 0x02 ↔ privileged n.toNat = true := by
  simp only [State.privSub, h, Bool.false_eq_true, if_false]
  split <;> simp_all

/-- A virtual address with 2 in its upper twelve bits lies in the constant store (R157). -/
theorem privSub_sst_iff {s : State} (h : (s.ctxOf s.cur.g).isSys = false) (sc : BitVec 3) (d a : BitVec 6) (n : BitVec 4) (z : BitVec 2) :
    s.privSub (.sst sc d a n z) = some 0x02 ↔ (s.scal (.sst sc d a n z) .A).toNat / 2 ^ 52 = 2 := by
  have hb : bits (s.scal (.sst sc d a n z) .A).toNat 52 12 = (s.scal (.sst sc d a n z) .A).toNat / 2 ^ 52 := by
    have := (s.scal (.sst sc d a n z) .A).isLt
    rw [bits]; omega
  simp only [State.privSub, h, Bool.false_eq_true, if_false, hb, beq_iff_eq]
  split <;> simp_all

theorem privilegeRule : PrivilegeRule := by
  intro s sc d a n
  refine ⟨fun h i => privSub_of_isSys h i, fun h => ⟨?_, ?_, ?_, fun hint z => privSub_sst_iff h sc d a hint z, ?_, ?_⟩⟩
  · simp only [State.privSub, h, Bool.false_eq_true, if_false]
  · rw [privSub_wrsr_iff h, privileged_iff]
  · intro i hi
    simp only [List.mem_cons, List.not_mem_nil, or_false] at hi
    obtain rfl | rfl | rfl | rfl | rfl | rfl | rfl := hi <;> simp only [State.privSub, h, Bool.false_eq_true, if_false]
  · simp only [State.privSub, h, Bool.false_eq_true, if_false]
  · simp only [State.privSub, h, Bool.false_eq_true, if_false]

/-- Settles O9: every instruction issues through the gate, and the gate's checks stand in the order of R60. -/
theorem checks : Obligations.Checks := ⟨checksBeforeEffects, checkOrder, privilegeRule⟩

end Sys2Proof.Machine
end

section
/-! PROOFS. The issue of a unit (O12): what due writes leave of a group, what each part of an issue changes, and the frame of the whole. -/

namespace Sys2Proof.Machine

/-! ## Due writes (R50, R52) -/

/-- A group without what a pending write may change outside a continuation: registers, masks, FPMODE, and the pending writes themselves. -/
def Group.bare (gr : Group) : Group :=
  { gr with
    v := Vector.replicate 48 0, o := Vector.replicate 8 0, la := 0, lb := 0, laSeq := Vector.replicate 32 0, lbSeq := Vector.replicate 32 0
    k := Vector.replicate 8 0, fpmode := 0, fix := [] }

theorem Group.perform_bare (gr : Group) (p : Pending) (h : gr.shadow = none) : (gr.perform p).bare = gr.bare := by
  obtain ⟨_, _, _, _, _, _, _, _, hp⟩ := gr.perform_regsOnly p h
  rw [hp]; rfl

/-- What a pending write may not change is the same in groups that agree on the rest. -/
theorem Group.eq_of_bare {α : Type} {x y : Group} (h : x.bare = y.bare) (f : Group → α) (hf : ∀ z : Group, f z.bare = f z) : f x = f y := by
  rw [← hf x, h, hf y]

theorem Group.settleList_bare (now : Nat) (rest older : List Pending) (gr : Group) (h : gr.shadow = none) :
    (Group.settleList now older rest gr).bare = gr.bare := by
  induction rest generalizing older gr with
  | nil => rfl
  | cons p rest ih =>
    have hp := gr.perform_bare (p.fixed gr older) h
    unfold Group.settleList
    split
    · exact (ih _ _ ((Group.eq_of_bare hp Group.shadow fun _ => rfl).trans h)).trans hp
    · exact ih _ gr h

theorem Group.settle_bare {gr : Group} (now : Nat) (h : gr.shadow = none) : (gr.settle now).bare = gr.bare :=
  Group.settleList_bare now gr.fix [] gr h

/-! ## What each part of an issue changes -/

theorem State.occupy_eq (s : State) (i : Instr) : s.occupy i = { s with busy := (s.occupy i).busy } := by
  unfold State.occupy State.occupyPipe; split <;> (try split) <;> (try split) <;> rfl

theorem State.countIssue_eq (s : State) (i : Instr) : s.countIssue i = { s with crews := (s.countIssue i).crews } := by
  unfold State.countIssue; split <;> rfl

theorem State.advance_eq (s : State) (i : Instr) : s.advance i = { s with groups := (s.advance i).groups } := by
  unfold State.advance; split <;> rfl

theorem State.addDisagree_eq (s : State) (g : Nat) (ls : Lanes) (a : Word) :
    s.addDisagree g ls a = { s with groups := (s.addDisagree g ls a).groups } := by
  unfold State.addDisagree; split <;> rfl

/-- The group's part of passing the checks: the disagreement noted, the counters advanced. -/
def State.moved (s : State) (i : Instr) : State :=
  (if !s.cur.late && s.disagree i then s.addDisagree s.cur.g s.cur.lanes s.cur.addr else s).advance i

theorem State.moved_eq (s : State) (i : Instr) : s.moved i = { s with groups := (s.moved i).groups } := by
  unfold State.moved
  rw [State.advance_eq]
  split
  · rw [State.addDisagree_eq]
  · rfl

theorem State.passed_eq_moved (s : State) (i : Instr) : s.passed i = ((s.moved i).countIssue i).occupy i := rfl

theorem State.passed_eq (s : State) (i : Instr) :
    s.passed i = { s with groups := (s.passed i).groups, crews := (s.passed i).crews, busy := (s.passed i).busy } := by
  rw [State.passed_eq_moved, State.occupy_eq, State.countIssue_eq, State.moved_eq]

theorem State.passed_crews (s : State) (i : Instr) : (s.passed i).crews = ((s.moved i).countIssue i).crews := by
  rw [State.passed_eq_moved, State.occupy_eq]

theorem State.countIssue_crew (s : State) (i : Instr) (c : Nat) :
    ∃ k n d, (s.countIssue i).crew c = { s.crew c with clk := k, clkIssues := n, paceDue := d } := by
  unfold State.countIssue
  split
  · exact ⟨_, _, _, rfl⟩
  · rw [State.modCrew_crew]
    split
    · split <;> exact ⟨_, _, _, rfl⟩
    · exact ⟨_, _, _, rfl⟩

theorem State.countIssue_of_uncounted (s : State) {i : Instr} (h : i.countsReuse = false) : s.countIssue i = s := by
  simp [State.countIssue, h]

theorem State.occupy_of_free (s : State) {i : Instr} (hn : netCycles i = 0) (ht : ∀ pf sc d a b, i ≠ .tmv pf sc d a b) : s.occupy i = s := by
  unfold State.occupy
  split
  · rfl
  · rw [if_neg (by simp [hn])]
    split
    · next pf sc d a b => exact (ht pf sc d a b rfl).elim
    · rfl

theorem State.begin_eq {s : State} {i : Instr} (h : s.goes i) (hg : s.cur.g < s.groups.length) :
    s.begin i = { s with
      groups := (s.settle s.cur.g).groups, seq := s.seq + 1
      cur := { s.cur with seq := s.seq + 1, cycle := s.now, fp := ((s.grp s.cur.g).settle s.now).fpmode, clk := (s.begin i).cur.clk, low := some (lowest s.cur.lanes) } } := by
  have hseq : s.cur.seq = 0 := by
    obtain ⟨⟨-, -, -, -, -, -, -, -, -, -, hseq⟩, -⟩ := h; exact hseq
  have hgr : (s.settle s.cur.g).grp s.cur.g = (s.grp s.cur.g).settle s.now := s.modGrp_self _ _ hg
  have hlow : s.cur.lowLane = lowest s.cur.lanes := by rw [Issue.lowLane, h.low]; rfl
  have hl : (s.settle s.cur.g).cur.late = false := h.late
  have hb : s.begin i = { s.settle s.cur.g with
      cur := { s.cur with
        seq := if s.cur.seq == 0 then s.seq + 1 else s.cur.seq, cycle := s.now, fp := ((s.settle s.cur.g).grp s.cur.g).fpmode
        clk := (s.settle s.cur.g).clock ((s.settle s.cur.g).grp s.cur.g).crew, low := some s.cur.lowLane }
      seq := s.seq + 1 } := by
    unfold State.begin
    exact if_neg (by rw [hl]; exact Bool.false_ne_true)
  rw [hb, hseq, hlow, hgr]
  rfl

theorem State.begin_grp_self {s : State} (i : Instr) (hg : s.cur.g < s.groups.length) : (s.begin i).grp s.cur.g = (s.grp s.cur.g).settle s.now := by
  rw [State.grp, State.begin_groups]; exact s.modGrp_self _ _ hg

/-- The counters of a unit that is not performed again, in its own group. -/
theorem State.advance_grp_self {s : State} (i : Instr) (hr : s.cur.replay = false) (hg : s.cur.g < s.groups.length) :
    (s.advance i).grp s.cur.g = (s.grp s.cur.g).modLanes s.cur.lanes
      fun _ x => { x with pc := s.nextAddr i, ready := s.now + s.cur.second.toNat + i.stall.toNat + 1 } := by
  unfold State.advance
  rw [hr]
  exact s.modGrp_self _ _ hg

theorem State.moved_grp_self {s : State} (i : Instr) (hl : s.cur.late = false) (hr : s.cur.replay = false) (hg : s.cur.g < s.groups.length)
    (hs : (s.grp s.cur.g).shadow = none) :
    (s.moved i).grp s.cur.g =
      ({ s.grp s.cur.g with unist := if s.disagree i then unistAfter (s.grp s.cur.g).unist s.cur.addr else (s.grp s.cur.g).unist } : Group).modLanes s.cur.lanes
        fun _ x => { x with pc := s.nextAddr i, ready := s.now + s.cur.second.toNat + i.stall.toNat + 1 } := by
  have hd : s.addDisagree s.cur.g s.cur.lanes s.cur.addr = s.modGrp s.cur.g fun gr => { gr with unist := unistAfter gr.unist s.cur.addr } := by
    rw [State.addDisagree, hs]; rfl
  simp only [State.moved, hl, hd, Bool.not_false, Bool.true_and]
  split
  · next hd =>
    have := State.advance_grp_self (s := s.modGrp s.cur.g fun gr => { gr with unist := unistAfter gr.unist s.cur.addr }) i hr (by simpa using hg)
    refine this.trans ?_
    rw [State.modGrp_cur, State.modGrp_self _ _ _ hg]
    rfl
  · next hd => exact State.advance_grp_self i hr hg

/-- The group of a unit that goes, outside a continuation, once it is issued. -/
theorem State.issued_grp_self {s : State} {i : Instr} (h : s.goes i) (hg : s.cur.g < s.groups.length) (hs : (s.grp s.cur.g).shadow = none) :
    (s.issued i).grp s.cur.g =
      ({ (s.grp s.cur.g).settle s.now with
          unist := if (s.begin i).disagree i then unistAfter (s.grp s.cur.g).unist s.cur.addr else (s.grp s.cur.g).unist } : Group).modLanes s.cur.lanes
        fun _ x => { x with pc := s.nextAddr i, ready := s.now + s.cur.second.toNat + i.stall.toNat + 1 } := by
  have hbare := Group.settle_bare s.now hs
  have hlen : s.cur.g < (s.begin i).groups.length := by rw [State.begin_groups]; simpa [State.settle] using hg
  have hm : (s.issued i).grp s.cur.g = ((s.begin i).moved i).grp s.cur.g := by
    rw [State.issued, State.grp, State.passed_groups]; rfl
  have hshadow : ((s.grp s.cur.g).settle s.now).shadow = none := (Group.eq_of_bare hbare Group.shadow fun _ => rfl).trans hs
  have hunist : ((s.grp s.cur.g).settle s.now).unist = (s.grp s.cur.g).unist := Group.eq_of_bare hbare Group.unist fun _ => rfl
  have hself := State.moved_grp_self (s := s.begin i) i (by simp [h.late]) (by simp [h.replay]) (by simpa using hlen)
    (by rw [State.begin_g, State.begin_grp_self i hg, hshadow])
  rw [State.begin_g, State.begin_grp_self i hg, hunist] at hself
  have hsecond : (s.begin i).cur.second = s.cur.second := by obtain ⟨_, _, _, _, _, hc⟩ := s.begin_cur i; rw [hc]
  have hnow : (s.begin i).now = s.now := by rw [State.begin_eq h hg]
  have hnext : (s.begin i).nextAddr i = s.nextAddr i := by rw [State.nextAddr, State.begin_addr]; rfl
  rw [hm, hself, State.begin_lanes, State.begin_addr, hsecond, hnow, hnext]

/-- The issue of a unit changes no other group. -/
theorem State.issued_grp_other (s : State) (i : Instr) {k : Nat} (hk : k ≠ s.cur.g) : (s.issued i).grp k = s.grp k := by
  have hbegin : (s.begin i).grp k = s.grp k := by
    rw [State.grp, State.begin_groups]; exact (s.settle_onlyGroup _).2.2 k hk
  have hmoved : ((s.begin i).moved i).grp k = (s.begin i).grp k := by
    unfold State.moved
    split
    · exact ((State.advance_onlyGroup _ i).2.2 k (by simpa using hk)).trans ((State.addDisagree_onlyGroup ..).2.2 k (by simpa using hk))
    · exact (State.advance_onlyGroup _ i).2.2 k (by simpa using hk)
  rw [← hbegin, ← hmoved, State.issued, State.grp, State.passed_groups]
  rfl

theorem State.issued_eq {s : State} {i : Instr} (h : s.goes i) (hg : s.cur.g < s.groups.length) :
    s.issued i = { s with
      groups := (s.issued i).groups, crews := (s.issued i).crews, busy := (s.issued i).busy, seq := s.seq + 1
      cur := { s.cur with
        seq := s.seq + 1, cycle := s.now, fp := ((s.grp s.cur.g).settle s.now).fpmode, clk := (s.issued i).cur.clk, low := some (lowest s.cur.lanes) } } := by
  have hp : s.issued i = { s.begin i with groups := (s.issued i).groups, crews := (s.issued i).crews, busy := (s.issued i).busy } :=
    State.passed_eq ..
  refine hp.trans ?_
  rw [State.issued_cur, State.begin_eq h hg]

theorem State.issued_crews (s : State) (i : Instr) : (s.issued i).crews = (((s.begin i).moved i).countIssue i).crews := State.passed_crews ..

theorem State.begin_crews (s : State) (i : Instr) : (s.begin i).crews = s.crews := by
  unfold State.begin; dsimp only; split <;> rfl

theorem State.moved_crews (s : State) (i : Instr) : (s.moved i).crews = s.crews := by rw [State.moved_eq]

/-- Settles O12: the parts of an issue one by one, each with the one thing that it changes. -/
theorem issueFrame : Obligations.IssueFrame := by
  intro s i h hg hs
  have hbare := Group.settle_bare s.now hs
  have hself := State.issued_grp_self h hg hs
  have hcrews : ((s.begin i).moved i).crews = s.crews := by rw [State.moved_crews, State.begin_crews]
  refine ⟨State.issued_eq h hg, fun k hk => State.issued_grp_other s i hk, fun l hl => ?_, ?_, ?_, ?_, ?_, ?_, ?_, ?_, ?_, ?_, ?_, fun c => ?_, fun hc => ?_,
    fun hn ht => ?_⟩
  · have hlane : ((s.grp s.cur.g).settle s.now).lane l = s.lane s.cur.g l := Group.eq_of_bare hbare (Group.lane · l) fun _ => rfl
    rw [State.lane, hself, Group.modLanes_lane _ _ _ _ hl]
    split
    · rw [← hlane]; rfl
    · exact hlane
  · rw [hself]; rfl
  · rw [hself]; rfl
  · rw [hself]; exact Group.eq_of_bare hbare Group.wdog fun _ => rfl
  · rw [hself]; exact Group.eq_of_bare hbare Group.forkst fun _ => rfl
  · rw [hself]; exact Group.eq_of_bare hbare Group.prio fun _ => rfl
  · rw [hself]; exact Group.eq_of_bare hbare Group.trapmask fun _ => rfl
  · rw [hself]; exact Group.eq_of_bare hbare Group.save fun _ => rfl
  · rw [hself]; exact Group.eq_of_bare hbare Group.waits fun _ => rfl
  · rw [hself]; exact Group.eq_of_bare hbare Group.units fun _ => rfl
  · rw [hself]; exact Group.eq_of_bare hbare Group.acks fun _ => rfl
  · obtain ⟨k, n, d, hcrew⟩ := State.countIssue_crew ((s.begin i).moved i) i c
    refine ⟨k, n, d, ?_⟩
    rw [State.crew, State.issued_crews]
    refine hcrew.trans ?_
    rw [State.crew, hcrews]
    rfl
  · rw [State.issued_crews, State.countIssue_of_uncounted _ hc, hcrews]
  · rw [State.issued, State.passed_eq_moved, State.occupy_of_free _ hn ht, State.countIssue_eq, State.moved_eq, State.begin_eq h hg]

end Sys2Proof.Machine
end

section
/-! PROOFS. A step of a quiet cycle (O4): what the selection of a group leaves out of sight, what a fetch reads, and the issue of the group selected. -/

namespace Sys2Proof.Machine

section
variable (s : State) (q : Sched)
theorem foot_sched (u : UnitRec) : ({ s with sched := q } : State).foot u = s.foot u := rfl

theorem accessesMeet_sched (v u : UnitRec) : ({ s with sched := q } : State).accessesMeet v u = s.accessesMeet v u := by
  simp only [State.accessesMeet, foot_sched]

theorem mustQueue_sched (u : UnitRec) : ({ s with sched := q } : State).mustQueue u = s.mustQueue u := by
  simp only [State.mustQueue, State.mustFollow, State.followsWait, accessesMeet_sched]
  rfl

theorem nameHazard_sched (v u : UnitRec) : ({ s with sched := q } : State).nameHazard v u = s.nameHazard v u := rfl

theorem held_sched (u : UnitRec) : ({ s with sched := q } : State).held u = s.held u := by
  simp only [State.held, mustQueue_sched, nameHazard_sched]
  rfl

theorem fetchUnit_sched (g : Nat) (a : Word) : ({ s with sched := q } : State).fetchUnit g a = s.fetchUnit g a := rfl
theorem settle_sched (g : Nat) : ({ s with sched := q } : State).settle g = { s.settle g with sched := q } := rfl

theorem setHeld_sched (g : Nat) (ls : Lanes) : ({ s with sched := q } : State).setHeld g ls = s.setHeld g ls := by
  have hcur : ∀ (t : State) (c : Issue) (i : Instr), ({ t with sched := q, cur := c } : State).asIssued i = ({ t with cur := c } : State).asIssued i := fun _ _ _ => rfl
  simp only [State.setHeld, settle_sched, fetchUnit_sched, held_sched, hcur]
  rfl

theorem selectable_sched (g : Nat) : ({ s with sched := q } : State).selectable g = s.selectable g := by
  simp only [State.selectable, State.setReady, setHeld_sched]
  rfl

theorem selectGroup_sched : ({ s with sched := q } : State).selectGroup = s.selectGroup := by
  simp only [State.selectGroup, selectable_sched]
  rfl
end

/-! ## The fetch (R48, R56) -/

/-- A fetch looks at the groups for the agent alone, and not at what has issued in the cycle. -/
theorem State.fetchWord_groups {s : State} {G : List Group} {co : Option (Nat × Lanes)} {pr : Option PairRec} {ps : List Pipe} {g : Nat}
    (h : ({ s with groups := G, co := co, pair := pr, pipes := ps } : State).agent g = s.agent g) (a : Word) :
    ({ s with groups := G, co := co, pair := pr, pipes := ps } : State).fetchWord g a = s.fetchWord g a := by
  unfold State.fetchWord
  rw [h]
  rfl

/-- A word that is present, translated and without poison (R48, R56). -/
theorem State.fetchWord_of_held {s : State} {g : Nat} {pc : Word} {x : Xl} {w : BitVec 32}
    (hx : s.reach (s.agent g).quad (s.agent g).ctx (s.agent g).user .fetch pc.toNat = .ok x)
    (hb : (s.ibuf.any fun b => b.core == (s.agent g).core && b.ctx == (s.agent g).ctx && b.line == pc.toNat / 256) = true)
    (hp : s.memSpot (s.agent g) x ∉ s.poison) (hw : s.readBytes (s.agent g).quad (s.agent g).part x 4 = wordBytes w) :
    s.fetchWord g pc = .unit w 0 (.error .short) := by
  have hword : BitVec.ofNat 32 (leNat (wordBytes w)) = w := by
    apply BitVec.eq_of_toNat_eq
    simp only [wordBytes, leNat, BitVec.toNat_ofNat, BitVec.extractLsb'_toNat, Nat.shiftRight_eq_div_pow]
    omega
  simp [State.fetchWord, hx, hb, hp, hw, hword]

theorem fetchReadsBytes : FetchReadsBytes := by
  intro s g pc x w hx hb hp hw
  have h1 := State.fetchWord_of_held hx hb hp hw
  refine ⟨fun hn => ?_, fun y w2 hpfx hy hb2 hp2 hw2 => ?_⟩
  · simp [State.fetchUnit, h1, hn]
  · have h2 := State.fetchWord_of_held hy hb2 hp2 hw2
    simp only [State.fetchUnit, h1, h2, hpfx, if_true]

/-! ## The step of a group that is selected (R81, R316) -/

/-- The group that issues, with the cycle of its selection noted. -/
def Group.selected (now : Nat) (gr : Group) : Group := { gr with lastSel := now + 1, yielded := false }

theorem State.past_eq (s : State) : ∃ q, s.past = { s with sched := q } ∧ q.defers = s.sched.defers ∧ q.pairs = s.sched.pairs := by
  unfold State.past State.popTurn
  split
  · split
    · exact ⟨s.sched, rfl, rfl, rfl⟩
    · exact ⟨_, rfl, rfl, rfl⟩
  · exact ⟨s.sched, rfl, rfl, rfl⟩

/-- Nothing comes before the groups of a cycle in which no event is due or first. -/
theorem State.nextAct_of_quiet {s : State} (hd : s.dueEvent = none) (hq : s.issueQ = []) (ha : s.sched.agenda = [])
    (hr : s.readyEvent = none ∨ s.sched.turns.head? = some true) : s.nextAct = s.past.groupsAct := by
  unfold State.nextAct State.past
  rw [hd, hq, ha]
  cases he : s.readyEvent with
  | none => rfl
  | some e =>
    have ht : s.sched.turns.head? = some true := by simpa [he] using hr
    obtain ⟨b, t, hbt⟩ : ∃ b t, s.sched.turns = b :: t := by
      cases htu : s.sched.turns with
      | nil => simp [htu] at ht
      | cons b t => exact ⟨b, t, rfl⟩
    have hb : b = true := by simpa [hbt] using ht
    simp [State.queueHead, State.popTurn, hbt, hb]

/-- A group is selected: the cycle is noted, and nothing has issued in it yet. -/
def State.selecting (s : State) (g : Nat) (co : Option (Nat × Lanes)) : State :=
  { s with groups := modAt (fun gr => { gr with lastSel := s.now + 1, yielded := false }) g s.groups, co := co, pair := none, pipes := [] }

theorem State.selecting_grp (s : State) (g : Nat) (co : Option (Nat × Lanes)) :
    ∃ n y, (s.selecting g co).grp g = { s.grp g with lastSel := n, yielded := y } := by
  have h : (s.selecting g co).grp g = (s.modGrp g fun gr => { gr with lastSel := s.now + 1, yielded := false }).grp g := rfl
  rw [h, State.modGrp_grp]
  split
  · exact ⟨_, _, rfl⟩
  · exact ⟨_, _, rfl⟩

theorem State.selecting_agent (s : State) (g : Nat) (co : Option (Nat × Lanes)) : (s.selecting g co).agent g = s.agent g := by
  obtain ⟨n, y, h⟩ := s.selecting_grp g co
  have hctx : (s.selecting g co).ctx = s.ctx := rfl
  have hcrew : (s.selecting g co).crew = s.crew := rfl
  have hclock : (s.selecting g co).clock = s.clock := rfl
  simp only [State.agent, State.ctxNo, State.crewOf, h, hctx, hcrew, hclock]

theorem State.selecting_fetchUnit (s : State) (g : Nat) (co : Option (Nat × Lanes)) (a : Word) : (s.selecting g co).fetchUnit g a = s.fetchUnit g a := by
  obtain ⟨n, y, h⟩ := s.selecting_grp g co
  have hword : ∀ x, (s.selecting g co).fetchWord g x = s.fetchWord g x := State.fetchWord_groups (s.selecting_agent g co)
  have hmap : ((s.selecting g co).ctxOf g).opMap = (s.ctxOf g).opMap := by
    have hctx : (s.selecting g co).ctx = s.ctx := rfl
    have hcrew : (s.selecting g co).crew = s.crew := rfl
    simp only [State.ctxOf, State.ctxNo, State.crewOf, h, hctx, hcrew]
  simp only [State.fetchUnit, hword, hmap]

theorem State.unitRec_iss_g (s : State) (i : Instr) : (s.unitRec i).iss.g = s.cur.g := by unfold State.unitRec; split <;> rfl

/-- A unit that older ones must precede finds units in flight or waits (R316). -/
theorem State.mustQueue_nonempty {s : State} {i : Instr} (hs : (s.grp s.cur.g).shadow = none)
    (h : (s.settle s.cur.g).mustQueue ((s.settle s.cur.g).asIssued i) = true) : ((s.grp s.cur.g).units.isEmpty && (s.grp s.cur.g).waits.isEmpty) = false := by
  have hbare : ((s.settle s.cur.g).grp s.cur.g).bare = (s.grp s.cur.g).bare := by
    rw [State.settle, State.modGrp_grp]
    split
    · exact Group.settle_bare s.now hs
    · rfl
  have hu : ((s.settle s.cur.g).grp s.cur.g).units = (s.grp s.cur.g).units := Group.eq_of_bare hbare Group.units fun _ => rfl
  have hw : ((s.settle s.cur.g).grp s.cur.g).waits = (s.grp s.cur.g).waits := Group.eq_of_bare hbare Group.waits fun _ => rfl
  have hg : ((s.settle s.cur.g).asIssued i).iss.g = s.cur.g := State.unitRec_iss_g _ i
  rw [State.mustQueue, hg, hu, hw] at h
  cases hl : (s.grp s.cur.g).units with
  | cons u us => rfl
  | nil =>
    cases hl' : (s.grp s.cur.g).waits with
    | cons u us => rfl
    | nil => simp [hl, hl'] at h

theorem State.startUnit_now {s : State} {i : Instr} (hd : s.sched.defers = [])
    (h : ¬ ((s.settle s.cur.g).mustQueue ((s.settle s.cur.g).asIssued i) = true ∧ holdable i = true ∧ (s.grp s.cur.g).shadow = none)) :
    s.startUnit i = .run i s := by
  unfold State.startUnit
  dsimp only
  split
  · rfl
  · next hc =>
    have hm : (s.settle s.cur.g).mustQueue ((s.settle s.cur.g).asIssued i) = false := by
      simp only [Bool.or_eq_true, Bool.not_eq_true', not_or, Bool.not_eq_false, Bool.not_eq_true, Option.isSome_eq_false_iff, Option.isNone_iff_eq_none] at hc
      exact Bool.eq_false_iff.2 fun hm => h ⟨hm, hc.2, hc.1⟩
    simp [hm, State.popDefer, hd]

theorem State.startUnit_later {s : State} {i : Instr}
    (h : (s.settle s.cur.g).mustQueue ((s.settle s.cur.g).asIssued i) = true ∧ holdable i = true ∧ (s.grp s.cur.g).shadow = none) :
    (∀ t, s.deferUnit i = some t → s.startUnit i = .go t) ∧ (s.deferUnit i = none → s.startUnit i = .run i s) := by
  obtain ⟨hm, hh, hs⟩ := h
  have hne := State.mustQueue_nonempty hs hm
  exact ⟨fun t ht => by simp [State.startUnit, hs, hh, hm, hne, ht], fun ht => by simp [State.startUnit, hs, hh, hm, hne, ht]⟩

theorem State.issueUnit_of_noPairs {s : State} (hp : s.sched.pairs = []) (g : Nat) (ls : Lanes) (addr : Word) (w pw : BitVec 32) (i : Instr) :
    s.issueUnit g ls addr w pw i = ({ s with cur := freshIssue g ls addr w pw, pipes := i.pipe :: s.pipes, pair := none } : State).startUnit i := by
  unfold State.issueUnit
  dsimp only
  split
  · simp [State.popPair, hp]
  · rfl

/-- The group selected issues its first set. The definition is unfolded as a function, so that no set has to be computed. -/
theorem State.issueGroup_eq {s : State} {g : Nat} {a b : Lanes} (hs : (s.grp g).sets = (a, b)) :
    ∃ (c : Bool) (miss : Nat → Act), s.issueGroup g = (s.selecting g (if c then some (g, b) else none)).issueSet g a miss := by
  have hdef : State.issueGroup = State.issueGroup := rfl
  conv at hdef => rhs; delta State.issueGroup
  have happ := congrFun (congrFun hdef s) g
  beta_reduce at happ
  rw [hs] at happ
  exact ⟨_, _, happ⟩

/-- The group selected issues the unit at the counter of its first set. -/
theorem State.issueGroup_of_unit {s : State} {g : Nat} {a b : Lanes} {w pw : BitVec 32} {i : Instr} (hp : s.sched.pairs = [])
    (hs : (s.grp g).sets = (a, b)) (hal : ((s.grp g).lane (lowest a)).pc.toNat % 4 = 0)
    (hf : s.fetchUnit g ((s.grp g).lane (lowest a)).pc = .unit w pw (.ok i)) :
    ∃ co, (co = none ∨ co = some (g, b)) ∧ s.issueGroup g = (s.toIssue g a w pw i co).startUnit i := by
  obtain ⟨c, miss, hm⟩ := State.issueGroup_eq hs
  generalize hco : (if c then some (g, b) else none) = co at hm
  refine ⟨co, by rw [← hco]; split <;> simp, ?_⟩
  obtain ⟨n, y, hg⟩ := s.selecting_grp g co
  have hpc : (((s.selecting g co).grp g).lane (lowest a)).pc = ((s.grp g).lane (lowest a)).pc := by rw [hg]; rfl
  rw [hm, State.issueSet, hpc, if_neg (by simp [hal]), State.selecting_fetchUnit, hf]
  exact State.issueUnit_of_noPairs (s := s.selecting g co) hp ..

/-- What an act comes to. -/
def Act.outcome : Act → Out
  | .run i s => exec i s
  | .go s => .next s
  | .stop r => .fault r

theorem step_eq_outcome (s : State) : step s = s.nextAct.outcome := by
  unfold step
  cases s.nextAct <;> rfl

theorem stepRunsDecoded : StepRunsDecoded := by
  intro s g a b w pw i hd hq ha hdf hpr hr hco hpair hsel hsets hal hf
  obtain ⟨q, hpast, hqd, hqp⟩ := s.past_eq
  have hact := State.nextAct_of_quiet hd hq ha hr
  have hgrp : s.past.groupsAct = s.past.issueGroup g := by
    have h1 : s.past.pair = none := by rw [hpast]; exact hpair
    have h2 : s.past.co = none := by rw [hpast]; exact hco
    have h3 : s.past.selectGroup = some g := by rw [hpast, selectGroup_sched]; exact hsel
    unfold State.groupsAct
    rw [h1, h2]
    dsimp only
    rw [h3]
  obtain ⟨co, hc, hiss⟩ := State.issueGroup_of_unit (s := s.past) (g := g) (a := a) (b := b) (w := w) (pw := pw) (i := i) (by rw [hpast, ← hpr, ← hqp])
    (by rw [hpast]; exact hsets) (by rw [hpast]; exact hal) (by rw [hpast]; exact hf)
  have hstep : step s = ((s.past.toIssue g a w pw i co).startUnit i).outcome := by rw [step_eq_outcome, hact, hgrp, hiss]
  have hshadow : ((s.past.toIssue g a w pw i co).grp g).shadow = (s.grp g).shadow := by
    obtain ⟨n, y, hg⟩ := s.past.selecting_grp g co
    have ht : (s.past.toIssue g a w pw i co).grp g = (s.past.selecting g co).grp g := rfl
    rw [ht, hg, hpast]
    rfl
  have hdefers : (s.past.toIssue g a w pw i co).sched.defers = [] := by rw [← hdf, ← hqd, hpast]; rfl
  refine ⟨co, hc, fun hn => ?_, fun hw => ?_⟩
  · rw [← hshadow] at hn
    rw [hstep, State.startUnit_now hdefers hn]
    rfl
  · rw [← hshadow] at hw
    obtain ⟨hgo, hrun⟩ := State.startUnit_later hw
    exact ⟨fun u hu => by rw [hstep, hgo u hu]; rfl, fun hu => by rw [hstep, hrun hu]; rfl⟩

/-- Settles O4: nothing comes before the group selected, whose first set issues its unit; a fetch reads the four bytes of a word. -/
theorem stepRunsFetched : Obligations.StepRunsFetched := ⟨stepRunsDecoded, fetchReadsBytes⟩

end Sys2Proof.Machine
end

section
/-! PROOFS. The machine as it begins (O5). -/

namespace Sys2Proof.Machine

/-- The group that a start adds, before its argument is written (R195, R306). -/
theorem State.startGroup_grp {s t : State} {crew ctx quad cid level : Nat} {k : Kernel} {arg : Word} {e : Nat × Nat}
    (h : s.startGroup crew ctx quad cid level k arg e = some t) :
    ∃ core slot tag pc d, t.grp s.groups.length =
      { (Group.fresh crew cid e.2 core slot tag pc (s.ctx ctx).fpdef (BitVec.ofNat 64 (level + 0x80))).setReg 0 (BitVec.allOnes 2048) (splat arg) with
        dispatchNo := d } := by
  unfold State.startGroup at h
  split at h
  · next core tag _ _ =>
    split at h
    · exact nomatch h
    · next slot _ =>
      refine ⟨core, slot, tag, k.base + BitVec.ofNat 64 e.1, s.seq, ?_⟩
      rw [← Option.some.inj h, State.grp, List.getD_eq_getElem?_getD, List.getElem?_concat_length]
      rfl
  · exact nomatch h

theorem Group.fresh_reg (crew cid n core slot tag : Nat) (pc fp prio : Word) (w : Nat) {spec : BitVec 6} (h : spec.toNat < 58) :
    (Group.fresh crew cid n core slot tag pc fp prio).reg w spec = 0 := by
  have hv : ∀ j : Nat, ((Vector.replicate 48 0 : Vector Img 48)[j]?.getD 0) = 0 := by
    intro j; by_cases hj : j < 48 <;> simp [hj]
  have ho : ∀ j : Nat, ((Vector.replicate 8 0 : Vector Img 8)[j]?.getD 0) = 0 := by
    intro j; by_cases hj : j < 8 <;> simp [hj]
  unfold Group.reg
  dsimp only [Group.fresh]
  split
  · exact hv _
  · split
    · exact ho _
    · split
      · rfl
      · split
        · rfl
        · simp only [beq_iff_eq] at *
          omega

theorem Group.fresh_lane (crew cid n core slot tag : Nat) (pc fp prio : Word) {l : Nat} (h : l < 32) :
    (Group.fresh crew cid n core slot tag pc fp prio).lane l = Lane.start pc := by
  simp [Group.fresh, Group.lane, h]

/-- Settles O5: the values are those of the definitions; a group that starts is a fresh one with its argument written. -/
theorem resetState : Obligations.ResetState := by
  refine ⟨rfl, rfl, fun a => rfl, by decide, rfl, rfl, rfl, rfl, fun part id => ⟨rfl, rfl, rfl, rfl, rfl, rfl, rfl, rfl, rfl, rfl, rfl⟩,
    fun ctx task quad no k => ⟨rfl, rfl⟩, fun part id => rfl, fun s t crew ctx quad cid level k arg e hl h => ?_, fun crew cid n core slot tag pc fp prio => ?_⟩
  · obtain ⟨core, slot, tag, pc, d, ht⟩ := State.startGroup_grp h
    rw [ht, Group.setReg_keeps]
    refine ⟨rfl, ?_⟩
    change (BitVec.ofNat 64 (level + 0x80)).toNat = level + 2 ^ 5 * 4
    rw [BitVec.toNat_ofNat]
    omega
  · refine ⟨rfl, rfl, rfl, rfl, rfl, rfl, rfl, fun w spec h => Group.fresh_reg crew cid n core slot tag pc fp prio w h, fun l hl => ?_⟩
    rw [Group.fresh_lane crew cid n core slot tag pc fp prio hl]
    exact ⟨rfl, rfl⟩

end Sys2Proof.Machine
end

section
/-! PROOFS. Branches and calls (O29): sets of lanes, moves of counters, targets of branches, and the links of calls. -/

namespace Sys2Proof.Machine

/-! ## Sets of lanes -/

theorem getLsbD_lanesWhere (f : Nat → Bool) (l : Nat) (h : l < 32) : (lanesWhere f).getLsbD l = f l := by
  have hel := buildNat_el 1 (fun l => (f l).toNat) 32 l h
  have hlt : buildNat 1 (fun l => (f l).toNat) 32 < 2 ^ 32 := buildNat_lt 1 _ 32
  rw [lanesWhere, BitVec.getLsbD, BitVec.toNat_ofNat, Nat.mod_eq_of_lt hlt, Nat.testBit_eq_decide_div_mod_eq]
  simp only [one_mul, pow_one] at hel
  rw [hel]
  cases f l <;> rfl

/-- A set of lanes is known by its members. -/
theorem Lanes.ext {a b : Lanes} (h : ∀ l < 32, a.getLsbD l = b.getLsbD l) : a = b := BitVec.eq_of_getLsbD_eq h

theorem allLanes_eq : allLanes = BitVec.allOnes 32 := Lanes.ext fun l hl => by
  rw [allLanes, getLsbD_lanesWhere _ _ hl, BitVec.getLsbD_allOnes, decide_eq_true hl]

theorem mem_lanesOf {ls : Lanes} {l : Nat} : l ∈ lanesOf ls ↔ l < 32 ∧ ls.getLsbD l = true := by simp [lanesOf]

/-- The lowest lane of a set that is not empty is one of its lanes. -/
theorem lowest_mem {ls : Lanes} (h : ls ≠ 0) : lowest ls < 32 ∧ ls.getLsbD (lowest ls) = true := by
  rw [← mem_lanesOf, lowest]
  cases hl : lanesOf ls with
  | nil =>
    refine absurd (Lanes.ext fun l hlt => ?_) h
    have hnot : l ∉ lanesOf ls := by rw [hl]; exact List.not_mem_nil
    rw [mem_lanesOf] at hnot
    simpa [hlt] using hnot
  | cons a as => exact List.mem_cons_self

/-- A lane's condition in a mask: one of its eight bits is set (R91). -/
theorem laneCond_iff (k : Mask) (l : Nat) : laneCond k l = true ↔ laneBit k l := by
  have hbit (b : Nat) : (k.toNat / 2 ^ (8 * l) % 2 ^ 8).testBit b = (decide (b < 8) && k.getLsbD (8 * l + b)) := by
    rw [Nat.testBit_mod_two_pow, Nat.testBit_div_two_pow, BitVec.getLsbD, Nat.add_comm]
  have hzero : k.toNat / 2 ^ (8 * l) % 2 ^ 8 = 0 ↔ ∀ b, b < 8 → k.getLsbD (8 * l + b) = false := by
    refine ⟨fun h b hb => ?_, fun h => Nat.eq_of_testBit_eq fun b => ?_⟩
    · have := hbit b
      rw [h] at this
      simpa [hb] using this.symm
    · rw [hbit, Nat.zero_testBit]
      by_cases hb : b < 8
      · simp [h b hb]
      · simp [hb]
  rw [laneCond, bits, bne_iff_ne, Ne, hzero, laneBit]
  push Not
  simp

/-- A result that is written in the lanes of a set. -/
theorem laneResult_inLanes (ls : Lanes) (f : Nat → Word) : (laneResult ls f).inLanes ls f := by
  intro l hl
  refine ⟨?_, fun hin => ?_⟩
  · rw [laneResult, laneOf, el_laneBits ls 64 l (dvd_refl _) (by omega), show laneIx 64 l = l by unfold laneIx; omega]
    split <;> rfl
  · rw [laneResult, laneOf_ofLanes _ _ hl, if_pos hin]

/-! ## Moves of counters -/

@[simp] theorem State.issued_regOnly (s : State) (i : Instr) : (s.issued i).cur.regOnly = s.cur.regOnly := by
  rw [State.issued_cur]; obtain ⟨_, _, _, _, _, h⟩ := s.begin_cur i; rw [h]

/-- Some lanes of a group go to a target each. -/
theorem Group.modLanes_none (gr : Group) (f : Nat → Lane → Lane) : gr.modLanes 0 f = gr := by
  have : (gr.lanes.mapIdx fun l x => if (0 : Lanes).getLsbD l then f l x else x) = gr.lanes := by
    ext l hl : 1
    simp
  rw [Group.modLanes, this]

theorem State.modLanes_none (s : State) (g : Nat) (f : Nat → Lane → Lane) : s.modLanes g 0 f = s := by
  have hid : (fun gr : Group => gr.modLanes 0 f) = id := funext fun gr => gr.modLanes_none f
  have hmod : modAt id g s.groups = s.groups := by
    refine List.ext_getElem? fun k => ?_
    rw [modAt_get]
    split <;> simp
  rw [State.modLanes, hid, State.modGrp, hmod]

theorem State.goto_eq {s : State} (h : s.cur.replay = false) (ls : Lanes) (f : Nat → Word) :
    s.goto ls f = s.modLanes s.cur.g ls fun l x => { x with pc := f l } := by simp [State.goto, h]

theorem State.goto_jumpTo {s : State} (h : s.cur.replay = false) (f : Nat → Word) : s.goto s.cur.lanes f = s.jumpTo f := State.goto_eq h ..

@[simp] theorem State.goto_cur (s : State) (ls : Lanes) (f : Nat → Word) : (s.goto ls f).cur = s.cur := by
  unfold State.goto; split <;> rfl
@[simp] theorem State.stay_cur (s : State) (ls : Lanes) : (s.stay ls).cur = s.cur := s.goto_cur ..
@[simp] theorem State.jumpTo_cur (s : State) (f : Nat → Word) : (s.jumpTo f).cur = s.cur := rfl

theorem State.stay_none (s : State) : s.stay 0 = s := by
  unfold State.stay State.goto; split
  · rfl
  · exact s.modLanes_none ..

/-- Two moves of lanes of one group, the second over the first. -/
theorem State.modLanes_modLanes (s : State) (g : Nat) (ls ms : Lanes) (f h : Nat → Lane → Lane) :
    (s.modLanes g ls f).modLanes g ms h =
      s.modLanes g (ls ||| ms) fun l x => if ms.getLsbD l then h l (if ls.getLsbD l then f l x else x) else f l x := by
  have hgroup (gr : Group) : (gr.modLanes ls f).modLanes ms h =
      gr.modLanes (ls ||| ms) fun l x => if ms.getLsbD l then h l (if ls.getLsbD l then f l x else x) else f l x := by
    simp only [Group.modLanes, Vector.mapIdx_mapIdx]
    congr 2
    funext l x
    rw [BitVec.getLsbD_or]
    cases ls.getLsbD l <;> cases ms.getLsbD l <;> rfl
  simp only [State.modLanes, State.modGrp, modAt_modAt, hgroup]

/-- Of the lanes of a unit some stay, and the others go to their targets. -/
theorem State.goto_stay {s : State} (h : s.cur.replay = false) {bad : Lanes} (hbad : ∀ l < 32, bad.getLsbD l = true → s.active l) (f : Nat → Word) :
    (s.goto (s.cur.lanes &&& ~~~bad) f).stay bad = s.jumpTo fun l => if bad.getLsbD l then s.cur.addr else f l := by
  have hor : (s.cur.lanes &&& ~~~bad) ||| bad = s.cur.lanes := Lanes.ext fun l hl => by
    have := hbad l hl
    rw [State.active] at this
    rw [BitVec.getLsbD_or, BitVec.getLsbD_and, BitVec.getLsbD_not]
    cases hb : bad.getLsbD l
    · simp [hl]
    · simp [this hb]
  rw [State.stay, State.goto_eq (by simpa using h), State.goto_eq h]
  simp only [State.modLanes_cur]
  rw [State.modLanes_modLanes, hor, State.jumpTo]
  congr 1
  funext l x
  cases bad.getLsbD l
  · rfl
  · cases (s.cur.lanes &&& ~~~bad).getLsbD l <;> rfl

/-- No lanes, no fault. -/
theorem State.faultUnit_none (s : State) (u : UnitRec) (tr : TrapInfo) (keep : Bool) : s.faultUnit u 0 tr keep = s := s.raise_none _ rfl
theorem State.fault_none (s : State) (i : Instr) (tr : TrapInfo) (keep : Bool) : s.fault i 0 tr keep = s := s.faultUnit_none ..

/-! ## Targets (R41) -/

theorem State.relTarget_eq (s : State) (n : Nat) (p : BitVec n) : s.relTarget n p = s.cur.addr + 4 * p.signExtend 64 := by
  rw [State.relTarget, BitVec.shiftLeft_eq_mul_twoPow, BitVec.mul_comm]
  rfl

theorem State.badTargets_getLsbD (s : State) (i : Instr) {l : Nat} (hl : l < 32) :
    (s.badTargets i).getLsbD l = true ↔ s.active l ∧ (s.srcLane i .A l).toNat % 4 ≠ 0 := by
  rw [State.badTargets, getLsbD_lanesWhere _ _ hl, State.active]
  simp

theorem State.badTargets_none {s : State} {i : Instr} (h : ∀ l < 32, s.active l → (s.srcLane i .A l).toNat % 4 = 0) : s.badTargets i = 0 :=
  Lanes.ext fun l hl => by
    have := s.badTargets_getLsbD i hl
    rw [show (0 : Lanes).getLsbD l = false by simp, ← Bool.not_eq_true, this]
    exact fun ⟨ha, hne⟩ => hne (h l hl ha)

/-- A move of counters changes no source of the unit in an active lane: what vpc reads there is the unit's own address (R46, R48). -/
theorem State.srcLane_goto (s : State) (i : Instr) (f : Fld) (ls : Lanes) (tgt : Nat → Word) {l : Nat} (hl : l < 32) (ha : s.active l) :
    (s.goto ls tgt).srcLane i f l = s.srcLane i f l := by
  unfold State.goto
  split
  · rfl
  next hr =>
  have hr : s.cur.replay = false := by simpa using hr
  have hreg (w : Nat) (spec : BitVec 6) (gr : Group) (fl : Nat → Lane → Lane) (h60 : spec.toNat ≠ 60) : (gr.modLanes ls fl).reg w spec = gr.reg w spec := by
    simp only [Group.reg, Group.modLanes, beq_iff_eq, h60, if_false]
  have hgrp : (s.modLanes s.cur.g ls fun l x => { x with pc := tgt l }).grp s.cur.g = s.grp s.cur.g ∨
      (s.modLanes s.cur.g ls fun l x => { x with pc := tgt l }).grp s.cur.g = (s.grp s.cur.g).modLanes ls fun l x => { x with pc := tgt l } := by
    rw [State.modLanes, State.modGrp_grp]
    split
    · exact .inr rfl
    · exact .inl rfl
  have hfull : el 64 l (laneBits s.cur.lanes) = 2 ^ 64 - 1 := by
    rw [el_laneBits _ 64 l (dvd_refl _) (by omega), show laneIx 64 l = l by unfold laneIx; omega, if_pos (show s.cur.lanes.getLsbD l = true from ha)]
  simp only [State.srcLane, State.src, State.srcAt, State.modLanes_cur, hr, Bool.false_eq_true, if_false]
  split
  · rw [laneOf, el_blend_of_full _ _ hfull, laneOf, el_blend_of_full _ _ hfull]
  next h60 =>
    have hne : (i.specAt f 0).toNat ≠ 60 := fun h => h60 (by rw [beq_iff_eq]; exact BitVec.eq_of_toNat_eq h)
    rcases hgrp with h | h
    · rw [h]
    · rw [h, hreg _ _ _ _ hne]

/-! ## The branches (R90 to R94) -/

theorem exec_brl {s : State} {sc k : BitVec 3} {p : BitVec 15} (h : s.goes (.brl sc k p)) :
    exec (.brl sc k p) s = .next ((s.issued (.brl sc k p)).jumpTo fun l =>
      if laneCond ((s.issued (.brl sc k p)).smask k.toNat) l then s.cur.addr + 4 * p.signExtend 64 else s.cur.addr + 4) := by
  have harm : exec (.brl sc k p) s = execBrl sc k p s := rfl
  rw [harm, execBrl, s.issue_of_goes _ _ h]
  simp only [State.relTarget_eq, State.issued_addr, State.goto_jumpTo ((State.issued_replay ..).trans h.replay)]

theorem exec_bra {s : State} {sc : BitVec 3} {q : BitVec 18} (h : s.goes (.bra sc q)) :
    exec (.bra sc q) s = .next ((s.issued (.bra sc q)).jumpTo fun _ => s.cur.addr + 4 * q.signExtend 64) := by
  have harm : exec (.bra sc q) s = execBra sc q s := rfl
  rw [harm, execBra, s.issue_of_goes _ _ h]
  simp only [State.relTarget_eq, State.issued_addr, State.goto_jumpTo ((State.issued_replay ..).trans h.replay)]

theorem exec_brx_aligned {s : State} {sc : BitVec 3} {a : BitVec 6} (h : s.goes (.brx sc a)) (hr : s.cur.regOnly = false)
    (ht : ((s.issued (.brx sc a)).lead (.brx sc a) .A).toNat % 4 = 0) :
    exec (.brx sc a) s = .next ((s.issued (.brx sc a)).jumpTo fun _ => (s.issued (.brx sc a)).lead (.brx sc a) .A) := by
  have harm : exec (.brx sc a) s = execBrx sc a s := rfl
  rw [harm, execBrx, s.issue_of_goes _ _ h]
  have hreplay : (s.issued (.brx sc a)).cur.replay = false := (State.issued_replay ..).trans h.replay
  simp only [State.issued_regOnly, hr, Bool.false_eq_true, if_false, State.issued_scal h, ht, State.goto_jumpTo hreplay]
  rfl

theorem exec_brx_misaligned {s : State} {sc : BitVec 3} {a : BitVec 6} (h : s.goes (.brx sc a)) (hr : s.cur.regOnly = false)
    (ht : ((s.issued (.brx sc a)).lead (.brx sc a) .A).toNat % 4 ≠ 0) :
    exec (.brx sc a) s = .next (((s.issued (.brx sc a)).jumpTo fun _ => s.cur.addr).fault (.brx sc a) s.cur.lanes
      (addrTrap cALIGN 0x00 ((s.issued (.brx sc a)).lead (.brx sc a) .A)) false) := by
  have harm : exec (.brx sc a) s = execBrx sc a s := rfl
  rw [harm, execBrx, s.issue_of_goes _ _ h]
  have hstay : (s.issued (.brx sc a)).stay (s.issued (.brx sc a)).cur.lanes = (s.issued (.brx sc a)).jumpTo fun _ => s.cur.addr := by
    rw [State.stay, State.goto_jumpTo ((State.issued_replay ..).trans h.replay), State.issued_addr]
  simp only [State.issued_regOnly, hr, Bool.false_eq_true, if_false, State.issued_scal h]
  rw [if_pos (by simpa using ht), hstay, State.issued_lanes]

theorem exec_jmpl {s : State} {sc : BitVec 3} {a : BitVec 6} (h : s.goes (.jmpl sc a)) (hr : s.cur.regOnly = false) :
    let t := s.issued (.jmpl sc a)
    let bad := t.badTargets (.jmpl sc a)
    let target (l : Nat) : Word := t.srcLane (.jmpl sc a) .A l
    exec (.jmpl sc a) s = .next ((t.jumpTo fun l => if bad.getLsbD l then s.cur.addr else target l).fault (.jmpl sc a) bad
      (addrTrap cALIGN 0x00 (target (lowest bad))) false) ∨ bad = 0 ∧ exec (.jmpl sc a) s = .next (t.jumpTo target) := by
  intro t bad target
  have hreplay : t.cur.replay = false := (State.issued_replay ..).trans h.replay
  have hexec : exec (.jmpl sc a) s = .next (((t.goto (t.cur.lanes &&& ~~~bad) target).stay bad).alignFault (.jmpl sc a) bad) := by
    have harm : exec (.jmpl sc a) s = execJmpl sc a s := rfl
    rw [harm, execJmpl, s.issue_of_goes _ _ h]
    simp only [State.issued_regOnly, hr, Bool.false_eq_true, if_false]
    rfl
  have hbad (l : Nat) (hl : l < 32) (hin : bad.getLsbD l = true) : t.active l := ((t.badTargets_getLsbD _ hl).1 hin).1
  rw [hexec]
  by_cases h0 : bad = 0
  · refine .inr ⟨h0, ?_⟩
    have hall : t.cur.lanes &&& ~~~(0 : Lanes) = t.cur.lanes := BitVec.and_allOnes
    rw [h0, hall, State.stay_none, State.goto_jumpTo hreplay, State.alignFault, State.fault_none]
  · refine .inl ?_
    obtain ⟨hlt, hin⟩ := lowest_mem h0
    have hactive := hbad _ hlt hin
    have hread : ((t.goto (t.cur.lanes &&& ~~~bad) target).stay bad).srcLane (.jmpl sc a) .A (lowest bad) = target (lowest bad) := by
      rw [State.stay, State.srcLane_goto _ _ _ _ _ hlt (by simpa [State.active] using hactive), State.srcLane_goto _ _ _ _ _ hlt hactive]
    rw [State.alignFault, hread, State.goto_stay hreplay hbad, State.issued_addr]

theorem branches : Branches := by
  intro s sc k p q a hr
  refine ⟨?_, ?_, ?_, ?_, ?_⟩
  · intro i hi hgo
    simp only [List.mem_cons, List.not_mem_nil, or_false] at hi
    obtain rfl | rfl | rfl := hi
    · exact (State.issue_of_goes _ _ _ hgo)
    · exact (State.issue_of_goes _ _ _ hgo)
    · exact (State.issue_of_goes _ _ _ hgo)
  · intro i hgo
    refine ⟨_, exec_brl hgo, fun l _ => ⟨fun hc => ?_, fun hc => ?_⟩⟩
    · exact if_pos ((laneCond_iff ..).2 hc)
    · exact if_neg (fun h => hc ((laneCond_iff ..).1 h))
  · exact exec_bra
  · intro i t hgo
    refine ⟨exec_brx_aligned hgo hr, fun ht => ?_⟩
    rw [exec_brx_misaligned hgo hr ht]
    exact State.raises_fault ..
  · intro i t target hgo
    have hbadiff (l : Nat) (hl : l < 32) : (t.badTargets i).getLsbD l = true ↔ s.active l ∧ (target l).toNat % 4 ≠ 0 := by
      rw [t.badTargets_getLsbD i hl, State.active, State.issued_lanes]
      rfl
    refine ⟨fun hall => ?_, fun bad hne hbad => ?_⟩
    · have h0 : t.badTargets i = 0 := State.badTargets_none fun l hl ha => hall l hl (by simpa [t, State.active] using ha)
      rcases exec_jmpl hgo hr with h | ⟨-, h⟩
      · rw [h, h0]
        rw [State.fault_none]
        simp
        rfl
      · exact h
    · have heq : t.badTargets i = bad := Lanes.ext fun l hl => by rw [Bool.eq_iff_iff, hbadiff l hl, hbad l hl]
      rcases exec_jmpl hgo hr with h | ⟨h0, -⟩
      · rw [h, heq]
        exact State.raises_fault ..
      · exact absurd (heq.symm.trans h0) hne

/-! ## Calls (R92, R93, R106) -/

theorem exec_callv {s : State} {sc : BitVec 3} {d a : BitVec 6} (h : s.goes (.callv sc d a)) (hr : s.cur.regOnly = false)
    (hall : ∀ l < 32, s.active l → ((s.issued (.callv sc d a)).srcLane (.callv sc d a) .A l).toNat % 4 = 0) :
    let t := s.issued (.callv sc d a)
    let x := (t.jumpTo fun l => t.srcLane (.callv sc d a) .A l).writeReg s.cur.g d (laneResult s.cur.lanes fun _ => s.cur.addr + 4)
    exec (.callv sc d a) s = .next (if d = 58 then x else x.nestLanes s.cur.g s.cur.lanes) := by
  intro t x
  have hreplay : t.cur.replay = false := (State.issued_replay ..).trans h.replay
  have hbad : t.badTargets (.callv sc d a) = 0 := State.badTargets_none fun l hl ha => hall l hl (by simpa [t, State.active] using ha)
  have hok (ls : Lanes) : ls &&& ~~~(0 : Lanes) = ls := BitVec.and_allOnes
  have hjump (f : Nat → Word) : t.goto s.cur.lanes f = t.jumpTo f := by rw [← State.goto_jumpTo hreplay, State.issued_lanes]
  have harm : exec (.callv sc d a) s = execCallv sc d a s := rfl
  rw [harm, execCallv, s.issue_of_goes _ _ h]
  simp only [State.issued_regOnly, hr, Bool.false_eq_true, if_false, t] at hbad hjump ⊢
  simp only [hbad, hok, State.stay_none, State.faultUnit_none, hjump, State.writeLink, State.jumpTo_cur, State.issued_g,
    State.issued_lanes, State.issued_addr, beq_iff_eq]
  rfl

theorem exec_call {s : State} {sc : BitVec 3} {q : BitVec 18} (h : s.goes (.call sc q)) (hr : s.cur.regOnly = false) :
    exec (.call sc q) s = .next ((((s.issued (.call sc q)).writeReg s.cur.g 55 (laneResult allLanes fun _ => s.cur.addr + 4)).jumpTo
      fun _ => s.cur.addr + 4 * q.signExtend 64).nestLanes s.cur.g s.cur.lanes) := by
  have hreplay : ((s.issued (.call sc q)).writeLink 55 allLanes).cur.replay = false := (State.issued_replay ..).trans h.replay
  have hreg : ((s.issued (.call sc q)).writeLink 55 allLanes).cur.regOnly = false := (State.issued_regOnly ..).trans hr
  have haddr : ((s.issued (.call sc q)).writeLink 55 allLanes).cur.addr = s.cur.addr := s.issued_addr _
  have harm : exec (.call sc q) s = execCall sc q s := rfl
  rw [harm, execCall, s.issue_of_goes _ _ h]
  simp only [hreg, Bool.false_eq_true, if_false, State.goto_jumpTo hreplay, State.relTarget_eq, haddr]
  simp only [State.jumpTo_cur, State.writeLink, State.issued_addr, State.issued_g]
  rw [show ((s.issued (.call sc q)).writeReg s.cur.g 55 (laneResult allLanes fun _ => s.cur.addr + 4)).cur = (s.issued (.call sc q)).cur from rfl,
    State.issued_g, State.issued_lanes]

/-- A call is counted in a lane's innermost record (R106). -/
theorem State.nestLane_counts {s : State} {g l : Nat} {f : ForkRec} {rest : List ForkRec}
    (hrec : (s.lane g l).recs = f :: rest) (hn : f.nest < 255) :
    s.nestLane g l = s.modLane g l fun x => { x with recs := { f with nest := f.nest + 1 } :: rest } := by
  have hmod : (s.modLane g l fun x => { x with recs := modAt (fun q : ForkRec => { q with nest := q.nest + 1 }) 0 x.recs }) =
      s.modLane g l fun x => { x with recs := { f with nest := f.nest + 1 } :: rest } := by
    have hlane : (s.groups.getD g Group.absent).lane l = s.lane g l := rfl
    have : modAt (fun q : ForkRec => { q with nest := q.nest + 1 }) 0 (s.lane g l).recs = { f with nest := f.nest + 1 } :: rest := by rw [hrec]; rfl
    rw [State.modLane, State.modLane, State.modGrp, State.modGrp]
    congr 1
    exact modAt_congr _ _ _ _ Group.absent fun _ => by rw [Group.modLane, Group.modLane, hlane, this]
  have hlow : ¬ 255 < f.nest + 1 := by omega
  have hlow32 : ¬ 0xFFFFFFFF < f.nest + 1 := by omega
  rw [State.nestLane, hrec]
  simp only [hlow, hlow32, decide_false, Bool.and_false, Bool.false_eq_true, if_false]
  exact hmod

theorem calls : Calls := by
  intro s sc d a q hr
  refine ⟨?_, ?_, ?_, ?_⟩
  · intro i t target hgo hall
    exact ⟨_, laneResult_inLanes _ _, exec_callv hgo hr hall⟩
  · intro i hgo
    exact ⟨_, allLanes_eq ▸ laneResult_inLanes _ _, exec_call hgo hr⟩
  · exact fun g l f rest _ _ hrec hn => State.nestLane_counts hrec hn
  · intro g l hrec
    rw [State.nestLane, hrec]

/-- Settles O29: each branch through the equation of its instruction, a mixed jump as one move of all its lanes. -/
theorem branchesAndCalls : Obligations.BranchesAndCalls := ⟨branches, calls⟩

end Sys2Proof.Machine
end

section
/-! PROOFS. Results (O17): registers and masks bit by bit under pending writes, due writes out of the order of issue, and results for consumers. -/

namespace Sys2Proof.Machine

/-! ## Registers and masks bit by bit -/

/-- Bit b of a register or a mask as it is stored. -/
def Group.bit (gr : Group) : Dest → Nat → Bool
  | .reg spec, b => (gr.reg 64 spec).getLsbD b
  | .mask k, b => ((gr.k[k]?).getD 0).getLsbD b

/-- A destination that has a bit b to write: a register, or a mask other than k0 (R20, R44). -/
def Dest.holds : Dest → Nat → Bool
  | .reg spec, b => decide (spec.toNat < 56) && decide (b < 2048)
  | .mask k, b => decide (k ≠ 0) && decide (k < 8) && decide (b < 256)

theorem Dest.holds_reg {spec : BitVec 6} {b : Nat} : (Dest.reg spec).holds b = true ↔ spec.toNat < 56 ∧ b < 2048 := by simp [Dest.holds]
theorem Dest.holds_mask {k b : Nat} : (Dest.mask k).holds b = true ↔ (k ≠ 0 ∧ k < 8) ∧ b < 256 := by simp [Dest.holds]
theorem Dest.holds_lt {d : Dest} {b : Nat} (h : d.holds b = true) : b < 2048 := by
  cases d with
  | reg spec => exact (Dest.holds_reg.1 h).2
  | mask k => exact (Dest.holds_mask.1 h).2.trans (by omega)

/-- A pending write writes bit b of a destination. -/
def Pending.writes (p : Pending) (d : Dest) (b : Nat) : Bool := p.dest == d && p.en.getLsbD b

/-- A bit of a destination after the writes of a list, in its order. -/
def bitAfter (d : Dest) (b : Nat) (v : Bool) (ps : List Pending) : Bool := ps.foldl (fun v p => if p.writes d b then p.val.getLsbD b else v) v

theorem getLsbD_blend (en new old : Img) (b : Nat) : (blend en new old).getLsbD b = if en.getLsbD b then new.getLsbD b else old.getLsbD b := by
  rw [blend, BitVec.getLsbD_or, BitVec.getLsbD_and, BitVec.getLsbD_and, BitVec.getLsbD_not]
  by_cases hb : b < 2048
  · cases en.getLsbD b <;> simp [hb]
  · simp [BitVec.getLsbD_of_ge _ _ (show 2048 ≤ b by omega)]

/-- A group's registers and masks are known by their bits. -/
theorem Group.file_ext {x y : Group} (h : ∀ d b, d.holds b = true → x.bit d b = y.bit d b) (h0 : x.k[0] = y.k[0]) : x.v = y.v ∧ x.o = y.o ∧ x.k = y.k := by
  have hreg (n : Nat) (hn : n < 56) : x.reg 64 (BitVec.ofNat 6 n) = y.reg 64 (BitVec.ofNat 6 n) := BitVec.eq_of_getLsbD_eq fun b hb =>
    h (.reg (BitVec.ofNat 6 n)) b (Dest.holds_reg.2 ⟨by rw [BitVec.toNat_ofNat]; omega, hb⟩)
  refine ⟨?_, ?_, ?_⟩
  · ext n hn : 1
    have := hreg n (by omega)
    simpa only [Group.reg, BitVec.toNat_ofNat, Nat.mod_eq_of_lt (show n < 2 ^ 6 by omega), hn, if_true, Vector.getElem?_eq_getElem, Option.getD_some] using this
  · ext n hn : 1
    have := hreg (n + 48) (by omega)
    simpa only [Group.reg, BitVec.toNat_ofNat, Nat.mod_eq_of_lt (show n + 48 < 2 ^ 6 by omega), show ¬ n + 48 < 48 by omega, show n + 48 < 56 by omega,
      if_true, if_false, Nat.add_sub_cancel, hn, Vector.getElem?_eq_getElem, Option.getD_some] using this
  · ext n hn : 1
    rcases Nat.eq_zero_or_pos n with rfl | hpos
    · exact h0
    · refine BitVec.eq_of_getLsbD_eq fun b hb => ?_
      have := h (.mask n) b (Dest.holds_mask.2 ⟨⟨by omega, hn⟩, hb⟩)
      simpa only [Group.bit, hn, Vector.getElem?_eq_getElem, Option.getD_some] using this

/-! ## What a pending write does -/

/-- A bit that a write can reach depends on the register files alone. -/
theorem Group.bit_congr {x y : Group} (hv : x.v = y.v) (ho : x.o = y.o) (hk : x.k = y.k) {d : Dest} {b : Nat} (hd : d.holds b = true) :
    x.bit d b = y.bit d b := by
  cases d with
  | reg spec =>
    have hlt := (Dest.holds_reg.1 hd).1
    simp only [Group.bit, Group.reg, hv, ho, hlt, if_true]
  | mask k => simp only [Group.bit, hk]

theorem Group.addFlags_bit (gr : Group) (fs : List (Nat × BitVec 5)) {d : Dest} {b : Nat} (hd : d.holds b = true) : (gr.addFlags fs).bit d b = gr.bit d b := by
  unfold Group.addFlags
  split <;> exact Group.bit_congr (by rfl) (by rfl) (by rfl) hd

theorem Group.setReg_bit (gr : Group) (spec : BitVec 6) (en val : Img) (d : Dest) (b : Nat) (hd : d.holds b = true) :
    (gr.setReg spec en val).bit d b = if d = .reg spec ∧ en.getLsbD b = true then val.getLsbD b else gr.bit d b := by
  cases d with
  | reg spec' =>
    have hlt := (Dest.holds_reg.1 hd).1
    by_cases he : spec' = spec
    · subst he
      simp [Group.bit, gr.setReg_reg _ _ _ 64 hlt, getLsbD_blend]
    · simp only [Group.bit, Dest.reg.injEq, he, false_and, if_false]
      rw [Group.setReg_reg_other _ _ _ _ _ _ he]
  | mask k => rw [Group.setReg_keeps, if_neg (by simp)]; rfl

theorem Group.setMask_bit (gr : Group) (k : Nat) (en val : Mask) (d : Dest) (b : Nat) (hd : d.holds b = true) :
    (gr.setMask k en val).bit d b = if d = .mask k ∧ en.getLsbD b = true then val.getLsbD b else gr.bit d b := by
  cases d with
  | reg spec =>
    have hlt := (Dest.holds_reg.1 hd).1
    rw [Group.setMask_keeps, if_neg (by simp)]
    simp only [Group.bit, Group.reg, hlt, if_true]
  | mask k' =>
    obtain ⟨⟨h0, h8⟩, hb⟩ := Dest.holds_mask.1 hd
    by_cases he : k' = k
    · subst he
      simp only [Group.setMask, Group.bit, beq_iff_eq, h0, if_false, h8, Vector.getElem?_setIfInBounds_self, if_true, Option.getD_some, BitVec.getLsbD_or,
        BitVec.getLsbD_and, BitVec.getLsbD_not, hb, decide_true, Bool.true_and, true_and]
      cases en.getLsbD b <;> simp
    · rw [if_neg (by simp [he])]
      by_cases hk : k = 0
      · subst hk; rfl
      · simp [Group.setMask, Group.bit, hk, Ne.symm he]

theorem Group.enterLast_bit (gr : Group) (ls : Lanes) (val : Img) (seq : Nat) {d : Dest} {b : Nat} (hd : d.holds b = true) :
    (gr.enterLast ls val seq).bit d b = gr.bit d b := Group.bit_congr (by rfl) (by rfl) (by rfl) hd

/-- A pending write, performed, changes the bits that it writes and no others (R47, R52). -/
theorem Group.perform_bit (gr : Group) (p : Pending) {d : Dest} {b : Nat} (hd : d.holds b = true) :
    (gr.perform p).bit d b = if p.writes d b then p.val.getLsbD b else gr.bit d b := by
  have hflags : (if p.flags.isEmpty then gr else gr.addFlags p.flags).bit d b = gr.bit d b := by
    split
    · rfl
    · exact gr.addFlags_bit _ hd
  unfold Group.perform
  dsimp only
  cases hdest : p.dest with
  | reg spec =>
    have hset := (if p.flags.isEmpty then gr else gr.addFlags p.flags).setReg_bit spec p.en p.val d b hd
    dsimp only
    rw [apply_ite (fun x : Group => x.bit d b), Group.enterLast_bit _ _ _ _ hd, ite_self, hset, hflags]
    simp only [Pending.writes, hdest, Bool.and_eq_true, beq_iff_eq, eq_comm (a := d)]
  | mask k =>
    have hb : d = .mask k → b < 256 := by rintro rfl; exact (Dest.holds_mask.1 hd).2
    rw [Group.setMask_bit _ _ _ _ _ _ hd, hflags]
    simp only [BitVec.truncate_eq_setWidth, BitVec.getLsbD_setWidth, Pending.writes, hdest]
    by_cases he : d = .mask k
    · simp [he, hb he]
    · simp [he, Ne.symm he]

theorem Group.performs_bit (ps : List Pending) (gr : Group) {d : Dest} {b : Nat} (hd : d.holds b = true) :
    (ps.foldl Group.perform gr).bit d b = bitAfter d b (gr.bit d b) ps := by
  induction ps generalizing gr with
  | nil => rfl
  | cons p ps ih => rw [List.foldl_cons, ih, gr.perform_bit p hd, bitAfter, bitAfter, List.foldl_cons]

/-- k0 is no pending write's (R20). -/
theorem Group.perform_k0 (gr : Group) (p : Pending) : (gr.perform p).k[0] = gr.k[0] := by
  have hflags : (if p.flags.isEmpty then gr else gr.addFlags p.flags).k = gr.k := by
    unfold Group.addFlags
    split
    · rfl
    · split <;> rfl
  unfold Group.perform
  dsimp only
  cases p.dest with
  | reg spec =>
    dsimp only
    rw [Group.setReg_keeps, ← hflags]
    split <;> rfl
  | mask k =>
    dsimp only
    rw [← hflags]
    unfold Group.setMask
    split
    · rfl
    next hk => exact Vector.getElem_setIfInBounds_ne (by omega) (by simpa using hk)

theorem Group.performs_k0 (ps : List Pending) (gr : Group) : (ps.foldl Group.perform gr).k[0] = gr.k[0] := by
  induction ps generalizing gr with
  | nil => rfl
  | cons p ps ih => rw [List.foldl_cons, ih, gr.perform_k0]

theorem Group.flush_bit (gr : Group) {d : Dest} {b : Nat} (hd : d.holds b = true) : gr.flush.bit d b = bitAfter d b (gr.bit d b) gr.fix :=
  (Group.bit_congr (by rfl) (by rfl) (by rfl) hd).trans (Group.performs_bit gr.fix gr hd)
theorem Group.flush_k0 (gr : Group) : gr.flush.k[0] = gr.k[0] := gr.performs_k0 gr.fix

/-! ## Younger writes that go first (R52) -/

@[simp] theorem bitAfter_nil (d : Dest) (b : Nat) (v : Bool) : bitAfter d b v [] = v := rfl
theorem bitAfter_cons (d : Dest) (b : Nat) (v : Bool) (p : Pending) (ps : List Pending) :
    bitAfter d b v (p :: ps) = bitAfter d b (if p.writes d b then p.val.getLsbD b else v) ps := rfl
theorem bitAfter_append (d : Dest) (b : Nat) (v : Bool) (ps qs : List Pending) : bitAfter d b v (ps ++ qs) = bitAfter d b (bitAfter d b v ps) qs :=
  List.foldl_append

/-- Overtaken writes leave the bits that the younger write has, and do elsewhere what they did. -/
theorem bitAfter_overtaken (d d' : Dest) (en : Img) (b : Nat) (hb : b < 2048) (w : Img) (v : Bool) (ps : List Pending) :
    bitAfter d b v (overtaken d' en w ps) = if d = d' ∧ en.getLsbD b = true then v else bitAfter d b v ps := by
  induction ps generalizing w v with
  | nil => simp [overtaken]
  | cons q ps ih =>
    rw [overtaken]
    by_cases hq : q.dest = d'
    · rw [if_pos (by simpa using hq), bitAfter_cons, ih, bitAfter_cons]
      by_cases hd : d = d'
      · cases he : en.getLsbD b <;> simp [Pending.writes, hq, hd, he, hb, -BitVec.getLsbD_eq_getElem]
      · have : d' ≠ d := Ne.symm hd
        simp [Pending.writes, hq, hd, this]
    · rw [if_neg (by simpa using hq), bitAfter_cons, ih, bitAfter_cons]
      by_cases hd : d = d'
      · simp [Pending.writes, hd, hq]
      · simp [hd]

/-! ## Flags (R72) -/

/-- A pending write raises bit b of FPMODE. -/
def Pending.raisesBit (b : Nat) (p : Pending) : Bool := decide (8 ≤ b) && p.flags.any fun q => q.2.getLsbD (b - 8)

theorem getLsbD_foldl_or (fs : List (Nat × BitVec 5)) (v : BitVec 5) (j : Nat) :
    (fs.foldl (fun (acc : BitVec 5) p => acc ||| p.2) v).getLsbD j = (v.getLsbD j || fs.any fun q => q.2.getLsbD j) := by
  induction fs generalizing v with
  | nil => simp
  | cons f fs ih => rw [List.foldl_cons, ih, List.any_cons, BitVec.getLsbD_or, Bool.or_assoc]

theorem Group.addFlags_fpmode (gr : Group) (fs : List (Nat × BitVec 5)) (h : gr.shadow = none) (b : Nat) (hb : b < 64) :
    (gr.addFlags fs).fpmode.getLsbD b = (gr.fpmode.getLsbD b || (decide (8 ≤ b) && fs.any fun q => q.2.getLsbD (b - 8))) := by
  simp only [Group.addFlags, h, Option.isSome_none, Bool.false_eq_true, if_false]
  rw [BitVec.getLsbD_or, BitVec.getLsbD_shiftLeft, BitVec.getLsbD_setWidth, getLsbD_foldl_or]
  by_cases h8 : 8 ≤ b
  · simp [hb, h8, show ¬ b < 8 by omega, show b - 8 < 64 by omega]
  · simp [h8, show b < 8 by omega]

/-- What raising the flags of a pending write leaves. -/
theorem Group.addFlags_keeps (gr : Group) (fs : List (Nat × BitVec 5)) :
    gr.addFlags fs = { gr with fpmode := (gr.addFlags fs).fpmode, lanes := (gr.addFlags fs).lanes } := by
  unfold Group.addFlags; split <;> rfl

/-- A group with the flags of a pending write raised. -/
def Group.flagged (gr : Group) (p : Pending) : Group := if p.flags.isEmpty then gr else gr.addFlags p.flags

theorem Group.flagged_keeps (gr : Group) (p : Pending) : gr.flagged p = { gr with fpmode := (gr.flagged p).fpmode, lanes := (gr.flagged p).lanes } := by
  unfold Group.flagged; split
  · rfl
  · exact gr.addFlags_keeps _

theorem Group.flagged_fpmode (gr : Group) (p : Pending) (b : Nat) (hb : b < 64) :
    (gr.flagged p).fpmode.getLsbD b = (gr.fpmode.getLsbD b || (gr.shadow.isNone && p.raisesBit b)) := by
  unfold Group.flagged Pending.raisesBit
  cases hs : gr.shadow with
  | some x => split <;> simp [Group.addFlags, hs]
  | none =>
    split
    next he => simp [List.isEmpty_iff.1 he]
    · rw [gr.addFlags_fpmode _ hs b hb]; simp

/-- The parts of a pending write's performance: the flags, then the destination. -/
theorem Group.perform_reg (gr : Group) {p : Pending} {d : BitVec 6} (h : p.dest = .reg d) :
    gr.perform p = if p.last == 0 then (gr.flagged p).setReg d p.en p.val
      else ((gr.flagged p).setReg d p.en p.val).enterLast p.last
        (p.full.getD (if d.toNat < 56 then ((gr.flagged p).setReg d p.en p.val).reg 64 d else p.val &&& p.en)) p.seq := by
  unfold Group.perform
  rw [h]
  rfl
theorem Group.perform_mask (gr : Group) {p : Pending} {k : Nat} (h : p.dest = .mask k) :
    gr.perform p = (gr.flagged p).setMask k (p.en.truncate 256) (p.val.truncate 256) := by
  unfold Group.perform
  rw [h]
  rfl

/-- The destination of a pending write is neither FPMODE nor the lanes. -/
theorem Group.perform_keeps (gr : Group) (p : Pending) :
    (gr.perform p).fpmode = (gr.flagged p).fpmode ∧ (gr.perform p).lanes = (gr.flagged p).lanes ∧ (gr.perform p).shadow = (gr.flagged p).shadow := by
  cases h : p.dest with
  | reg d =>
    rw [gr.perform_reg h, Group.setReg_keeps]
    split <;> exact ⟨rfl, rfl, rfl⟩
  | mask k =>
    rw [gr.perform_mask h, Group.setMask_keeps]
    exact ⟨rfl, rfl, rfl⟩

theorem Group.perform_shadow (gr : Group) (p : Pending) : (gr.perform p).shadow = gr.shadow := by
  obtain ⟨-, -, hs⟩ := gr.perform_keeps p
  rw [hs, gr.flagged_keeps]

theorem Group.perform_fpmode (gr : Group) (p : Pending) (b : Nat) (hb : b < 64) :
    (gr.perform p).fpmode.getLsbD b = (gr.fpmode.getLsbD b || (gr.shadow.isNone && p.raisesBit b)) := by
  obtain ⟨hf, -, -⟩ := gr.perform_keeps p
  rw [hf, gr.flagged_fpmode p b hb]

theorem Group.performs_fpmode (ps : List Pending) (gr : Group) (b : Nat) (hb : b < 64) :
    (ps.foldl Group.perform gr).fpmode.getLsbD b = (gr.fpmode.getLsbD b || (gr.shadow.isNone && ps.any (Pending.raisesBit b))) := by
  induction ps generalizing gr with
  | nil => simp
  | cons p ps ih =>
    rw [List.foldl_cons, ih, gr.perform_fpmode p b hb, gr.perform_shadow, List.any_cons]
    cases gr.shadow.isNone <;> simp [Bool.or_assoc]

theorem overtaken_raisesBit (b : Nat) (d : Dest) (en w : Img) (ps : List Pending) : (overtaken d en w ps).any (Pending.raisesBit b) = ps.any (Pending.raisesBit b) := by
  induction ps generalizing w with
  | nil => rfl
  | cons q ps ih =>
    rw [overtaken]
    split
    · rw [List.any_cons, List.any_cons, ih]; rfl
    · rw [List.any_cons, List.any_cons, ih]

/-- Overtaken writes become readable when they were to. -/
theorem overtaken_avail {d : Dest} {en w : Img} {ps : List Pending} {now : Nat} (h : ∀ p ∈ ps, now < p.avail) : ∀ p ∈ overtaken d en w ps, now < p.avail := by
  induction ps generalizing w with
  | nil => exact h
  | cons q ps ih =>
    have hq := h q List.mem_cons_self
    have hps (v : Img) := ih (w := v) fun p hp => h p (List.mem_cons_of_mem _ hp)
    rw [overtaken]
    split
    · exact List.forall_mem_cons.2 ⟨hq, hps _⟩
    · exact List.forall_mem_cons.2 ⟨hq, hps _⟩

/-! ## Due writes out of order (R50, R52) -/

/-- The writes not yet due once a younger one has gone first. -/
def Group.passedBy (gr : Group) (p : Pending) (older : List Pending) : List Pending :=
  match p.dest with
  | .reg spec => if spec.toNat < 56 then overtaken p.dest p.en (gr.reg 64 spec) older else older
  | .mask _ => overtaken p.dest p.en 0 older

/-- The older writes are overtaken, or the younger one discards its result. -/
theorem Group.passedBy_cases (gr : Group) (p : Pending) (older : List Pending) :
    (∃ w, gr.passedBy p older = overtaken p.dest p.en w older) ∨ (gr.passedBy p older = older ∧ ∀ b, p.dest.holds b = false) := by
  cases hp : p.dest with
  | mask k => exact .inl ⟨0, by simp only [Group.passedBy, hp]⟩
  | reg spec =>
    by_cases h56 : spec.toNat < 56
    · exact .inl ⟨gr.reg 64 spec, by simp only [Group.passedBy, hp, h56, if_true]⟩
    · refine .inr ⟨by simp only [Group.passedBy, hp, h56, if_false], fun b => ?_⟩
      rw [← Bool.not_eq_true, Dest.holds_reg]
      exact fun h => h56 h.1

theorem Group.settleList_due {gr : Group} {now : Nat} {older rest : List Pending} {p : Pending} (h : p.avail ≤ now) :
    Group.settleList now older (p :: rest) gr = Group.settleList now (gr.passedBy p older) rest (gr.perform (p.fixed gr older)) := by
  rw [Group.settleList, if_pos h]
  rfl
theorem Group.settleList_later {gr : Group} {now : Nat} {older rest : List Pending} {p : Pending} (h : ¬ p.avail ≤ now) :
    Group.settleList now older (p :: rest) gr = Group.settleList now (older ++ [p]) rest gr := by
  rw [Group.settleList, if_neg h]

theorem Pending.fixed_keeps (gr : Group) (older : List Pending) (p : Pending) : p.fixed gr older = { p with full := (p.fixed gr older).full } := by
  unfold Pending.fixed
  split
  · split <;> rfl
  · rfl

/-- A due write that goes before older ones leaves every bit what the order of issue gives it. -/
theorem Group.bitAfter_passedBy (gr : Group) (p : Pending) (older : List Pending) {d : Dest} {b : Nat} (hd : d.holds b = true) (v : Bool) :
    bitAfter d b (if p.writes d b then p.val.getLsbD b else v) (gr.passedBy p older) = bitAfter d b v (older ++ [p]) := by
  have hone (v : Bool) : bitAfter d b v [p] = if p.writes d b then p.val.getLsbD b else v := rfl
  rcases gr.passedBy_cases p older with ⟨w, h⟩ | ⟨h, hno⟩
  · have hiff : (d = p.dest ∧ p.en.getLsbD b = true) ↔ p.writes d b = true := by rw [Pending.writes, Bool.and_eq_true, beq_iff_eq, eq_comm]
    simp only [h, bitAfter_overtaken _ _ _ _ (Dest.holds_lt hd), bitAfter_append, hone, hiff]
    split <;> rfl
  · have hw : p.writes d b = false := by
      rw [Pending.writes, Bool.and_eq_false_iff]
      refine .inl (beq_eq_false_iff_ne.2 fun he => ?_)
      rw [← he, hno b] at hd
      exact Bool.false_ne_true hd
    rw [h, bitAfter_append, hone, hw]
    rfl

theorem Group.settleList_bit (now : Nat) (rest older : List Pending) (gr : Group) {d : Dest} {b : Nat} (hd : d.holds b = true) :
    bitAfter d b ((Group.settleList now older rest gr).bit d b) (Group.settleList now older rest gr).fix = bitAfter d b (gr.bit d b) (older ++ rest) := by
  induction rest generalizing older gr with
  | nil => rw [Group.settleList, List.append_nil, Group.bit_congr (x := { gr with fix := older }) (y := gr) (by rfl) (by rfl) (by rfl) hd]
  | cons p rest ih =>
    by_cases h : p.avail ≤ now
    · have hfixed : (p.fixed gr older).writes d b = p.writes d b ∧ (p.fixed gr older).val = p.val := by rw [p.fixed_keeps]; exact ⟨rfl, rfl⟩
      obtain ⟨hw, hv⟩ := hfixed
      rw [Group.settleList_due h, ih, Group.perform_bit _ _ hd, hw, hv, bitAfter_append, Group.bitAfter_passedBy _ _ _ hd, ← bitAfter_append,
        List.append_assoc, List.singleton_append]
    · rw [Group.settleList_later h, ih, List.append_assoc, List.singleton_append]

theorem Group.settleList_k0 (now : Nat) (rest older : List Pending) (gr : Group) : (Group.settleList now older rest gr).k[0] = gr.k[0] := by
  induction rest generalizing older gr with
  | nil => rfl
  | cons p rest ih =>
    by_cases h : p.avail ≤ now
    · rw [Group.settleList_due h, ih, Group.perform_k0]
    · rw [Group.settleList_later h, ih]

theorem Group.passedBy_raisesBit (gr : Group) (p : Pending) (older : List Pending) (b : Nat) :
    (gr.passedBy p older).any (Pending.raisesBit b) = older.any (Pending.raisesBit b) := by
  rcases gr.passedBy_cases p older with ⟨w, h⟩ | ⟨h, -⟩
  · rw [h, overtaken_raisesBit]
  · rw [h]

theorem Group.settleList_fpmode (now : Nat) (rest older : List Pending) (gr : Group) (b : Nat) (hb : b < 64) :
    let x := Group.settleList now older rest gr
    x.shadow = gr.shadow ∧ (x.fpmode.getLsbD b || (gr.shadow.isNone && x.fix.any (Pending.raisesBit b))) =
      (gr.fpmode.getLsbD b || (gr.shadow.isNone && (older ++ rest).any (Pending.raisesBit b))) := by
  induction rest generalizing older gr with
  | nil => rw [List.append_nil]; exact ⟨rfl, rfl⟩
  | cons p rest ih =>
    by_cases h : p.avail ≤ now
    · have hfixed : (p.fixed gr older).raisesBit b = p.raisesBit b := by rw [p.fixed_keeps]; rfl
      obtain ⟨hs, hf⟩ := ih (gr.passedBy p older) (gr.perform (p.fixed gr older))
      rw [Group.settleList_due h]
      rw [Group.perform_shadow] at hs hf
      refine ⟨hs, hf.trans ?_⟩
      rw [Group.perform_fpmode _ _ _ hb, hfixed, List.any_append, List.any_append, Group.passedBy_raisesBit, List.any_cons]
      cases gr.shadow.isNone <;> cases gr.fpmode.getLsbD b <;> cases p.raisesBit b <;> simp
    · rw [Group.settleList_later h]
      have := ih (older ++ [p]) gr
      rwa [List.append_assoc, List.singleton_append] at this

theorem Group.settleList_avail (now : Nat) (rest older : List Pending) (gr : Group) (h : ∀ p ∈ older, now < p.avail) :
    ∀ p ∈ (Group.settleList now older rest gr).fix, now < p.avail := by
  induction rest generalizing older gr with
  | nil => exact h
  | cons p rest ih =>
    by_cases hp : p.avail ≤ now
    · rw [Group.settleList_due hp]
      refine ih _ _ ?_
      rcases gr.passedBy_cases p older with ⟨w, hpass⟩ | ⟨hpass, -⟩
      · rw [hpass]; exact overtaken_avail h
      · rw [hpass]; exact h
    · rw [Group.settleList_later hp]
      refine ih _ _ fun q hq => ?_
      rcases List.mem_append.1 hq with hq | hq
      · exact h q hq
      · rw [List.mem_singleton.1 hq]; omega

theorem settleKeepsOrder : SettleKeepsOrder := by
  intro gr now
  have hfile := Group.file_ext (x := (gr.settle now).flush) (y := gr.flush)
    (fun d b hd => by
      rw [Group.flush_bit _ hd, Group.flush_bit _ hd]
      exact Group.settleList_bit now gr.fix [] gr hd)
    (by rw [Group.flush_k0, Group.flush_k0]; exact Group.settleList_k0 now gr.fix [] gr)
  obtain ⟨hv, ho, hk⟩ := hfile
  refine ⟨hv, ho, hk, BitVec.eq_of_getLsbD_eq fun b hb => ?_, fun hs => Group.eq_of_bare (gr.settle_bare now hs) Group.lanes fun _ => rfl, ?_⟩
  · obtain ⟨hs, hf⟩ := Group.settleList_fpmode now gr.fix [] gr b hb
    have hx := Group.performs_fpmode (gr.settle now).fix (gr.settle now) b hb
    rw [show (gr.settle now).shadow = gr.shadow from hs] at hx
    exact hx.trans (hf.trans (Group.performs_fpmode gr.fix gr b hb).symm)
  · exact Group.settleList_avail now gr.fix [] gr fun p hp => absurd hp List.not_mem_nil

/-! ## One pending write performed (R45, R72) -/

theorem el_blend_of_none {w e : Nat} {en : Img} (new old : Img) (h : el w e en = 0) : el w e (blend en new old) = el w e old := by
  apply Nat.eq_of_testBit_eq
  intro j
  simp only [el, Nat.testBit_mod_two_pow, Nat.testBit_div_two_pow, BitVec.testBit_toNat]
  by_cases hj : j < w
  · have hen : en.getLsbD (j + w * e) = false := by
      have := congrArg (Nat.testBit · j) h
      simpa [el, Nat.testBit_mod_two_pow, Nat.testBit_div_two_pow, BitVec.testBit_toNat, hj] using this
    rw [getLsbD_blend, hen]
    rfl
  · simp [hj]

/-- The lanes of a set take the new image, the others keep the old one. -/
theorem laneOf_blend_laneBits (ls : Lanes) (new old : Img) {l : Nat} (hl : l < 32) :
    laneOf (blend (laneBits ls) new old) l = if ls.getLsbD l then laneOf new l else laneOf old l := by
  have hbits := el_laneBits ls 64 l (dvd_refl _) (by omega)
  rw [show laneIx 64 l = l by unfold laneIx; omega] at hbits
  split
  next h => rw [laneOf, el_blend_of_full _ _ (hbits.trans (if_pos h)), laneOf]
  next h => rw [laneOf, el_blend_of_none _ _ (hbits.trans (if_neg h)), laneOf]

/-- A result that is younger than the one in la enters la, and the old one moves to lb (R45). -/
theorem Group.enterLast_newer (gr : Group) (ls : Lanes) (val : Img) (seq : Nat) {l : Nat} (hl : l < 32) (hin : ls.getLsbD l = true)
    (hseq : (gr.laSeq[l]?).getD 0 < seq) :
    laneOf (gr.enterLast ls val seq).la l = laneOf val l ∧ laneOf (gr.enterLast ls val seq).lb l = laneOf gr.la l := by
  simp only [Group.enterLast, laneOf_blend_laneBits _ _ _ hl, getLsbD_lanesWhere _ _ hl, hin, hseq, decide_true, Bool.and_self, if_true, and_self]
theorem Group.enterLast_other (gr : Group) (ls : Lanes) (val : Img) (seq : Nat) {l : Nat} (hl : l < 32) (hin : ls.getLsbD l = false) :
    laneOf (gr.enterLast ls val seq).la l = laneOf gr.la l ∧ laneOf (gr.enterLast ls val seq).lb l = laneOf gr.lb l := by
  simp only [Group.enterLast, laneOf_blend_laneBits _ _ _ hl, getLsbD_lanesWhere _ _ hl, hin, Bool.false_and, Bool.false_eq_true, if_false, and_self]

/-- A register is read from the register files alone. -/
theorem Group.reg_congr {x y : Group} (hv : x.v = y.v) (ho : x.o = y.o) (w w' : Nat) {spec : BitVec 6} (h : spec.toNat < 56) : x.reg w spec = y.reg w' spec := by
  simp only [Group.reg, hv, ho, h, if_true]

theorem Group.flagged_lane (gr : Group) (p : Pending) (h : gr.shadow.isSome = true) {l : Nat} (hl : l < 32) :
    (gr.flagged p).lane l = { gr.lane l with flags := (gr.lane l).flags ||| (look p.flags l).getD 0 } := by
  unfold Group.flagged
  split
  next he =>
    rw [List.isEmpty_iff.1 he]
    simp [look]
  · simp [Group.addFlags, h, Group.lane, hl]

theorem Group.flagged_lanes (gr : Group) (p : Pending) (h : gr.shadow = none) : (gr.flagged p).lanes = gr.lanes := by
  unfold Group.flagged Group.addFlags
  rw [h]
  split <;> rfl

theorem pendingPerformed : PendingPerformed := by
  intro gr d p hd hdest x
  have hkeeps := gr.perform_keeps p
  obtain ⟨hfp, hlanes, -⟩ := hkeeps
  have hf := gr.flagged_keeps p
  have hset (w : Nat) (spec : BitVec 6) (hs : spec.toNat < 56) : ((gr.flagged p).setReg d p.en p.val).reg w spec =
      if spec = d then (p.val &&& p.en) ||| (gr.reg w spec &&& ~~~p.en) else gr.reg w spec := by
    have hbase : (gr.flagged p).reg w spec = gr.reg w spec := Group.reg_congr (by rw [hf]) (by rw [hf]) w w hs
    split
    next he => subst he; rw [Group.setReg_reg _ _ _ _ _ hs, hbase, blend]
    next he => rw [Group.setReg_reg_other _ _ _ _ _ _ he, hbase]
  have hreg (w w' : Nat) (spec : BitVec 6) (hs : spec.toNat < 56) : x.reg w spec = ((gr.flagged p).setReg d p.en p.val).reg w' spec := by
    have hx : x = _ := gr.perform_reg hdest
    refine Group.reg_congr ?_ ?_ w w' hs
    · rw [hx]; split <;> rfl
    · rw [hx]; split <;> rfl
  have hlast : ((gr.flagged p).setReg d p.en p.val).la = gr.la ∧ ((gr.flagged p).setReg d p.en p.val).lb = gr.lb ∧
      ((gr.flagged p).setReg d p.en p.val).laSeq = gr.laSeq := by
    rw [Group.setReg_keeps, hf]; exact ⟨rfl, rfl, rfl⟩
  obtain ⟨hla, hlb, hlaSeq⟩ := hlast
  refine ⟨fun w spec hs => (hreg w w spec hs).trans (hset w spec hs), ?_, fun hs => ⟨hlanes.trans (gr.flagged_lanes p hs), fun b hb => ?_⟩,
    fun hs => ⟨?_, fun l hl => ?_⟩, fun l hl hin hseq => ?_, fun l hl hin => ?_⟩
  · have hx : x = _ := gr.perform_reg hdest
    rw [hx, Group.setReg_keeps, hf]
    split <;> rfl
  · rw [show x.fpmode = _ from hfp, gr.flagged_fpmode p b hb, hs]
    simp [Pending.raisesBit]
  · refine hfp.trans (BitVec.eq_of_getLsbD_eq fun b hb => ?_)
    rw [gr.flagged_fpmode p b hb, Option.isNone_eq_false_iff.2 hs]
    simp
  · rw [← gr.flagged_lane p hs hl, Group.lane, Group.lane, show x.lanes = _ from hlanes]
  · have hne : ¬ (p.last == 0) = true := by
      intro h0
      rw [beq_iff_eq.1 h0] at hin
      simp at hin
    have hx : x = _ := (gr.perform_reg hdest).trans (if_neg hne)
    have hval := hreg 64 64 d hd
    have hnew := ((gr.flagged p).setReg d p.en p.val).enterLast_newer p.last (p.full.getD (((gr.flagged p).setReg d p.en p.val).reg 64 d)) p.seq hl hin
      (by rw [hlaSeq]; exact hseq)
    rw [if_pos hd] at hx
    rwa [← hx, ← hval, hla] at hnew
  · have hx : x = _ := gr.perform_reg hdest
    have hother (val : Img) := ((gr.flagged p).setReg d p.en p.val).enterLast_other p.last val p.seq hl hin
    rw [hla, hlb] at hother
    rw [hx]
    split
    · rw [hla, hlb]; exact ⟨rfl, rfl⟩
    · exact hother _

/-! ## Results of fixed and of variable latency (R50 to R52) -/

theorem Instr.not_uniform_of_lane {i : Instr} (h : i.laneOp < 0x400) : ¬ i.uniOp < 0x400 := by
  unfold Instr.laneOp at h
  unfold Instr.uniOp
  cases hk : i.key with
  | none => simp
  | some p =>
    obtain ⟨u, op⟩ := p
    cases u
    · simp
    · simp [hk] at h

/-- A row of fixed latency that is no lane row is a uniform one (R50). -/
theorem Instr.uniform_of_latency {i : Instr} {L : Nat} (hl : 0x400 ≤ i.laneOp) (h : i.latency = some L) : i.uniOp < 0x400 := by
  by_contra hu
  have : i.latency = none := by
    unfold Instr.latency
    dsimp only
    rw [if_neg (by simp; omega), if_neg (by simp; omega), if_neg (by simp; omega)]
  rw [this] at h
  exact absurd h (by simp)

/-- A write that is not a uniform row's stands at the end (R130). -/
theorem addPending_lane (fix : List Pending) {p : Pending} (h : p.uni = false) : addPending fix p = fix ++ [p] := by
  have hall : (fun q : Pending => !(p.uni && !q.uni && q.dest == p.dest && q.issued == p.issued)) = fun _ => true := by
    funext q; rw [h]; rfl
  unfold addPending
  dsimp only
  rw [hall, List.takeWhile_eq_self_iff.2 (fun _ _ => rfl), List.dropWhile_eq_nil_iff.2 (fun _ _ => rfl)]

theorem fixedLatencyResult : FixedLatencyResult := by
  intro s i d r lanes fl L hl hrt hop hlat hg t
  have huni : decide (i.uniOp < 0x400) = false := decide_eq_false (Instr.not_uniform_of_lane hop)
  have ht : t = _ := s.finishWith_pending i d r lanes fl L hl hrt hlat
  refine ⟨s.finishWith_onlyGroup i d r lanes fl hrt, ?_⟩
  rw [ht, State.modGrp_self _ _ _ hg, addPending_lane _ (by exact huni), if_pos hop, State.pend, huni]

/-- A uniform row's write stands before the lane writes to its destination from its own cycle (R130). -/
theorem addPending_uniform (fix : List Pending) {p : Pending} (h : p.uni = true) :
    ∃ xs ys, fix = xs ++ ys ∧ addPending fix p = xs ++ p :: ys ∧ (∀ q ∈ xs, ¬ (q.uni = false ∧ q.dest = p.dest ∧ q.issued = p.issued)) ∧
      ∀ q, ys.head? = some q → q.uni = false ∧ q.dest = p.dest ∧ q.issued = p.issued := by
  have hsame (q : Pending) : (!(p.uni && !q.uni && q.dest == p.dest && q.issued == p.issued)) = false ↔ q.uni = false ∧ q.dest = p.dest ∧ q.issued = p.issued := by
    simp only [h, Bool.true_and, Bool.not_eq_false', Bool.and_eq_true, Bool.not_eq_true', beq_iff_eq, and_assoc]
  refine ⟨_, _, (List.takeWhile_append_dropWhile ..).symm, rfl, fun q hq hs => ?_, fun q hq => ?_⟩
  · exact absurd (List.mem_takeWhile_imp hq) (by rw [(hsame q).2 hs]; exact Bool.false_ne_true)
  · have hhead := List.head?_dropWhile_not (fun q : Pending => !(p.uni && !q.uni && q.dest == p.dest && q.issued == p.issued)) fix
    rw [hq] at hhead
    exact (hsame q).1 hhead

theorem uniformResult : UniformResult := by
  intro s i d r lanes L hl hrt hop hlat hg t isSame
  have huni : decide (i.uniOp < 0x400) = true := decide_eq_true (Instr.uniform_of_latency hop hlat)
  have ht : t = _ := s.finish_pending i d r lanes L hl hrt hlat
  obtain ⟨xs, ys, hfix, hadd, hxs, hys⟩ := addPending_uniform (s.grp s.cur.g).fix (p := s.pend i L (.reg d) r.en r.val 0 []) huni
  refine ⟨s.finish_onlyGroup i d r lanes hrt, xs, ys, hfix, hxs, hys, ?_⟩
  rw [ht, State.modGrp_self _ _ _ hg, if_neg (by omega), hadd, State.pend, huni]

/-- A register written before older writes that are still pending: the order of issue is kept (R52). -/
theorem Group.written_flush_bit (gr : Group) (spec : BitVec 6) (en val : Img) {d : Dest} {b : Nat} (hd : d.holds b = true) :
    ((gr.overtake spec en).setReg spec en val).flush.bit d b = if d = .reg spec ∧ en.getLsbD b = true then val.getLsbD b else gr.flush.bit d b := by
  rw [Group.flush_bit _ hd, Group.setReg_bit _ _ _ _ _ _ hd, Group.flush_bit _ hd, Group.setReg_keeps]
  by_cases h : spec.toNat < 56
  · rw [Group.overtake, if_pos h]
    rw [bitAfter_overtaken _ _ _ _ (Dest.holds_lt hd)]
    split
    · rfl
    · exact congrArg (bitAfter d b · gr.fix) (Group.bit_congr (by rfl) (by rfl) (by rfl) hd)
  · have hne : d ≠ .reg spec := fun he => h (Dest.holds_reg.1 (he ▸ hd)).1
    rw [Group.overtake, if_neg h, if_neg (fun hc => hne hc.1), if_neg (fun hc => hne hc.1)]

/-- Every register and mask after a write, and with every pending write performed too. -/
theorem Group.written_flush (gr : Group) (d : BitVec 6) (r : Result) :
    let x := (gr.overtake d r.en).setReg d r.en r.val
    (∀ spec : BitVec 6, spec.toNat < 56 → x.flush.reg 64 spec =
      if spec = d then (r.val &&& r.en) ||| (gr.flush.reg 64 spec &&& ~~~r.en) else gr.flush.reg 64 spec) ∧ x.flush.k = gr.flush.k := by
  intro x
  refine ⟨fun spec hs => BitVec.eq_of_getLsbD_eq fun b hb => ?_, ?_⟩
  · have hbit := gr.written_flush_bit d r.en r.val (Dest.holds_reg.2 ⟨hs, hb⟩)
    refine Eq.trans hbit ?_
    split
    next h =>
      obtain ⟨hd, he⟩ := h
      rw [if_pos (Dest.reg.inj hd), ← blend, getLsbD_blend, if_pos he]
    next h =>
      split
      next hd =>
        have : r.en.getLsbD b ≠ true := fun he => h ⟨by rw [hd], he⟩
        rw [← blend, getLsbD_blend, if_neg this]
        rfl
      · rfl
  · have hover : (gr.overtake d r.en).k = gr.k := by unfold Group.overtake; split <;> rfl
    have h0 : x.k[0] = gr.k[0] := by
      simp only [x]
      rw [Group.setReg_keeps]
      exact congrArg (·[0]) hover
    ext n hn : 1
    rcases Nat.eq_zero_or_pos n with rfl | hpos
    · rw [Group.flush_k0, Group.flush_k0, h0]
    · refine BitVec.eq_of_getLsbD_eq fun b hb => ?_
      have := gr.written_flush_bit d r.en r.val (Dest.holds_mask.2 ⟨⟨hpos.ne', hn⟩, hb⟩)
      rw [if_neg (by simp)] at this
      simpa only [Group.bit, hn, Vector.getElem?_eq_getElem, Option.getD_some] using this

theorem variableLatencyResult : VariableLatencyResult := by
  intro s i d r lanes hl hrt hlat hg _ t
  have ht : t = s.writeReg s.cur.g d r := s.finish_now i d r lanes hl hrt hlat
  have hgrp : t.grp s.cur.g = ((s.grp s.cur.g).overtake d r.en).setReg d r.en r.val := by
    rw [ht, State.writeReg, State.modGrp_self _ _ _ hg]
  obtain ⟨hreg, hk⟩ := (s.grp s.cur.g).written_flush d r
  rw [hgrp]
  exact ⟨s.finish_onlyGroup i d r lanes hrt, hreg, hk⟩

/-! ## Results for consumers (R45, R49) -/

/-- A row with a prefix is no uniform row (R47). -/
theorem Instr.not_uniform_of_prefix {i : Instr} (h : i.rt = true) : ¬ i.uniOp < 0x400 := by
  have hrow : (i.uniOp == 0x400 || i.pf?.isNone) = true := by cases i <;> rfl
  have hpf : i.pf?.isNone = false := by
    unfold Instr.rt at h
    split at h
    next hp => rw [hp]; rfl
    · exact absurd h Bool.false_ne_true
  rw [hpf, Bool.or_false, beq_iff_eq] at hrow
  omega

/-- Registers with every pending write performed depend on the files and the pending writes alone. -/
theorem Group.flush_reg_congr {x y : Group} (hv : x.v = y.v) (ho : x.o = y.o) (hk : x.k = y.k) (hfix : x.fix = y.fix) {spec : BitVec 6} (h : spec.toNat < 56) :
    x.flush.reg 64 spec = y.flush.reg 64 spec := BitVec.eq_of_getLsbD_eq fun b hb => by
  have hd := Dest.holds_reg.2 ⟨h, hb⟩
  have hx := x.flush_bit hd
  rw [hfix, Group.bit_congr hv ho hk hd, ← y.flush_bit hd] at hx
  exact hx

/-- A pending write at the end, once all are performed. -/
theorem Group.pended_flush (gr : Group) {p : Pending} {d : BitVec 6} (hp : p.dest = .reg d) {spec : BitVec 6} (h : spec.toNat < 56) :
    ({ gr with fix := gr.fix ++ [p] } : Group).flush.reg 64 spec =
      if spec = d then (p.val &&& p.en) ||| (gr.flush.reg 64 spec &&& ~~~p.en) else gr.flush.reg 64 spec := BitVec.eq_of_getLsbD_eq fun b hb => by
  have hd := Dest.holds_reg.2 ⟨h, hb⟩
  have hbit : ({ gr with fix := gr.fix ++ [p] } : Group).flush.bit (.reg spec) b = if p.writes (.reg spec) b then p.val.getLsbD b else gr.flush.bit (.reg spec) b := by
    rw [Group.flush_bit _ hd, Group.flush_bit _ hd, bitAfter_append, Group.bit_congr (y := gr) (by rfl) (by rfl) (by rfl) hd]
    rfl
  refine Eq.trans hbit ?_
  rw [Pending.writes, hp]
  by_cases he : spec = d
  · subst he
    rw [if_pos rfl, ← blend, getLsbD_blend, beq_self_eq_true, Bool.true_and]
    rfl
  · rw [if_neg he, beq_eq_false_iff_ne.2 (fun hc => he (Dest.reg.inj hc).symm), Bool.false_and]
    rfl

/-- A register as the pending writes will leave it. -/
theorem Group.after_fix (gr : Group) {spec : BitVec 6} (h : spec.toNat < 56) : gr.after spec gr.fix = gr.flush.reg 64 spec :=
  BitVec.eq_of_getLsbD_eq fun b hb => by
    have hfold (ps : List Pending) (v : Img) : (ps.foldl (fun v q => if q.dest == .reg spec then blend q.en q.val v else v) v).getLsbD b =
        bitAfter (.reg spec) b (v.getLsbD b) ps := by
      induction ps generalizing v with
      | nil => rfl
      | cons q ps ih =>
        rw [List.foldl_cons, ih, bitAfter_cons, Pending.writes]
        cases hq : q.dest == Dest.reg spec
        · rfl
        · rw [if_pos rfl, getLsbD_blend, Bool.true_and]
    rw [Group.after, if_pos h, hfold]
    exact (gr.flush_bit (Dest.holds_reg.2 ⟨h, hb⟩)).symm

/-- The register consumer of a mask: the one that C names, or none (R49). -/
def consumerSpec (i : Instr) : BitVec 6 := if i.consumers.getLsbD 0 then i.c else 58

/-- The image that consumers are to receive (R45, R49). -/
def Group.consumerImg (gr : Group) (i : Instr) (r : Result) : Img :=
  if (consumerSpec i).toNat < 56 then blend r.en r.val (gr.after (consumerSpec i) gr.fix) else r.val &&& r.en

/-- The consumers that have received the result as its unit begins to wait: the register, where it is written at once (R49). -/
def consumersServed (i : Instr) : BitVec 6 := if i.latency = none ∧ i.consumers.getLsbD 0 = true then 1 else 0

/-- A unit among the group's waits, with the image that its consumers are to receive. -/
def UnitRec.delivering (u : UnitRec) (img : Img) (dlv : BitVec 6) : UnitRec := { u with iss := { u.iss with res := some img, dlv := dlv, late := true } }

/-- A delivery changes the waits of its group alone. -/
theorem State.deliverRec_grp {s : State} {u : UnitRec} {img : Img} {dlv : BitVec 6} (hg : s.cur.g < s.groups.length) :
    (s.deliverRec u img dlv).grp s.cur.g =
      { s.grp s.cur.g with waits := (s.grp s.cur.g).waits ++ if (pendingConsumers u.instr.consumers dlv).isEmpty then [] else [u.delivering img dlv] } := by
  rw [State.deliverRec]
  split
  · rw [List.append_nil]
  · rw [State.modGrp_self _ _ _ hg]; rfl
theorem State.deliverRec_crews (s : State) (u : UnitRec) (img : Img) (dlv : BitVec 6) : (s.deliverRec u img dlv).crews = s.crews := by
  unfold State.deliverRec; split <;> rfl

/-- No consumer but a register written at once has received anything. -/
theorem pendingConsumers_isEmpty {i : Instr} (h : i.consumers ≠ 0) :
    (pendingConsumers i.consumers (consumersServed i)).isEmpty = true ↔ i.latency = none ∧ i.consumers = 1 := by
  have hnone : ∀ c : BitVec 6, c ≠ 0 → (pendingConsumers c 0).isEmpty = false := by decide
  have hreg : ∀ c : BitVec 6, c.getLsbD 0 = true → ((pendingConsumers c 1).isEmpty = true ↔ c = 1) := by decide
  unfold consumersServed
  split
  next hs => rw [hreg _ hs.2, and_iff_right hs.1]
  next hs =>
    rw [hnone _ h]
    refine iff_of_false Bool.false_ne_true fun ⟨hl, hc⟩ => hs ⟨hl, ?_⟩
    rw [hc]
    rfl

theorem State.finish_consumers_pending {s : State} {i : Instr} (d : BitVec 6) (r : Result) {lanes : Lanes} {lat : Nat} (hl : lanes ≠ 0) (hrt : i.rt = true)
    (h : i.latency = some lat) :
    s.finish i d r lanes = (s.modGrp s.cur.g fun gr => { gr with
      fix := addPending gr.fix (s.pend i lat (.reg (consumerSpec i)) r.en r.val (if i.laneOp < 0x400 then lanes else 0) []) }).deliver i
        ((s.grp s.cur.g).consumerImg i r) s.cur.dlv := by
  unfold State.finish State.finishWith
  rw [if_neg (by simpa using hl)]
  simp only [hrt, h, if_true]
  rfl
theorem State.finish_consumers_now {s : State} {i : Instr} (d : BitVec 6) (r : Result) {lanes : Lanes} (hl : lanes ≠ 0) (hrt : i.rt = true)
    (h : i.latency = none) :
    s.finish i d r lanes = (s.writeReg s.cur.g (consumerSpec i) r).deliverRec (s.unitRec i) ((s.grp s.cur.g).consumerImg i r)
      (if i.consumers.getLsbD 0 then s.cur.dlv ||| 1 else s.cur.dlv) := by
  unfold State.finish State.finishWith
  rw [if_neg (by simpa using hl)]
  simp only [hrt, h, if_true]
  rfl

/-- The register consumer's write precedes the delivery: what the group then holds (R49, R52). -/
theorem State.finish_consumers {s : State} {i : Instr} (d : BitVec 6) (r : Result) {lanes : Lanes} (hl : lanes ≠ 0) (hrt : i.rt = true)
    (hdlv : s.cur.dlv = 0) :
    ∃ (f : Group → Group) (u : UnitRec), u.instr = i ∧ (f (s.grp s.cur.g)).waits = (s.grp s.cur.g).waits ∧
      s.finish i d r lanes = (s.modGrp s.cur.g f).deliverRec u ((s.grp s.cur.g).consumerImg i r) (consumersServed i) ∧
      ∀ spec : BitVec 6, spec.toNat < 56 → (f (s.grp s.cur.g)).flush.reg 64 spec =
        if spec = consumerSpec i then (r.val &&& r.en) ||| ((s.grp s.cur.g).flush.reg 64 spec &&& ~~~r.en) else (s.grp s.cur.g).flush.reg 64 spec := by
  cases hlat : i.latency with
  | some lat =>
    have hserved : consumersServed i = 0 := by simp [consumersServed, hlat]
    have huni : decide (i.uniOp < 0x400) = false := decide_eq_false (Instr.not_uniform_of_prefix hrt)
    let p := s.pend i lat (.reg (consumerSpec i)) r.en r.val (if i.laneOp < 0x400 then lanes else 0) []
    let f (gr : Group) : Group := { gr with fix := addPending gr.fix p }
    have hf : f (s.grp s.cur.g) = { s.grp s.cur.g with fix := (s.grp s.cur.g).fix ++ [p] } := by
      simp only [f, addPending_lane _ (show p.uni = false from huni)]
    refine ⟨f, (s.modGrp s.cur.g f).unitRec i, State.unitRec_instr _ i, rfl, ?_, fun spec hs => ?_⟩
    · rw [hserved, ← hdlv]; exact State.finish_consumers_pending d r hl hrt hlat
    · rw [hf]; exact Group.pended_flush _ rfl hs
  | none =>
    have hserved : (if i.consumers.getLsbD 0 then s.cur.dlv ||| 1 else s.cur.dlv) = consumersServed i := by
      rw [hdlv, consumersServed]
      cases i.consumers.getLsbD 0 <;> simp [hlat]
    obtain ⟨hreg, -⟩ := (s.grp s.cur.g).written_flush (consumerSpec i) r
    refine ⟨fun gr => (gr.overtake (consumerSpec i) r.en).setReg (consumerSpec i) r.en r.val, s.unitRec i, State.unitRec_instr _ i, ?_, ?_, hreg⟩
    rotate_left
    · rw [← hserved]; exact State.finish_consumers_now d r hl hrt hlat
    dsimp only
    rw [Group.setReg_keeps, Group.overtake]
    split <;> rfl

theorem consumerResult : ConsumerResult := by
  intro s i d r lanes hl hrt hc hg _ hdlv g named t
  obtain ⟨f, u, hu, hwaits, ht, hreg⟩ := State.finish_consumers d r hl hrt hdlv
  have hgrp : t.grp g = { f (s.grp g) with waits := (s.grp g).waits ++ if (pendingConsumers i.consumers (consumersServed i)).isEmpty then []
      else [u.delivering ((s.grp g).consumerImg i r) (consumersServed i)] } := by
    have hx : (s.modGrp g f).grp g = f (s.grp g) := State.modGrp_self _ _ _ hg
    have hdel := State.deliverRec_grp (s := s.modGrp g f) (u := u) (img := (s.grp g).consumerImg i r) (dlv := consumersServed i)
      (show g < (s.modGrp g f).groups.length by simpa [State.modGrp] using hg)
    rw [show (s.modGrp g f).cur.g = g from rfl, hx, hu, hwaits] at hdel
    rw [show t = _ from ht, hdel]
  have hflush (spec : BitVec 6) (hs : spec.toNat < 56) : (t.grp g).flush.reg 64 spec = (f (s.grp g)).flush.reg 64 spec := by
    rw [hgrp]; exact Group.flush_reg_congr (by rfl) (by rfl) (by rfl) (by rfl) hs
  have hnamed (hn : named) : consumerSpec i = i.c ∧ i.c.toNat < 56 := ⟨if_pos hn.1, hn.2⟩
  have himg (hn : named) : (s.grp g).consumerImg i r = (r.val &&& r.en) ||| ((s.grp g).flush.reg 64 i.c &&& ~~~r.en) := by
    obtain ⟨hspec, hlt⟩ := hnamed hn
    rw [Group.consumerImg, hspec, if_pos hlt, Group.after_fix _ hlt, blend]
  refine ⟨(s.grp g).consumerImg i r, himg, fun hno => ?_, ?_, fun hn => ?_, fun spec hs hnot => ?_, fun hone => ?_, fun hmore => ?_⟩
  · have h58 : consumerSpec i = 58 := by rw [consumerSpec, hno]; rfl
    rw [Group.consumerImg, h58, if_neg (by decide)]
  · rw [show t = _ from ht, State.deliverRec_crews]; rfl
  · obtain ⟨hspec, hlt⟩ := hnamed hn
    rw [hflush _ hlt, hreg _ hlt, if_pos hspec.symm, himg hn]
  · have hne : spec ≠ consumerSpec i := by
      intro he
      unfold consumerSpec at he
      split at he
      next hc0 => exact hnot ⟨⟨hc0, he ▸ hs⟩, he⟩
      · subst he; exact absurd hs (by decide)
    rw [hflush _ hs, hreg _ hs, if_neg hne]
  · rw [hgrp, (pendingConsumers_isEmpty hc).2 hone]
    exact List.append_nil _
  · have hwait : (pendingConsumers i.consumers (consumersServed i)).isEmpty = false := by
      rw [← Bool.not_eq_true, pendingConsumers_isEmpty hc]; exact hmore
    refine ⟨u.delivering ((s.grp g).consumerImg i r) (consumersServed i), by rw [hgrp, hwait]; rfl, hu, rfl, rfl, ?_⟩
    rw [show (u.delivering ((s.grp g).consumerImg i r) (consumersServed i)).instr = i from hu, stallsGroup, hrt]
    rfl

/-- Settles O17: pending writes followed bit by bit, so that the order in which they are performed does not matter. -/
theorem resultsPerformed : Obligations.ResultsPerformed :=
  ⟨fixedLatencyResult, pendingPerformed, settleKeepsOrder, variableLatencyResult, consumerResult, uniformResult⟩

end Sys2Proof.Machine
end

section
/-! PROOFS. System registers (O35): the bits of a written register, the least counter of the program vote, and what each wrsr writes or refuses. -/

namespace Sys2Proof.Machine

/-! ## Fields of a register -/

theorem getLsbD_setBits (old v m : Word) {k : Nat} (hk : k < 64) : (setBits old v m).getLsbD k = if m.getLsbD k then v.getLsbD k else old.getLsbD k := by
  rw [setBits, BitVec.getLsbD_or, BitVec.getLsbD_and, BitVec.getLsbD_and, BitVec.getLsbD_not]
  cases m.getLsbD k <;> simp [hk]

theorem getLsbD_sticky (old v m : Word) {k : Nat} (hk : k < 64) : (sticky old v m).getLsbD k = (old.getLsbD k && (v.getLsbD k || !m.getLsbD k)) := by
  rw [sticky, BitVec.getLsbD_and, BitVec.getLsbD_or, BitVec.getLsbD_not]
  simp [hk]

theorem lowBits_and {n : Nat} {v m : Word} (h : ∀ k < 64, m.getLsbD k = decide (k < n)) : lowBits n v (v &&& m) := by
  intro k hk
  rw [BitVec.getLsbD_and, h k hk, Bool.and_comm]

/-! ## The least counter of the program vote (R87) -/

/-- The first of equals that a measure makes least is one that no other is below. -/
theorem leastBy_le {α : Type} (m : α → Nat) (l : List α) : match leastBy m l with | none => l = [] | some a => a ∈ l ∧ ∀ b ∈ l, m a ≤ m b := by
  induction l with
  | nil => rfl
  | cons a l ih =>
    rw [leastBy]
    cases h : leastBy m l with
    | none =>
      rw [h] at ih
      subst ih
      simp
    | some b =>
      rw [h] at ih
      obtain ⟨hmem, hle⟩ := ih
      by_cases hlt : m b < m a
      · simp only [hlt, if_true]
        exact ⟨List.mem_cons_of_mem _ hmem, List.forall_mem_cons.2 ⟨hlt.le, hle⟩⟩
      · simp only [hlt, if_false]
        exact ⟨List.mem_cons_self, List.forall_mem_cons.2 ⟨le_refl _, fun c hc => (not_lt.1 hlt).trans (hle c hc)⟩⟩

theorem Group.mem_inMode (gr : Group) (m : LaneMode) {l : Nat} (hl : l < 32) : (gr.inMode m).getLsbD l = true ↔ (gr.lane l).mode = m := by
  rw [Group.inMode, getLsbD_lanesWhere _ _ hl, beq_iff_eq]

/-- The lowest lane of the least counter has it. -/
theorem Group.lowSet_le (gr : Group) {ls : Lanes} {l : Nat} (hl : l < 32) (hin : ls.getLsbD l = true) :
    (gr.lane (lowest (gr.lowSet ls))).pc.toNat ≤ (gr.lane l).pc.toNat := by
  have hleast := leastBy_le (fun l => (gr.lane l).pc.toNat) (lanesOf ls)
  cases h : leastBy (fun l => (gr.lane l).pc.toNat) (lanesOf ls) with
  | none =>
    rw [h] at hleast
    exact absurd (mem_lanesOf.2 ⟨hl, hin⟩) (by rw [hleast]; exact List.not_mem_nil)
  | some l0 =>
    rw [h] at hleast
    obtain ⟨hmem, hle⟩ := hleast
    obtain ⟨hl0, hin0⟩ := mem_lanesOf.1 hmem
    have hset : gr.lowSet ls = lanesWhere fun l => ls.getLsbD l && (gr.lane l).pc == (gr.lane l0).pc := by rw [Group.lowSet, h]
    have hne : gr.lowSet ls ≠ 0 := by
      intro h0
      have := getLsbD_lanesWhere (fun l => ls.getLsbD l && (gr.lane l).pc == (gr.lane l0).pc) l0 hl0
      rw [← hset, h0, hin0] at this
      simp at this
    obtain ⟨hlt, hlow⟩ := lowest_mem hne
    rw [hset, getLsbD_lanesWhere _ _ (hset ▸ hlt), ← hset, Bool.and_eq_true, beq_iff_eq] at hlow
    rw [hlow.2]
    exact hle l (mem_lanesOf.2 ⟨hl, hin⟩)

theorem Group.voteMin_le (gr : Group) {l : Nat} (hl : l < 32) (hrun : (gr.lane l).mode = .running) : gr.voteMin.toNat ≤ (gr.lane l).pc.toNat := by
  have hin := (gr.mem_inMode .running hl).2 hrun
  have hne : gr.inMode .running ≠ 0 := fun h0 => by rw [h0] at hin; simp at hin
  rw [Group.voteMin, if_neg (by simpa using hne)]
  exact gr.lowSet_le hl hin

/-! ## WDOG written (R87, R88) -/

theorem Group.writeWdog_none {gr : Group} {v : Word} (h : v.getLsbD 32 = true ∧ v.toNat % 2 ^ 32 < 64) : gr.writeWdog v = none := by
  obtain ⟨hen, hwin⟩ := h
  rw [Group.writeWdog, if_pos]
  rw [hen, Bool.true_and, decide_eq_true_eq, bits, pow_zero, Nat.div_one]
  exact hwin

theorem Group.writeWdog_some {gr : Group} {v : Word} (h : ¬ (v.getLsbD 32 = true ∧ v.toNat % 2 ^ 32 < 64)) :
    ∃ (x m : Word) (k : Nat), gr.writeWdog v = some { gr with wdog := x, wdM := m, wdN := k } ∧
      (∀ k < 64, x.getLsbD k = if k < 33 then v.getLsbD k else gr.wdog.getLsbD k && (v.getLsbD k || k != 33)) ∧
      (v.getLsbD 32 = true → k = 0 ∧ ∀ l < 32, (gr.lane l).mode = .running → m.toNat ≤ (gr.lane l).pc.toNat) := by
  have hguard : ¬ (v.getLsbD 32 && decide (bits v.toNat 0 32 < 64)) = true := by
    rw [Bool.and_eq_true, decide_eq_true_eq, bits, pow_zero, Nat.div_one]
    exact h
  have hbits (k : Nat) (hk : k < 64) : (setBits (sticky gr.wdog v 0x200000000#64) v 0x1FFFFFFFF#64).getLsbD k =
      if k < 33 then v.getLsbD k else gr.wdog.getLsbD k && (v.getLsbD k || k != 33) := by
    have hval : ∀ k < 64, (0x1FFFFFFFF#64).getLsbD k = decide (k < 33) := by decide
    have hstick : ∀ k < 64, (0x200000000#64).getLsbD k = (k == 33) := by decide
    rw [getLsbD_setBits _ _ _ hk, getLsbD_sticky _ _ _ hk, hval k hk, hstick k hk]
    simp only [decide_eq_true_eq, bne]
  rw [Group.writeWdog, if_neg hguard]
  dsimp only
  by_cases hen : v.getLsbD 32 = true
  · rw [if_pos hen]
    exact ⟨_, _, _, rfl, hbits, fun _ => ⟨rfl, fun l hl hrun => gr.voteMin_le hl hrun⟩⟩
  · rw [if_neg hen]
    exact ⟨_, gr.wdM, gr.wdN, rfl, hbits, fun hc => absurd hc hen⟩

/-! ## Registers read and written (R329) -/

theorem uniResult_all (v : Word) : (uniResult v).all v := ⟨rfl, fun l hl => laneOf_splat v l hl⟩

/-- A register that stands as it is in the state (R329). -/
theorem State.sysReg_plain {s : State} {g n : Nat} {p : Nat × Word} (hp : p ∈ plainReg s g) (hn : n = p.1) : s.sysReg g n = p.2 := by
  subst hn
  simp only [plainReg, List.mem_cons, List.not_mem_nil, or_false] at hp
  rcases hp with rfl | rfl | rfl | rfl | rfl | rfl | rfl | rfl | rfl | rfl | rfl | rfl | rfl | rfl | rfl | rfl | rfl | rfl | rfl | rfl | rfl | rfl | rfl | rfl |
    rfl | rfl | rfl | rfl <;> rfl

theorem exec_rdsr {s : State} {sc : BitVec 3} {d : BitVec 6} {n : BitVec 12} (h : s.goes (.rdsr sc d n)) :
    exec (.rdsr sc d n) s = .next ((s.issued (.rdsr sc d n)).finish (.rdsr sc d n) d (uniResult ((s.issued (.rdsr sc d n)).sysReg s.cur.g n.toNat)) s.cur.lanes) := by
  have harm : exec (.rdsr sc d n) s = execRdsr sc d n s := rfl
  rw [harm, execRdsr, s.issue_of_goes _ _ h]
  simp only [State.issued_g, State.issued_lanes]

section
variable {s : State} {sc : BitVec 3} {d : BitVec 6} {n : BitVec 12}

/-- wrsr writes the register, or raises ILLEGAL 0x06 where the value fails its check (R329). -/
theorem exec_wrsr (h : s.goes (.wrsr sc d n)) :
    let t := s.issued (.wrsr sc d n)
    (∀ x, t.writeSys s.cur.g n.toNat (t.lead (.wrsr sc d n) .D) = some x → exec (.wrsr sc d n) s = .next x) ∧
    (t.writeSys s.cur.g n.toNat (t.lead (.wrsr sc d n) .D) = none →
      t.raises (.wrsr sc d n) s.cur.lanes ⟨cILLEGAL, 0x06, 0, none⟩ true (exec (.wrsr sc d n) s)) := by
  intro t
  have harm : exec (.wrsr sc d n) s = execWrsr sc d n s := rfl
  rw [harm, execWrsr, s.issue_of_goes _ _ h]
  simp only [State.issued_g, State.issued_lanes, State.issued_scal h]
  refine ⟨fun x hx => by rw [hx], fun hnone => ?_⟩
  rw [hnone]
  exact State.raises_fault ..

theorem State.modGrp_at (s : State) (g : Nat) (f : Group → Group) : (s.modGrp g fun _ => f (s.grp g)) = s.modGrp g f := by
  have hgroups : modAt (fun _ => f (s.grp g)) g s.groups = modAt f g s.groups := modAt_congr _ _ _ _ Group.absent fun _ => rfl
  rw [State.modGrp, State.modGrp, hgroups]

theorem exec_wrsr_group (h : s.goes (.wrsr sc d n)) (hn : n.toNat < 0x100) (f : Group → Group)
    (hw : ((s.issued (.wrsr sc d n)).grp s.cur.g).writeSys n.toNat ((s.issued (.wrsr sc d n)).lead (.wrsr sc d n) .D) =
      some (f ((s.issued (.wrsr sc d n)).grp s.cur.g))) :
    exec (.wrsr sc d n) s = .next ((s.issued (.wrsr sc d n)).modGrp s.cur.g f) := by
  refine (exec_wrsr h).1 _ ?_
  rw [State.writeSys, if_pos hn, hw, Option.map_some, State.modGrp_at]

theorem exec_wrsr_ctx (h : s.goes (.wrsr sc d n)) (hlo : 0x100 ≤ n.toNat) (hhi : n.toNat < 0x300) {x : Context}
    (hw : ((s.issued (.wrsr sc d n)).ctxOf s.cur.g).writeSys n.toNat ((s.issued (.wrsr sc d n)).lead (.wrsr sc d n) .D) = some x) :
    exec (.wrsr sc d n) s = .next ((s.issued (.wrsr sc d n)).modCtx ((s.issued (.wrsr sc d n)).ctxNo s.cur.g) fun _ => x) := by
  refine (exec_wrsr h).1 _ ?_
  rw [State.writeSys, if_neg (by omega), if_pos hhi, hw, Option.map_some]

theorem exec_wrsr_part (h : s.goes (.wrsr sc d n)) (hlo : 0x300 ≤ n.toNat) {x : Partition}
    (hw : ((s.issued (.wrsr sc d n)).part ((s.issued (.wrsr sc d n)).partNo s.cur.g)).writeSys n.toNat ((s.issued (.wrsr sc d n)).lead (.wrsr sc d n) .D) = some x) :
    exec (.wrsr sc d n) s = .next ((s.issued (.wrsr sc d n)).modPart ((s.issued (.wrsr sc d n)).partNo s.cur.g) fun _ => x) := by
  refine (exec_wrsr h).1 _ ?_
  rw [State.writeSys, if_neg (by omega), if_neg (by omega), hw, Option.map_some]

/-- What wrsr raises where a register keeps its value. -/
def refusesWrite (s : State) (i : Instr) : Prop := (s.issued i).raises i s.cur.lanes ⟨cILLEGAL, 0x06, 0, none⟩ true (exec i s)

theorem wrsr_refused_group (h : s.goes (.wrsr sc d n)) (hn : n.toNat < 0x100)
    (hw : ((s.issued (.wrsr sc d n)).grp s.cur.g).writeSys n.toNat ((s.issued (.wrsr sc d n)).lead (.wrsr sc d n) .D) = none) :
    refusesWrite s (.wrsr sc d n) := by
  refine (exec_wrsr h).2 ?_
  rw [State.writeSys, if_pos hn, hw, Option.map_none]
theorem wrsr_refused_ctx (h : s.goes (.wrsr sc d n)) (hlo : 0x100 ≤ n.toNat) (hhi : n.toNat < 0x300)
    (hw : ((s.issued (.wrsr sc d n)).ctxOf s.cur.g).writeSys n.toNat ((s.issued (.wrsr sc d n)).lead (.wrsr sc d n) .D) = none) :
    refusesWrite s (.wrsr sc d n) := by
  refine (exec_wrsr h).2 ?_
  rw [State.writeSys, if_neg (by omega), if_pos hhi, hw, Option.map_none]
theorem wrsr_refused_part (h : s.goes (.wrsr sc d n)) (hlo : 0x300 ≤ n.toNat)
    (hw : ((s.issued (.wrsr sc d n)).part ((s.issued (.wrsr sc d n)).partNo s.cur.g)).writeSys n.toNat ((s.issued (.wrsr sc d n)).lead (.wrsr sc d n) .D) = none) :
    refusesWrite s (.wrsr sc d n) := by
  refine (exec_wrsr h).2 ?_
  rw [State.writeSys, if_neg (by omega), if_neg (by omega), hw, Option.map_none]

end

/-! ## The checks of a written value (R85, R174, R352) -/

theorem Context.writeSys_forkcfg (c : Context) (v : Word) : c.writeSys 0x203 v =
    if v.toNat / 2 ^ 1 % 2 ^ 3 = 0 ∨ 4 < v.toNat / 2 ^ 1 % 2 ^ 3 then none else some { c with forkcfg := v &&& 0x3F#64 } :=
  if_congr ((Bool.or_eq_true ..).to_iff.trans (or_congr beq_iff_eq decide_eq_true_iff)) rfl rfl
theorem Context.writeSys_wayq (c : Context) (v : Word) : c.writeSys 0x207 v =
    if 8 < v.toNat / 2 ^ 0 % 2 ^ 4 ∨ 16 < v.toNat / 2 ^ 4 % 2 ^ 5 then none else some { c with wayq := v &&& 0x1FF#64 } :=
  if_congr ((Bool.or_eq_true ..).to_iff.trans (or_congr decide_eq_true_iff decide_eq_true_iff)) rfl rfl
theorem Partition.writeSys_qosc (p : Partition) (v : Word) : p.writeSys 0x303 v =
    let b (lo : Nat) : Nat := v.toNat / 2 ^ lo % 2 ^ 4
    if 16 < b 0 + b 4 + b 8 + b 12 ∨ b 12 = 0 then none else some { p with qosc := v &&& 0xFFFF#64 } :=
  if_congr ((Bool.or_eq_true ..).to_iff.trans (or_congr decide_eq_true_iff beq_iff_eq)) rfl rfl

/-! ## Fields bit by bit -/

/-- The bits of a value under a mask that is given bit by bit. -/
theorem getLsbD_masked {v m : Word} {f : Nat → Bool} (h : ∀ k < 64, m.getLsbD k = f k) : ∀ k < 64, (v &&& m).getLsbD k = (v.getLsbD k && f k) := by
  intro k hk
  rw [BitVec.getLsbD_and, h k hk]

/-- The bits of a register whose writable fields are given bit by bit. -/
theorem getLsbD_fields {old v m : Word} {f : Nat → Bool} (h : ∀ k < 64, m.getLsbD k = f k) :
    ∀ k < 64, (setBits old v m).getLsbD k = if f k = true then v.getLsbD k else old.getLsbD k := by
  intro k hk
  rw [getLsbD_setBits _ _ _ hk, h k hk]

/-- FPMODE: five fields and the sticky flags (R71). -/
theorem getLsbD_fpmode (old v : Word) : ∀ k < 64, (setBits (sticky old v 0x1F00#64) v 0x1F#64).getLsbD k =
    if k < 5 then v.getLsbD k else old.getLsbD k && (v.getLsbD k || !decide (8 ≤ k ∧ k < 13)) := by
  intro k hk
  have hval : ∀ k < 64, (0x1F#64).getLsbD k = decide (k < 5) := by decide
  have hstick : ∀ k < 64, (0x1F00#64).getLsbD k = decide (8 ≤ k ∧ k < 13) := by decide
  rw [getLsbD_setBits _ _ _ hk, getLsbD_sticky _ _ _ hk, hval k hk, hstick k hk]
  simp only [decide_eq_true_eq]

/-- UNIST: one sticky bit (R85). -/
theorem getLsbD_unist (old v : Word) : ∀ k < 64, (sticky old v 1#64).getLsbD k = (old.getLsbD k && (v.getLsbD k || k != 0)) := by
  intro k hk
  have hstick : ∀ k < 64, (1#64).getLsbD k = (k == 0) := by decide
  rw [getLsbD_sticky _ _ _ hk, hstick k hk, bne]

/-- Settles O35: each register by the equation of its write, its fields bit by bit. -/
theorem systemRegisters : Obligations.SystemRegisters := by
  intro s sc d n
  refine ⟨?_, ?_, ?_⟩
  · intro i hgo
    exact ⟨_, _, uniResult_all _, exec_rdsr hgo, fun p hp hn => State.sysReg_plain hp hn⟩
  · intro i t g v b illegal hgo
    have hin {m : Nat} {q : BitVec 12} (hn : n = q) (hq : q.toNat = m) : n.toNat = m := by rw [hn, hq]
    refine ⟨fun hn => ?_, fun hn => ?_, fun hn => ?_, fun hn => ?_, fun hn => ?_, fun hn => ?_, fun hn => ?_, fun hn => ?_, fun hn => ?_, fun hn => ?_,
      fun hn => ?_, fun hn => ?_, fun hn => ?_, fun hn => ?_, fun hn => ?_, fun hn => ?_, fun hn => ?_, fun hn => ?_, fun hn => ?_, fun hn => ?_⟩
    · have hno := hin hn (m := 0x000) rfl
      refine ⟨fun hbad => wrsr_refused_group hgo (by omega) (by rw [hno]; exact if_pos hbad), fun hok => ?_⟩
      exact ⟨_, exec_wrsr_group hgo (by omega) (fun gr => { gr with fpmode := _ }) (by rw [hno]; exact if_neg (Nat.not_lt.2 hok)), getLsbD_fpmode _ _⟩
    · have hno := hin hn (m := 0x001) rfl
      exact ⟨_, exec_wrsr_group hgo (by omega) (fun gr => { gr with unist := _ }) (by rw [hno]; rfl), getLsbD_unist _ _⟩
    · have hno := hin hn (m := 0x002) rfl
      have hwin : b 0 32 = v.toNat % 2 ^ 32 := by simp only [b, pow_zero, Nat.div_one]
      rw [hwin]
      refine ⟨fun hbad => wrsr_refused_group hgo (by omega) (by rw [hno]; exact Group.writeWdog_none hbad), fun hok => ?_⟩
      obtain ⟨x, m, k, hw, hbits, hvote⟩ := Group.writeWdog_some (gr := t.grp g) hok
      exact ⟨x, m, k, exec_wrsr_group hgo (by omega) (fun gr => { gr with wdog := x, wdM := m, wdN := k }) (by rw [hno]; exact hw), hbits, hvote⟩
    · have hno := hin hn (m := 0x003) rfl
      refine ⟨_, exec_wrsr_group hgo (by omega) (fun gr => { gr with forkst := _ }) (by rw [hno]; rfl), fun k hk => ?_⟩
      rw [getLsbD_setBits _ _ _ hk, (by decide : ∀ k < 64, (0x0FFFFFFFFFFFFFFF#64).getLsbD k = decide (k < 60)) k hk]
      simp only [decide_eq_true_eq]
      rfl
    · have hno := hin hn (m := 0x004) rfl
      refine ⟨_, exec_wrsr_group hgo (by omega) (fun gr => { gr with prio := _ }) (by rw [hno]; rfl), fun k hk => ?_⟩
      rw [getLsbD_setBits _ _ _ hk, (by decide : ∀ k < 64, (0xE0#64).getLsbD k = decide (5 ≤ k ∧ k < 8)) k hk]
      simp only [decide_eq_true_eq]
      rfl
    · have hno := hin hn (m := 0x005) rfl
      refine ⟨_, exec_wrsr_group hgo (by omega) (fun gr => { gr with trapmask := _ }) (by rw [hno]; rfl), fun k hk => ?_⟩
      rw [getLsbD_setBits _ _ _ hk, (by decide : ∀ k < 64, (0xF#64).getLsbD k = decide (k < 4)) k hk]
      simp only [decide_eq_true_eq]
      rfl
    · have hno := hin hn (m := 0x201) rfl
      refine ⟨_, lowBits_and ?_, exec_wrsr_ctx hgo (by omega) (by omega) (by rw [hno]; rfl)⟩
      decide
    · have hno := hin hn (m := 0x202) rfl
      refine ⟨_, lowBits_and ?_, exec_wrsr_ctx hgo (by omega) (by omega) (by rw [hno]; rfl)⟩
      decide
    · have hno := hin hn (m := 0x203) rfl
      refine ⟨fun hbad => wrsr_refused_ctx hgo (by omega) (by omega) (by rw [hno, Context.writeSys_forkcfg]; exact if_pos hbad), fun h0 h4 => ?_⟩
      refine ⟨_, lowBits_and ?_, exec_wrsr_ctx hgo (by omega) (by omega) (by rw [hno, Context.writeSys_forkcfg]; exact if_neg (fun h => h.elim h0 (Nat.not_lt.2 h4)))⟩
      decide
    · have hno := hin hn (m := 0x204) rfl
      refine ⟨_, lowBits_and ?_, exec_wrsr_ctx hgo (by omega) (by omega) (by rw [hno]; rfl)⟩
      decide
    · have hno := hin hn (m := 0x205) rfl
      refine ⟨fun hbad => wrsr_refused_ctx hgo (by omega) (by omega) (by rw [hno]; exact if_pos hbad), fun hok => ?_⟩
      refine ⟨_, lowBits_and ?_, exec_wrsr_ctx hgo (by omega) (by omega) (by rw [hno]; exact if_neg (Nat.not_lt.2 hok))⟩
      decide
    · have hno := hin hn (m := 0x207) rfl
      refine ⟨fun hbad => wrsr_refused_ctx hgo (by omega) (by omega) (by rw [hno, Context.writeSys_wayq]; exact if_pos hbad), fun h8 h16 => ?_⟩
      refine ⟨_, lowBits_and ?_, exec_wrsr_ctx hgo (by omega) (by omega) (by rw [hno, Context.writeSys_wayq]; exact if_neg (fun h => h.elim (Nat.not_lt.2 h8) (Nat.not_lt.2 h16)))⟩
      decide
    · have hno := hin hn (m := 0x208) rfl
      refine ⟨_, lowBits_and ?_, exec_wrsr_ctx hgo (by omega) (by omega) (by rw [hno]; rfl)⟩
      decide
    · have hno := hin hn (m := 0x209) rfl
      refine ⟨_, exec_wrsr_ctx hgo (by omega) (by omega) (by rw [hno]; rfl), getLsbD_masked ?_⟩
      decide
    · have hno := hin hn (m := 0x20A) rfl
      refine ⟨_, exec_wrsr_ctx hgo (by omega) (by omega) (by rw [hno]; rfl), getLsbD_masked ?_⟩
      decide
    · have hno := hin hn (m := 0x20B) rfl
      refine ⟨_, exec_wrsr_ctx hgo (by omega) (by omega) (by rw [hno]; rfl), getLsbD_masked ?_⟩
      decide
    · have hno := hin hn (m := 0x20C) rfl
      refine ⟨fun hbad => wrsr_refused_ctx hgo (by omega) (by omega) (by rw [hno]; exact if_pos hbad), fun hok => ?_⟩
      refine ⟨_, exec_wrsr_ctx hgo (by omega) (by omega) (by rw [hno]; exact if_neg (Nat.not_lt.2 hok)), getLsbD_masked ?_⟩
      decide
    · have hno := hin hn (m := 0x302) rfl
      refine ⟨_, lowBits_and ?_, exec_wrsr_part hgo (by omega) (by rw [hno]; rfl)⟩
      decide
    · have hno := hin hn (m := 0x303) rfl
      refine ⟨fun hbad => wrsr_refused_part hgo (by omega) (by rw [hno, Partition.writeSys_qosc]; exact if_pos hbad), fun hsum h0 => ?_⟩
      refine ⟨_, lowBits_and ?_, exec_wrsr_part hgo (by omega) (by rw [hno, Partition.writeSys_qosc]; exact if_neg (fun h => h.elim (Nat.not_lt.2 hsum) h0))⟩
      decide
    · have hmem : n.toNat = 0x100 ∨ n.toNat = 0x101 ∨ n.toNat = 0x102 ∨ n.toNat = 0x200 ∨ n.toNat = 0x206 ∨
          n.toNat = 0x300 ∨ n.toNat = 0x301 ∨ n.toNat = 0x304 ∨ n.toNat = 0x305 := by simpa using hn
      rcases hmem with hno | hno | hno | hno | hno | hno | hno | hno | hno
      · exact wrsr_refused_ctx hgo (by omega) (by omega) (by rw [hno]; rfl)
      · exact wrsr_refused_ctx hgo (by omega) (by omega) (by rw [hno]; rfl)
      · exact wrsr_refused_ctx hgo (by omega) (by omega) (by rw [hno]; rfl)
      · exact wrsr_refused_ctx hgo (by omega) (by omega) (by rw [hno]; rfl)
      · exact wrsr_refused_ctx hgo (by omega) (by omega) (by rw [hno]; rfl)
      · exact wrsr_refused_part hgo (by omega) (by rw [hno]; rfl)
      · exact wrsr_refused_part hgo (by omega) (by rw [hno]; rfl)
      · exact wrsr_refused_part hgo (by omega) (by rw [hno]; rfl)
      · exact wrsr_refused_part hgo (by omega) (by rw [hno]; rfl)
  · intro g v hok
    obtain ⟨x, m, k, hw, hbits, -⟩ := Group.writeWdog_some (gr := s.grp g) hok
    refine ⟨x, m, k, ?_, hbits⟩
    have harm : exec (.wdogWrite g v) s = execWdogWrite g v s := rfl
    rw [harm, execWdogWrite, hw]
    exact congrArg Host.Outcome.next (s.modGrp_at g fun gr => { gr with wdog := x, wdM := m, wdN := k })

end Sys2Proof.Machine
end

section
/-! PROOFS. Events (O60): the state in which a sector of a remote write does not read back. -/

namespace Sys2Proof.Machine

/-! ## A remote write into DRAM that is out of order (R294) -/

/-- A sector of a remote write with one zero byte, for address 0x100 of the context with the identifier 1. -/
def zeroPut : Packet :=
  { kind := .lput, seq := 0, crcOk := true, poison := false, src := 1, dst := 0, ring := 0, nth := 0, opcode := 0, form := 0, rm := 0, ef := false, chunk := 0
    hop := 0, crew := 0, tl := 0, ctx := 1, addr := 0x100, cause := 0, sub := 0, payload := [0] }

/-- A machine to which that sector has come, whose DRAM lists the byte after the sector's place before the byte there, which reads 9. -/
def putState : State :=
  let m := State.reset.placeCode []
  { m with pkg := { m.pkg with inbox := [(15, zeroPut)] }, dram := m.dram ++ [(0x30101, 7), (0x30100, 9)] }

/-- The page of the sector's address. -/
def putPage : Xl := { pa := 0x30100, attr := 0, host := false, w := true, x := true, u := true, base := 0, log := 16, leaf := placeLeaf }

/-- The machine once the sector has been received. -/
def putDone : State := match exec (.lputSectorReceive 15 zeroPut) putState with | .next t => t | _ => State.reset

theorem putState_canonical : putState.canonical = false := by decide +kernel
theorem putState_context : (findIx (fun c : Context => c.live && c.id == zeroPut.ctx) putState.ctxs).map (·.1) = some 0 ∧
    ((putState.ctx 0).regionAt zeroPut.addr).isNone = true ∧ putState.lostHome (putState.ctx 0).part putPage.pa = false := by decide +kernel
theorem putState_reach : putState.reach 0 0 (!(putState.ctx 0).isSys) .store zeroPut.addr = .ok putPage := by decide +kernel
theorem exec_putState : exec (.lputSectorReceive 15 zeroPut) putState = .next putDone := rfl
theorem putDone_reads : Mem.read putDone.dram 0x30100 1 = [9] := by decide +kernel

/-- Refutes O60, in its clause about a sector of a remote write: the statement is about every state, one whose DRAM is out of order too (`putState_canonical`). The
sector carries a zero byte for a place of `putState` that reads 9; the write of that byte stops at the cell of the byte after it, and the place goes on reading 9. -/
theorem not_eventsComplete : ¬ Obligations.EventsComplete := by
  unfold Obligations.EventsComplete
  intro h
  obtain ⟨-, -, -, -, -, -, -, -, -, -, -, -, -, -, -, -, -, -, -, -, -, -, -, -, -, -, -, -, -, -, -, -, -, links, -⟩ := h putState
  obtain ⟨-, -, -, puts⟩ := links 15 (by decide)
  obtain ⟨hctx, hregion, hlost⟩ := putState_context
  obtain ⟨t, ht, hread⟩ := puts zeroPut rfl rfl List.mem_cons_self 0 putPage hctx (by decide) putState_reach hregion rfl hlost
    (fun c hc => absurd hc List.not_mem_nil)
  have hdone : t = putDone := Host.Outcome.next.inj (ht.symm.trans exec_putState)
  have hzero : Mem.read putDone.dram 0x30100 1 = [0] := by rw [← hdone]; exact hread
  rw [putDone_reads] at hzero
  exact absurd hzero (by decide)

end Sys2Proof.Machine
end

section
/-! PROOFS. What a load leaves as it is, the operand block of sysc, its functions, and the decode table: SystemCalls (R56, R182, R302, R334, R335). -/

namespace Sys2Proof.Machine

/-! ## Accesses and the caches (R170 to R175, R183, R185, R200) -/

/-- Two states differ in memory, caches and translations, and in what contexts note of them, alone. -/
def State.accessOnly (s t : State) : Prop :=
  t = { s with ctxs := t.ctxs, dram := t.dram, hostMem := t.hostMem, cache := t.cache, marks := t.marks, poison := t.poison, tlb := t.tlb }

theorem State.accessOnly.refl (s : State) : s.accessOnly s := rfl
theorem State.accessOnly.trans {s t u : State} (a : s.accessOnly t) (b : t.accessOnly u) : s.accessOnly u := by
  unfold State.accessOnly at a b ⊢
  rw [b, a]
theorem State.memoryOnly.access {s t : State} (h : s.memoryOnly t) : s.accessOnly t := by
  unfold State.accessOnly
  rw [h]
theorem State.accessOnly.foldl {α : Type} {f : State → α → State} (h : ∀ (s : State) (a : α), s.accessOnly (f s a)) (l : List α) (s : State) :
    s.accessOnly (l.foldl f s) := by
  induction l generalizing s with
  | nil => exact .refl s
  | cons a l ih => exact (h s a).trans (ih _)
theorem State.accessOnly.groups {s t : State} (h : s.accessOnly t) : t.groups = s.groups := by rw [h]
theorem State.accessOnly.crews {s t : State} (h : s.accessOnly t) : t.crews = s.crews := by rw [h]
theorem State.accessOnly.cur {s t : State} (h : s.accessOnly t) : t.cur = s.cur := by rw [h]

theorem State.memoryOnly.cache {s : State} (f : List CLine → List CLine) : s.memoryOnly { s with cache := f s.cache } := rfl
theorem State.memoryOnly.ite {s t u : State} {p : Prop} [Decidable p] (ht : s.memoryOnly t) (hu : s.memoryOnly u) : s.memoryOnly (if p then t else u) := by
  split
  · exact ht
  · exact hu

theorem State.putMarks_memoryOnly (s : State) (f : Nat → Spot) (ms : List Bool) : s.memoryOnly (s.putMarks f ms) :=
  State.memoryOnly.foldl (fun t _ => t.setPoison_memoryOnly ..) _ s

theorem State.writeDram_memoryOnly (s : State) (part pa : Nat) (bs : List Byte) : s.memoryOnly (s.writeDram part pa bs) := rfl
theorem State.combine_memoryOnly (s : State) (ctx : Nat) (p : Partial) : s.memoryOnly (s.combine ctx p) := by
  unfold State.combine
  dsimp only
  split
  · exact .refl s
  · exact s.writeDram_memoryOnly ..

theorem State.combineMarked_memoryOnly (s : State) (ctx : Nat) (p : Partial) : s.memoryOnly (s.combineMarked ctx p) := by
  refine (s.combine_memoryOnly ctx p).trans (.ite (.refl _) (State.memoryOnly.foldl (fun t _ => .ite ?_ (.refl t)) _ _))
  exact (t.setPoison_memoryOnly ..).trans (State.setPoison_memoryOnly ..)

theorem State.flushPartial_memoryOnly (s : State) (ctx region quad line : Nat) : s.memoryOnly (s.flushPartial ctx region quad line) := by
  unfold State.flushPartial
  dsimp only
  split
  · exact .refl s
  · exact ((s.combineMarked_memoryOnly ..).trans (State.modCtx_memoryOnly ..)).trans (State.filterCache_memoryOnly ..)

theorem State.evictLine_memoryOnly (s : State) (c : CLine) : s.memoryOnly (s.evictLine c) := by
  unfold State.evictLine
  refine State.memoryOnly.trans ?_ (State.filterCache_memoryOnly ..)
  split
  · exact s.writeBack_memoryOnly ..
  · exact s.flushPartial_memoryOnly ..
  · exact s.returnMarks_memoryOnly c

theorem State.restamp_memoryOnly (s : State) (c : CLine) (st : Stamp) (k : LineKind) : s.memoryOnly (s.restamp c st k) := by
  unfold State.restamp
  exact (State.memoryOnly.ite (s.modCtx_memoryOnly ..) (.refl s)).trans rfl

theorem State.allocate_memoryOnly (s : State) (cache set cp line : Nat) (st : Stamp) (k : LineKind) : s.memoryOnly (s.allocate cache set cp line st k) := by
  unfold State.allocate
  split
  · exact .refl s
  · dsimp only
    split
    · exact (s.evictLine_memoryOnly _).trans rfl
    · exact rfl

theorem State.touchL2_memoryOnly (s : State) (part line : Nat) (st : Stamp) : s.memoryOnly (s.touchL2 part line st) := by
  unfold State.touchL2
  dsimp only
  split
  · exact s.restamp_memoryOnly ..
  · exact s.allocate_memoryOnly ..

theorem State.shareOthers_memoryOnly (s : State) (quad part line : Nat) : s.memoryOnly (s.shareOthers quad part line) := rfl

theorem State.touchDt_memoryOnly (s : State) (quad part line : Nat) (st : Stamp) (write : Bool) : s.memoryOnly (s.touchDt quad part line st write) := by
  unfold State.touchDt
  dsimp only
  refine State.memoryOnly.trans (State.memoryOnly.ite (p := write = true) (s.invalidate_memoryOnly (fun q => q != quad) part line) (.refl s)) ?_
  generalize (if write = true then s.invalidate (fun q => q != quad) part line else s) = t
  split
  next c hc =>
    have hstamp (k : LineKind) : t.memoryOnly ((if !write && c.kind == LineKind.dt .I then t.shareOthers quad part line else t).restamp c st k) :=
      (State.memoryOnly.ite (t.shareOthers_memoryOnly ..) (.refl t)).trans (State.restamp_memoryOnly ..)
    have hfill (k : LineKind) (f : Nat → Spot) (ms : List Bool) :=
      (hstamp k).trans (State.memoryOnly.ite (p := (c.kind == LineKind.dt .I) = true) (State.putMarks_memoryOnly _ f ms) (.refl _))
    exact .ite (hfill _ _ _) ((hfill _ _ _).trans (State.touchL2_memoryOnly ..))
  next hc =>
    have hshare : t.memoryOnly (if write = true then t else t.shareOthers quad part line) := .ite (.refl t) (t.shareOthers_memoryOnly ..)
    refine State.memoryOnly.trans ?_ (State.touchL2_memoryOnly ..)
    exact (hshare.trans (State.allocate_memoryOnly ..)).trans (.ite (State.putMarks_memoryOnly ..) (.refl _))

theorem State.fillMarks_memoryOnly (s : State) (quad cp line : Nat) : s.memoryOnly (s.fillMarks quad cp line) :=
  .ite (.refl s) (State.memoryOnly.foldl (fun t _ => t.setPoison_memoryOnly ..) _ s)

theorem State.touchSi_memoryOnly (s : State) (quad cp line : Nat) (st : Stamp) : s.memoryOnly (s.touchSi quad cp line st) := by
  have hhome (t : State) : t.memoryOnly (if cp == 4 then t else t.touchL2 cp line st) := .ite (.refl t) (t.touchL2_memoryOnly ..)
  have hfill := s.fillMarks_memoryOnly quad cp line
  unfold State.touchSi
  dsimp only
  split
  · split
    · exact s.restamp_memoryOnly ..
    · exact (hfill.trans (State.restamp_memoryOnly ..)).trans (hhome _)
  · exact (hfill.trans (State.allocate_memoryOnly ..)).trans (hhome _)

/-- An access changes the caches that it passes, and what an eviction there writes. -/
theorem State.touch_memoryOnly (s : State) (quad part ctx : Nat) (k : ReuseClock) (nud : Nat) (x : Xl) (write again : Bool) :
    s.memoryOnly (s.touch quad part ctx k nud x write again) :=
  .ite (s.touchDt_memoryOnly ..) (.ite (s.touchSi_memoryOnly ..) (.ite (.refl s) (s.touchL2_memoryOnly ..)))

theorem State.fillTlb_accessOnly (s : State) (quad ctx va : Nat) : s.accessOnly (s.fillTlb quad ctx va) := by
  unfold State.fillTlb; split <;> exact rfl

theorem State.touchLines_accessOnly (s : State) (a : Agent) (nud : Nat) (write : Bool) (t : List (Nat × Reach)) (ls : List Nat) :
    s.accessOnly (s.touchLines a nud write t ls) := by
  refine State.accessOnly.foldl (fun x ln => ?_) _ s
  split
  · exact (x.fillTlb_accessOnly ..).trans (State.touch_memoryOnly ..).access
  · exact .refl x

theorem State.touchReplicas_memoryOnly (s : State) (a : Agent) (nud : Nat) (t : List (Nat × Reach)) (ls : List Nat) :
    s.memoryOnly (s.touchReplicas a nud t ls) := by
  refine State.memoryOnly.foldl (fun x ln => ?_) _ s
  split
  · split
    · exact x.restamp_memoryOnly ..
    · exact .refl x
  · exact .refl x

theorem State.popElt_memoryOnly (s : State) (a : Agent) (r : Nat) (reg : Region) (nud : Nat) (seen : List Nat) : s.memoryOnly (s.popElt a r reg nud seen).1 := by
  unfold State.popElt
  split
  · exact .refl s
  · dsimp only
    split
    · exact (s.touchL2_memoryOnly ..).trans (State.modCtx_memoryOnly ..)
    · exact s.modCtx_memoryOnly ..

/-- A load changes memory, caches, translations and the rooms of its context, and no group or crew (R164, R199 to R201). -/
theorem State.loadElts_accessOnly (s : State) (a : Agent) (eb nud : Nat) (elts : List Elt) : s.accessOnly (s.loadElts a eb nud elts).1 := by
  have hfold {α β : Type} (f : State × α × β → Elt → State × α × β) (h : ∀ (x : State × α × β) (e : Elt), x.1.memoryOnly (f x e).1) (l : List Elt) (x : State × α × β) :
      x.1.memoryOnly (l.foldl f x).1 := by
    induction l generalizing x with
    | nil => exact .refl _
    | cons e l ih => exact (h x e).trans (ih _)
  unfold State.loadElts
  dsimp only
  refine ((s.touchLines_accessOnly ..).trans (State.touchReplicas_memoryOnly ..).access).trans (State.memoryOnly.access (hfold _ (fun x e => ?_) elts _))
  split
  · exact .refl _
  · exact State.popElt_memoryOnly ..
  · exact .refl _

/-! ## What leaves the unit in hand as it is (R108, R205, R210, R298, R325) -/

theorem State.acquire_cur (s : State) (g scope : Nat) : (s.acquire g scope).cur = s.cur := by
  unfold State.acquire
  split
  · rfl
  · exact (s.flushSi_memoryOnly ..).cur

theorem State.admitLane_cur (s : State) (ctx r g l mode : Nat) : (s.admitLane ctx r g l mode).cur = s.cur := by
  unfold State.admitLane
  refine (State.acquire_cur ..).trans ?_
  split <;> split <;> rfl

theorem State.admitPending_cur (s : State) (ctx r : Nat) : (s.admitPending ctx r).cur = s.cur := by
  unfold State.admitPending
  split
  · rfl
  · split
    · rfl
    · split
      · rfl
      · exact foldl_keeps State.cur (fun (x : State) (d : Demand) => x.admitLane ctx r d.g d.lane _) (fun x d => x.admitLane_cur ..) _ _

theorem State.withdraw_cur (s : State) (ctx r g l : Nat) : (s.withdraw ctx r g l).cur = s.cur := State.admitPending_cur ..

theorem State.takeDemands_cur (s : State) (ctx : Nat) (gs : List Nat) : (s.takeDemands ctx gs).cur = s.cur := by
  unfold State.takeDemands
  refine (foldl_keeps State.cur (fun (x : State) (p : Nat × Nat × Nat) => x.withdraw ctx p.2.2 p.1 p.2.1) (fun x p => x.withdraw_cur ..) _ _).trans ?_
  split <;> rfl

theorem State.destroyHolds_cur (s : State) (g : Nat) : (s.destroyHolds g).cur = s.cur :=
  (foldl_keeps State.cur _ (fun (x : State) (l : Nat) => foldl_keeps State.cur (fun (y : State) (h : Hold) => y.destroyHold (s.ctxNo g) g l h) (fun _ _ => rfl) _ x) _ _).trans
    (s.takeDemands_cur ..)

theorem State.unlane_cur (s : State) (i l : Nat) : (s.unlane i l).cur = s.cur := by
  unfold State.unlane
  dsimp only
  split <;> rfl

theorem State.discardLane_cur (cause n : Nat) (s : State) (i l : Nat) : (s.discardLane cause n i l).cur = s.cur := by
  induction n generalizing s i l with
  | zero => rfl
  | succ n ih =>
    unfold State.discardLane
    dsimp only
    split
    · rfl
    · exact (State.unlane_cur ..).trans (foldl_keeps State.cur _ (fun (x : State) (r : ForkRec) => ih x r.inst l) _ s)

theorem State.squashEarly_cur (s : State) (g l k : Nat) : (s.squashEarly g l k).cur = s.cur := by
  unfold State.squashEarly
  split
  · rfl
  · split
    · rfl
    · exact State.discardLane_cur ..

theorem State.squashLane_cur (s : State) (g l : Nat) : (s.squashLane g l).cur = s.cur :=
  foldl_keeps State.cur _ (fun (x : State) (j : Nat) => x.squashEarly_cur g l j) _ s

theorem State.squashAll_cur (s : State) (g : Nat) : (s.squashAll g).cur = s.cur := by
  unfold State.squashAll
  rw [State.modLanes_cur]
  exact foldl_keeps State.cur _ (fun (x : State) (l : Nat) => x.squashLane_cur g l) _ s

theorem State.unpinHome_cur (s : State) (ctx : Nat) (k : Nat × Nat) : (s.unpinHome ctx k).cur = s.cur := by
  unfold State.unpinHome
  split
  · split <;> rfl
  · rfl

theorem State.modCmds_cur (s : State) (c : Nat) (f : Crew → Crew) : (s.modCmds c f).cur = s.cur := by
  have hpins (x : State) (ctx : Nat → State → Nat) (ks : List (Nat × Nat)) : (ks.foldl (fun y k => y.unpinHome (ctx c y) k) x).cur = x.cur :=
    foldl_keeps State.cur _ (fun (y : State) (k : Nat × Nat) => y.unpinHome_cur _ k) ks x
  unfold State.modCmds
  dsimp only
  rw [hpins _ fun c y => (y.crew c).ctx]
  rfl

theorem State.passMet_cur (s : State) (c : Nat) : (s.passMet c).cur = s.cur := rfl
theorem State.dropQueued_cur (s : State) (g : Nat) : (s.dropQueued g).cur = s.cur := rfl

theorem State.killGroup_cur (s : State) (g : Nat) : (s.killGroup g).cur = s.cur := by
  unfold State.killGroup
  dsimp only
  rw [State.modCmds_cur, State.modGrp_cur, State.dropQueued_cur, State.passMet_cur, State.destroyHolds_cur, State.squashAll_cur, State.flush_cur]

theorem State.terminate_cur (s : State) (c : Nat) : (s.terminate c).cur = s.cur := by
  have hkill (x : State) (l : List Nat) :
      (l.foldl (fun s g => if (s.grp g).place == .resident || (s.grp g).place == .evicted then s.killGroup g else s) x).cur = x.cur := by
    refine foldl_keeps State.cur _ (fun (y : State) (g : Nat) => ?_) l x
    split
    · exact y.killGroup_cur g
    · rfl
  unfold State.terminate
  dsimp only
  split
  · rw [State.release_cur, hkill, State.takeDemands_cur]
  · rw [hkill, State.takeDemands_cur]

theorem State.putQueueWord_cur (s : State) (part q j v : Nat) : (s.putQueueWord part q j v).cur = s.cur := by
  have hunmark (x : State) (f : Nat → Nat) (l : List Nat) : (l.foldl (fun y k => y.unmark part (f k)) x).cur = x.cur :=
    foldl_keeps State.cur _ (fun (y : State) (k : Nat) => y.unmark_cur part (f k)) l x
  unfold State.putQueueWord State.physWrite
  dsimp only
  rw [State.modPart_cur, hunmark _ fun k => 32 * ((s.queueAddr part q + 8 * j) / 32 + k), (State.homeWrite_memoryOnly ..).cur, (s.invalidate_memoryOnly ..).cur]

/-! ## The operand block of sysc (R335) -/

theorem Mem.read_drop_take (m : List Host.Cell) (a : Nat) {n k l : Nat} (h : k + l ≤ n) : ((Mem.read m a n).drop k).take l = Mem.read m (a + k) l := by
  refine List.ext_getElem (by simp [Mem.read]; omega) fun j hj _ => ?_
  simp [Mem.read, Nat.add_assoc]

@[simp] theorem State.issued_data (s : State) (i : Instr) : (s.issued i).cur.data = s.cur.data := by
  rw [State.issued_cur]; obtain ⟨_, _, _, _, _, h⟩ := s.begin_cur i; rw [h]
theorem State.goes.data {s : State} {i : Instr} (h : s.goes i) : s.cur.data = [] := by
  obtain ⟨⟨-, -, -, -, hdata, -⟩, -⟩ := h; exact hdata

/-- The offset of the block of a sysc, and its words as the crew's window holds them. -/
def State.syscOff (t : State) (i : Instr) : Nat := (t.lead i .D).toNat % 2 ^ 20
def State.syscWord (t : State) (i : Instr) (g j : Nat) : Word := BitVec.ofNat 64 (Mem.num (t.crewOf g).scratch (t.syscOff i + 8 * j) 8)
/-- The state once the block has been read. -/
def State.syscRead (t : State) (i : Instr) (g : Nat) : State := { t with cur := { t.cur with data := t.readScratch (t.grp g).crew (t.syscOff i) 64 } }

/-- A unit that has read no block yet, and whose scalars are its lowest active lane's. -/
structure State.syscNew (t : State) (i : Instr) (g : Nat) : Prop where
  grp : t.cur.g = g
  off : bits (t.scal i .D).toNat 0 20 = t.syscOff i
  data : t.cur.data = []

theorem State.goes.syscNew {s : State} {i : Instr} (h : s.goes i) : (s.issued i).syscNew i s.cur.g where
  grp := s.issued_g i
  off := by rw [State.issued_scal h, bits, pow_zero, Nat.div_one]; rfl
  data := (s.issued_data i).trans h.data

section
variable {t : State} {i : Instr} {g : Nat} (rest : State → (Nat → Word) → Out)

theorem State.syscBlock_misaligned (h : t.syscNew i g) (ho : t.syscOff i % 64 ≠ 0) :
    t.raises i t.cur.lanes ⟨cALIGN, 0, BitVec.ofNat 64 (t.syscOff i), none⟩ true (t.syscBlock i rest) := by
  unfold State.syscBlock
  rw [h.off]
  dsimp only
  rw [if_pos (by simpa using ho)]
  exact State.raises_fault ..

theorem State.syscBlock_outside (h : t.syscNew i g) (ho : t.syscOff i % 64 = 0) (hw : (t.crewOf g).window < t.syscOff i + 64) :
    t.raises i t.cur.lanes ⟨cPROT, 0x04, BitVec.ofNat 64 (t.syscOff i), none⟩ true (t.syscBlock i rest) := by
  have hin : (t.crew (t.grp t.cur.g).crew).window < t.syscOff i + 64 := by rw [h.grp]; exact hw
  unfold State.syscBlock
  rw [h.off]
  dsimp only
  rw [if_neg (by simpa using ho), if_pos hin]
  exact State.raises_fault ..

theorem State.syscBlock_poisoned (h : t.syscNew i g) (ho : t.syscOff i % 64 = 0) (hw : t.syscOff i + 64 ≤ (t.crewOf g).window)
    (hp : t.boxPoison (t.grp g).crew (t.syscOff i) 64 = true) :
    t.raises i t.cur.lanes ⟨cPOISON, 0, BitVec.ofNat 64 (t.syscOff i), none⟩ true (t.syscBlock i rest) := by
  have hin : ¬ (t.crew (t.grp t.cur.g).crew).window < t.syscOff i + 64 := by rw [h.grp]; exact Nat.not_lt.2 hw
  have hmark : (t.cur.data.isEmpty && t.boxPoison (t.grp t.cur.g).crew (t.syscOff i) 64) = true := by rw [h.data, h.grp, hp]; rfl
  unfold State.syscBlock
  rw [h.off]
  dsimp only
  rw [if_neg (by simpa using ho), if_neg hin, if_pos hmark]
  exact State.raises_fault ..

/-- A sound block is read, and its eight words are those of the window. -/
theorem State.syscBlock_sound (h : t.syscNew i g) (ho : t.syscOff i % 64 = 0) (hw : t.syscOff i + 64 ≤ (t.crewOf g).window)
    (hp : t.boxPoison (t.grp g).crew (t.syscOff i) 64 = false) :
    ∃ w, (∀ j < 8, w j = t.syscWord i g j) ∧ t.syscBlock i rest = rest (t.syscRead i g) w := by
  have hin : ¬ (t.crew (t.grp t.cur.g).crew).window < t.syscOff i + 64 := by rw [h.grp]; exact Nat.not_lt.2 hw
  have hmark : ¬ (t.cur.data.isEmpty && t.boxPoison (t.grp t.cur.g).crew (t.syscOff i) 64) = true := by rw [h.grp, hp]; simp
  have hread : (if t.cur.data.isEmpty then { t with cur := { t.cur with data := t.readScratch (t.grp t.cur.g).crew (t.syscOff i) 64 } } else t) = t.syscRead i g := by
    rw [h.data, h.grp]; rfl
  refine ⟨fun j => BitVec.ofNat 64 (leNat (((t.syscRead i g).cur.data.drop (8 * j)).take 8)), fun j hj => ?_, ?_⟩
  · rw [State.syscWord, Mem.num, ← Mem.read_drop_take _ _ (show 8 * j + 8 ≤ 64 by omega)]
    rfl
  · unfold State.syscBlock
    rw [h.off]
    dsimp only
    rw [if_neg (by simpa using ho), if_neg hin, if_neg hmark, hread]

end

/-! ## The functions of sysc (R182, R302, R335) -/

/-- A block that sysc accepts: aligned, inside the window, and without poison. -/
structure State.syscSound (t : State) (i : Instr) (g : Nat) : Prop where
  aligned : t.syscOff i % 64 = 0
  inside : t.syscOff i + 64 ≤ (t.crewOf g).window
  clean : t.boxPoison (t.grp g).crew (t.syscOff i) 64 = false

/-- A sysc ends with a status in all lanes of D, over a state. -/
def State.sysGives (s : State) (i : Instr) (d : BitVec 6) (x : State) (n : Nat) : Prop :=
  ∃ r : Result, r.all (BitVec.ofNat 64 n) ∧ exec i s = .next (x.finish i d r s.cur.lanes)

theorem State.sysGives_status {s x : State} {i : Instr} {d : BitVec 6} {n : Nat} (h : exec i s = x.status i d n) (hx : x.cur.lanes = (s.issued i).cur.lanes) :
    s.sysGives i d x n :=
  ⟨_, uniResult_all _, by rw [h, State.status, hx, State.issued_lanes]⟩

/-- The forms of sysc with a block. -/
def syscForms (sc : BitVec 3) (d : BitVec 6) : List Instr :=
  [.syscShoot sc d, .syscTerm sc d, .syscQdesc sc d, .syscLevel sc d, .syscRing sc d, .syscPodwin sc d, .syscFpdef sc d]

section
variable {s : State} {i : Instr} {sc : BitVec 3} {d : BitVec 6}

/-- Each of them reads its block first. -/
theorem exec_syscForms (hi : i ∈ syscForms sc d) (s : State) : ∃ rest, exec i s = s.issue i fun t => t.syscBlock i rest := by
  simp only [syscForms, List.mem_cons, List.not_mem_nil, or_false] at hi
  rcases hi with rfl | rfl | rfl | rfl | rfl | rfl | rfl <;> exact ⟨_, rfl⟩

/-- What a form does with a sound block, where it goes. -/
theorem State.goes.sysc {rest : State → (Nat → Word) → Out} (h : s.goes i) (he : exec i s = s.issue i fun t => t.syscBlock i rest)
    (hb : (s.issued i).syscSound i s.cur.g) :
    ∃ w, (∀ j < 8, w j = (s.issued i).syscWord i s.cur.g j) ∧ exec i s = rest ((s.issued i).syscRead i s.cur.g) w := by
  obtain ⟨w, hw, hx⟩ := State.syscBlock_sound rest h.syscNew hb.aligned hb.inside hb.clean
  exact ⟨w, hw, by rw [he, s.issue_of_goes _ _ h, hx]⟩

theorem State.syscRead_g (s : State) (i : Instr) (g : Nat) : ((s.issued i).syscRead i g).cur.g = s.cur.g := s.issued_g i
theorem State.syscRead_partNo (t : State) (i : Instr) (g k : Nat) : (t.syscRead i g).partNo k = t.partNo k := rfl
theorem State.syscRead_findCtx (t : State) (i : Instr) (g part id : Nat) : (t.syscRead i g).findCtx part id = t.findCtx part id := rfl
theorem State.syscRead_ctx (t : State) (i : Instr) (g c : Nat) : (t.syscRead i g).ctx c = t.ctx c := rfl
theorem State.syscRead_taggedCrew (t : State) (i : Instr) (g c tag : Nat) : (t.syscRead i g).taggedCrew c tag = t.taggedCrew c tag := rfl
theorem State.syscRead_crewNo (t : State) (i : Instr) (g k : Nat) : ((t.syscRead i g).grp k).crew = (t.grp k).crew := rfl
theorem State.syscRead_inFlight (t : State) (i : Instr) (g c n : Nat) : (t.syscRead i g).inFlight c n = t.inFlight c n := rfl

theorem exec_syscLevel (h : s.goes (.syscLevel sc d)) (hb : (s.issued (.syscLevel sc d)).syscSound (.syscLevel sc d) s.cur.g) :
    let i : Instr := .syscLevel sc d
    let t := s.issued i
    let b := t.syscRead i s.cur.g
    let w := t.syscWord i s.cur.g
    exec i s = if 24 ≤ (w 0).toNat || 64 < (w 1).toNat then b.status i d 1
      else (b.modPart (t.partNo s.cur.g) fun p => { p with levels := p.levels.setIfInBounds (w 0).toNat (w 1) }).status i d 0 := by
  obtain ⟨w, hw, hx⟩ := h.sysc rfl hb
  rw [hw 0 (by omega), hw 1 (by omega), State.syscRead_g, State.syscRead_partNo] at hx
  exact hx

theorem exec_syscRing (h : s.goes (.syscRing sc d)) (hb : (s.issued (.syscRing sc d)).syscSound (.syscRing sc d) s.cur.g) :
    let i : Instr := .syscRing sc d
    let t := s.issued i
    let b := t.syscRead i s.cur.g
    let w := t.syscWord i s.cur.g
    exec i s = if 16 ≤ (w 0).toNat then b.status i d 1
      else (b.modPart (t.partNo s.cur.g) fun p => { p with rings := p.rings.setIfInBounds (w 0).toNat (w 1, w 2) }).status i d 0 := by
  obtain ⟨w, hw, hx⟩ := h.sysc rfl hb
  rw [hw 0 (by omega), hw 1 (by omega), hw 2 (by omega), State.syscRead_g, State.syscRead_partNo] at hx
  exact hx

theorem exec_syscPodwin (h : s.goes (.syscPodwin sc d)) (hb : (s.issued (.syscPodwin sc d)).syscSound (.syscPodwin sc d) s.cur.g) :
    let i : Instr := .syscPodwin sc d
    let t := s.issued i
    let b := t.syscRead i s.cur.g
    let w := t.syscWord i s.cur.g
    exec i s = match t.findCtx (t.partNo s.cur.g) (w 0).toNat with
      | none => b.status i d 2
      | some c =>
        if 64 ≤ (w 1).toNat then b.status i d 1
        else (b.modCtx c fun x => { x with podwins := x.podwins.setIfInBounds (w 1).toNat (w 2, w 3, w 4) }).status i d 0 := by
  obtain ⟨w, hw, hx⟩ := h.sysc rfl hb
  rw [hw 0 (by omega), hw 1 (by omega), hw 2 (by omega), hw 3 (by omega), hw 4 (by omega), State.syscRead_g, State.syscRead_partNo, State.syscRead_findCtx] at hx
  exact hx

theorem exec_syscFpdef (h : s.goes (.syscFpdef sc d)) (hb : (s.issued (.syscFpdef sc d)).syscSound (.syscFpdef sc d) s.cur.g) :
    let i : Instr := .syscFpdef sc d
    let t := s.issued i
    let b := t.syscRead i s.cur.g
    let w := t.syscWord i s.cur.g
    exec i s = match t.findCtx (t.partNo s.cur.g) (w 0).toNat with
      | none => b.status i d 2
      | some c =>
        if 32 ≤ (w 1).toNat || 4 < bits (w 1).toNat 0 3 then b.status i d 1
        else (b.modCtx c fun x => { x with fpdef := w 1 }).status i d 0 := by
  obtain ⟨w, hw, hx⟩ := h.sysc rfl hb
  rw [hw 0 (by omega), hw 1 (by omega), State.syscRead_g, State.syscRead_partNo, State.syscRead_findCtx] at hx
  exact hx

theorem exec_syscTerm (h : s.goes (.syscTerm sc d)) (hb : (s.issued (.syscTerm sc d)).syscSound (.syscTerm sc d) s.cur.g) :
    let i : Instr := .syscTerm sc d
    let t := s.issued i
    let b := t.syscRead i s.cur.g
    let w := t.syscWord i s.cur.g
    exec i s = match (t.findCtx (t.partNo s.cur.g) (w 0).toNat).bind fun c => t.taggedCrew c (w 1).toNat with
      | none => b.status i d 2
      | some c => if c == (t.grp s.cur.g).crew then .next (b.terminate c) else (b.terminate c).status i d 0 := by
  obtain ⟨w, hw, hx⟩ := h.sysc rfl hb
  rw [hw 0 (by omega), hw 1 (by omega), State.syscRead_g, State.syscRead_partNo, State.syscRead_findCtx, State.syscRead_crewNo] at hx
  exact hx

theorem exec_syscQdesc (h : s.goes (.syscQdesc sc d)) (hb : (s.issued (.syscQdesc sc d)).syscSound (.syscQdesc sc d) s.cur.g) :
    let i : Instr := .syscQdesc sc d
    let t := s.issued i
    let b := t.syscRead i s.cur.g
    let w := t.syscWord i s.cur.g
    let level := bits (w 1).toNat 2 5
    let sys := (t.findCtx (t.partNo s.cur.g) (bits (w 1).toNat 16 16)).any fun c => (t.ctx c).isSys
    exec i s = if 65536 ≤ (w 0).toNat || 23 < level || (level < 3 && !sys) then b.status i d 1
      else ((List.range 5).foldl (fun x j => x.putQueueWord (t.partNo s.cur.g) (w 0).toNat j (w (j + 1)).toNat) b).status i d 0 := by
  obtain ⟨w, hw, hx⟩ := h.sysc rfl hb
  have hfold (part q : Nat) (b : State) : (List.range 5).foldl (fun x j => x.putQueueWord part q j (w (j + 1)).toNat) b =
      (List.range 5).foldl (fun x j => x.putQueueWord part q j ((s.issued (.syscQdesc sc d)).syscWord (.syscQdesc sc d) s.cur.g (j + 1)).toNat) b :=
    List.foldl_ext _ _ _ fun x j hj => by rw [hw (j + 1) (by have := List.mem_range.1 hj; omega)]
  dsimp only at hx
  rw [hfold, hw 0 (by omega), hw 1 (by omega), State.syscRead_g, State.syscRead_partNo, State.syscRead_findCtx] at hx
  dsimp only
  revert hx
  generalize State.findCtx _ _ (bits _ 16 16) = o
  cases o <;> exact id

theorem exec_syscShoot (h : s.goes (.syscShoot sc d)) (hb : (s.issued (.syscShoot sc d)).syscSound (.syscShoot sc d) s.cur.g) :
    let i : Instr := .syscShoot sc d
    let t := s.issued i
    let b := t.syscRead i s.cur.g
    let w := t.syscWord i s.cur.g
    exec i s = match t.findCtx (t.partNo s.cur.g) (w 0).toNat with
      | none => b.status i d 2
      | some c =>
        let x := b.shoot c (w 1).toNat (w 2).toNat
        if x.shootOpen then .next (x.await i true) else x.status i d 0 := by
  obtain ⟨w, hw, hx⟩ := h.sysc rfl hb
  rw [hw 0 (by omega), hw 1 (by omega), hw 2 (by omega), State.syscRead_g, State.syscRead_partNo, State.syscRead_findCtx] at hx
  exact hx

/-- The clauses about the block, as the trap of each fault. -/
theorem State.goes.sysc_traps (h : s.goes i) (hi : i ∈ syscForms sc d) {t : State} (ht : s.issued i = t) :
    let o := t.syscOff i
    (o % 64 ≠ 0 → t.raises i s.cur.lanes ⟨cALIGN, 0, BitVec.ofNat 64 o, none⟩ true (exec i s)) ∧
    (o % 64 = 0 → (t.crewOf s.cur.g).window < o + 64 → t.raises i s.cur.lanes ⟨cPROT, 0x04, BitVec.ofNat 64 o, none⟩ true (exec i s)) ∧
    (o % 64 = 0 → o + 64 ≤ (t.crewOf s.cur.g).window → t.boxPoison (t.grp s.cur.g).crew o 64 = true →
      t.raises i s.cur.lanes ⟨cPOISON, 0, BitVec.ofNat 64 o, none⟩ true (exec i s)) := by
  subst ht
  obtain ⟨rest, hx⟩ := exec_syscForms hi s
  rw [s.issue_of_goes _ _ h] at hx
  dsimp only
  rw [hx, ← s.issued_lanes i]
  exact ⟨State.syscBlock_misaligned rest h.syscNew, State.syscBlock_outside rest h.syscNew, State.syscBlock_poisoned rest h.syscNew⟩

section
variable {t : State} {c : Nat}

theorem syscLevel_clause (h : s.goes (.syscLevel sc d)) (ht : s.issued (.syscLevel sc d) = t) (hb : t.syscSound (.syscLevel sc d) s.cur.g) :
    let i : Instr := .syscLevel sc d
    let b := t.syscRead i s.cur.g
    let w := t.syscWord i s.cur.g
    (24 ≤ (w 0).toNat ∨ 64 < (w 1).toNat → s.sysGives i d b 1) ∧ ((w 0).toNat < 24 → (w 1).toNat ≤ 64 →
      s.sysGives i d (b.modPart (t.partNo s.cur.g) fun p => { p with levels := p.levels.setIfInBounds (w 0).toNat (w 1) }) 0) := by
  subst ht
  have hx := exec_syscLevel h hb
  dsimp only at hx ⊢
  refine ⟨fun hbad => ?_, fun h0 h1 => ?_⟩
  · rw [if_pos (by simpa using hbad)] at hx
    exact State.sysGives_status hx rfl
  · rw [if_neg (by simpa using ⟨h0, h1⟩)] at hx
    exact State.sysGives_status hx rfl

theorem syscRing_clause (h : s.goes (.syscRing sc d)) (ht : s.issued (.syscRing sc d) = t) (hb : t.syscSound (.syscRing sc d) s.cur.g) :
    let i : Instr := .syscRing sc d
    let b := t.syscRead i s.cur.g
    let w := t.syscWord i s.cur.g
    (16 ≤ (w 0).toNat → s.sysGives i d b 1) ∧ ((w 0).toNat < 16 →
      s.sysGives i d (b.modPart (t.partNo s.cur.g) fun p => { p with rings := p.rings.setIfInBounds (w 0).toNat (w 1, w 2) }) 0) := by
  subst ht
  have hx := exec_syscRing h hb
  dsimp only at hx ⊢
  refine ⟨fun hbad => ?_, fun h0 => ?_⟩
  · rw [if_pos hbad] at hx
    exact State.sysGives_status hx rfl
  · rw [if_neg (Nat.not_le.2 h0)] at hx
    exact State.sysGives_status hx rfl

theorem syscPodwin_clause (h : s.goes (.syscPodwin sc d)) (ht : s.issued (.syscPodwin sc d) = t) (hb : t.syscSound (.syscPodwin sc d) s.cur.g) :
    let i : Instr := .syscPodwin sc d
    let b := t.syscRead i s.cur.g
    let w := t.syscWord i s.cur.g
    let ctx := t.findCtx (t.partNo s.cur.g) (w 0).toNat
    (ctx = none → s.sysGives i d b 2) ∧ ∀ c, ctx = some c → (64 ≤ (w 1).toNat → s.sysGives i d b 1) ∧ ((w 1).toNat < 64 →
      s.sysGives i d (b.modCtx c fun x => { x with podwins := x.podwins.setIfInBounds (w 1).toNat (w 2, w 3, w 4) }) 0) := by
  subst ht
  have hx := exec_syscPodwin h hb
  dsimp only at hx ⊢
  refine ⟨fun hn => ?_, fun c hc => ⟨fun hbad => ?_, fun h1 => ?_⟩⟩
  · rw [hn] at hx
    exact State.sysGives_status hx rfl
  · rw [hc] at hx
    exact State.sysGives_status (hx.trans (if_pos hbad)) rfl
  · rw [hc] at hx
    exact State.sysGives_status (hx.trans (if_neg (Nat.not_le.2 h1))) rfl

theorem syscFpdef_clause (h : s.goes (.syscFpdef sc d)) (ht : s.issued (.syscFpdef sc d) = t) (hb : t.syscSound (.syscFpdef sc d) s.cur.g) :
    let i : Instr := .syscFpdef sc d
    let b := t.syscRead i s.cur.g
    let w := t.syscWord i s.cur.g
    let ctx := t.findCtx (t.partNo s.cur.g) (w 0).toNat
    (ctx = none → s.sysGives i d b 2) ∧ ∀ c, ctx = some c → (32 ≤ (w 1).toNat ∨ 4 < (w 1).toNat % 8 → s.sysGives i d b 1) ∧
      ((w 1).toNat < 32 → (w 1).toNat % 8 ≤ 4 → s.sysGives i d (b.modCtx c fun x => { x with fpdef := w 1 }) 0) := by
  subst ht
  have hx := exec_syscFpdef h hb
  dsimp only at hx ⊢
  refine ⟨fun hn => ?_, fun c hc => ⟨fun hbad => ?_, fun h1 h2 => ?_⟩⟩
  · rw [hn] at hx
    exact State.sysGives_status hx rfl
  · rw [hc] at hx
    exact State.sysGives_status (hx.trans (if_pos (by simpa [bits] using hbad))) rfl
  · rw [hc] at hx
    exact State.sysGives_status (hx.trans (if_neg (by simpa [bits] using ⟨h1, h2⟩))) rfl

theorem syscTerm_clause (h : s.goes (.syscTerm sc d)) (ht : s.issued (.syscTerm sc d) = t) (hb : t.syscSound (.syscTerm sc d) s.cur.g) :
    let i : Instr := .syscTerm sc d
    let b := t.syscRead i s.cur.g
    let w := t.syscWord i s.cur.g
    let ctx := t.findCtx (t.partNo s.cur.g) (w 0).toNat
    let c0 := (t.grp s.cur.g).crew
    (ctx = none → s.sysGives i d b 2) ∧ ∀ c, ctx = some c →
      (t.taggedCrew c (w 1).toNat = none → s.sysGives i d b 2) ∧
      (∀ k, t.taggedCrew c (w 1).toNat = some k → k ≠ c0 → s.sysGives i d (b.terminate k) 0) ∧
      (t.taggedCrew c (w 1).toNat = some c0 → exec i s = .next (b.terminate c0)) := by
  subst ht
  have hx := exec_syscTerm h hb
  dsimp only at hx ⊢
  refine ⟨fun hn => ?_, fun c hc => ⟨fun hk => ?_, fun k hk hne => ?_, fun hk => ?_⟩⟩
  · rw [hn, Option.bind_none] at hx
    exact State.sysGives_status hx rfl
  · rw [hc, Option.bind_some, hk] at hx
    exact State.sysGives_status hx rfl
  · rw [hc, Option.bind_some, hk] at hx
    exact State.sysGives_status (hx.trans (if_neg (by simpa using hne))) (by rw [State.terminate_cur]; rfl)
  · rw [hc, Option.bind_some, hk] at hx
    exact hx.trans (if_pos (by simp))

theorem qdescRefused_iff (q level : Nat) (sys : Bool) :
    (decide (65536 ≤ q) || decide (23 < level) || (decide (level < 3) && !sys)) = true ↔ 65536 ≤ q ∨ 23 < level ∨ (level < 3 ∧ sys = false) := by
  simp [or_assoc]

theorem syscQdesc_clause (h : s.goes (.syscQdesc sc d)) (ht : s.issued (.syscQdesc sc d) = t) (hb : t.syscSound (.syscQdesc sc d) s.cur.g) :
    let i : Instr := .syscQdesc sc d
    let b := t.syscRead i s.cur.g
    let w := t.syscWord i s.cur.g
    let level := (w 1).toNat / 4 % 32
    let sys := (t.findCtx (t.partNo s.cur.g) ((w 1).toNat / 65536 % 65536)).any fun c => (t.ctx c).isSys
    (65536 ≤ (w 0).toNat ∨ 23 < level ∨ (level < 3 ∧ sys = false) → s.sysGives i d b 1) ∧
    (¬ (65536 ≤ (w 0).toNat ∨ 23 < level ∨ (level < 3 ∧ sys = false)) →
      s.sysGives i d ((List.range 5).foldl (fun x j => x.putQueueWord (t.partNo s.cur.g) (w 0).toNat j (w (j + 1)).toNat) b) 0) := by
  subst ht
  have hx := exec_syscQdesc h hb
  dsimp only at hx ⊢
  refine ⟨fun hbad => ?_, fun hok => ?_⟩
  · exact State.sysGives_status (hx.trans (if_pos ((qdescRefused_iff ..).2 hbad))) rfl
  · exact State.sysGives_status (hx.trans (if_neg (mt (qdescRefused_iff ..).1 hok))) (by rw [foldl_keeps State.cur _ fun x j => x.putQueueWord_cur _ _ j _]; rfl)

/-- The context that the block of a shoot-down names is the one whose accesses it waits for. -/
theorem State.shootOpen_of_findCtx {x : State} (hc : x.findCtx (x.partNo x.cur.g) (leNat (x.cur.data.take 8)) = some c) :
    x.shootOpen = x.inFlight c x.cur.cycle := by
  rw [State.shootOpen, hc]

theorem State.syscRead_first (t : State) (i : Instr) (g : Nat) : leNat ((t.syscRead i g).cur.data.take 8) = (t.syscWord i g 0).toNat := by
  have hword : leNat ((t.syscRead i g).cur.data.take 8) = Mem.num (t.crewOf g).scratch (t.syscOff i) 8 :=
    congrArg leNat (Mem.read_drop_take (t.crewOf g).scratch (t.syscOff i) (show 0 + 8 ≤ 64 by omega))
  rw [hword, State.syscWord, BitVec.toNat_ofNat, Nat.mod_eq_of_lt]
  · rfl
  · exact Mem.num_lt ..

theorem State.shootOpen_syscRead {t : State} {i : Instr} {g : Nat} (start len : Nat) (hg : t.cur.g = g)
    (hc : t.findCtx (t.partNo g) (t.syscWord i g 0).toNat = some c) : ((t.syscRead i g).shoot c start len).shootOpen = t.inFlight c t.cur.cycle := by
  subst hg
  rw [← t.syscRead_first i] at hc
  exact State.shootOpen_of_findCtx (x := (t.syscRead i t.cur.g).shoot c start len) hc

theorem syscShoot_clause (h : s.goes (.syscShoot sc d)) (ht : s.issued (.syscShoot sc d) = t) (hb : t.syscSound (.syscShoot sc d) s.cur.g) :
    let i : Instr := .syscShoot sc d
    let b := t.syscRead i s.cur.g
    let w := t.syscWord i s.cur.g
    let ctx := t.findCtx (t.partNo s.cur.g) (w 0).toNat
    (ctx = none → s.sysGives i d b 2) ∧ ∀ c, ctx = some c →
      let x := b.shoot c (w 1).toNat (w 2).toNat
      (t.inFlight c t.cur.cycle = false → s.sysGives i d x 0) ∧ (t.inFlight c t.cur.cycle = true → exec i s = .next (x.await i true)) := by
  subst ht
  have hx := exec_syscShoot h hb
  dsimp only at hx ⊢
  refine ⟨fun hn => ?_, fun c hc => ?_⟩
  · rw [hn] at hx
    exact State.sysGives_status hx rfl
  · rw [hc] at hx
    dsimp only at hx
    rw [State.shootOpen_syscRead _ _ (s.issued_g _) hc] at hx
    refine ⟨fun hidle => ?_, fun hbusy => hx.trans (if_pos hbusy)⟩
    exact State.sysGives_status (hx.trans (if_neg (by simp [hidle]))) rfl

end

end

/-! ## The decode table (R56, R334) -/

/-- What an entry of a table maps its opcode to, and what the shipping map does. -/
def tableMap (e : Bool × Nat × Nat) : Option Nat := if bitAt e.2.2 15 then some (bits e.2.2 0 10) else none
def shippingMap (e : Bool × Nat × Nat) : Option Nat := if isShipping e.1 e.2.1 then some e.2.1 else none
theorem shippingMap_some {e : Bool × Nat × Nat} {op : Nat} (h : shippingMap e = some op) : e.2.1 = op := by
  unfold shippingMap at h
  split at h
  · exact Option.some.inj h
  · cases h

/-- What an entry adds to a context's table. -/
def tableNew (e : Bool × Nat × Nat) : Option (Bool × Nat × Option Nat) :=
  if tableMap e == shippingMap e then none else some (e.1, e.2.1, tableMap e)
theorem tableDiff_eq (es : List (Bool × Nat × Nat)) : tableDiff es = es.filterMap tableNew := rfl

theorem tableNew_key {e : Bool × Nat × Nat} {uni : Bool} {op : Nat} (h : (tableNew e).any (fun x => x.1 == uni && x.2.1 == op) = true) : e.1 = uni ∧ e.2.1 = op := by
  unfold tableNew at h
  split at h
  · cases h
  · simpa using h

/-- Where a table has one entry for each opcode, the differences from the shipping map keep what the entry says. -/
theorem opMap_tableDiff {es : List (Bool × Nat × Nat)} {e : Bool × Nat × Nat} (he : e ∈ es) (hu : ∀ e' ∈ es, e'.1 = e.1 → e'.2.1 = e.2.1 → e' = e) (c : Context) :
    ({ c with decode := tableDiff es } : Context).opMap e.1 e.2.1 = if tableMap e = shippingMap e then some e.2.1 else tableMap e := by
  have hfind : (tableDiff es).find? (fun x => x.1 == e.1 && x.2.1 == e.2.1) = tableNew e := by
    rw [tableDiff_eq, List.find?_filterMap]
    cases hf : es.find? (fun a => (tableNew a).any fun x => x.1 == e.1 && x.2.1 == e.2.1) with
    | some e' =>
      have hkey : (tableNew e').any (fun x => x.1 == e.1 && x.2.1 == e.2.1) = true :=
        List.find?_some (p := fun a => (tableNew a).any fun x => x.1 == e.1 && x.2.1 == e.2.1) hf
      obtain ⟨h1, h2⟩ := tableNew_key hkey
      rw [Option.bind_some, hu e' (List.mem_of_find?_eq_some hf) h1 h2]
    | none =>
      have hno := List.find?_eq_none.1 hf e he
      unfold tableNew at hno ⊢
      split at hno
      · rw [if_pos ‹_›]; rfl
      · simp at hno
  rw [Context.opMap]
  dsimp only
  rw [hfind, tableNew]
  by_cases h : tableMap e = shippingMap e <;> simp [h]

/-- An entry of a table in memory, as sixteen bits. -/
def tableWord (bs : List Byte) (k : Nat) : Nat := leNat ((bs.drop (2 * k)).take 2)
theorem tableWord_lt (bs : List Byte) (k : Nat) : tableWord bs k < 2 ^ 16 :=
  (leNat_lt _).trans_le (Nat.pow_le_pow_right (by omega) (by have := List.length_take_le 2 (bs.drop (2 * k)); omega))
theorem bitAt_tableWord (bs : List Byte) (k : Nat) : bitAt (tableWord bs k) 15 = true ↔ tableWord bs k / 2 ^ 15 = 1 := by
  have h := tableWord_lt bs k
  unfold bitAt
  rw [beq_iff_eq]
  omega

theorem mem_tableEntries {bs : List Byte} {e : Bool × Nat × Nat} :
    e ∈ tableEntries bs ↔ ∃ k < 2048, k ≠ 0x3FF ∧ (decide (1024 ≤ k), k % 1024, tableWord bs k) = e := by
  simp [tableEntries, tableWord, and_assoc]

theorem tableEntries_unique {bs : List Byte} {e e' : Bool × Nat × Nat} (he : e ∈ tableEntries bs) (he' : e' ∈ tableEntries bs) (h1 : e'.1 = e.1) (h2 : e'.2.1 = e.2.1) :
    e' = e := by
  obtain ⟨k, hk, -, rfl⟩ := mem_tableEntries.1 he
  obtain ⟨k', hk', -, rfl⟩ := mem_tableEntries.1 he'
  have hset : 1024 ≤ k' ↔ 1024 ≤ k := by simpa using h1
  have hop : k' % 1024 = k % 1024 := h2
  rw [show k' = k by omega]

/-- A table that dtld refuses, by the bytes of its entries. -/
def tableBad (bs : List Byte) (k : Nat) : Prop := k ≠ 0x3FF ∧ tableWord bs k / 2 ^ 15 = 1 ∧ isShipping (decide (1024 ≤ k)) (tableWord bs k % 1024) = false
def tableStray (bs : List Byte) (k : Nat) : Prop := k ≠ 0x3FF ∧ tableWord bs k / 1024 % 32 ≠ 0

theorem any_entryBadOp (bs : List Byte) : (tableEntries bs).any entryBadOp = true ↔ ∃ k < 2048, tableBad bs k := by
  have hentry (k : Nat) : entryBadOp (decide (1024 ≤ k), k % 1024, tableWord bs k) = true ↔
      tableWord bs k / 2 ^ 15 = 1 ∧ isShipping (decide (1024 ≤ k)) (tableWord bs k % 1024) = false := by
    rw [entryBadOp, Bool.and_eq_true, bitAt_tableWord, Bool.not_eq_true', bits, pow_zero, Nat.div_one]
    rfl
  rw [List.any_eq_true]
  constructor
  · rintro ⟨e, he, hbad⟩
    obtain ⟨k, hk, hne, rfl⟩ := mem_tableEntries.1 he
    exact ⟨k, hk, hne, (hentry k).1 hbad⟩
  · rintro ⟨k, hk, hne, hbad⟩
    exact ⟨_, mem_tableEntries.2 ⟨k, hk, hne, rfl⟩, (hentry k).2 hbad⟩

theorem any_entryStray (bs : List Byte) : (tableEntries bs).any entryStray = true ↔ ∃ k < 2048, tableStray bs k := by
  have hentry (k : Nat) : entryStray (decide (1024 ≤ k), k % 1024, tableWord bs k) = true ↔ tableWord bs k / 1024 % 32 ≠ 0 := by
    simp [entryStray, bits]
  rw [List.any_eq_true]
  constructor
  · rintro ⟨e, he, hbad⟩
    obtain ⟨k, hk, hne, rfl⟩ := mem_tableEntries.1 he
    exact ⟨k, hk, hne, (hentry k).1 hbad⟩
  · rintro ⟨k, hk, hne, hbad⟩
    exact ⟨_, mem_tableEntries.2 ⟨k, hk, hne, rfl⟩, (hentry k).2 hbad⟩

theorem Context.decode_only (c : Context) (m : List (Bool × Nat × Option Nat)) : ({ c with decode := m } : Context) = { c with decode := ({ c with decode := m } : Context).decode } := rfl

/-- Each opcode then has the meaning of its entry (R56). -/
theorem opMap_tableEntries (c : Context) (bs : List Byte) {k : Nat} (hk : k < 2048) (hne : k ≠ 0x3FF) :
    let c' : Context := { c with decode := tableDiff (tableEntries bs) }
    (tableWord bs k / 2 ^ 15 = 1 → c'.opMap (decide (1024 ≤ k)) (k % 1024) = some (tableWord bs k % 1024)) ∧
    (tableWord bs k / 2 ^ 15 = 0 → isShipping (decide (1024 ≤ k)) (k % 1024) = true → c'.opMap (decide (1024 ≤ k)) (k % 1024) = none) := by
  have he : (decide (1024 ≤ k), k % 1024, tableWord bs k) ∈ tableEntries bs := mem_tableEntries.2 ⟨k, hk, hne, rfl⟩
  have hmap := opMap_tableDiff he (fun e' he' => tableEntries_unique he he') c
  have hbits : bits (tableWord bs k) 0 10 = tableWord bs k % 1024 := by simp [bits]
  refine ⟨fun hset => hmap.trans ?_, fun hclear hship => hmap.trans ?_⟩
  · have hto : tableMap (decide (1024 ≤ k), k % 1024, tableWord bs k) = some (tableWord bs k % 1024) := by
      rw [tableMap, if_pos ((bitAt_tableWord bs k).2 hset), hbits]
    rw [hto]
    by_cases h : some (tableWord bs k % 1024) = shippingMap (decide (1024 ≤ k), k % 1024, tableWord bs k)
    · rw [if_pos h, shippingMap_some h.symm]
    · rw [if_neg h]
  · have hto : tableMap (decide (1024 ≤ k), k % 1024, tableWord bs k) = none := by
      rw [tableMap, if_neg (fun h => by have := (bitAt_tableWord bs k).1 h; omega)]
    rw [hto, shippingMap, if_pos hship, if_neg (by simp)]


theorem State.accessOnly.ctxNo {s t : State} (h : s.accessOnly t) (g : Nat) : t.ctxNo g = s.ctxNo g := by rw [h]; rfl

section
variable {s : State} {sc : BitVec 3} {d a : BitVec 6}

/-- `where` gives the group's place in all lanes (R14, R335). -/
theorem exec_syscWhere (h : s.goes (.syscWhere sc d)) :
    let i : Instr := .syscWhere sc d
    let t := s.issued i
    exec i s = .next (t.finish i d (uniResult (t.whereIs s.cur.g)) s.cur.lanes) := by
  have harm : exec (.syscWhere sc d) s = execSyscWhere sc d s := rfl
  dsimp only
  rw [harm, execSyscWhere, s.issue_of_goes _ _ h, State.issued_g, State.issued_lanes]

/-- The sectors that a dtld reads, and the sweep's elements. -/
def dtldElts (l va : Nat) : List Elt := (List.range 128).map fun k => ⟨k, l, (va + 32 * k) % 2 ^ 64, 0⟩
def tableBytes (secs : List (Nat × Nat)) : List Byte := secs.flatMap fun q => leBytes 32 q.2
/-- The status of a table, and the state with it where it is sound. -/
def tableStatus (bs : List Byte) : Nat := if (tableEntries bs).any entryBadOp then 1 else if (tableEntries bs).any entryStray then 2 else 0
def State.installed (x : State) (g : Nat) (bs : List Byte) : State :=
  if tableStatus bs == 0 then x.modCtx (x.ctxNo g) fun c => { c with decode := tableDiff (tableEntries bs) } else x

theorem State.installed_cur (x : State) (g : Nat) (bs : List Byte) : (x.installed g bs).cur = x.cur := by
  unfold State.installed; split <;> rfl

/-- What a dtld does at its issue, with the table's words apart. -/
def State.dtldRun (t : State) (i : Instr) (d : BitVec 6) : Out :=
  let va := t.scal i .A
  let elts := dtldElts (lowest t.cur.lanes) va.toNat
  if va.toNat % 256 != 0 then .next (t.fault i t.cur.lanes (addrTrap cALIGN 0x00 va) false)
  else
    let p := t.plan (t.agent t.cur.g) .load 256 elts
    match p.void, p.trap with
    | some pa, _ => .fault (.noDram pa)
    | none, some tr => .next (t.fault i t.cur.lanes tr false)
    | none, none =>
      let r := t.loadElts (t.agent t.cur.g) 32 15 elts
      let x := r.1.installed r.1.cur.g (tableBytes r.2)
      .next (x.finish i d (uniResult (BitVec.ofNat 64 (tableStatus (tableBytes r.2)))) x.cur.lanes)

theorem execDtld_eq (sc : BitVec 3) (d a : BitVec 6) (s : State) : exec (.dtld sc d a) s = s.issue (.dtld sc d a) fun t => t.dtldRun (.dtld sc d a) d := by
  have harm : exec (.dtld sc d a) s = execDtld sc d a s := rfl
  rw [harm, execDtld]
  refine congrArg (s.issue _) (funext fun t => ?_)
  unfold State.dtldRun dtldElts
  dsimp only
  refine ite_congr rfl (fun _ => rfl) fun _ => ?_
  generalize t.loadElts _ _ _ _ = r
  unfold tableBytes State.installed tableStatus
  generalize t.plan _ _ _ _ = p
  rcases p.void with _ | pa
  · rcases p.trap with _ | tr <;> rfl
  · rfl

/-- A table that is aligned and readable is read, and ends in its status. -/
theorem State.dtldRun_reads {t : State} {i : Instr} {d : BitVec 6} {va : Nat} (hva : (t.scal i .A).toNat = va) (hal : va % 256 = 0)
    (hvoid : (t.plan (t.agent t.cur.g) .load 256 (dtldElts (lowest t.cur.lanes) va)).void = none)
    (htrap : (t.plan (t.agent t.cur.g) .load 256 (dtldElts (lowest t.cur.lanes) va)).trap = none) :
    let r := t.loadElts (t.agent t.cur.g) 32 15 (dtldElts (lowest t.cur.lanes) va)
    t.dtldRun i d = .next ((r.1.installed t.cur.g (tableBytes r.2)).finish i d (uniResult (BitVec.ofNat 64 (tableStatus (tableBytes r.2)))) t.cur.lanes) := by
  subst hva
  have hcur := (t.loadElts_accessOnly (t.agent t.cur.g) 32 15 (dtldElts (lowest t.cur.lanes) (t.scal i .A).toNat)).cur
  unfold State.dtldRun
  dsimp only
  rw [if_neg (by simpa using hal), hvoid, htrap]
  dsimp only
  rw [State.installed_cur, hcur]

theorem tableStatus_bad {bs : List Byte} (h : ∃ k < 2048, tableBad bs k) : tableStatus bs = 1 :=
  if_pos ((any_entryBadOp bs).2 h)
theorem tableStatus_stray {bs : List Byte} (h : ∀ k < 2048, ¬ tableBad bs k) (hs : ∃ k < 2048, tableStray bs k) : tableStatus bs = 2 := by
  rw [tableStatus, if_neg fun hb => ?_, if_pos ((any_entryStray bs).2 hs)]
  obtain ⟨k, hk, hbad⟩ := (any_entryBadOp bs).1 hb
  exact h k hk hbad
theorem tableStatus_sound {bs : List Byte} (h : ∀ k < 2048, ¬ tableBad bs k ∧ ¬ tableStray bs k) : tableStatus bs = 0 := by
  rw [tableStatus, if_neg fun hb => ?_, if_neg fun hs => ?_]
  · obtain ⟨k, hk, hstray⟩ := (any_entryStray bs).1 hs
    exact (h k hk).2 hstray
  · obtain ⟨k, hk, hbad⟩ := (any_entryBadOp bs).1 hb
    exact (h k hk).1 hbad

theorem State.installed_refused {x : State} {g : Nat} {bs : List Byte} (h : tableStatus bs ≠ 0) : x.installed g bs = x :=
  if_neg (by simpa using h)
theorem State.modCtx_value (x : State) (c : Nat) (f : Context → Context) : x.modCtx c f = x.modCtx c fun _ => f (x.ctx c) := by
  rw [State.modCtx, State.modCtx, modAt_congr f (fun _ => f (x.ctx c)) c x.ctxs Context.absent fun _ => rfl]

/-- A sound table stands in the context of the group, and no other field of it changes. -/
theorem State.installed_sound (x : State) (g : Nat) {bs : List Byte} (h : tableStatus bs = 0) :
    x.installed g bs = x.modCtx (x.ctxNo g) fun _ => { x.ctxOf g with decode := tableDiff (tableEntries bs) } := by
  exact (if_pos (by simpa using h)).trans (x.modCtx_value ..)

/-- What a dtld that reads its table does: the clauses about a refused table and a sound one. -/
theorem dtld_clause (h : s.goes (.dtld sc d a)) {t : State} (ht : s.issued (.dtld sc d a) = t) {va : Nat} (hva : (t.lead (.dtld sc d a) .A).toNat = va)
    (hal : va % 256 = 0) (hvoid : (t.plan (t.agent s.cur.g) .load 256 (dtldElts (lowest s.cur.lanes) va)).void = none)
    (htrap : (t.plan (t.agent s.cur.g) .load 256 (dtldElts (lowest s.cur.lanes) va)).trap = none)
    {x : State} {secs : List (Nat × Nat)} (hload : t.loadElts (t.agent s.cur.g) 32 15 (dtldElts (lowest s.cur.lanes) va) = (x, secs)) :
    let i : Instr := .dtld sc d a
    let bs := tableBytes secs
    ((∃ k < 2048, tableBad bs k) → s.sysGives i d x 1) ∧
    ((∀ k < 2048, ¬ tableBad bs k) → (∃ k < 2048, tableStray bs k) → s.sysGives i d x 2) ∧
    ((∀ k < 2048, ¬ tableBad bs k ∧ ¬ tableStray bs k) →
      s.sysGives i d (x.modCtx (t.ctxNo s.cur.g) fun _ => { x.ctxOf s.cur.g with decode := tableDiff (tableEntries bs) }) 0) := by
  intro i bs
  have hg : t.cur.g = s.cur.g := by rw [← ht]; exact s.issued_g i
  have hl : t.cur.lanes = s.cur.lanes := by rw [← ht]; exact s.issued_lanes i
  have hscal : (t.scal i .A).toNat = va := by rw [← hva, ← ht]; exact congrArg BitVec.toNat (State.issued_scal h .A)
  rw [← hg, ← hl] at hvoid htrap hload
  have hrun := State.dtldRun_reads (d := d) hscal hal hvoid htrap
  rw [hload] at hrun
  have hx : exec i s = .next ((x.installed s.cur.g bs).finish i d (uniResult (BitVec.ofNat 64 (tableStatus bs))) s.cur.lanes) := by
    rw [execDtld_eq, s.issue_of_goes _ _ h, ht, ← hg, ← hl]
    exact hrun
  have hctx : x.ctxNo s.cur.g = t.ctxNo s.cur.g := by
    have hacc := t.loadElts_accessOnly (t.agent t.cur.g) 32 15 (dtldElts (lowest t.cur.lanes) va)
    rw [hload] at hacc
    exact hacc.ctxNo _
  refine ⟨fun hbad => ⟨_, uniResult_all _, ?_⟩, fun hno hstray => ⟨_, uniResult_all _, ?_⟩, fun hok => ⟨_, uniResult_all _, ?_⟩⟩
  · have hst := tableStatus_bad hbad
    rw [hx, State.installed_refused (by omega), hst]
  · have hst := tableStatus_stray hno hstray
    rw [hx, State.installed_refused (by omega), hst]
  · have hst := tableStatus_sound hok
    rw [hx, State.installed_sound _ _ hst, hst, hctx]

end

/-- Settles O36: the seven forms with a block share its traps and its words; each then follows its own row, `where` gives the group's place,
and dtld installs the entries of its table that differ from the shipping map. -/
theorem systemCalls : Obligations.SystemCalls := by
  unfold Obligations.SystemCalls
  intro s sc d a
  dsimp only
  refine ⟨fun i hi h => ?_, fun h => ⟨_, exec_syscWhere h, uniResult_all _⟩, fun h hal hvoid htrap _ => ?_⟩
  · generalize ht : s.issued i = t
    obtain ⟨hmis, hout, hpoison⟩ := h.sysc_traps hi ht
    refine ⟨hmis, hout, hpoison, fun ho hw hp => ?_⟩
    have hb : t.syscSound i s.cur.g := ⟨ho, hw, hp⟩
    refine ⟨fun e => ?_, fun e => ?_, fun e => ?_, fun e => ?_, fun e => ?_, fun e => ?_, fun e => ?_⟩ <;> subst e
    · exact syscShoot_clause h ht hb
    · exact syscTerm_clause h ht hb
    · exact syscQdesc_clause h ht hb
    · exact syscLevel_clause h ht hb
    · exact syscRing_clause h ht hb
    · exact syscPodwin_clause h ht hb
    · exact syscFpdef_clause h ht hb
  · generalize ht : s.issued (.dtld sc d a) = t at hal hvoid htrap ⊢
    rcases hload : t.loadElts (t.agent s.cur.g) 32 15 (dtldElts (lowest s.cur.lanes) (t.lead (.dtld sc d a) .A).toNat) with ⟨x, secs⟩
    obtain ⟨hbad, hstray, hsound⟩ := dtld_clause h ht rfl hal hvoid htrap hload
    refine ⟨x, secs, hload, hbad, hstray, fun hok => ?_⟩
    obtain ⟨r, hr, hx⟩ := hsound hok
    exact ⟨r, { x.ctxOf s.cur.g with decode := tableDiff (tableEntries (tableBytes secs)) }, hr, hx, Context.decode_only .., fun k hk hne => opMap_tableEntries _ _ hk hne⟩

end Sys2Proof.Machine
end

section
/-! PROOFS. Where control and system instructions complete (O57): lanes and fork records under the state's operations, then each form's effect. -/

namespace Sys2Proof.Machine

/-! ## Lanes under the state's operations -/

theorem State.modLanes_lane_self {s : State} {g l : Nat} (ls : Lanes) (f : Nat → Lane → Lane) (hg : g < s.groups.length) (hl : l < 32) :
    (s.modLanes g ls f).lane g l = if ls.getLsbD l then f l (s.lane g l) else s.lane g l := by
  rw [State.lane, State.modLanes, State.modGrp_self _ _ _ hg, Group.modLanes_lane _ _ _ _ hl, State.lane]

theorem State.modLane_lane_self {s : State} {g k : Nat} (l : Nat) (f : Lane → Lane) (hg : g < s.groups.length) (hk : k < 32) :
    (s.modLane g l f).lane g k = if k = l then f (s.lane g k) else s.lane g k := by
  rw [State.lane, State.modLane, State.modGrp_self _ _ _ hg, Group.modLane_lane _ _ _ _ hk, State.lane]

/-- A change of a group that leaves its lanes leaves every lane. -/
theorem State.modGrp_lane (s : State) (k : Nat) {f : Group → Group} (hf : ∀ gr, (f gr).lanes = gr.lanes) (g l : Nat) : (s.modGrp k f).lane g l = s.lane g l := by
  rw [State.lane, State.modGrp_grp]
  split
  · next h => rw [Group.lane, hf, State.lane, h.1]; rfl
  · rfl

theorem Group.overtake_lanes (gr : Group) (d : BitVec 6) (en : Img) : (gr.overtake d en).lanes = gr.lanes := by
  unfold Group.overtake
  split <;> rfl

theorem State.writeReg_lane (s : State) (k : Nat) (d : BitVec 6) (r : Result) (g l : Nat) : (s.writeReg k d r).lane g l = s.lane g l :=
  s.modGrp_lane k (fun gr => by rw [Group.setReg_keeps]; exact gr.overtake_lanes ..) g l

theorem State.countFork_lane (s : State) (k lo n g l : Nat) : (s.countFork k lo n).lane g l = s.lane g l := by
  unfold State.countFork
  exact s.modGrp_lane _ (by intro gr; rfl) g l

/-! ## Fork records that stand as they stood (R106) -/

/-- The lanes of a group hold the same fork records. -/
def Group.sameRecs (x y : Group) : Prop := ∀ l < 32, (y.lane l).recs = (x.lane l).recs
theorem Group.sameRecs.refl (x : Group) : x.sameRecs x := fun _ _ => rfl
theorem Group.sameRecs.trans {x y z : Group} (a : x.sameRecs y) (b : y.sameRecs z) : x.sameRecs z := fun l hl => (b l hl).trans (a l hl)
theorem Group.sameRecs_of_lanes {x y : Group} (h : y.lanes = x.lanes) : x.sameRecs y := fun l _ => by rw [Group.lane, Group.lane, h]
theorem Group.modLanes_sameRecs (gr : Group) (ls : Lanes) {f : Nat → Lane → Lane} (hf : ∀ l x, (f l x).recs = x.recs) : gr.sameRecs (gr.modLanes ls f) := by
  intro l hl
  rw [Group.modLanes_lane _ _ _ _ hl]
  split
  · exact hf ..
  · rfl

theorem Group.addFlags_sameRecs (gr : Group) (fs : List (Nat × BitVec 5)) : gr.sameRecs (gr.addFlags fs) := by
  unfold Group.addFlags
  split
  · intro l hl
    simp [Group.lane, hl]
  · exact .refl gr

theorem Group.perform_sameRecs (gr : Group) (p : Pending) : gr.sameRecs (gr.perform p) := by
  have hflag : gr.sameRecs (gr.flagged p) := by
    unfold Group.flagged
    split
    · exact .refl gr
    · exact gr.addFlags_sameRecs _
  obtain ⟨-, hlanes, -⟩ := gr.perform_keeps p
  exact hflag.trans (Group.sameRecs_of_lanes hlanes)

theorem Group.settleList_sameRecs (now : Nat) (ps older : List Pending) (gr : Group) : gr.sameRecs (Group.settleList now older ps gr) := by
  induction ps generalizing older gr with
  | nil => exact Group.sameRecs_of_lanes rfl
  | cons p ps ih =>
    rw [Group.settleList]
    split
    · exact (gr.perform_sameRecs _).trans (ih _ _)
    · exact ih _ _

theorem Group.flush_sameRecs (gr : Group) : gr.sameRecs gr.flush := by
  have hfold (ps : List Pending) (x : Group) : x.sameRecs (ps.foldl Group.perform x) := by
    induction ps generalizing x with
    | nil => exact .refl x
    | cons p ps ih => exact (x.perform_sameRecs p).trans (ih _)
  exact (hfold gr.fix gr).trans (Group.sameRecs_of_lanes rfl)

/-- A change of a group that keeps the records of its lanes keeps those of every lane. -/
theorem State.modGrp_recs (s : State) (k : Nat) {f : Group → Group} (hf : ∀ gr, Group.sameRecs gr (f gr)) (g : Nat) {l : Nat} (hl : l < 32) :
    ((s.modGrp k f).lane g l).recs = (s.lane g l).recs := by
  rw [State.lane, State.modGrp_grp]
  split
  · next h => rw [hf _ l hl, State.lane, h.1]
  · rfl

theorem State.modLanes_recs (s : State) (k : Nat) (ls : Lanes) {f : Nat → Lane → Lane} (hf : ∀ l x, (f l x).recs = x.recs) (g : Nat) {l : Nat} (hl : l < 32) :
    ((s.modLanes k ls f).lane g l).recs = (s.lane g l).recs := s.modGrp_recs k (fun gr => gr.modLanes_sameRecs ls hf) g hl

/-- The issue of a unit changes no fork record. -/
theorem State.issued_recs (s : State) (i : Instr) (g : Nat) {l : Nat} (hl : l < 32) : ((s.issued i).lane g l).recs = (s.lane g l).recs := by
  have hbegin : ((s.begin i).lane g l).recs = (s.lane g l).recs := by
    rw [State.lane, State.grp, State.begin_groups]
    exact s.modGrp_recs _ (fun gr => Group.settleList_sameRecs _ _ _ gr) g hl
  have hadvance (x : State) : ((x.advance i).lane g l).recs = (x.lane g l).recs := by
    unfold State.advance
    split
    · rfl
    · exact x.modLanes_recs _ _ (by intro _ _; rfl) g hl
  have hdisagree (x : State) : ((x.addDisagree x.cur.g x.cur.lanes x.cur.addr).lane g l).recs = (x.lane g l).recs := by
    unfold State.addDisagree
    split
    · exact x.modLanes_recs _ _ (by intro _ _; split <;> rfl) g hl
    · refine x.modGrp_recs _ (fun gr => ?_) g hl
      exact Group.sameRecs_of_lanes (by rfl)
  rw [State.issued, State.lane, State.grp, State.passed_groups]
  refine (hadvance _).trans (Eq.trans ?_ hbegin)
  split
  · exact hdisagree _
  · rfl

/-! ## fcall (R99, R100, R106) -/

theorem State.predictLane_groups (s : State) (g l : Nat) : (s.predictLane g l).1.groups = s.groups := by
  unfold State.predictLane State.predict
  dsimp only
  repeat' split
  all_goals rfl

/-- A fork of a lane changes no other lane of its group. -/
theorem State.forkLane_keeps (s : State) {g shadow : Nat} (inst : Nat) (r1 r2 : BitVec 6) {l k : Nat} (hsh : g ≠ shadow) (hk : k < 32) (hkl : k ≠ l) :
    (s.forkLane g inst shadow r1 r2 l).lane g k = s.lane g k := by
  have hlane (x y : State) (h : x.groups = y.groups) : x.lane g k = y.lane g k := by rw [State.lane, State.lane, State.grp, State.grp, h]
  have hother (x : State) (f : Group → Group) : (x.modGrp shadow f).lane g k = x.lane g k := by
    rw [State.lane, State.modGrp_other _ _ _ _ hsh, State.lane]
  have hself (x : State) (f : Lane → Lane) : (x.modLane g l f).lane g k = x.lane g k := by
    rw [State.lane, State.modLane, State.modGrp_grp]
    split
    · next h => rw [Group.modLane_lane _ _ _ _ hk, if_neg hkl, State.lane]
    · rfl
  unfold State.forkLane
  dsimp only
  rw [hself, State.modLane, hother, hother, hlane _ s (s.predictLane_groups g l)]

/-- Lanes that do not fork keep their records, and their group its place, while others fork. -/
theorem State.forkLanes_keeps (s : State) {g : Nat} (slot : Nat) (r1 r2 : BitVec 6) (ls : Lanes) (hg : g < s.groups.length) {k : Nat} (hk : k < 32)
    (hout : ls.getLsbD k = false) : ((s.forkLanes g slot r1 r2 ls).lane g k).recs = (s.lane g k).recs := by
  have hfold (inst : Nat) (ks : List Nat) (hks : k ∉ ks) (x : State) :
      (ks.foldl (fun y l => y.forkLane g inst s.groups.length r1 r2 l) x).lane g k = x.lane g k := by
    induction ks generalizing x with
    | nil => rfl
    | cons l ks ih =>
      rw [List.mem_cons, not_or] at hks
      exact (ih hks.2 _).trans (x.forkLane_keeps inst r1 r2 hg.ne hk hks.1)
  have hout' : k ∉ lanesOf ls := fun h => by
    obtain ⟨-, hin⟩ := mem_lanesOf.1 h
    rw [hout] at hin
    cases hin
  have hlen : (s.flush g).groups.length = s.groups.length := modAt_length ..
  have happend (gs : List Group) (n : Group) (h : g < gs.length) : (gs ++ [n]).getD g Group.absent = gs.getD g Group.absent := by
    rw [List.getD_append _ _ _ _ h]
  have hflush : ((s.flush g).lane g k).recs = (s.lane g k).recs := s.modGrp_recs g Group.flush_sameRecs g hk
  unfold State.forkLanes
  dsimp only
  rw [hlen, hfold _ _ hout']
  refine Eq.trans ?_ hflush
  rw [State.lane, State.grp, happend _ _ (by rw [hlen]; exact hg)]
  rfl

theorem State.forkLanes_length (s : State) (g slot : Nat) (r1 r2 : BitVec 6) (ls : Lanes) : (s.forkLanes g slot r1 r2 ls).groups.length = s.groups.length + 1 := by
  have hlane (x : State) (inst shadow l : Nat) : (x.forkLane g inst shadow r1 r2 l).groups.length = x.groups.length := by
    unfold State.forkLane
    simp only [State.modLane_groups, State.modGrp_groups, modAt_length, x.predictLane_groups]
  unfold State.forkLanes
  dsimp only
  rw [foldl_keeps (fun x : State => x.groups.length) _ (fun x l => hlane x _ _ l)]
  simp

/-- A call counted where no record is at its limit changes the records of its lane alone. -/
theorem State.nestLane_lane {s : State} {g l k : Nat} (hg : g < s.groups.length) (hk : k < 32) (hrec : ∀ r ∈ (s.lane g l).recs, r.nest < 255) :
    ∃ rs, (s.nestLane g l).lane g k = { s.lane g k with recs := rs } ∧ (k ≠ l → rs = (s.lane g k).recs) := by
  cases hr : (s.lane g l).recs with
  | nil => exact ⟨_, by rw [State.nestLane, hr], fun _ => rfl⟩
  | cons f rest =>
    rw [hr] at hrec
    rw [State.nestLane_counts hr (hrec f List.mem_cons_self), State.modLane_lane_self _ _ hg hk]
    split
    next h => exact ⟨_, rfl, fun hne => absurd h hne⟩
    next => exact ⟨_, rfl, fun _ => rfl⟩

theorem State.nestLane_length {s : State} {g l : Nat} (hrec : ∀ r ∈ (s.lane g l).recs, r.nest < 255) : (s.nestLane g l).groups.length = s.groups.length := by
  cases hr : (s.lane g l).recs with
  | nil => rw [State.nestLane, hr]
  | cons f rest =>
    rw [hr] at hrec
    rw [State.nestLane_counts hr (hrec f List.mem_cons_self)]
    exact modAt_length ..

/-- Calls counted in some lanes change records alone. -/
theorem State.nestFold_lane {g k : Nat} (hk : k < 32) (ls : List Nat) (s : State) (hnd : ls.Nodup) (hg : g < s.groups.length)
    (hlt : ∀ l ∈ ls, l < 32) (hrec : ∀ l ∈ ls, ∀ r ∈ (s.lane g l).recs, r.nest < 255) :
    ∃ rs, (ls.foldl (fun x l => x.nestLane g l) s).lane g k = { s.lane g k with recs := rs } := by
  induction ls generalizing s with
  | nil => exact ⟨_, rfl⟩
  | cons l ls ih =>
    obtain ⟨hnot, hnd'⟩ := List.nodup_cons.1 hnd
    have hfirst := hrec l List.mem_cons_self
    obtain ⟨rs, hlane, -⟩ := s.nestLane_lane hg hk hfirst
    have hrest : ∀ m ∈ ls, ∀ r ∈ ((s.nestLane g l).lane g m).recs, r.nest < 255 := by
      intro m hm
      have hne : m ≠ l := fun h => hnot (h ▸ hm)
      obtain ⟨rs', hm', hsame⟩ := s.nestLane_lane hg (hlt m (List.mem_cons_of_mem _ hm)) hfirst
      rw [hm', hsame hne]
      exact hrec m (List.mem_cons_of_mem _ hm)
    obtain ⟨rs', hend⟩ := ih (s.nestLane g l) hnd' (by rw [State.nestLane_length hfirst]; exact hg) (fun m hm => hlt m (List.mem_cons_of_mem _ hm)) hrest
    exact ⟨rs', by rw [List.foldl_cons, hend, hlane]⟩

theorem lanesOf_nodup (ls : Lanes) : (lanesOf ls).Nodup := List.nodup_range.filter _

section
variable {s : State} {sc : BitVec 3} {d a b : BitVec 6}

/-- Lanes called to their targets, with the link written and the call counted in those that do not fork. -/
theorem State.called_lane {x : State} {g : Nat} {ls fork : Lanes} {target : Nat → Word} (hg : g < x.groups.length)
    (hrec : ∀ k < 32, fork.getLsbD k = false → ∀ r ∈ (x.lane g k).recs, r.nest < 255) {l : Nat} (hl : l < 32) (hin : ls.getLsbD l = true) :
    let u := ((x.modLanes g ls fun l y => { y with hintValid := false, pc := target l }).writeLink 55 ls).nestLanes g (ls &&& ~~~fork)
    (u.lane g l).pc = target l ∧ (u.lane g l).hintValid = false := by
  intro u
  have hlane (k : Nat) (hk : k < 32) : (((x.modLanes g ls fun l y => { y with hintValid := false, pc := target l }).writeLink 55 ls).lane g k) =
      if ls.getLsbD k then { x.lane g k with hintValid := false, pc := target k } else x.lane g k := by
    rw [State.writeLink, State.writeReg_lane, State.modLanes_lane_self _ _ hg hk]
  have hlen : g < ((x.modLanes g ls fun l y => { y with hintValid := false, pc := target l }).writeLink 55 ls).groups.length := by
    rw [State.writeLink, State.writeReg_groups, modAt_length, State.modLanes_groups, modAt_length]
    exact hg
  obtain ⟨rs, hend⟩ := State.nestFold_lane hl (lanesOf (ls &&& ~~~fork)) _ (lanesOf_nodup _) hlen (fun k hk => (mem_lanesOf.1 hk).1) fun k hk => by
    obtain ⟨hk32, hbit⟩ := mem_lanesOf.1 hk
    rw [BitVec.getLsbD_and, BitVec.getLsbD_not] at hbit
    simp only [hk32, decide_true, Bool.true_and, Bool.and_eq_true, Bool.not_eq_true'] at hbit
    rw [hlane k hk32, if_pos hbit.1]
    exact hrec k hk32 hbit.2
  have hu : u.lane g l = { ({ x.lane g l with hintValid := false, pc := target l } : Lane) with recs := rs } := by
    rw [show u.lane g l = _ from hend, hlane l hl, if_pos hin]
  rw [hu]
  exact ⟨rfl, rfl⟩

/-- What the effect of a unit that starts sees of itself. -/
theorem State.starts.atIssue {i : Instr} {t : State} (h : s.starts i) (ht : s.issued i = t) :
    s.goes i ∧ t.cur.g = s.cur.g ∧ t.cur.lanes = s.cur.lanes ∧ t.cur.regOnly = false ∧ t.cur.replay = false ∧ s.cur.g < t.groups.length := by
  obtain ⟨hgo, hg, -, hro, -⟩ := h
  subst ht
  exact ⟨hgo, s.issued_g i, s.issued_lanes i, (s.issued_regOnly i).trans hro, (s.issued_replay i).trans hgo.replay, (s.issued_groups_length i).symm ▸ hg⟩

/-- Where every target is aligned and no record is at its limit, each lane of an fcall goes to its target, its hint used up. -/
theorem fcall_clause (h : s.starts (.fcall sc d a b)) {t : State} (ht : s.issued (.fcall sc d a b) = t)
    (hal : ∀ l < 32, s.active l → (laneOf (t.src (.fcall sc d a b) .A) l).toNat % 4 = 0)
    (hnest : ∀ l < 32, ∀ r ∈ (s.lane s.cur.g l).recs, r.nest < 255) :
    s.completes (.fcall sc d a b) fun u => ∀ l < 32, s.active l →
      (u.lane s.cur.g l).pc = laneOf (t.src (.fcall sc d a b) .A) l ∧ (u.lane s.cur.g l).hintValid = false := by
  obtain ⟨hgo, hcg, hcl, hreg, -, hgt⟩ := h.atIssue ht
  have hrecs (l : Nat) (hl : l < 32) : (t.lane s.cur.g l).recs = (s.lane s.cur.g l).recs := by rw [← ht]; exact s.issued_recs _ _ hl
  have hbad : t.badTargets (.fcall sc d a b) = 0 :=
    State.badTargets_none fun l hl hact => hal l hl (by rw [State.active] at hact ⊢; rw [← hcl]; exact hact)
  have hok : s.cur.lanes &&& ~~~(0 : Lanes) = s.cur.lanes := BitVec.and_allOnes
  have harm : exec (.fcall sc d a b) s = execFcall sc d a b s := rfl
  rw [State.completes, harm, execFcall, s.issue_of_goes _ _ hgo, ht]
  dsimp only
  rw [hreg, hcg, hcl, hbad, hok]
  refine ⟨_, if_neg Bool.false_ne_true, fun l hl hact => ?_⟩
  rw [State.stay_none, State.faultUnit_none, State.countFork_lane]
  generalize (if (t.shadowSlot s.cur.g).isSome = true then t.mayFork s.cur.g s.cur.lanes else 0) = fork
  refine State.called_lane ?_ (fun k hk hout => ?_) hl hact
  · split
    · split
      · exact hgt
      · rw [State.forkLanes_length]; omega
    · exact hgt
  · have hk' := hnest k hk
    rw [← hrecs k hk] at hk'
    split
    · split
      · exact hk'
      · rw [t.forkLanes_keeps _ _ _ _ hgt hk hout]; exact hk'
    · exact hk'

/-! ## ret, fsync.sq, fhint, exit (R97, R106, R108, R114) -/

/-- Lanes moved one after the other stand at their targets. -/
theorem State.moveFold_pc {g k : Nat} (hk : k < 32) (target : Nat → Word) (ls : List Nat) (s : State) (hg : g < s.groups.length) (hin : k ∈ ls) :
    ((ls.foldl (fun x l => x.modLane g l fun y => { y with pc := target l }) s).lane g k).pc = target k := by
  have hstays (ls : List Nat) (s : State) (hg : g < s.groups.length) (hpc : (s.lane g k).pc = target k) :
      ((ls.foldl (fun x l => x.modLane g l fun y => { y with pc := target l }) s).lane g k).pc = target k := by
    induction ls generalizing s with
    | nil => exact hpc
    | cons l ls ih =>
      refine ih _ (by simpa using hg) ?_
      rw [State.modLane_lane_self _ _ hg hk]
      split
      next h => rw [h]
      next => exact hpc
  induction ls generalizing s with
  | nil => cases hin
  | cons l ls ih =>
    have hg' : g < (s.modLane g l fun y => { y with pc := target l }).groups.length := by simpa using hg
    rcases List.mem_cons.1 hin with rfl | hin
    · exact hstays ls _ hg' (by rw [State.modLane_lane_self _ _ hg hk, if_pos rfl])
    · exact ih _ hg' hin

theorem State.retLane_plain (s : State) (g l : Nat) (target : Word) : s.retLane g l target .plain = s.modLane g l fun x => { x with pc := target } := by
  unfold State.retLane
  cases (s.lane g l).recs <;> rfl

theorem ret_clause (h : s.starts (.ret sc a)) {t : State} (ht : s.issued (.ret sc a) = t)
    (hal : ∀ l < 32, s.active l → (laneOf (t.src (.ret sc a) .A) l).toNat % 4 = 0 ∧ (t.lane s.cur.g l).recs = []) :
    s.completes (.ret sc a) fun u => ∀ l < 32, s.active l → (u.lane s.cur.g l).pc = laneOf (t.src (.ret sc a) .A) l := by
  obtain ⟨hgo, hcg, hcl, hreg, -, hgt⟩ := h.atIssue ht
  have hbad : t.badTargets (.ret sc a) = 0 :=
    State.badTargets_none fun l hl hact => (hal l hl (by rw [State.active] at hact ⊢; rw [← hcl]; exact hact)).1
  have hok : s.cur.lanes &&& ~~~(0 : Lanes) = s.cur.lanes := BitVec.and_allOnes
  have hplain : ∀ l ∈ lanesOf s.cur.lanes, t.retCase s.cur.g l (laneOf (t.src (.ret sc a) .A) l) = .plain := by
    intro l hin
    obtain ⟨hl, hact⟩ := mem_lanesOf.1 hin
    rw [State.retCase, (hal l hl hact).2]
  have harm : exec (.ret sc a) s = execRet sc a s := rfl
  rw [State.completes, harm, execRet, s.issue_of_goes _ _ hgo, ht]
  dsimp only
  rw [hreg, hcg, hcl, hbad, hok, List.foldl_map]
  refine ⟨_, if_neg Bool.false_ne_true, fun l hl hact => ?_⟩
  rw [State.stay_none, State.faultUnit_none, List.foldl_ext _ _ _ fun x k hk => by rw [hplain k hk, State.retLane_plain]]
  exact State.moveFold_pc hl _ _ _ hgt (mem_lanesOf.2 ⟨hl, hact⟩)

theorem fsyncSq_clause (h : s.starts (.fsyncSq sc)) {t : State} (ht : s.issued (.fsyncSq sc) = t)
    (hrecs : ∀ l < 32, s.active l → (t.lane s.cur.g l).recs = []) : exec (.fsyncSq sc) s = .next t := by
  obtain ⟨hgo, hcg, hcl, -⟩ := h.atIssue ht
  have harm : exec (.fsyncSq sc) s = execFsyncSq sc s := rfl
  rw [harm, execFsyncSq, s.issue_of_goes _ _ hgo, ht, foldl_fixed_of_mem]
  intro l hin
  obtain ⟨hl, hact⟩ := mem_lanesOf.1 hin
  have hlive : (t.lane t.cur.g l).liveRec = none := by
    rw [hcg, Lane.liveRec, hrecs l hl (by rw [State.active, ← hcl]; exact hact)]
    rfl
  rw [hlive]

theorem fhint_clause (h : s.starts (.fhint sc a b)) {t : State} (ht : s.issued (.fhint sc a b) = t) :
    s.completes (.fhint sc a b) fun u => ∀ l < 32, s.active l →
      (u.lane s.cur.g l).hintValid = true ∧ (u.lane s.cur.g l).hint0 = laneOf (t.src (.fhint sc a b) .A) l ∧
      (u.lane s.cur.g l).hint1 = laneOf (t.src (.fhint sc a b) .B) l := by
  obtain ⟨hgo, hcg, hcl, -, -, hgt⟩ := h.atIssue ht
  have harm : exec (.fhint sc a b) s = execFhint sc a b s := rfl
  rw [State.completes, harm, execFhint, s.issue_of_goes _ _ hgo, ht]
  refine ⟨_, rfl, fun l hl hact => ?_⟩
  rw [hcg, hcl, State.modLanes_lane_self _ _ hgt hl, if_pos (show s.cur.lanes.getLsbD l = true from hact)]
  exact ⟨rfl, rfl, rfl⟩

theorem exit_clause (h : s.starts (.exit sc)) (hp : (s.issued (.exit sc)).parksTaken)
    (hfree : ∀ l < 32, s.active l → ((s.issued (.exit sc)).lane s.cur.g l).holds = [] ∧ ((s.issued (.exit sc)).lane s.cur.g l).recs = []) :
    s.completes (.exit sc) fun u => ∀ l < 32, s.active l → (u.lane s.cur.g l).mode = .exited ∧ (u.lane s.cur.g l).pc = s.cur.addr := by
  obtain ⟨hgo, hg, -, hro, -⟩ := h
  obtain ⟨u, hx, -, -, -, -, -, -, hlanes, -⟩ := exit_lanes s sc hg hro hgo hp hfree
  refine ⟨u, hx, fun l hl hact => ?_⟩
  rw [hlanes l hl, if_pos (show s.cur.lanes.getLsbD l = true from hact)]
  exact ⟨rfl, rfl⟩

/-! ## yield, yield.x (R98) -/

theorem State.issued_now {i : Instr} (h : s.starts i) : (s.issued i).now = s.now := by
  obtain ⟨hgo, hg, -⟩ := h
  rw [State.issued_eq hgo hg]

/-- A group is a continuation after an issue where it was one before. -/
theorem State.issued_shadow_self {i : Instr} (h : s.starts i) : ((s.issued i).grp s.cur.g).shadow = (s.grp s.cur.g).shadow := by
  obtain ⟨-, hg, -⟩ := h
  rw [State.issued_shadow, State.begin_grp_self i hg]
  exact (Group.settleList_fpmode s.now (s.grp s.cur.g).fix [] (s.grp s.cur.g) 0 (by omega)).1

/-- The lanes of a unit rest until a cycle, unless the unit is performed again; and their group gives up its turn. -/
def State.rested (t : State) (rd : Nat) : State := if t.cur.replay then t else t.modLanes t.cur.g t.cur.lanes fun _ x => { x with ready := rd }
def State.yields (x : State) (g : Nat) : State := x.modGrp g fun gr => { gr with yielded := true }
def State.pauseUntil (t : State) (i : Instr) : Nat := t.now + max (i.stall.toNat + 1) (min (t.scal i .A).toNat 4095 + 1)

theorem State.rested_cur (t : State) (rd : Nat) : (t.rested rd).cur = t.cur := by
  unfold State.rested; split <;> rfl

theorem State.pause_eq (t : State) (i : Instr) (turn : Bool) :
    t.pause i turn = if turn then (t.rested (t.pauseUntil i)).yields t.cur.g else t.rested (t.pauseUntil i) := by
  have hpause : t.pause i turn = if turn then (t.rested (t.pauseUntil i)).yields (t.rested (t.pauseUntil i)).cur.g else t.rested (t.pauseUntil i) := rfl
  rw [hpause, State.rested_cur]

theorem State.pause_cur (t : State) (i : Instr) (turn : Bool) : (t.pause i turn).cur = t.cur := by
  rw [State.pause_eq]
  split
  · exact t.rested_cur _
  · exact t.rested_cur _

theorem State.rested_onlyGroup (t : State) (rd : Nat) : t.onlyGroup t.cur.g (t.rested rd) := by
  unfold State.rested
  split
  · exact .refl ..
  · exact t.modLanes_onlyGroup ..

theorem State.pause_onlyGroup (t : State) (i : Instr) (turn : Bool) : t.onlyGroup t.cur.g (t.pause i turn) := by
  rw [State.pause_eq]
  split
  · exact (t.rested_onlyGroup _).trans (State.modGrp_onlyGroup ..)
  · exact t.rested_onlyGroup _

theorem State.pause_shadow (t : State) (i : Instr) (turn : Bool) (g : Nat) : ((t.pause i turn).grp g).shadow = (t.grp g).shadow := by
  have hyields (x : State) (k : Nat) : ((x.yields k).grp g).shadow = (x.grp g).shadow := by
    rw [State.yields, State.modGrp_grp]
    split <;> rfl
  have hrested (rd : Nat) : ((t.rested rd).grp g).shadow = (t.grp g).shadow := by
    unfold State.rested
    split
    · rfl
    · exact t.modLanes_shadow ..
  rw [State.pause_eq]
  split
  · exact (hyields _ _).trans (hrested _)
  · exact hrested _

/-- The active lanes pause, and nothing else of theirs changes. -/
theorem State.pause_lane {t : State} (i : Instr) (turn : Bool) (hr : t.cur.replay = false) (hg : t.cur.g < t.groups.length) {l : Nat} (hl : l < 32)
    (hact : t.active l) : (t.pause i turn).lane t.cur.g l = { t.lane t.cur.g l with ready := t.pauseUntil i } := by
  have hrested (rd : Nat) : (t.rested rd).lane t.cur.g l = { t.lane t.cur.g l with ready := rd } := by
    rw [State.rested, hr, if_neg Bool.false_ne_true, State.modLanes_lane_self _ _ hg hl, if_pos (show t.cur.lanes.getLsbD l = true from hact)]
  rw [State.pause_eq]
  split
  · rw [State.yields, State.modGrp_lane _ _ (by intro gr; rfl), hrested]
  · exact hrested _

/-- A unit that pauses the lanes as yield does. -/
theorem State.paused_lane {i : Instr} (h : s.starts i) {t : State} (ht : s.issued i = t) (turn : Bool) {l : Nat} (hl : l < 32) (hact : s.active l) :
    (t.pause i turn).lane s.cur.g l =
      { t.lane s.cur.g l with ready := s.now + max (i.stall.toNat + 1) (min (t.lead i .A).toNat 4095 + 1) } := by
  have hnow : t.now = s.now := by rw [← ht]; exact State.issued_now h
  obtain ⟨hgo, hcg, hcl, -, hreplay, hgt⟩ := h.atIssue ht
  have hscal : t.scal i .A = t.lead i .A := by rw [← ht]; exact State.issued_scal hgo .A
  have hpause := State.pause_lane i turn hreplay (by rw [hcg]; exact hgt) hl (by rw [State.active, hcl]; exact hact)
  rw [hcg, State.pauseUntil, hnow, hscal] at hpause
  exact hpause

theorem exec_yield (h : s.goes (.yield sc a)) : exec (.yield sc a) s = .next ((s.issued (.yield sc a)).pause (.yield sc a) (a == 58)) := by
  have harm : exec (.yield sc a) s = execYield sc a s := rfl
  rw [harm, execYield, s.issue_of_goes _ _ h]

/-- yield.x pauses in a continuation, and where no work lacks the group's room. -/
theorem exec_yieldX (h : s.starts (.yieldX sc a)) :
    let u := (s.issued (.yieldX sc a)).pause (.yieldX sc a) (a == 58)
    ((s.grp s.cur.g).shadow.isSome = true → exec (.yieldX sc a) s = .next u) ∧
    ((s.grp s.cur.g).shadow = none → u.lacksRoom (u.partNo s.cur.g) (u.grp s.cur.g).level = none → exec (.yieldX sc a) s = .next u) := by
  intro u
  have hgo : s.goes (.yieldX sc a) := h.1
  have hug : u.cur.g = s.cur.g := by rw [State.pause_cur, State.issued_g]
  have hshadow : (u.grp s.cur.g).shadow = (s.grp s.cur.g).shadow := (State.pause_shadow ..).trans (State.issued_shadow_self h)
  have hexec : exec (.yieldX sc a) s = if (u.grp u.cur.g).shadow.isSome then .next u else u.giveWay u.cur.g := by
    have harm : exec (.yieldX sc a) s = execYieldX sc a s := rfl
    rw [harm, execYieldX, s.issue_of_goes _ _ hgo]
  rw [hexec, hug, hshadow]
  refine ⟨fun hs => if_pos hs, fun hs hroom => ?_⟩
  rw [hs]
  refine (if_neg (by simp)).trans ?_
  unfold State.giveWay
  dsimp only
  rw [hroom]

theorem yield_clause {i : Instr} (h : s.starts i) {t : State} (ht : s.issued i = t)
    (hi : i = .yield sc a ∨ (i = .yieldX sc a ∧ (s.grp s.cur.g).shadow.isSome = true)) :
    s.completes i fun u => ∀ l < 32, s.active l →
      (u.lane s.cur.g l).ready = s.now + max (sc.toNat + 1) (min (t.lead i .A).toNat 4095 + 1) ∧ (u.lane s.cur.g l).pc = (t.lane s.cur.g l).pc := by
  have hstall : i.stall = sc := by rcases hi with rfl | ⟨rfl, -⟩ <;> rfl
  have hexec : exec i s = .next (t.pause i (a == 58)) := by
    rw [← ht]
    rcases hi with rfl | ⟨rfl, hs⟩
    · exact exec_yield h.1
    · exact (exec_yieldX h).1 hs
  refine ⟨_, hexec, fun l hl hact => ?_⟩
  rw [State.paused_lane h ht _ hl hact, hstall]
  exact ⟨rfl, rfl⟩

theorem yieldX_clause (h : s.starts (.yieldX sc a)) {t : State} (ht : s.issued (.yieldX sc a) = t) (hs : (s.grp s.cur.g).shadow = none) :
    ∃ u, (∀ l < 32, s.active l → (u.lane s.cur.g l).ready = s.now + max (sc.toNat + 1) (min (t.lead (.yieldX sc a) .A).toNat 4095 + 1)) ∧
      State.onlyGroup s.cur.g t u ∧ (u.lacksRoom (u.partNo s.cur.g) (u.grp s.cur.g).level = none → exec (.yieldX sc a) s = .next u) := by
  obtain ⟨-, hcg, -⟩ := h.atIssue ht
  refine ⟨t.pause (.yieldX sc a) (a == 58), fun l hl hact => ?_, ?_, fun hroom => ?_⟩
  · rw [State.paused_lane h ht _ hl hact]
    rfl
  · rw [← hcg]; exact t.pause_onlyGroup ..
  · subst ht
    exact (exec_yieldX h).2 hs hroom

/-! ## rett, tmask and the registers (R322, R329, R332, R333) -/

/-- A rett of handler lanes restores the frame that it has read. -/
theorem rett_clause (h : s.starts (.rett sc)) {t : State} (ht : s.issued (.rett sc) = t) (hh : (t.lane s.cur.g (lowest s.cur.lanes)).inHandler = true)
    {f : SaveSlot} {x : State} {secs : List (Nat × Nat)} (hsave : (t.grp s.cur.g).save = some f)
    (hread : t.readStages s.cur.g s.cur.lanes f.fa [fun _ => headerSecs, fun q => fieldSecs (frameNREP q), fun q => imageSecs q (frameNREP q)] [] = .got x secs) :
    exec (.rett sc) s = .next (x.restore s.cur.g f s.cur.lanes secs) := by
  obtain ⟨hgo, hcg, hcl, -⟩ := h.atIssue ht
  have harm : exec (.rett sc) s = execRett sc s := rfl
  rw [harm, execRett, s.issue_of_goes _ _ hgo, ht, hcg, hcl, if_pos hh, State.returnTrap, hcg, hsave]
  dsimp only
  rw [hread]

/-- A change of a group that keeps a field keeps it in every group. -/
theorem State.modGrp_field {α : Type} (p : Group → α) (s : State) (k : Nat) {f : Group → Group} (hf : ∀ gr, p (f gr) = p gr) (g : Nat) :
    p ((s.modGrp k f).grp g) = p (s.grp g) := by
  rw [State.modGrp_grp]
  split
  · next h => rw [hf, h.1]
  · rfl

/-- A result for a register changes no trap mask. -/
theorem State.finish_trapmask (s : State) {i : Instr} (hrt : i.rt = false) (d : BitVec 6) (r : Result) (ls : Lanes) (g : Nat) :
    ((s.finish i d r ls).grp g).trapmask = (s.grp g).trapmask := by
  by_cases hl : ls = 0
  · subst hl; rfl
  · cases e : i.latency with
    | some lat =>
      rw [s.finish_pending i d r ls lat hl hrt e]
      exact State.modGrp_field Group.trapmask s _ (by intro gr; rfl) g
    | none =>
      rw [s.finish_now i d r ls hl hrt e]
      refine State.modGrp_field Group.trapmask s _ (fun gr => ?_) g
      rw [Group.setReg_keeps]
      show (gr.overtake d r.en).trapmask = gr.trapmask
      unfold Group.overtake
      split <;> rfl

theorem State.tmask_trapmask {t : State} {i : Instr} (hrt : i.rt = false) (d : BitVec 6) (f : Word → Word → Word) {g : Nat} (hg : t.cur.g = g) (hlen : g < t.groups.length) :
    ((t.tmask i d f).grp g).trapmask = f (t.grp g).trapmask (t.scal i .A &&& 0xF#64) &&& 0xF#64 := by
  have honly := t.finish_onlyGroup i d (laneResult t.cur.lanes fun _ => (t.grp t.cur.g).trapmask) t.cur.lanes hrt
  obtain ⟨heq, hglen, -⟩ := honly
  have hcur : (t.finish i d (laneResult t.cur.lanes fun _ => (t.grp t.cur.g).trapmask) t.cur.lanes).cur = t.cur := by rw [heq]
  subst hg
  unfold State.tmask
  dsimp only
  rw [hcur, State.modGrp_self _ _ _ (by rw [hglen]; exact hlen)]

theorem getLsbD_trapmaskBits {k : Nat} (hk : k < 64) : (0xF#64).getLsbD k = decide (k < 4) := by
  rw [show (0xF#64 : Word) = BitVec.ofNat 64 (2 ^ 4 - 1) from rfl, BitVec.getLsbD_ofNat, Nat.testBit_two_pow_sub_one]
  simp [hk]

/-- A bit of the new trap mask: by the form within the mask's four bits, and 0 above them. -/
theorem getLsbD_newTrapmask {f : Word → Word → Word} {op : Bool → Bool → Bool} (hop : ∀ x y k, k < 64 → (f x y).getLsbD k = op (x.getLsbD k) (y.getLsbD k))
    (old v : Word) {k : Nat} (hk : k < 64) : (f old (v &&& 0xF#64) &&& 0xF#64).getLsbD k = (decide (k < 4) && op (old.getLsbD k) (v.getLsbD k)) := by
  rw [BitVec.getLsbD_and, hop _ _ k hk, BitVec.getLsbD_and, getLsbD_trapmaskBits hk]
  by_cases h : k < 4 <;> simp [h]

theorem tmask_clause {i : Instr} (h : s.starts i) {t : State} (ht : s.issued i = t) (hrt : i.rt = false) {f : Word → Word → Word} {op : Bool → Bool → Bool}
    (hop : ∀ x y k, k < 64 → (f x y).getLsbD k = op (x.getLsbD k) (y.getLsbD k)) (hexec : exec i s = s.issue i fun x => .next (x.tmask i d f)) :
    s.completes i fun u => ∀ k < 64, (u.grp s.cur.g).trapmask.getLsbD k =
      (decide (k < 4) && op ((t.grp s.cur.g).trapmask.getLsbD k) ((t.lead i .A).getLsbD k)) := by
  obtain ⟨hgo, hcg, -, -, -, hgt⟩ := h.atIssue ht
  have hscal : t.scal i .A = t.lead i .A := by rw [← ht]; exact State.issued_scal hgo .A
  rw [State.completes, hexec, s.issue_of_goes _ _ hgo, ht]
  refine ⟨_, rfl, fun k hk => ?_⟩
  rw [State.tmask_trapmask hrt d f hcg hgt, hscal, getLsbD_newTrapmask hop _ _ hk]

/-- TRAPMASK takes the four bits that wrsr gives it. -/
theorem wrsrTrapmask_clause (h : s.starts (.wrsr sc d 0x005)) {t : State} (ht : s.issued (.wrsr sc d 0x005) = t) :
    s.completes (.wrsr sc d 0x005) fun u => ∀ k < 4, (u.grp s.cur.g).trapmask.getLsbD k = (t.lead (.wrsr sc d 0x005) .D).getLsbD k := by
  obtain ⟨hgo, hcg, -, -, -, hgt⟩ := h.atIssue ht
  subst ht
  have hexec := exec_wrsr_group hgo (by decide) (fun gr => { gr with trapmask := setBits gr.trapmask ((s.issued (.wrsr sc d 0x005)).lead (.wrsr sc d 0x005) .D) 0xF#64 }) rfl
  refine ⟨_, hexec, fun k hk => ?_⟩
  rw [State.modGrp_self _ _ _ hgt]
  dsimp only
  rw [getLsbD_setBits _ _ _ (by omega), getLsbD_trapmaskBits (by omega), if_pos (decide_eq_true hk)]

/-! ## sysc and dtld (R56, R334, R335) -/

/-- Where a sound block names no context, the functions that need one give status 2. -/
theorem sysc_noContext {i : Instr} (hi : i ∈ [Instr.syscShoot sc d, .syscTerm sc d, .syscPodwin sc d, .syscFpdef sc d]) (h : s.goes i) {t : State} (ht : s.issued i = t)
    (hb : t.syscSound i s.cur.g) (hnone : t.findCtx (t.partNo s.cur.g) (t.syscWord i s.cur.g 0).toNat = none) : ∃ x, s.sysGives i d x 2 := by
  simp only [List.mem_cons, List.not_mem_nil, or_false] at hi
  rcases hi with rfl | rfl | rfl | rfl
  · exact ⟨_, (syscShoot_clause h ht hb).1 hnone⟩
  · exact ⟨_, (syscTerm_clause h ht hb).1 hnone⟩
  · exact ⟨_, (syscPodwin_clause h ht hb).1 hnone⟩
  · exact ⟨_, (syscFpdef_clause h ht hb).1 hnone⟩

/-- A table whose entries are sound, for dtld. -/
def tableSound (bs : List Byte) : Prop :=
  ∀ k < 2048, k ≠ 0x3FF → tableWord bs k / 1024 % 32 = 0 ∧ (tableWord bs k / 2 ^ 15 = 1 → isShipping (decide (1024 ≤ k)) (tableWord bs k % 1024) = true)

theorem tableSound_iff (bs : List Byte) : tableSound bs ↔ ∀ k < 2048, ¬ tableBad bs k ∧ ¬ tableStray bs k := by
  constructor
  · intro h k hk
    refine ⟨fun ⟨hne, hset, hno⟩ => ?_, fun ⟨hne, hstray⟩ => hstray (h k hk hne).1⟩
    rw [(h k hk hne).2 hset] at hno
    cases hno
  · intro h k hk hne
    obtain ⟨hbad, hstray⟩ := h k hk
    refine ⟨by_contra fun hs => hstray ⟨hne, hs⟩, fun hset => ?_⟩
    by_contra hno
    exact hbad ⟨hne, hset, by simpa using hno⟩

/-- A table that is not sound has a bad entry or, with none, a stray one. -/
theorem not_tableSound {bs : List Byte} (h : ¬ tableSound bs) :
    (∃ k < 2048, tableBad bs k) ∨ (∀ k < 2048, ¬ tableBad bs k) ∧ ∃ k < 2048, tableStray bs k := by
  by_cases hbad : ∃ k < 2048, tableBad bs k
  · exact .inl hbad
  · have hno : ∀ k < 2048, ¬ tableBad bs k := fun k hk hk' => hbad ⟨k, hk, hk'⟩
    refine .inr ⟨hno, by_contra fun hstray => h ((tableSound_iff bs).2 fun k hk => ⟨hno k hk, fun hk' => hstray ⟨k, hk, hk'⟩⟩)⟩

end

/-- Settles O57: each form's lemma above gives its own effect as the next state. -/
theorem controlFormsComplete : Obligations.ControlFormsComplete := by
  unfold Obligations.ControlFormsComplete
  intro s i sc d a b h
  dsimp only
  generalize ht : s.issued i = t
  refine ⟨fun e hal hnest => ?_, fun e hal => ?_, fun e hrecs => ?_, fun e => ?_, fun e hp _ hfree => ?_, fun hi => yield_clause h ht hi, fun e hs => ?_,
    fun e hh f x secs hsave hread => ?_, fun p hp e => ?_, fun n e => ?_, fun e => ?_, ⟨fun e => ?_, fun ho hw hp => ?_⟩, fun e hal hvoid htrap _ => ?_⟩
  · subst e; exact fcall_clause h ht hal hnest
  · subst e; exact ret_clause h ht hal
  · subst e; exact fsyncSq_clause h ht hrecs
  · subst e; exact fhint_clause h ht
  · subst e; subst ht; exact exit_clause h hp hfree
  · subst e; exact yieldX_clause h ht hs
  · subst e; exact rett_clause h ht hh hsave hread
  · simp only [List.mem_cons, List.not_mem_nil, or_false] at hp
    rcases hp with rfl | rfl | rfl <;> subst e
    · exact tmask_clause h ht rfl (fun x y k _ => BitVec.getLsbD_or) rfl
    · exact tmask_clause h ht rfl (fun x y k hk => by rw [BitVec.getLsbD_and, BitVec.getLsbD_not]; simp [hk]) rfl
    · exact tmask_clause h ht rfl (fun x y k _ => rfl) rfl
  · subst e; subst ht; exact ⟨_, _, uniResult_all _, exec_rdsr h.1⟩
  · subst e; exact wrsrTrapmask_clause h ht
  · subst e; subst ht; exact ⟨_, uniResult_all _, exec_syscWhere h.1⟩
  · have hb : t.syscSound i s.cur.g := ⟨ho, hw, hp⟩
    refine ⟨fun hi hnone => sysc_noContext hi h.1 ht hb hnone, fun c hc => ⟨fun e hidle => ?_, fun e k hk hne => ?_, fun e h1 => ?_, fun e h1 h2 => ?_⟩,
      fun e h0 h1 h2 => ?_, fun e h0 h1 => ?_, fun e h0 => ?_⟩ <;> subst e
    · exact ⟨_, ((syscShoot_clause h.1 ht hb).2 c hc).1 hidle⟩
    · exact ⟨_, ((syscTerm_clause h.1 ht hb).2 c hc).2.1 k hk hne⟩
    · exact ⟨_, ((syscPodwin_clause h.1 ht hb).2 c hc).2 h1⟩
    · exact ⟨_, ((syscFpdef_clause h.1 ht hb).2 c hc).2 h1 h2⟩
    · refine ⟨_, (syscQdesc_clause h.1 ht hb).2 ?_⟩
      rintro (hq | hlevel | ⟨hlow, -⟩)
      · exact absurd hq (Nat.not_le.2 h0)
      · exact absurd hlevel (Nat.not_lt.2 h1)
      · exact absurd hlow (Nat.not_lt.2 h2)
    · exact ⟨_, (syscLevel_clause h.1 ht hb).2 h0 h1⟩
    · exact ⟨_, (syscRing_clause h.1 ht hb).2 h0⟩
  · subst e
    rcases hload : t.loadElts (t.agent s.cur.g) 32 15 (dtldElts (lowest s.cur.lanes) (t.lead (.dtld sc d a) .A).toNat) with ⟨x, secs⟩
    obtain ⟨hbad, hstray, hsound⟩ := dtld_clause h.1 ht rfl hal hvoid htrap hload
    refine ⟨x, secs, hload, fun hok => ?_, fun hno => ?_⟩
    · obtain ⟨r, hr, hx⟩ := hsound ((tableSound_iff _).1 hok)
      exact ⟨r, { x.ctxOf s.cur.g with decode := tableDiff (tableEntries (tableBytes secs)) }, hr, hx, fun k hk hne => opMap_tableEntries _ _ hk hne⟩
    · rcases not_tableSound hno with hb | ⟨hnb, hs⟩
      · obtain ⟨r, hr, hx⟩ := hbad hb
        exact ⟨r, 1, .inl rfl, hr, hx⟩
      · obtain ⟨r, hr, hx⟩ := hstray hnb hs
        exact ⟨r, 2, .inr rfl, hr, hx⟩

end Sys2Proof.Machine
end

section
/-! PROOFS. Exact values (O23): sums, products and comparisons of values as rational numbers. -/

namespace Sys2Proof.Machine

/-! ## Finite values as rational numbers (R62, R74) -/

theorem FVal.finite_iff {v : FVal} : v.nonFinite = false ↔ ∃ n m e, v = .fin n m e := by
  cases v <;> simp [FVal.nonFinite]

/-- A magnitude counted in units of 2^k. -/
theorem scaled_rat (n : Bool) (m : Nat) {e k : Int} (h : k ≤ e) : (scaled n m e k : ℚ) * 2 ^ k = (FVal.fin n m e).rat := by
  obtain ⟨d, rfl⟩ := Int.le.dest h
  have hpow : (2 : ℚ) ^ (k + d) = 2 ^ d * 2 ^ k := by rw [zpow_add₀ (by norm_num), zpow_natCast, mul_comm]
  have hd : (k + (d : Int) - k).toNat = d := by simp
  rw [scaled, FVal.rat, hpow, hd]
  cases n <;> simp <;> ring

theorem ofIntExp_rat (v e : Int) : (ofIntExp v e).rat = v * 2 ^ e := by
  rw [ofIntExp, FVal.rat]
  rcases lt_or_ge v 0 with h | h
  · have habs : ((v.natAbs : Nat) : ℚ) = -v := by rw [Nat.cast_natAbs, abs_of_neg h]; push_cast; rfl
    rw [habs, decide_eq_true h]; simp
  · have habs : ((v.natAbs : Nat) : ℚ) = v := by rw [Nat.cast_natAbs, abs_of_nonneg h]
    rw [habs, decide_eq_false (not_lt.2 h)]; simp

theorem FVal.rat_fin_eq_zero (n : Bool) (m : Nat) (e : Int) : (FVal.fin n m e).rat = 0 ↔ m = 0 := by
  have hpow : (2 : ℚ) ^ e ≠ 0 := by positivity
  cases n <;> simp [FVal.rat, hpow]

theorem FVal.rat_eq_zero {v : FVal} (h : v.nonFinite = false) : v.rat = 0 ↔ v.isZero = true := by
  obtain ⟨n, m, e, rfl⟩ := FVal.finite_iff.1 h
  rw [FVal.rat_fin_eq_zero]; simp [FVal.isZero]

theorem FVal.abs_rat (n : Bool) (m : Nat) (e : Int) : |(FVal.fin n m e).rat| = m * 2 ^ e := by
  have hpos : (0 : ℚ) ≤ m * 2 ^ e := by positivity
  cases n <;> simp [FVal.rat, abs_of_nonneg hpos]

theorem FVal.rat_neg (v : FVal) : v.neg.rat = -v.rat := by
  cases v with
  | fin n m e => cases n <;> simp [FVal.neg, FVal.rat]
  | _ => simp [FVal.neg, FVal.rat]

/-- Two values over a common unit. -/
theorem scaled_pair (a b : Bool) (m n : Nat) (e k : Int) :
    (scaled a m e (min e k) : ℚ) * 2 ^ min e k = (FVal.fin a m e).rat ∧ (scaled b n k (min e k) : ℚ) * 2 ^ min e k = (FVal.fin b n k).rat :=
  ⟨scaled_rat _ _ (min_le_left ..), scaled_rat _ _ (min_le_right ..)⟩

/-! ## Sums (R74, R133) -/

theorem FVal.add_finite (rd : Bool) {x y : FVal} (hx : x.nonFinite = false) (hy : y.nonFinite = false) :
    (FVal.add rd x y).nonFinite = false ∧ (FVal.add rd x y).rat = x.rat + y.rat ∧
      (x.rat + y.rat = 0 → (FVal.add rd x y).isNeg = if x.rat = 0 ∧ x.isNeg = y.isNeg then x.isNeg else rd) := by
  obtain ⟨a, m, e, rfl⟩ := FVal.finite_iff.1 hx
  obtain ⟨b, n, k, rfl⟩ := FVal.finite_iff.1 hy
  obtain ⟨hxs, hys⟩ := scaled_pair a b m n e k
  have hunit : (2 : ℚ) ^ min e k ≠ 0 := by positivity
  have hsum : (FVal.fin a m e).rat + (FVal.fin b n k).rat = ((scaled a m e (min e k) + scaled b n k (min e k) : Int) : ℚ) * 2 ^ min e k := by
    rw [← hxs, ← hys]; push_cast; ring
  have hzero : (FVal.fin a m e).rat + (FVal.fin b n k).rat = 0 ↔ scaled a m e (min e k) + scaled b n k (min e k) = 0 := by
    rw [hsum, mul_eq_zero, or_iff_left hunit, Int.cast_eq_zero]
  simp only [FVal.add, beq_iff_eq]
  split
  next hv =>
    refine ⟨rfl, by rw [hzero.2 hv]; simp [FVal.rat], fun hxy => ?_⟩
    have hboth : (FVal.fin a m e).rat = 0 → n = 0 := fun hx0 => by rwa [hx0, zero_add, FVal.rat_fin_eq_zero] at hxy
    rw [FVal.rat_fin_eq_zero] at hboth
    simp only [FVal.isNeg, Bool.and_eq_true, beq_iff_eq]
    simp only [FVal.rat_fin_eq_zero]
    exact if_congr ⟨fun ⟨⟨hm, _⟩, hs⟩ => ⟨hm, hs⟩, fun ⟨hm, hs⟩ => ⟨⟨hm, hboth hm⟩, hs⟩⟩ rfl rfl
  next hv => exact ⟨rfl, by rw [ofIntExp_rat, hsum], fun hxy => absurd (hzero.1 hxy) hv⟩

theorem FVal.sum_finite (rd : Bool) : ∀ zs : List FVal, (∀ z ∈ zs, z.nonFinite = false) →
    (FVal.sum rd zs).nonFinite = false ∧ (FVal.sum rd zs).rat = (zs.map FVal.rat).sum
  | [], _ => ⟨rfl, by simp [FVal.sum, FVal.rat]⟩
  | [a], h => ⟨h a (by simp), by simp [FVal.sum]⟩
  | a :: b :: t, h => by
    obtain ⟨hfin, hrat⟩ := FVal.sum_finite rd (b :: t) fun z hz => h z (List.mem_cons_of_mem _ hz)
    obtain ⟨hadd, hsum, -⟩ := FVal.add_finite rd (h a (by simp)) hfin
    rw [FVal.sum] <;> simp
    exact ⟨hadd, by rw [hsum, hrat]; simp⟩

/-! ## Products (R134) -/

theorem FVal.mul_finite {x y : FVal} (hx : x.nonFinite = false) (hy : y.nonFinite = false) :
    (FVal.mul x y).nonFinite = false ∧ (FVal.mul x y).rat = x.rat * y.rat ∧ (FVal.mul x y).isNeg = (x.isNeg != y.isNeg) := by
  obtain ⟨a, m, e, rfl⟩ := FVal.finite_iff.1 hx
  obtain ⟨b, n, k, rfl⟩ := FVal.finite_iff.1 hy
  refine ⟨rfl, ?_, rfl⟩
  have hpow : (2 : ℚ) ^ (e + k) = 2 ^ e * 2 ^ k := zpow_add₀ (by norm_num) ..
  simp only [FVal.mul, FVal.rat, hpow]
  cases a <;> cases b <;> simp <;> ring

/-! ## Comparisons (R74, R136) -/

theorem FVal.lt_finite {x y : FVal} (hx : x.nonFinite = false) (hy : y.nonFinite = false) : FVal.lt x y = true ↔ x.rat < y.rat := by
  obtain ⟨a, m, e, rfl⟩ := FVal.finite_iff.1 hx
  obtain ⟨b, n, k, rfl⟩ := FVal.finite_iff.1 hy
  obtain ⟨hxs, hys⟩ := scaled_pair a b m n e k
  rw [← hxs, ← hys, mul_lt_mul_iff_left₀ (by positivity), Int.cast_lt]
  exact decide_eq_true_iff

theorem FVal.eqv_finite {x y : FVal} (hx : x.nonFinite = false) (hy : y.nonFinite = false) : FVal.eqv x y = true ↔ x.rat = y.rat := by
  obtain ⟨a, m, e, rfl⟩ := FVal.finite_iff.1 hx
  obtain ⟨b, n, k, rfl⟩ := FVal.finite_iff.1 hy
  obtain ⟨hxs, hys⟩ := scaled_pair a b m n e k
  rw [← hxs, ← hys, mul_left_inj' (by positivity), Int.cast_inj]
  exact beq_iff_eq

/-! ## Infinities and NaNs (R133, R134) -/

theorem FVal.add_nan (rd : Bool) (x y : FVal) (h : x.isNan = true ∨ y.isNan = true ∨ (x.isInf = true ∧ y.isInf = true ∧ x.isNeg ≠ y.isNeg)) :
    FVal.add rd x y = .nan := by
  rcases h with h | h | ⟨hx, hy, hs⟩
  · cases x <;> simp [FVal.isNan] at h; rfl
  · cases y <;> simp [FVal.isNan] at h; cases x <;> rfl
  · cases x <;> simp [FVal.isInf] at hx
    cases y <;> simp [FVal.isInf] at hy
    exact if_neg (mt beq_iff_eq.1 hs)

theorem FVal.add_inf (rd : Bool) (x y : FVal) (hx : x.isInf = true) (hy : y.isNan = false) (hs : y.isInf = true → x.isNeg = y.isNeg) :
    FVal.add rd x y = .inf x.isNeg ∧ FVal.add rd y x = .inf x.isNeg := by
  cases x <;> simp [FVal.isInf] at hx
  cases y with
  | nan => simp [FVal.isNan] at hy
  | fin n m e => exact ⟨rfl, rfl⟩
  | inf b =>
    obtain rfl : _ = b := hs rfl
    simp [FVal.add, FVal.isNeg]

theorem FVal.mul_nan (x y : FVal)
    (h : x.isNan = true ∨ y.isNan = true ∨ (x.isInf = true ∧ y.isZero = true) ∨ (x.isZero = true ∧ y.isInf = true)) : FVal.mul x y = .nan := by
  rcases h with h | h | ⟨hx, hy⟩ | ⟨hx, hy⟩
  · cases x <;> simp [FVal.isNan] at h; rfl
  · cases y <;> simp [FVal.isNan] at h; cases x <;> rfl
  · cases x <;> simp [FVal.isInf] at hx
    cases y <;> simp [FVal.isZero] at hy
    simp [FVal.mul, hy]
  · cases x <;> simp [FVal.isZero] at hx
    cases y <;> simp [FVal.isInf] at hy
    simp [FVal.mul, hx]

theorem FVal.mul_inf (x y : FVal) (hx : x.isInf = true) (hy : y.isNan = false) (hz : y.isZero = false) :
    FVal.mul x y = .inf (x.isNeg != y.isNeg) ∧ FVal.mul y x = .inf (x.isNeg != y.isNeg) := by
  cases x <;> simp [FVal.isInf] at hx
  cases y with
  | nan => simp [FVal.isNan] at hy
  | fin n m e =>
    have hm : m ≠ 0 := by simpa [FVal.isZero] using hz
    simp [FVal.mul, FVal.isNeg, hm, Bool.xor_comm]
  | inf b => simp [FVal.mul, FVal.isNeg, Bool.xor_comm]

theorem exactArithmetic : ExactArithmetic := by
  intro x y rd
  refine ⟨fun hx hy => ?_, FVal.add_nan rd x y, FVal.add_inf rd x y, FVal.mul_nan x y, FVal.mul_inf x y, fun zs h => (FVal.sum_finite rd zs h).2⟩
  obtain ⟨haddFin, haddRat, haddNeg⟩ := FVal.add_finite rd hx hy
  obtain ⟨hmulFin, hmulRat, hmulNeg⟩ := FVal.mul_finite hx hy
  exact ⟨haddFin, haddRat, hmulFin, hmulRat, haddNeg, hmulNeg, FVal.lt_finite hx hy, FVal.eqv_finite hx hy⟩

end Sys2Proof.Machine
end

section
/-! PROOFS. Rounding to a format (O23): whole numbers, the grid of a format, its codes, and the one rounding. -/

namespace Sys2Proof.Machine

/-! ## Rounding to a whole number (R68, R69) -/

/-- A whole number n is the magnitude v rounded under a mode, `neg` being the sign that it stands for. -/
structure RoundsTo (rm : Nat) (neg : Bool) (v : ℚ) (n : Nat) (exact : Bool) : Prop where
  exact_iff : exact = true ↔ (n : ℚ) = v
  near : |(n : ℚ) - v| < 1
  half : rm = 0 → |(n : ℚ) - v| ≤ 1 / 2
  down : rm = 1 ∨ (rm = 2 ∧ neg = true) ∨ (rm = 3 ∧ neg = false) → (n : ℚ) ≤ v
  up : (rm = 2 ∧ neg = false) ∨ (rm = 3 ∧ neg = true) → v ≤ n

theorem RoundsTo.whole (rm : Nat) (neg : Bool) {v : ℚ} {n : Nat} (h : v = n) : RoundsTo rm neg v n true := by
  subst h
  exact ⟨by simp, by simp, fun _ => by simp, fun _ => le_rfl, fun _ => le_rfl⟩

section
variable {rm k : Nat} {neg : Bool} {v : ℚ}

/-- A magnitude that is no whole number may be rounded down, to the whole number below it. -/
theorem RoundsTo.below (hlo : (k : ℚ) < v) (hhi : v < k + 1) (hhalf : rm = 0 → v - k ≤ 1 / 2)
    (hmode : ¬ ((rm = 2 ∧ neg = false) ∨ (rm = 3 ∧ neg = true))) : RoundsTo rm neg v k false := by
  have hdist : |(k : ℚ) - v| = v - k := by rw [abs_sub_comm]; exact abs_of_pos (by linarith)
  exact ⟨by simpa using hlo.ne, by rw [hdist]; linarith, fun hr => by rw [hdist]; exact hhalf hr, fun _ => hlo.le, fun h => absurd h hmode⟩

/-- … or up, to the one above it. -/
theorem RoundsTo.above (hlo : (k : ℚ) < v) (hhi : v < k + 1) (hhalf : rm = 0 → 1 / 2 ≤ v - k)
    (hmode : ¬ (rm = 1 ∨ (rm = 2 ∧ neg = true) ∨ (rm = 3 ∧ neg = false))) : RoundsTo rm neg v (k + 1) false := by
  have hdist : |((k + 1 : Nat) : ℚ) - v| = k + 1 - v := by push_cast; exact abs_of_pos (by linarith)
  exact ⟨by push_cast; simpa using hhi.ne', by rw [hdist]; linarith, fun hr => by rw [hdist]; linarith [hhalf hr], fun h => absurd h hmode,
    fun _ => by push_cast; exact hhi.le⟩

/-- The choice of `roundsUp` between the two whole numbers about a magnitude: `half` says where it lies. -/
theorem RoundsTo.of_roundsUp {half : Nat} (hlo : (k : ℚ) < v) (hhi : v < k + 1)
    (hhalf : (half = 0 ∧ v - k < 1 / 2) ∨ (half = 1 ∧ v - k = 1 / 2) ∨ (half = 2 ∧ 1 / 2 < v - k)) :
    RoundsTo rm neg v (if roundsUp rm neg k half false then k + 1 else k) false := by
  match rm with
  | 0 =>
    rcases hhalf with ⟨rfl, hv⟩ | ⟨rfl, hv⟩ | ⟨rfl, hv⟩
    · exact .below hlo hhi (fun _ => hv.le) (by simp)
    · split
      · exact .above hlo hhi (fun _ => hv.ge) (by simp)
      · exact .below hlo hhi (fun _ => hv.le) (by simp)
    · exact .above hlo hhi (fun _ => hv.le) (by simp)
  | 1 => exact .below hlo hhi (by simp) (by simp)
  | 2 =>
    cases neg with
    | true => exact .below hlo hhi (by simp) (by simp)
    | false => exact .above hlo hhi (by simp) (by simp)
  | 3 =>
    cases neg with
    | true => exact .above hlo hhi (by simp) (by simp)
    | false => exact .below hlo hhi (by simp) (by simp)
  | r + 4 =>
    split
    · exact .above hlo hhi (by simp) (by simp)
    · exact .below hlo hhi (by simp) (by simp)

end

/-- m / 2^d is rounded as the mode says. -/
theorem roundShift_roundsTo (rm : Nat) (neg : Bool) (m d : Nat) : RoundsTo rm neg (m / 2 ^ d) (roundShift rm neg m d).1 (roundShift rm neg m d).2 := by
  have hpow : (0 : ℚ) < 2 ^ d := by positivity
  have hdiv : (m : ℚ) / 2 ^ d = (m / 2 ^ d : Nat) + ((m % 2 ^ d : Nat) : ℚ) / 2 ^ d := by
    have : (m : ℚ) = (2 ^ d : ℚ) * (m / 2 ^ d : Nat) + (m % 2 ^ d : Nat) := by exact_mod_cast (Nat.div_add_mod m (2 ^ d)).symm
    rw [div_eq_iff hpow.ne', add_mul, div_mul_cancel₀ _ hpow.ne', mul_comm _ ((2 : ℚ) ^ d)]; exact this
  have hlt : m % 2 ^ d < 2 ^ d := Nat.mod_lt _ (by positivity)
  unfold roundShift
  dsimp only
  by_cases hr : m % 2 ^ d = 0
  · rw [hr, Nat.cast_zero, zero_div, add_zero] at hdiv
    simpa [hr, roundsUp] using RoundsTo.whole rm neg hdiv
  · have hpos : 0 < m % 2 ^ d := Nat.pos_of_ne_zero hr
    have hltq : ((m % 2 ^ d : Nat) : ℚ) < 2 ^ d := by exact_mod_cast hlt
    have hposq : (0 : ℚ) < (m % 2 ^ d : Nat) := by exact_mod_cast hpos
    rw [show (m % 2 ^ d == 0) = false by simpa using hr]
    refine RoundsTo.of_roundsUp ?_ ?_ ?_
    · rw [hdiv]; linarith [div_pos hposq hpow]
    · rw [hdiv]; linarith [(div_lt_one hpow).2 hltq]
    · rw [hdiv, add_sub_cancel_left, div_lt_div_iff₀ hpow two_pos, div_eq_div_iff hpow.ne' two_ne_zero, div_lt_div_iff₀ two_pos hpow]
      rcases lt_trichotomy (2 * (m % 2 ^ d)) (2 ^ d) with h | h | h
      · refine .inl ⟨if_pos h, ?_⟩
        rw [one_mul, mul_comm]; exact_mod_cast h
      · refine .inr (.inl ⟨by rw [if_neg h.not_lt, if_pos (by simpa using h)], ?_⟩)
        rw [one_mul, mul_comm]; exact_mod_cast h
      · refine .inr (.inr ⟨by rw [if_neg h.not_gt, if_neg (by simpa using h.ne')], ?_⟩)
        rw [one_mul, mul_comm _ (2 : ℚ)]; exact_mod_cast h

/-! ## The grid of a format (R62, R65, R66, R70) -/

/-- The place of the last bit that a format keeps of a magnitude m·2^e. -/
def gridExp (f m : Nat) (e : Int) : Int := max (e + (bitLen m : Int) - 1 - (manBits f : Int)) (minExp f)

/-- n·2^q is a magnitude of a format, its exponent unbounded above: as many bits as the format keeps, or fewer at the finest place. -/
structure OnGrid (f n : Nat) (q : Int) : Prop where
  bits : n < 2 ^ (manBits f + 1)
  finest : minExp f ≤ q
  normal : n < 2 ^ manBits f → q = minExp f

theorem bitLen_bounds {m : Nat} (hm : m ≠ 0) : 2 ^ (bitLen m - 1) ≤ m ∧ m < 2 ^ bitLen m ∧ 1 ≤ bitLen m := by
  have hlen : bitLen m = m.log2 + 1 := by rw [bitLen, if_neg (by simpa using hm)]
  rw [hlen]
  exact ⟨Nat.log2_self_le hm, Nat.lt_log2_self, Nat.le_add_left ..⟩

/-- A magnitude in units of the last place that the format keeps. -/
def inUnits (f m : Nat) (e : Int) : ℚ := m * 2 ^ (e - gridExp f m e)

theorem inUnits_mul (f m : Nat) (e : Int) : inUnits f m e * 2 ^ gridExp f m e = m * 2 ^ e := by
  rw [inUnits, mul_assoc, ← zpow_add₀ (by norm_num)]; congr 2; ring

theorem inUnits_lt (f : Nat) {m : Nat} (e : Int) (hm : m ≠ 0) : inUnits f m e < 2 ^ (manBits f + 1) := by
  obtain ⟨-, hlt, -⟩ := bitLen_bounds hm
  have hexp : (bitLen m : Int) + (e - gridExp f m e) ≤ ((manBits f + 1 : Nat) : Int) := by
    have := le_max_left (e + (bitLen m : Int) - 1 - (manBits f : Int)) (minExp f)
    unfold gridExp; push_cast; linarith
  calc inUnits f m e < 2 ^ (bitLen m : Int) * 2 ^ (e - gridExp f m e) :=
        mul_lt_mul_of_pos_right (by rw [zpow_natCast]; exact_mod_cast hlt) (by positivity)
    _ = (2 : ℚ) ^ ((bitLen m : Int) + (e - gridExp f m e)) := (zpow_add₀ (by norm_num) ..).symm
    _ ≤ 2 ^ ((manBits f + 1 : Nat) : Int) := zpow_le_zpow_right₀ (by norm_num) hexp
    _ = 2 ^ (manBits f + 1) := zpow_natCast ..

/-- Above the finest place the format keeps as many bits as it has. -/
theorem le_inUnits (f : Nat) {m : Nat} (e : Int) (hm : m ≠ 0) (h : gridExp f m e ≠ minExp f) : 2 ^ manBits f ≤ inUnits f m e := by
  obtain ⟨hle, -, hone⟩ := bitLen_bounds hm
  have hexp : gridExp f m e = e + (bitLen m : Int) - 1 - (manBits f : Int) := by
    unfold gridExp at h ⊢; rcases max_choice (e + (bitLen m : Int) - 1 - (manBits f : Int)) (minExp f) with h' | h'
    · exact h'
    · exact absurd h' h
  calc (2 : ℚ) ^ manBits f = 2 ^ (manBits f : Int) := (zpow_natCast ..).symm
    _ = 2 ^ ((bitLen m - 1 : Nat) : Int) * 2 ^ (e - gridExp f m e) := by
        rw [← zpow_add₀ (by norm_num), hexp]; congr 1; push_cast [hone]; ring
    _ ≤ inUnits f m e := mul_le_mul_of_nonneg_right (by rw [zpow_natCast]; exact_mod_cast hle) (by positivity)

theorem gridExp_finest (f m : Nat) (e : Int) : minExp f ≤ gridExp f m e := le_max_right ..

/-- A rounded number of units has no more bits than the format keeps, but for a carry. -/
theorem RoundsTo.units_le {f rm m N : Nat} {neg x : Bool} {e : Int} (h : RoundsTo rm neg (inUnits f m e) N x) (hm : m ≠ 0) : N ≤ 2 ^ (manBits f + 1) := by
  have hnear := (abs_lt.1 h.near).2
  have hlt := inUnits_lt f e hm
  have : (N : ℚ) < ((2 ^ (manBits f + 1) + 1 : Nat) : ℚ) := by push_cast; linarith
  exact Nat.lt_succ_iff.1 (by exact_mod_cast this)

/-- It has fewer at the finest place alone. -/
theorem RoundsTo.le_units {f rm m N : Nat} {neg x : Bool} {e : Int} (h : RoundsTo rm neg (inUnits f m e) N x) (hm : m ≠ 0)
    (hne : gridExp f m e ≠ minExp f) : 2 ^ manBits f ≤ N := by
  have hle := le_inUnits f e hm hne
  have hnear := (abs_lt.1 h.near).1
  have : ((2 ^ manBits f : Nat) : ℚ) < ((N + 1 : Nat) : ℚ) := by push_cast; linarith
  exact Nat.lt_succ_iff.1 (by exact_mod_cast this)

/-- What a magnitude becomes on the grid: a whole number of units, as the mode says, written with the bits that the format keeps. -/
theorem toGrid_roundsTo (f rm : Nat) (neg : Bool) {m : Nat} (e : Int) (hm : m ≠ 0) :
    ∃ N : Nat, RoundsTo rm neg (inUnits f m e) N (toGrid f rm neg m e).2.2 ∧
      (((toGrid f rm neg m e).1 : ℚ) * 2 ^ (toGrid f rm neg m e).2.1 = N * 2 ^ gridExp f m e) ∧
      OnGrid f (toGrid f rm neg m e).1 (toGrid f rm neg m e).2.1 := by
  have hlt := inUnits_lt f e hm
  have hnormal : ∀ {N x}, RoundsTo rm neg (inUnits f m e) N x → N < 2 ^ manBits f → gridExp f m e = minExp f :=
    fun h hN => by_contra fun hne => absurd (h.le_units hm hne) (not_le.2 hN)
  unfold toGrid
  dsimp only
  rw [show max (e + (bitLen m : Int) - 1 - (manBits f : Int)) (minExp f) = gridExp f m e from rfl]
  split
  next hle =>
    obtain ⟨d, hd⟩ := Int.le.dest hle
    have hunits : inUnits f m e = ((m * 2 ^ (e - gridExp f m e).toNat : Nat) : ℚ) := by
      have : (e - gridExp f m e) = (d : Int) := by omega
      rw [inUnits, this, zpow_natCast]; push_cast; rfl
    have hround := RoundsTo.whole rm neg hunits
    rw [hunits] at hlt
    exact ⟨_, hround, rfl, by exact_mod_cast hlt, gridExp_finest .., hnormal hround⟩
  next hgt =>
    obtain ⟨d, hd⟩ := Int.le.dest (not_le.1 hgt).le
    have hunits : inUnits f m e = m / 2 ^ (gridExp f m e - e).toNat := by
      have h1 : (gridExp f m e - e) = (d : Int) := by omega
      have h2 : (e - gridExp f m e) = -(d : Int) := by omega
      rw [inUnits, h1, h2, zpow_neg, zpow_natCast]; rfl
    have hround := roundShift_roundsTo rm neg m (gridExp f m e - e).toNat
    rw [← hunits] at hround
    generalize roundShift rm neg m (gridExp f m e - e).toNat = r at hround
    obtain ⟨N, x⟩ := r
    dsimp only at hround ⊢
    refine ⟨N, ?_⟩
    split
    next hcarry =>
      obtain rfl : N = 2 ^ (manBits f + 1) := by simpa using hcarry
      refine ⟨hround, ?_, Nat.pow_lt_pow_right (by norm_num) (Nat.lt_succ_self _), (gridExp_finest f m e).trans (lt_add_one _).le, fun h => absurd h (lt_irrefl _)⟩
      rw [zpow_add_one₀ (by norm_num)]; push_cast; ring
    next hcarry =>
      have hne : N ≠ 2 ^ (manBits f + 1) := by simpa using hcarry
      exact ⟨hround, rfl, lt_of_le_of_ne (hround.units_le hm) hne, gridExp_finest .., hnormal hround⟩

/-! ## Codes (R62, R65, R66) -/

/-- The limits of the floating formats: the width, and the largest finite value beside the codes that the format reserves. -/
theorem format_limits : ∀ f ≤ 5, fmtWidth f = expBits f + manBits f + 1 ∧ minExp f ≤ (maxFin f).2 ∧ 2 ^ manBits f ≤ (maxFin f).1 ∧
    (maxFin f).2 - minExp f + 1 = (if hasInf f then 2 ^ expBits f - 2 else 2 ^ expBits f - 1 : Nat) ∧
    (maxFin f).1 + (if f = 3 then 2 else 1) = 2 ^ (manBits f + 1) := by decide

theorem overflows_eq_false {f n : Nat} {q : Int} : overflows f n q = false ↔ q < (maxFin f).2 ∨ (q = (maxFin f).2 ∧ n ≤ (maxFin f).1) := by
  simp only [overflows, Bool.or_eq_false_iff, Bool.and_eq_false_iff, decide_eq_false_iff_not]
  omega

/-- A code by its fields: sign, exponent and mantissa. -/
def codeOf (f : Nat) (neg : Bool) (x m : Nat) : Nat := signBit f neg + (x * 2 ^ manBits f + m)

theorem codeOf_fields {f x m : Nat} (neg : Bool) (hx : x < 2 ^ expBits f) (hm : m < 2 ^ manBits f) :
    bits (codeOf f neg x m) 0 (manBits f) = m ∧ bits (codeOf f neg x m) (manBits f) (expBits f) = x ∧
      bitAt (codeOf f neg x m) (expBits f + manBits f) = neg ∧ codeOf f neg x m < 2 ^ (expBits f + manBits f + 1) := by
  have hmag : x * 2 ^ manBits f + m < 2 ^ expBits f * 2 ^ manBits f :=
    calc x * 2 ^ manBits f + m < (x + 1) * 2 ^ manBits f := by rw [add_mul, one_mul]; omega
      _ ≤ 2 ^ expBits f * 2 ^ manBits f := Nat.mul_le_mul_right _ hx
  have hcode : codeOf f neg x m = (2 ^ expBits f * neg.toNat + x) * 2 ^ manBits f + m := by
    unfold codeOf signBit; cases neg <;> simp [pow_add, add_mul, add_assoc]
  have hdiv : codeOf f neg x m / 2 ^ manBits f = 2 ^ expBits f * neg.toNat + x := by
    rw [hcode, Nat.mul_comm, Nat.mul_add_div (by positivity), Nat.div_eq_of_lt hm, add_zero]
  refine ⟨?_, ?_, ?_, ?_⟩
  · rw [bits, pow_zero, Nat.div_one, hcode, Nat.mul_add_mod', Nat.mod_eq_of_lt hm]
  · rw [bits, hdiv, Nat.mul_add_mod, Nat.mod_eq_of_lt hx]
  · rw [bitAt, Nat.add_comm, pow_add, ← Nat.div_div_eq_div_mul, hdiv, Nat.mul_add_div (by positivity), Nat.div_eq_of_lt hx]
    cases neg <;> rfl
  · unfold codeOf signBit; rw [pow_succ, pow_add]; split <;> omega

theorem codeOf_bits {f c : Nat} (h : c < 2 ^ (expBits f + manBits f + 1)) :
    codeOf f (bitAt c (expBits f + manBits f)) (bits c (manBits f) (expBits f)) (bits c 0 (manBits f)) = c := by
  have htop : c / 2 ^ (expBits f + manBits f) < 2 := Nat.div_lt_of_lt_mul (by rwa [pow_succ] at h)
  have hmid : bits c (manBits f) (expBits f) * 2 ^ manBits f + bits c 0 (manBits f) = c % 2 ^ (expBits f + manBits f) := by
    rw [bits, bits, pow_zero, Nat.div_one, Nat.add_comm (expBits f), pow_add, Nat.mod_mul]; ring
  rw [codeOf, hmid]
  conv_rhs => rw [← Nat.div_add_mod c (2 ^ (expBits f + manBits f))]
  unfold signBit bitAt
  interval_cases hd : c / 2 ^ (expBits f + manBits f) <;> simp

/-- The value that a code is read as, by its fields. -/
theorem decodeF_codeOf {f x m : Nat} (neg : Bool) (hx : x < 2 ^ expBits f) (hm : m < 2 ^ manBits f) :
    decodeF f (codeOf f neg x m) =
      if f = 3 ∧ x = 15 ∧ m = 7 then .nan
      else if hasInf f = true ∧ x = 2 ^ expBits f - 1 then (if m = 0 then .inf neg else .nan)
      else if x = 0 then .fin neg m (minExp f)
      else .fin neg (2 ^ manBits f + m) (minExp f + x - 1) := by
  obtain ⟨hman, hexp, hneg, -⟩ := codeOf_fields neg hx hm
  simp only [decodeF, hman, hexp, hneg, Bool.and_eq_true, beq_iff_eq, and_assoc]

theorem four_le_exponents (f : Nat) : 4 ≤ 2 ^ expBits f := by
  have h : 2 ≤ expBits f := by unfold expBits; split <;> omega
  exact Nat.pow_le_pow_right (n := 2) (by norm_num) h

/-- The exponent field of a magnitude of the format that does not overflow. -/
theorem exponent_field {f n : Nat} {q : Int} (hf : f ≤ 5) (hg : OnGrid f n q) (ho : overflows f n q = false) :
    (q - minExp f + 1).toNat < 2 ^ expBits f ∧ (hasInf f = true → (q - minExp f + 1).toNat ≠ 2 ^ expBits f - 1) ∧
      (f = 3 → (q - minExp f + 1).toNat = 15 → n ≤ 14) := by
  obtain ⟨-, hmin, -, hmax, hlast⟩ := format_limits f hf
  have hq := hg.finest
  have hpos := four_le_exponents f
  rw [overflows_eq_false] at ho
  refine ⟨?_, fun hi => ?_, fun h3 hx => ?_⟩
  · split at hmax <;> omega
  · rw [if_pos hi] at hmax; omega
  · subst h3
    rw [if_neg (by decide)] at hmax
    simp only [expBits, manBits, if_true] at hmax hlast
    omega

/-- A magnitude of the format that does not overflow has a code, which is read as that value; E2M1 has no −0 (R66). -/
theorem decodeF_gridCode {f n : Nat} {q : Int} (neg : Bool) (hf : f ≤ 5) (hg : OnGrid f n q) (ho : overflows f n q = false) :
    gridCode f neg n q < 2 ^ fmtWidth f ∧ decodeF f (gridCode f neg n q) = .fin (neg && !(f == 5 && n == 0)) n q := by
  obtain ⟨hwidth, -⟩ := format_limits f hf
  obtain ⟨hx, hinf, hnan⟩ := exponent_field hf hg ho
  have hq := hg.finest
  have hn := hg.bits
  rw [pow_succ] at hn
  rw [hwidth]
  rcases lt_or_ge n (2 ^ manBits f) with hsub | hnorm
  · -- zero and the subnormal values
    have hq0 := hg.normal hsub
    have hcode : gridCode f neg n q = codeOf f (neg && !(f == 5 && n == 0)) 0 n := by
      simp only [gridCode, codeOf, if_pos hsub, zero_mul, zero_add]
      split
      next h => simp [h, signBit]; simp_all
      next h => rw [Bool.eq_false_iff.2 h]; simp
    have hx0 : 0 < 2 ^ expBits f := by positivity
    refine ⟨hcode ▸ (codeOf_fields _ hx0 hsub).2.2.2, ?_⟩
    rw [hcode, decodeF_codeOf _ hx0 hsub, if_neg (by omega), if_neg, if_pos rfl, hq0]
    have := four_le_exponents f
    omega
  · -- the normal values
    have hn0 : (n == 0) = false := by simpa using (Nat.lt_of_lt_of_le (by positivity) hnorm).ne'
    have hm : n - 2 ^ manBits f < 2 ^ manBits f := by omega
    have hmag : (q - minExp f + 1).toNat * 2 ^ manBits f + (n - 2 ^ manBits f) ≠ 0 := by
      have : 0 < (q - minExp f + 1).toNat * 2 ^ manBits f := Nat.mul_pos (by omega) (by positivity)
      omega
    have hcode : gridCode f neg n q = codeOf f neg (q - minExp f + 1).toNat (n - 2 ^ manBits f) := by
      simp only [gridCode, codeOf, if_neg (not_lt.2 hnorm)]
      rw [if_neg fun h => hmag (by simpa using (Bool.and_eq_true_iff.1 h).2)]
    refine ⟨hcode ▸ (codeOf_fields _ hx hm).2.2.2, ?_⟩
    rw [hcode, decodeF_codeOf _ hx hm, if_neg, if_neg (fun h => hinf h.1 h.2), if_neg (by omega), hn0, Bool.and_false, Bool.not_false, Bool.and_true]
    · congr 1 <;> omega
    · rintro ⟨h3, hx15, hm7⟩
      have := hnan h3 hx15
      subst h3
      simp only [manBits] at hm7 hnorm
      omega

theorem rat_gridCode {f n : Nat} {q : Int} (neg : Bool) (hf : f ≤ 5) (hg : OnGrid f n q) (ho : overflows f n q = false) :
    (decodeF f (gridCode f neg n q)).rat = (FVal.fin neg n q).rat := by
  rw [(decodeF_gridCode neg hf hg ho).2, FVal.rat, FVal.rat]
  by_cases hn : n = 0
  · simp [hn]
  · simp [hn]

/-- A code that is no infinity and no NaN is read as a magnitude of the format, of which it is the code; but the code 8 of E2M1 is read as a zero (R66). -/
theorem finite_code {f c : Nat} (hf : f ≤ 5) (hc : c < 2 ^ fmtWidth f) (hfin : (decodeF f c).nonFinite = false) :
    ∃ neg n q, decodeF f c = .fin neg n q ∧ OnGrid f n q ∧ overflows f n q = false ∧
      (gridCode f neg n q = c ∨ (f = 5 ∧ c = 8 ∧ n = 0 ∧ gridCode f neg n q = 0)) := by
  obtain ⟨hwidth, hmin, hmax1, hmax, hlast⟩ := format_limits f hf
  rw [hwidth] at hc
  have hman : bits c 0 (manBits f) < 2 ^ manBits f := Nat.mod_lt _ (by positivity)
  have hexp : bits c (manBits f) (expBits f) < 2 ^ expBits f := Nat.mod_lt _ (by positivity)
  have hcode := codeOf_bits hc
  generalize bitAt c (expBits f + manBits f) = neg at hcode
  generalize bits c (manBits f) (expBits f) = x at hcode hexp
  generalize bits c 0 (manBits f) = m at hcode hman
  have hpos := four_le_exponents f
  have hman1 : 0 < 2 ^ manBits f := by positivity
  have hval := decodeF_codeOf neg hexp hman
  rw [hcode] at hval
  split at hval
  · simp [hval, FVal.nonFinite] at hfin
  next hnan =>
    split at hval
    · split at hval <;> simp [hval, FVal.nonFinite] at hfin
    next hinf =>
      split at hval
      next hx =>
        subst hx
        refine ⟨neg, m, minExp f, hval, ⟨by rw [pow_succ]; omega, le_rfl, fun _ => rfl⟩, ?_, ?_⟩
        · rw [overflows_eq_false]; omega
        · simp only [gridCode, if_pos hman]
          split
          next h5 =>
            simp only [Bool.and_eq_true, beq_iff_eq] at h5
            obtain ⟨rfl, rfl⟩ := h5
            cases neg with
            | false => exact .inl hcode
            | true => exact .inr ⟨rfl, hcode.symm, rfl, rfl⟩
          · exact .inl (by rw [← hcode]; simp [codeOf])
      next hx =>
        refine ⟨neg, 2 ^ manBits f + m, minExp f + x - 1, hval, ⟨by rw [pow_succ]; omega, by omega, fun h => absurd h (by omega)⟩, ?_, .inl ?_⟩
        · rw [overflows_eq_false]
          rw [pow_succ] at hlast
          by_cases h3 : f = 3
          · subst h3
            rw [if_neg (by decide)] at hmax
            have hx16 : x < 16 := hexp
            have hm8 : m < 8 := hman
            simp only [expBits, manBits, if_true, true_and] at hmax hlast hnan ⊢
            omega
          · rw [if_neg h3] at hlast
            split at hmax
            next hi =>
              have : x ≠ 2 ^ expBits f - 1 := fun h => hinf ⟨hi, h⟩
              omega
            next => omega
        · have hfield : (minExp f + (x : Int) - 1 - minExp f + 1).toNat = x := by omega
          have hpos : 0 < x * 2 ^ manBits f := Nat.mul_pos (by omega) hman1
          simp only [gridCode, if_neg (show ¬ 2 ^ manBits f + m < 2 ^ manBits f by omega), hfield, Nat.add_sub_cancel_left]
          rw [if_neg (by simp; omega), ← hcode]; rfl

/-! ## The one rounding (R69 to R71) -/

/-- The result of a magnitude beyond the format's range (R70, steps 2 and 3). -/
def overflowRes (f rm : Nat) (neg : Bool) : FRes :=
  if rm == 1 || (rm == 2 && neg) || (rm == 3 && !neg) then ⟨maxCode f neg, fOF ||| fNX⟩
  else ⟨infCode f neg, fOF ||| fNX ||| (if f == 3 then fNV else 0)⟩

theorem roundF_fin (f rm : Nat) (neg : Bool) {m : Nat} (e : Int) (hm : m ≠ 0) :
    roundF f rm (.fin neg m e) =
      if overflows f (toGrid f rm neg m e).1 (toGrid f rm neg m e).2.1 then overflowRes f rm neg
      else ⟨gridCode f neg (toGrid f rm neg m e).1 (toGrid f rm neg m e).2.1,
        if (toGrid f rm neg m e).2.2 then 0 else if decide ((toGrid f rm neg m e).1 < 2 ^ manBits f) then fUF ||| fNX else fNX⟩ := by
  simp only [roundF, overflowRes, beq_iff_eq, if_neg hm]

theorem roundF_zero (f rm : Nat) (neg : Bool) (e : Int) : roundF f rm (.fin neg 0 e) = ⟨gridCode f neg 0 (minExp f), 0⟩ := rfl

/-- A value of the format counted in the units of another magnitude: a whole number, or below all those that have as many bits as the format keeps. -/
theorem OnGrid.in_units {f n : Nat} {q : Int} (h : OnGrid f n q) (neg : Bool) (m : Nat) (e : Int) :
    (∃ j : Int, (FVal.fin neg n q).rat = j * 2 ^ gridExp f m e) ∨
      (gridExp f m e ≠ minExp f ∧ (FVal.fin neg n q).rat < 2 ^ manBits f * 2 ^ gridExp f m e) := by
  rcases le_or_gt (gridExp f m e) q with hle | hlt
  · exact .inl ⟨_, (scaled_rat neg n hle).symm⟩
  · refine .inr ⟨(lt_of_le_of_lt h.finest hlt).ne', ?_⟩
    have hbits : (n : ℚ) < 2 ^ (manBits f + 1) := by exact_mod_cast h.bits
    calc (FVal.fin neg n q).rat ≤ |(FVal.fin neg n q).rat| := le_abs_self _
      _ = n * 2 ^ q := FVal.abs_rat ..
      _ < 2 ^ (manBits f + 1) * 2 ^ q := mul_lt_mul_of_pos_right hbits (by positivity)
      _ = 2 ^ manBits f * 2 ^ (q + 1) := by rw [zpow_add_one₀ (by norm_num), pow_succ]; ring
      _ ≤ 2 ^ manBits f * 2 ^ gridExp f m e := mul_le_mul_of_nonneg_left (zpow_le_zpow_right₀ (by norm_num) hlt) (by positivity)

/-- A whole number does not lie strictly between a magnitude and the number that it is rounded to, and under rne it is no nearer; nor is what lies below a
whole number that bounds both from below. -/
theorem RoundsTo.none_between {rm N : Nat} {neg x : Bool} {V Z : ℚ} (h : RoundsTo rm neg V N x)
    (hZ : (∃ j : Int, Z = j) ∨ ∃ b : Nat, Z < b ∧ (b : ℚ) ≤ V ∧ b ≤ N) :
    ¬ (V < Z ∧ Z < N) ∧ ¬ ((N : ℚ) < Z ∧ Z < V) ∧ (rm = 0 → |(N : ℚ) - V| ≤ |Z - V|) := by
  obtain ⟨hlo, hhi⟩ := abs_lt.1 h.near
  have hwhole : ∀ j : Int, rm = 0 → |(N : ℚ) - V| ≤ |(j : ℚ) - V| := fun j hr => by
    have hhalf := abs_le.1 (h.half hr)
    rcases lt_trichotomy j (N : Int) with hj | rfl | hj
    · have : (j : ℚ) + 1 ≤ N := by exact_mod_cast hj
      exact (h.half hr).trans (le_abs.2 (.inr (by linarith)))
    · simp
    · have : (N : ℚ) + 1 ≤ j := by exact_mod_cast hj
      exact (h.half hr).trans (le_abs.2 (.inl (by linarith)))
  rcases hZ with ⟨j, rfl⟩ | ⟨b, hb, hbV, hbN⟩
  · refine ⟨fun ⟨h1, h2⟩ => ?_, fun ⟨h1, h2⟩ => ?_, hwhole j⟩
    · have : j + 1 ≤ (N : Int) := by exact_mod_cast h2
      have : (j : ℚ) + 1 ≤ N := by exact_mod_cast this
      linarith
    · have : (N : Int) + 1 ≤ j := by exact_mod_cast h1
      have : (N : ℚ) + 1 ≤ j := by exact_mod_cast this
      linarith
  · have hbNq : (b : ℚ) ≤ N := by exact_mod_cast hbN
    refine ⟨fun ⟨h1, _⟩ => by linarith, fun ⟨h1, _⟩ => by linarith, fun hr => (hwhole b hr).trans ?_⟩
    rw [Int.cast_natCast, abs_of_nonpos (by linarith), abs_of_nonpos (by linarith)]
    linarith

section
variable {f m n N rm : Nat} {neg x : Bool} {e q : Int}

theorem RoundsTo.none_between_units (h : RoundsTo rm neg (inUnits f m e) N x) (hm : m ≠ 0) (hg : OnGrid f n q) (b : Bool) :
    let Z := (FVal.fin b n q).rat / 2 ^ gridExp f m e
    ¬ (inUnits f m e < Z ∧ Z < N) ∧ ¬ ((N : ℚ) < Z ∧ Z < inUnits f m e) ∧ (rm = 0 → |(N : ℚ) - inUnits f m e| ≤ |Z - inUnits f m e|) := by
  have hunit : (0 : ℚ) < 2 ^ gridExp f m e := by positivity
  refine h.none_between ?_
  rcases hg.in_units b m e with ⟨j, hj⟩ | ⟨hne, hlt⟩
  · exact .inl ⟨j, by rw [hj, mul_div_cancel_right₀ _ hunit.ne']⟩
  · refine .inr ⟨2 ^ manBits f, by push_cast; rwa [div_lt_iff₀ hunit], ?_, h.le_units hm hne⟩
    push_cast
    exact le_inUnits f e hm hne

/-- A magnitude no larger than a value of the format is rounded to one no larger than it. -/
theorem RoundsTo.le_of_onGrid (h : RoundsTo rm neg (inUnits f m e) N x) (hm : m ≠ 0) (hg : OnGrid f n q) (hle : (m : ℚ) * 2 ^ e ≤ n * 2 ^ q) :
    (N : ℚ) * 2 ^ gridExp f m e ≤ n * 2 ^ q := by
  have hunit : (0 : ℚ) < 2 ^ gridExp f m e := by positivity
  have hval : (FVal.fin false n q).rat = n * 2 ^ q := by simp [FVal.rat]
  obtain ⟨hno, -, -⟩ := h.none_between_units hm hg false
  rw [hval] at hno
  rw [← inUnits_mul f m e, ← le_div_iff₀ hunit] at hle
  rw [← le_div_iff₀ hunit]
  rcases hle.lt_or_eq with hlt | heq
  · exact not_lt.1 fun h => hno ⟨hlt, h⟩
  · -- the magnitude is that value of the format: it is a whole number of units
    rcases hg.in_units false m e with ⟨j, hj⟩ | ⟨hne, hlt⟩
    · rw [← hval, hj, mul_div_cancel_right₀ _ hunit.ne'] at heq
      have hnear := h.near
      rw [heq, abs_lt] at hnear
      have : (N : Int) < j + 1 := by exact_mod_cast (by linarith : (N : ℚ) < j + 1)
      rw [← hval, hj, mul_div_cancel_right₀ _ hunit.ne']
      exact_mod_cast Int.lt_add_one_iff.1 this
    · have := le_inUnits f e hm hne
      rw [hval, ← div_lt_iff₀ hunit] at hlt
      linarith

/-- The largest finite value lies on the grid. -/
theorem OnGrid.max (hf : f ≤ 5) : OnGrid f (maxFin f).1 (maxFin f).2 := by
  obtain ⟨-, hmin, hmax1, -, hlast⟩ := format_limits f hf
  exact ⟨by split at hlast <;> omega, hmin, fun h => absurd h (not_lt.2 hmax1)⟩

/-- A magnitude of the grid no larger than the format's largest value does not overflow. -/
theorem OnGrid.not_overflows (hg : OnGrid f n q) (hf : f ≤ 5) (hle : (n : ℚ) * 2 ^ q ≤ (maxFin f).1 * 2 ^ (maxFin f).2) : overflows f n q = false := by
  obtain ⟨-, hmin, -, -, hlast⟩ := format_limits f hf
  rw [overflows_eq_false]
  rcases lt_trichotomy q (maxFin f).2 with hlt | heq | hgt
  · exact .inl hlt
  · rw [heq, mul_le_mul_iff_left₀ (by positivity)] at hle
    exact .inr ⟨heq, by exact_mod_cast hle⟩
  · exfalso
    have hn : 2 ^ manBits f ≤ n := not_lt.1 fun h => by have := hg.normal h; omega
    have hmaxlt : ((maxFin f).1 : ℚ) < 2 ^ (manBits f + 1) := by
      have : (maxFin f).1 < 2 ^ (manBits f + 1) := by split at hlast <;> omega
      exact_mod_cast this
    have : (maxFin f).1 * (2 : ℚ) ^ (maxFin f).2 < n * 2 ^ q :=
      calc (maxFin f).1 * (2 : ℚ) ^ (maxFin f).2 < 2 ^ (manBits f + 1) * 2 ^ (maxFin f).2 := mul_lt_mul_of_pos_right hmaxlt (by positivity)
        _ = 2 ^ manBits f * 2 ^ ((maxFin f).2 + 1) := by rw [zpow_add_one₀ (by norm_num), pow_succ]; ring
        _ ≤ 2 ^ manBits f * 2 ^ q := mul_le_mul_of_nonneg_left (zpow_le_zpow_right₀ (by norm_num) hgt) (by positivity)
        _ ≤ n * 2 ^ q := mul_le_mul_of_nonneg_right (by exact_mod_cast hn) (by positivity)
    linarith

end

/-- The rounding of a magnitude within the range of the format: a whole number of its units, as the mode says; NX where it is not the magnitude, and else
no flag. -/
theorem roundF_within {f m : Nat} (rm : Nat) (neg : Bool) {e : Int} (hf : f ≤ 5) (hm : m ≠ 0) (hle : (m : ℚ) * 2 ^ e ≤ (maxFin f).1 * 2 ^ (maxFin f).2) :
    let r := roundF f rm (.fin neg m e)
    ∃ N x, RoundsTo rm neg (inUnits f m e) N x ∧ r.code < 2 ^ fmtWidth f ∧ (decodeF f r.code).nonFinite = false ∧
      (decodeF f r.code).rat = (if neg then -1 else 1) * N * 2 ^ gridExp f m e ∧ (r.flags.getLsbD 4 = true ↔ x = false) ∧ (x = true → r.flags = 0) := by
  obtain ⟨N, hround, hval, hg⟩ := toGrid_roundsTo f rm neg e hm
  have ho := hg.not_overflows hf (hval ▸ hround.le_of_onGrid hm (OnGrid.max hf) hle)
  dsimp only
  rw [roundF_fin f rm neg e hm, ho, if_neg Bool.false_ne_true]
  obtain ⟨hcode, hdec⟩ := decodeF_gridCode neg hf hg ho
  refine ⟨N, _, hround, hcode, by rw [hdec]; rfl, ?_, ?_, fun hx => by rw [hx]; rfl⟩
  · rw [rat_gridCode neg hf hg ho, FVal.rat, mul_assoc, hval, mul_assoc]
  · cases (toGrid f rm neg m e).2.2 with
    | true => simp
    | false =>
      simp only [Bool.false_eq_true, if_false, iff_true]
      split <;> decide

/-- A magnitude of the grid is its own grid point. -/
theorem OnGrid.gridExp_eq {f n : Nat} {q : Int} (h : OnGrid f n q) (hn : n ≠ 0) : gridExp f n q = q := by
  obtain ⟨hle, hlt, hone⟩ := bitLen_bounds hn
  have hfine := h.finest
  have hlen : bitLen n ≤ manBits f + 1 := by
    have := lt_of_le_of_lt hle h.bits
    have := (Nat.pow_lt_pow_iff_right (by norm_num : 1 < 2)).1 this
    omega
  unfold gridExp
  rcases lt_or_ge n (2 ^ manBits f) with hsub | hnorm
  · have := h.normal hsub
    omega
  · have : manBits f < bitLen n := (Nat.pow_lt_pow_iff_right (by norm_num : 1 < 2)).1 (lt_of_le_of_lt hnorm hlt)
    omega

theorem OnGrid.le_max {f n : Nat} {q : Int} (h : OnGrid f n q) (hf : f ≤ 5) (ho : overflows f n q = false) :
    (n : ℚ) * 2 ^ q ≤ (maxFin f).1 * 2 ^ (maxFin f).2 := by
  obtain ⟨-, -, hmax1, -⟩ := format_limits f hf
  have hbits : (n : ℚ) < 2 ^ (manBits f + 1) := by exact_mod_cast h.bits
  rcases overflows_eq_false.1 ho with hlt | ⟨heq, hle⟩
  · calc (n : ℚ) * 2 ^ q ≤ 2 ^ (manBits f + 1) * 2 ^ q := mul_le_mul_of_nonneg_right hbits.le (by positivity)
      _ = 2 ^ manBits f * 2 ^ (q + 1) := by rw [zpow_add_one₀ (by norm_num), pow_succ]; ring
      _ ≤ 2 ^ manBits f * 2 ^ (maxFin f).2 := mul_le_mul_of_nonneg_left (zpow_le_zpow_right₀ (by norm_num) hlt) (by positivity)
      _ ≤ (maxFin f).1 * 2 ^ (maxFin f).2 := mul_le_mul_of_nonneg_right (by exact_mod_cast hmax1) (by positivity)
  · rw [heq]; exact mul_le_mul_of_nonneg_right (by exact_mod_cast hle) (by positivity)

/-- A value of the format is rounded to its own code, with no flag. -/
theorem roundF_onGrid {f n : Nat} {q : Int} (rm : Nat) (neg : Bool) (h : OnGrid f n q) (ho : overflows f n q = false) :
    roundF f rm (.fin neg n q) = ⟨gridCode f neg n q, 0⟩ := by
  rcases Nat.eq_zero_or_pos n with rfl | hpos
  · rw [roundF_zero, h.normal (by positivity)]
  · have hgrid : toGrid f rm neg n q = (n, q, true) := by
      have he := h.gridExp_eq hpos.ne'
      unfold toGrid
      dsimp only
      rw [show max (q + (bitLen n : Int) - 1 - (manBits f : Int)) (minExp f) = gridExp f n q from rfl, he, if_pos le_rfl]
      simp
    rw [roundF_fin f rm neg q hpos.ne', hgrid, ho, if_neg Bool.false_ne_true]
    rfl

theorem FVal.rat_units (neg : Bool) (f m : Nat) (e : Int) :
    (FVal.fin neg m e).rat = (if neg then -1 else 1) * (inUnits f m e * 2 ^ gridExp f m e) := by
  rw [inUnits_mul, FVal.rat, mul_assoc]

/-- What a value within range and its rounding are, with their sign, beside the other values of the format. -/
theorem RoundsTo.signed {f m n N rm : Nat} {neg x : Bool} {e q : Int} (h : RoundsTo rm neg (inUnits f m e) N x) (hm : m ≠ 0) (hg : OnGrid f n q) (b : Bool) :
    let v := (FVal.fin neg m e).rat
    let y : ℚ := (if neg then -1 else 1) * N * 2 ^ gridExp f m e
    let z := (FVal.fin b n q).rat
    ¬ (v < z ∧ z < y) ∧ ¬ (y < z ∧ z < v) ∧ (rm = 0 → |y - v| ≤ |z - v|) := by
  have hunit : (0 : ℚ) < 2 ^ gridExp f m e := by positivity
  have hdist : ∀ a c : ℚ, |a * 2 ^ gridExp f m e - c * 2 ^ gridExp f m e| = |a - c| * 2 ^ gridExp f m e := fun a c => by
    rw [← sub_mul, abs_mul, abs_of_pos hunit]
  obtain ⟨hup, hdown, hnear⟩ := h.none_between_units hm hg (b != neg)
  generalize hZ : (FVal.fin (b != neg) n q).rat / 2 ^ gridExp f m e = Z at hup hdown hnear
  rw [div_eq_iff hunit.ne'] at hZ
  have hz : (FVal.fin b n q).rat = (if neg then -1 else 1) * (Z * 2 ^ gridExp f m e) := by
    rw [← hZ]; cases b <;> cases neg <;> simp [FVal.rat]
  dsimp only
  rw [FVal.rat_units neg f m e, hz, mul_assoc]
  cases neg with
  | false =>
    simp only [Bool.false_eq_true, if_false, one_mul, mul_lt_mul_iff_left₀ hunit, hdist, mul_le_mul_iff_left₀ hunit]
    exact ⟨hup, hdown, hnear⟩
  | true =>
    simp only [if_true, neg_mul, one_mul, neg_lt_neg_iff, mul_lt_mul_iff_left₀ hunit, neg_sub_neg, hdist, mul_le_mul_iff_left₀ hunit]
    exact ⟨fun ⟨h1, h2⟩ => hdown ⟨h2, h1⟩, fun ⟨h1, h2⟩ => hup ⟨h2, h1⟩, fun hr => by rw [abs_sub_comm _ (N : ℚ), abs_sub_comm _ Z]; exact hnear hr⟩

theorem OnGrid.zero (f : Nat) : OnGrid f 0 (minExp f) := ⟨by positivity, le_rfl, fun _ => rfl⟩

theorem not_overflows_zero {f : Nat} (hf : f ≤ 5) : overflows f 0 (minExp f) = false :=
  (OnGrid.zero f).not_overflows hf (by rw [Nat.cast_zero, zero_mul]; positivity)

theorem roundingCorrect : RoundingCorrect := by
  intro f rm v hf _ hfin hle
  obtain ⟨neg, m, e, rfl⟩ := FVal.finite_iff.1 hfin
  rw [FVal.abs_rat] at hle
  dsimp only
  rcases Nat.eq_zero_or_pos m with rfl | hpos
  · -- a zero is a value of the format
    obtain ⟨hcode, hdec⟩ := decodeF_gridCode neg hf (OnGrid.zero f) (not_overflows_zero hf)
    have hy : (decodeF f (gridCode f neg 0 (minExp f))).rat = 0 := by
      rw [rat_gridCode neg hf (OnGrid.zero f) (not_overflows_zero hf)]; exact (FVal.rat_fin_eq_zero ..).2 rfl
    have hv : (FVal.fin neg 0 e).rat = 0 := (FVal.rat_fin_eq_zero ..).2 rfl
    rw [roundF_zero, hv, hy]
    refine ⟨hcode, by rw [hdec]; rfl, fun c _ _ => ⟨fun h => lt_asymm h.1 h.2, fun h => lt_asymm h.1 h.2, fun _ => by simp⟩, fun _ => le_rfl,
      fun _ => le_rfl, fun _ => le_rfl, by simp⟩
  · obtain ⟨N, x, hround, hcode, hyfin, hy, hnx, -⟩ := roundF_within rm neg hf hpos.ne' hle
    have hunit : (0 : ℚ) < 2 ^ gridExp f m e := by positivity
    have hv := FVal.rat_units neg f m e
    refine ⟨hcode, hyfin, fun c hc hzfin => ?_, fun hr => ?_, fun hr => ?_, fun hr => ?_, ?_⟩
    · obtain ⟨b, n, q, hz, hg, -⟩ := finite_code hf hc hzfin
      rw [hy, hz]
      exact hround.signed hpos.ne' hg b
    · have := hround.down (.inl hr)
      rw [FVal.abs_rat, ← inUnits_mul f m e, hy, mul_assoc, abs_mul, abs_of_nonneg (show (0 : ℚ) ≤ N * 2 ^ gridExp f m e by positivity)]
      rw [show |(if neg then -1 else 1 : ℚ)| = 1 by cases neg <;> simp, one_mul]
      exact mul_le_mul_of_nonneg_right this hunit.le
    · rw [hv, hy, mul_assoc]
      cases neg with
      | false => simpa using mul_le_mul_of_nonneg_right (hround.up (.inl ⟨hr, rfl⟩)) hunit.le
      | true => simpa using mul_le_mul_of_nonneg_right (hround.down (.inr (.inl ⟨hr, rfl⟩))) hunit.le
    · rw [hv, hy, mul_assoc]
      cases neg with
      | false => simpa using mul_le_mul_of_nonneg_right (hround.down (.inr (.inr ⟨hr, rfl⟩))) hunit.le
      | true => simpa using mul_le_mul_of_nonneg_right (hround.up (.inr ⟨hr, rfl⟩)) hunit.le
    · have hsame : (decodeF f (roundF f rm (.fin neg m e)).code).rat = (FVal.fin neg m e).rat ↔ (N : ℚ) = inUnits f m e := by
        rw [hv, hy, mul_assoc, mul_right_inj' (by cases neg <;> simp), mul_left_inj' hunit.ne']
      rw [hnx, ne_eq, hsame, ← hround.exact_iff, Bool.not_eq_true]

theorem formatRoundTrip : FormatRoundTrip := by
  intro f hf c hc rm _ hfin
  obtain ⟨neg, n, q, hval, hg, ho, hcode⟩ := finite_code hf hc hfin
  dsimp only
  rw [hval, roundF_onGrid rm neg hg ho]
  refine ⟨rfl, ?_⟩
  rcases hcode with h | ⟨h5, h8, -, h0⟩
  · exact .inl h
  · exact .inr ⟨h5, h8, h0⟩

end Sys2Proof.Machine
end

section
/-! PROOFS. The special functions (O23): special cases, signs, the bound of ftanh, and the exact cases of fexp2 and flog2. -/

namespace Sys2Proof.Machine

/-! ## The formats of the special functions (R132, R140) -/

theorem special_limits : ∀ f ≤ 2, f ≤ 5 ∧ f ≠ 5 ∧ f ≠ 3 ∧ hasInf f = true ∧ fmtWidth f - 1 = expBits f + manBits f ∧ 7 ≤ manBits f ∧ minExp f ≤ -(manBits f : Int) ∧
    -149 ≤ minExp f ∧ (maxFin f).2 ≤ 120 ∧ (maxFin f).2 + manBits f ≤ 127 ∧ 0 < (maxFin f).2 := by decide

/-- The code of 1 and of −1. -/
theorem code_one : ∀ f ≤ 2, ∀ neg : Bool, ((roundF f 0 (.fin neg 1 0)).code : Int) = biasOf f * 2 ^ manBits f + if neg then 2 ^ (fmtWidth f - 1) else 0 := by decide

/-- 1 is a value of the format. -/
theorem onGrid_one {f : Nat} (hf : f ≤ 2) : OnGrid f (2 ^ manBits f) (-(manBits f : Int)) := by
  obtain ⟨-, -, -, -, -, -, hmin, -⟩ := special_limits f hf
  exact ⟨Nat.pow_lt_pow_right (by norm_num) (Nat.lt_succ_self _), hmin, fun h => absurd h (lt_irrefl _)⟩

theorem one_eq_units (f : Nat) : ((2 ^ manBits f : Nat) : ℚ) * 2 ^ (-(manBits f : Int)) = 1 := by
  rw [zpow_neg, zpow_natCast]; push_cast; exact mul_inv_cancel₀ (by positivity)

/-- A value of magnitude 1 at most is rounded to one. -/
theorem roundF_le_one {f m : Nat} (rm : Nat) (neg : Bool) {e : Int} (hf : f ≤ 2) (hle : (m : ℚ) * 2 ^ e ≤ 1) :
    |(decodeF f (roundF f rm (.fin neg m e)).code).rat| ≤ 1 := by
  obtain ⟨hf5, -, -, -, -, -, -, -, -, -, hmaxpos⟩ := special_limits f hf
  obtain ⟨-, -, hmax1, -⟩ := format_limits f hf5
  rcases Nat.eq_zero_or_pos m with rfl | hpos
  · rw [roundF_zero, rat_gridCode neg hf5 (OnGrid.zero f) (not_overflows_zero hf5), (FVal.rat_fin_eq_zero ..).2 rfl, abs_zero]
    exact zero_le_one
  · have hmax : (1 : ℚ) ≤ (maxFin f).1 * 2 ^ (maxFin f).2 := by
      have h1 : (1 : ℚ) ≤ (maxFin f).1 := by exact_mod_cast Nat.one_le_two_pow.trans hmax1
      exact one_le_mul_of_one_le_of_one_le h1 (one_le_zpow₀ (by norm_num) hmaxpos.le)
    obtain ⟨N, x, hround, -, -, hrat, -⟩ := roundF_within rm neg hf5 hpos.ne' (hle.trans hmax)
    have hN := hround.le_of_onGrid hpos.ne' (onGrid_one hf) (by rwa [one_eq_units])
    rw [one_eq_units] at hN
    rw [hrat, mul_assoc, abs_mul, abs_of_nonneg (show (0 : ℚ) ≤ N * 2 ^ gridExp f m e by positivity)]
    rw [show |(if neg then -1 else 1 : ℚ)| = 1 by cases neg <;> simp, one_mul]
    exact hN

/-! ## Signs (R141) -/

theorem xor_sign {S c : Nat} (h : c < 2 ^ S) : (2 ^ S + c) ^^^ 2 ^ S = c ∧ c ^^^ 2 ^ S = 2 ^ S + c := by
  have hor : 2 ^ S + c = 2 ^ S ||| c := by simpa using Nat.two_pow_add_eq_or_of_lt h 1
  have hxor : c ^^^ 2 ^ S = 2 ^ S + c := by
    rw [hor]
    apply Nat.eq_of_testBit_eq
    intro i
    rw [Nat.testBit_xor, Nat.testBit_or, Nat.testBit_two_pow]
    by_cases hi : S = i
    · subst hi; simp [Nat.testBit_lt_two_pow h]
    · simp [hi]
  exact ⟨by rw [← hxor, Nat.xor_assoc, Nat.xor_self, Nat.xor_zero], hxor⟩

/-- A magnitude below the sign bit, with either sign. -/
theorem signBit_not {f c : Nat} (neg : Bool) (h : c < 2 ^ (expBits f + manBits f)) :
    signBit f (!neg) + c = (signBit f neg + c) ^^^ 2 ^ (expBits f + manBits f) := by
  obtain ⟨hdown, hup⟩ := xor_sign h
  cases neg <;> simp [signBit, hdown, hup]

theorem gridCode_not {f n : Nat} {q : Int} (neg : Bool) (hf : f ≤ 2) (hg : OnGrid f n q) (ho : overflows f n q = false) :
    gridCode f (!neg) n q = gridCode f neg n q ^^^ 2 ^ (expBits f + manBits f) := by
  obtain ⟨hf5, hne5, -⟩ := special_limits f hf
  obtain ⟨hwidth, -⟩ := format_limits f hf5
  have hlt := (decodeF_gridCode true hf5 hg ho).1
  have hcode : ∀ b, gridCode f b n q = signBit f b + if n < 2 ^ manBits f then n else (q - minExp f + 1).toNat * 2 ^ manBits f + (n - 2 ^ manBits f) := fun b => by
    simp [gridCode, hne5]
  rw [hcode, hwidth, pow_succ] at hlt
  simp only [signBit, if_true] at hlt
  rw [hcode, hcode]
  exact signBit_not neg (by omega)

theorem infCode_not {f : Nat} (neg : Bool) (hf : f ≤ 2) : infCode f (!neg) = infCode f neg ^^^ 2 ^ (expBits f + manBits f) := by
  obtain ⟨-, hne5, hne3, -⟩ := special_limits f hf
  have hcode : ∀ b, infCode f b = signBit f b + (2 ^ expBits f - 1) * 2 ^ manBits f := fun b => by simp [infCode, hne5, hne3]
  rw [hcode, hcode]
  refine signBit_not neg ?_
  rw [pow_add]
  exact Nat.mul_lt_mul_of_pos_right (Nat.sub_lt (by positivity) one_pos) (by positivity)

/-- Under rne a value and its negative are rounded to codes that differ in the sign alone. -/
theorem roundF_not {f : Nat} (neg : Bool) (m : Nat) (e : Int) (hf : f ≤ 2) :
    (roundF f 0 (.fin (!neg) m e)).code = (roundF f 0 (.fin neg m e)).code ^^^ 2 ^ (expBits f + manBits f) := by
  obtain ⟨hf5, -⟩ := special_limits f hf
  rcases Nat.eq_zero_or_pos m with rfl | hpos
  · exact gridCode_not neg hf (OnGrid.zero f) (not_overflows_zero hf5)
  · have hgrid : toGrid f 0 (!neg) m e = toGrid f 0 neg m e := rfl
    obtain ⟨-, -, -, hg⟩ := toGrid_roundsTo f 0 neg e hpos.ne'
    rw [roundF_fin f 0 _ e hpos.ne', roundF_fin f 0 _ e hpos.ne', hgrid]
    cases ho : overflows f (toGrid f 0 neg m e).1 (toGrid f 0 neg m e).2.1 with
    | true => exact infCode_not neg hf
    | false => exact gridCode_not neg hf hg ho

/-! ## A result within the bound (R140) -/

/-- The whole units of the format below an approximation, where the rest lies (0 below one half, 1 at it, 2 above), and whether the whole units are the
exact value. -/
def Approx.units (a : Approx) (f : Nat) : Nat × Nat × Bool :=
  let q := gridExp f a.m a.e
  let d := (q - a.e).toNat
  let m := if q < a.e then a.m * 2 ^ (a.e - q).toNat else a.m
  (m / 2 ^ d, if 2 * (m % 2 ^ d) < 2 ^ d then 0 else if a.exact && 2 * (m % 2 ^ d) == 2 ^ d then 1 else 2, a.exact && m % 2 ^ d == 0)

/-- The units that an offset of the device makes of them, within the bound. -/
def Approx.chosen (a : Approx) (f bound : Nat) (off : Int) (fixed : Bool) : Nat :=
  let (n, half, exact) := a.units f
  let (lo, near, hi) := admitted n half exact bound
  if exact && fixed then n else (max (lo : Int) (min (hi : Int) ((near : Int) + off))).toNat

/-- … but no more than 1 where `top` says so. -/
def Approx.moved (a : Approx) (f bound : Nat) (off : Int) (fixed top : Bool) : Nat :=
  if top && FVal.lt (.fin false 1 0) (.fin false (a.chosen f bound off fixed) (gridExp f a.m a.e)) then 2 ^ (-(gridExp f a.m a.e)).toNat
  else a.chosen f bound off fixed

/-- Above the binade of the exact value every second multiple alone is a code. -/
def evened (f c : Nat) : Nat := if 2 ^ (manBits f + 1) < c then c - c % 2 else c

theorem evened_le (f c : Nat) : evened f c ≤ c := by unfold evened; split <;> omega

/-- The flags that a result has beside those of its rounding. -/
def Approx.noted (a : Approx) (f c : Nat) : BitVec 5 :=
  let same := (a.units f).2.2 && c == (a.units f).1
  (if same then 0 else fNX) ||| (if !same && decide (gridExp f a.m a.e = minExp f) && decide (c < 2 ^ manBits f) then fUF else 0)

theorem Approx.result_eq (a : Approx) (f bound : Nat) (off : Int) (fixed top : Bool) (hm : a.m ≠ 0) :
    let c := evened f (a.moved f bound off fixed top)
    let r := roundF f 0 (.fin a.neg c (gridExp f a.m a.e))
    (a.result f bound off fixed top).code = r.code ∧ (a.result f bound off fixed top).flags = r.flags ||| a.noted f c := by
  unfold Approx.result
  rw [if_neg (by simpa using hm)]
  refine ⟨rfl, ?_⟩
  rw [Approx.noted, ← BitVec.or_assoc]
  rfl

/-- A result within the bound keeps the sign of its approximation: the offset does not see it (R141). -/
theorem Approx.result_not {f : Nat} (a : Approx) (bound : Nat) (off : Int) (fixed top : Bool) (hf : f ≤ 2) :
    (Approx.result { a with neg := !a.neg } f bound off fixed top).code = (a.result f bound off fixed top).code ^^^ 2 ^ (expBits f + manBits f) := by
  by_cases hm : a.m = 0
  · rw [Approx.result, Approx.result, if_pos (by simpa using hm), if_pos (by simpa using hm)]
    exact roundF_not _ _ _ hf
  · rw [(Approx.result_eq { a with neg := !a.neg } f bound off fixed top hm).1, (a.result_eq f bound off fixed top hm).1]
    exact roundF_not _ _ _ hf

/-- An exact approximation that is a whole number of units. -/
theorem Approx.units_of_whole {a : Approx} {f N : Nat} (hx : a.exact = true) (hN : inUnits f a.m a.e = N) :
    (a.units f).1 = N ∧ (a.units f).2.2 = true := by
  rw [inUnits] at hN
  simp only [Approx.units, hx, Bool.true_and, beq_iff_eq]
  rcases le_or_gt (gridExp f a.m a.e) a.e with hle | hgt
  · have hN' : N = a.m * 2 ^ (a.e - gridExp f a.m a.e).toNat := by
      rw [← Int.toNat_of_nonneg (sub_nonneg.2 hle), zpow_natCast] at hN
      exact_mod_cast hN.symm
    have hm : (if gridExp f a.m a.e < a.e then a.m * 2 ^ (a.e - gridExp f a.m a.e).toNat else a.m) = N := by
      split
      · exact hN'.symm
      · rw [hN', show (a.e - gridExp f a.m a.e).toNat = 0 by omega, pow_zero, mul_one]
    rw [hm, show (gridExp f a.m a.e - a.e).toNat = 0 by omega, pow_zero]
    exact ⟨Nat.div_one N, Nat.mod_one N⟩
  · have hm : a.m = N * 2 ^ (gridExp f a.m a.e - a.e).toNat := by
      have hexp : a.e - gridExp f a.m a.e = -((gridExp f a.m a.e - a.e).toNat : Int) := by omega
      rw [hexp, zpow_neg, zpow_natCast, ← div_eq_mul_inv, div_eq_iff (by positivity)] at hN
      exact_mod_cast hN
    rw [if_neg hgt.not_gt]
    generalize (gridExp f a.m a.e - a.e).toNat = d at hm ⊢
    rw [hm]
    exact ⟨Nat.mul_div_cancel _ (by positivity), Nat.mul_mod_left ..⟩

/-- An exact value that is a whole number of units within range is returned as it is, with no flag. -/
theorem Approx.result_of_whole {a : Approx} {f N : Nat} (bound : Nat) (off : Int) (hf : f ≤ 5) (hm : a.m ≠ 0) (hx : a.exact = true)
    (hN : inUnits f a.m a.e = N) (hle : (a.m : ℚ) * 2 ^ a.e ≤ (maxFin f).1 * 2 ^ (maxFin f).2) :
    (decodeF f (a.result f bound off true false).code).rat = (FVal.fin a.neg a.m a.e).rat ∧ (a.result f bound off true false).flags = 0 := by
  obtain ⟨hn, hexact⟩ := a.units_of_whole hx hN
  have hlt : N < 2 ^ (manBits f + 1) := by have := inUnits_lt f a.e hm; rw [hN] at this; exact_mod_cast this
  have hg : OnGrid f N (gridExp f a.m a.e) := by
    refine ⟨hlt, gridExp_finest .., fun hsub => by_contra fun hne => ?_⟩
    have := le_inUnits f a.e hm hne
    rw [hN] at this
    exact absurd hsub (not_lt.2 (by exact_mod_cast this))
  have ho := hg.not_overflows hf (by rwa [← hN, inUnits_mul])
  have hmoved : a.moved f bound off true false = N := by simp [Approx.moved, Approx.chosen, hexact, hn]
  have heven : evened f N = N := if_neg hlt.not_gt
  have hnoted : a.noted f N = 0 := by simp [Approx.noted, hexact, hn]
  obtain ⟨hcode, hflags⟩ := a.result_eq f bound off true false hm
  rw [hmoved, heven, roundF_onGrid 0 _ hg ho] at hcode hflags
  refine ⟨?_, by rw [hflags, hnoted]; exact BitVec.or_zero⟩
  rw [hcode, rat_gridCode a.neg hf hg ho, FVal.rat_units a.neg f a.m a.e, hN, FVal.rat, mul_assoc]

/-! ## ftanh (R140) -/

theorem Approx.moved_top_le (a : Approx) {f : Nat} (bound : Nat) (off : Int) (fixed : Bool) (hq : gridExp f a.m a.e ≤ 0) :
    (a.moved f bound off fixed true : ℚ) * 2 ^ gridExp f a.m a.e ≤ 1 := by
  unfold Approx.moved
  simp only [Bool.true_and]
  split
  next =>
    rw [Nat.cast_pow, Nat.cast_ofNat, ← zpow_natCast, Int.toNat_of_nonneg (by omega), ← zpow_add₀ (by norm_num), neg_add_cancel, zpow_zero]
  next h =>
    rw [FVal.lt_finite rfl rfl, not_lt] at h
    simpa [FVal.rat] using h

/-- A result of which 1 is not exceeded, of an approximation that does not exceed it. -/
theorem Approx.result_top_le_one {a : Approx} {f : Nat} (bound : Nat) (off : Int) (fixed : Bool) (hf : f ≤ 2) (hle : (a.m : ℚ) * 2 ^ a.e ≤ 1) :
    |(decodeF f (a.result f bound off fixed true).code).rat| ≤ 1 := by
  obtain ⟨-, -, -, -, -, -, hmin, -⟩ := special_limits f hf
  by_cases hm : a.m = 0
  · rw [Approx.result, if_pos (by simpa using hm)]
    exact roundF_le_one _ _ hf (by simp)
  · have hq : gridExp f a.m a.e ≤ 0 := by
      obtain ⟨hlen, -, hone⟩ := bitLen_bounds hm
      have hpow : (2 : ℚ) ^ (((bitLen a.m - 1 : Nat) : Int) + a.e) ≤ 2 ^ (0 : Int) := by
        rw [zpow_add₀ (by norm_num), zpow_natCast, zpow_zero]
        exact (mul_le_mul_of_nonneg_right (by exact_mod_cast hlen) (by positivity)).trans hle
      have := (zpow_le_zpow_iff_right₀ (by norm_num : (1 : ℚ) < 2)).1 hpow
      unfold gridExp
      omega
    rw [(a.result_eq f bound off fixed true hm).1]
    refine roundF_le_one _ _ hf (le_trans ?_ (a.moved_top_le bound off fixed hq))
    exact mul_le_mul_of_nonneg_right (by exact_mod_cast evened_le f _) (by positivity)

/-- The approximation of tanh lies within 1. -/
theorem tanhApprox_le_one {m : Nat} (e : Int) (hm : m ≠ 0) : ((tanhApprox m e).m : ℚ) * 2 ^ (tanhApprox m e).e ≤ 1 := by
  have hbelow : ∀ (m : Nat) (e : Int), (m : ℚ) * 2 ^ e ≤ 1 → ((below m e).m : ℚ) * 2 ^ (below m e).e ≤ 1 := fun m e h => by
    have hsub : ((m * 2 ^ 64 - 1 : Nat) : ℚ) ≤ m * 2 ^ 64 := by exact_mod_cast Nat.sub_le ..
    have hexp : (2 : ℚ) ^ e = 2 ^ 64 * 2 ^ (e - 64) := by
      rw [← zpow_natCast, ← zpow_add₀ (by norm_num)]; congr 1; push_cast; ring
    calc ((m * 2 ^ 64 - 1 : Nat) : ℚ) * 2 ^ (e - 64) ≤ m * 2 ^ 64 * 2 ^ (e - 64) := mul_le_mul_of_nonneg_right hsub (by positivity)
      _ = m * 2 ^ e := by rw [hexp]; ring
      _ ≤ 1 := h
  unfold tanhApprox
  split
  next ht =>
    obtain ⟨-, hlt, -⟩ := bitLen_bounds hm
    refine hbelow m e ?_
    have htiny : e + (bitLen m : Int) ≤ -40 := of_decide_eq_true ht
    calc (m : ℚ) * 2 ^ e ≤ 2 ^ bitLen m * 2 ^ e := mul_le_mul_of_nonneg_right (by exact_mod_cast hlt.le) (by positivity)
      _ = 2 ^ ((bitLen m : Int) + e) := by rw [zpow_add₀ (by norm_num), zpow_natCast]
      _ ≤ 1 := zpow_le_one_of_nonpos₀ (by norm_num) (by omega)
  next =>
    split
    · exact hbelow 1 0 (by norm_num)
    · dsimp only
      generalize fx * fx / expFix (2 * toFix m e - 2 * toFix m e / ln2Fix * ln2Fix) / 2 ^ (2 * toFix m e / ln2Fix) = t
      have hfx : 0 < fx := by unfold fx; positivity
      have hle : (fx - t) * fx / (fx + t) ≤ fx := Nat.div_le_of_le_mul (Nat.mul_le_mul_right _ (by omega))
      have hleq : (((fx - t) * fx / (fx + t) : Nat) : ℚ) ≤ 2 ^ 320 := by exact_mod_cast hle
      calc (((fx - t) * fx / (fx + t) : Nat) : ℚ) * 2 ^ (-320 : Int) ≤ 2 ^ 320 * 2 ^ (-320 : Int) := mul_le_mul_of_nonneg_right hleq (by positivity)
        _ = 1 := by rw [← zpow_natCast, ← zpow_add₀ (by norm_num)]; norm_num

/-! ## fexp2 and flog2 where the value is exact (R140) -/

/-- The powers of two among the values of a format. -/
theorem power_bounds {f n : Nat} {q k : Int} (hf : f ≤ 2) (hg : OnGrid f n q) (ho : overflows f n q = false) (h : (n : ℚ) * 2 ^ q = 2 ^ k) :
    -149 ≤ k ∧ k ≤ 127 := by
  obtain ⟨hf5, -, -, -, -, -, -, hmin, -, hmax, -⟩ := special_limits f hf
  have hq : q ≤ (maxFin f).2 := by rw [overflows_eq_false] at ho; omega
  have hfine := hg.finest
  constructor
  · have hn : 1 ≤ n := Nat.one_le_iff_ne_zero.2 fun h0 => by rw [h0, Nat.cast_zero, zero_mul] at h; exact absurd h.symm (by positivity)
    have : (2 : ℚ) ^ q ≤ 2 ^ k := by
      rw [← h]; exact le_mul_of_one_le_left (by positivity) (by exact_mod_cast hn)
    have := (zpow_le_zpow_iff_right₀ (by norm_num : (1 : ℚ) < 2)).1 this
    omega
  · have : (2 : ℚ) ^ k < 2 ^ (((manBits f + 1 : Nat) : Int) + q) := by
      rw [← h, zpow_add₀ (by norm_num), zpow_natCast]
      exact mul_lt_mul_of_pos_right (by exact_mod_cast hg.bits) (by positivity)
    have := (zpow_lt_zpow_iff_right₀ (by norm_num : (1 : ℚ) < 2)).1 this
    push_cast at this
    omega

/-- A magnitude that is a whole number, and how the model writes that number. -/
theorem whole_magnitude {m n : Nat} {e : Int} (h : (m : ℚ) * 2 ^ e = n) :
    (0 ≤ e ∨ m % 2 ^ (-e).toNat = 0) ∧ (if 0 ≤ e then (m : Int) * 2 ^ e.toNat else (m : Int) / 2 ^ (-e).toNat) = n := by
  rcases le_or_gt 0 e with he | he
  · rw [← Int.toNat_of_nonneg he, zpow_natCast] at h
    exact ⟨.inl he, by rw [if_pos he]; exact_mod_cast h⟩
  · have hm : m = n * 2 ^ (-e).toNat := by
      have hexp : e = -((-e).toNat : Int) := by omega
      rw [hexp, zpow_neg, zpow_natCast, ← div_eq_mul_inv, div_eq_iff (by positivity)] at h
      exact_mod_cast h
    rw [if_neg (not_le.2 he)]
    generalize (-e).toNat = d at hm ⊢
    rw [hm]
    exact ⟨.inr (Nat.mul_mod_left ..), by push_cast; exact Int.mul_ediv_cancel _ (by positivity)⟩

theorem exp2Approx_of_whole {neg : Bool} {m : Nat} {e k : Int} (hm : m ≠ 0) (hk : (FVal.fin neg m e).rat = k) (hlo : -149 ≤ k) (hhi : k ≤ 127) :
    exp2Approx neg m e = ⟨false, 1, k, true⟩ := by
  have hmag : (m : ℚ) * 2 ^ e = (k.natAbs : Nat) := by
    rw [← FVal.abs_rat neg, hk, Nat.cast_natAbs, Int.cast_abs]
  have hsmall : e + (bitLen m : Int) - 1 ≤ 8 := by
    obtain ⟨hlen, -, hone⟩ := bitLen_bounds hm
    have hpow : (2 : ℚ) ^ (((bitLen m - 1 : Nat) : Int) + e) ≤ 2 ^ (8 : Int) :=
      calc (2 : ℚ) ^ (((bitLen m - 1 : Nat) : Int) + e) ≤ m * 2 ^ e := by
            rw [zpow_add₀ (by norm_num), zpow_natCast]; exact mul_le_mul_of_nonneg_right (by exact_mod_cast hlen) (by positivity)
        _ ≤ (256 : Nat) := by rw [hmag]; exact_mod_cast (by omega : k.natAbs ≤ 256)
        _ = 2 ^ (8 : Int) := by norm_num
    have := (zpow_le_zpow_iff_right₀ (by norm_num : (1 : ℚ) < 2)).1 hpow
    omega
  have hsign : (if neg then -(k.natAbs : Int) else k.natAbs) = k := by
    have hpos : (0 : ℚ) ≤ m * 2 ^ e := by positivity
    cases neg with
    | true =>
      have : (k : ℚ) ≤ 0 := by rw [← hk]; simpa [FVal.rat] using hpos
      have : k ≤ 0 := by exact_mod_cast this
      simp only [if_true]; omega
    | false =>
      have : (0 : ℚ) ≤ k := by rw [← hk]; simpa [FVal.rat] using hpos
      have : 0 ≤ k := by exact_mod_cast this
      simp only [Bool.false_eq_true, if_false]; omega
  obtain ⟨hwhole, hval⟩ := whole_magnitude hmag
  unfold exp2Approx
  dsimp only
  rw [if_neg (by simp; omega), if_pos (by simpa using hwhole)]
  rw [hval, hsign]

/-- The logarithm of a power of two is its exponent. -/
theorem log2Approx_of_power {m : Nat} {e k : Int} (h : (m : ℚ) * 2 ^ e = 2 ^ k) : log2Approx m e = ⟨decide (k < 0), k.natAbs, 0, true⟩ := by
  have hm : (m : ℚ) = 2 ^ (k - e) := by rw [zpow_sub₀ (by norm_num), eq_div_iff (by positivity), h]
  have hnonneg : 0 ≤ k - e := by
    have hm1 : (1 : ℚ) ≤ m := by
      have : m ≠ 0 := fun h0 => by rw [h0, Nat.cast_zero] at hm; exact absurd hm.symm (by positivity)
      exact_mod_cast Nat.one_le_iff_ne_zero.2 this
    rw [hm, ← zpow_zero (2 : ℚ)] at hm1
    exact (zpow_le_zpow_iff_right₀ (by norm_num : (1 : ℚ) < 2)).1 hm1
  have hpow : m = 2 ^ (k - e).toNat := by
    rw [← Int.toNat_of_nonneg hnonneg, zpow_natCast] at hm
    exact_mod_cast hm
  have hlen : bitLen m - 1 = (k - e).toNat := by
    rw [hpow, bitLen, if_neg (by simp), Nat.log2_two_pow, Nat.add_sub_cancel]
  have hsum : e + ((k - e).toNat : Int) = k := by omega
  unfold log2Approx
  dsimp only
  rw [hlen, if_pos (by simpa using hpow), hsum]

/-! ## The elements of a special function -/

section
variable {f c m : Nat} {low neg : Bool} {e : Int}

/-- The offset of the device is one for both signs where the function is odd or even (R141). -/
theorem specialElem_sin (h : decodeF f c = .fin neg m e) (hm : m ≠ 0) :
    specialElem .sin f low c = Approx.result { trigApprox false m e with neg := (trigApprox false m e).neg != neg } f (if low then 4 else 1)
      (Config.specialUlps Spec.sin.code f low (c % 2 ^ (expBits f + manBits f))) false false := by
  unfold specialElem
  rw [h]
  exact if_neg (by simpa using hm)

theorem specialElem_cos (h : decodeF f c = .fin neg m e) (hm : m ≠ 0) :
    specialElem .cos f low c = (trigApprox true m e).result f (if low then 4 else 1)
      (Config.specialUlps Spec.cos.code f low (c % 2 ^ (expBits f + manBits f))) false false := by
  unfold specialElem
  rw [h]
  exact if_neg (by simpa using hm)

theorem specialElem_tanh (h : decodeF f c = .fin neg m e) (hm : m ≠ 0) :
    specialElem .tanh f low c = Approx.result { tanhApprox m e with neg := neg } f (if low then 4 else 1)
      (Config.specialUlps Spec.tanh.code f low (c % 2 ^ (expBits f + manBits f))) false true := by
  unfold specialElem
  rw [h]
  exact if_neg (by simpa using hm)

theorem specialElem_exp2 (h : decodeF f c = .fin neg m e) (hm : m ≠ 0) :
    specialElem .exp2 f low c = (exp2Approx neg m e).result f (if low then 4 else 1) (Config.specialUlps Spec.exp2.code f low c) true false := by
  unfold specialElem
  rw [h]
  exact if_neg (by simpa using hm)

theorem specialElem_log2 (h : decodeF f c = .fin false m e) (hm : m ≠ 0) :
    specialElem .log2 f low c = (log2Approx m e).result f (if low then 4 else 1) (Config.specialUlps Spec.log2.code f low c) true false := by
  unfold specialElem
  rw [h]
  exact if_neg (by simpa using hm)

/-- Zeros (R140). -/
theorem specialElem_zero (h : decodeF f c = .fin neg 0 e) :
    specialElem .rcp f low c = ⟨infCode f neg, fDZ⟩ ∧ specialElem .rsq f low c = ⟨infCode f neg, fDZ⟩ ∧ specialElem .log2 f low c = ⟨infCode f true, fDZ⟩ ∧
      specialElem .sin f low c = ⟨signBit f neg, 0⟩ ∧ specialElem .tanh f low c = ⟨signBit f neg, 0⟩ ∧
      specialElem .exp2 f low c = ⟨(roundF f 0 (.fin false 1 0)).code, 0⟩ ∧ specialElem .cos f low c = ⟨(roundF f 0 (.fin false 1 0)).code, 0⟩ ∧
      ∀ rm, sqrtElem f rm c = ⟨signBit f neg, 0⟩ := by
  unfold specialElem sqrtElem
  rw [h]
  exact ⟨rfl, rfl, rfl, rfl, rfl, rfl, rfl, fun _ => rfl⟩

/-- Infinities (R140). -/
theorem specialElem_inf (h : decodeF f c = .inf neg) :
    specialElem .rcp f low c = ⟨signBit f neg, 0⟩ ∧ specialElem .exp2 f low c = ⟨if neg then 0 else infCode f false, 0⟩ ∧
      specialElem .sin f low c = ⟨nanCode f, fNV⟩ ∧ specialElem .cos f low c = ⟨nanCode f, fNV⟩ ∧
      specialElem .tanh f low c = ⟨(roundF f 0 (.fin neg 1 0)).code, 0⟩ := by
  unfold specialElem
  rw [h]
  cases neg <;> exact ⟨rfl, rfl, rfl, rfl, rfl⟩

/-- NaNs (R63, R140). -/
theorem specialElem_nan (k : Spec) (h : decodeF f c = .nan) : specialElem k f low c = ⟨nanCode f, 0⟩ := by
  unfold specialElem
  rw [h]

/-- Operands below zero (R140). -/
theorem specialElem_below (h : decodeF f c = .inf true ∨ (decodeF f c = .fin true m e ∧ m ≠ 0)) :
    specialElem .rsq f low c = ⟨nanCode f, fNV⟩ ∧ specialElem .log2 f low c = ⟨nanCode f, fNV⟩ ∧ ∀ rm, sqrtElem f rm c = ⟨nanCode f, fNV⟩ := by
  unfold specialElem sqrtElem
  rcases h with h | ⟨h, hm⟩
  · rw [h]
    exact ⟨rfl, rfl, fun _ => rfl⟩
  · have hz : ¬ (m == 0) = true := by simpa using hm
    rw [h]
    exact ⟨if_neg hz, if_neg hz, fun _ => if_neg hz⟩

end

/-- A zero is the code of its sign alone. -/
theorem code_of_zero {f c : Nat} {neg : Bool} {e : Int} (hf : f ≤ 2) (hc : c < 2 ^ fmtWidth f) (h : decodeF f c = .fin neg 0 e) : c = signBit f neg := by
  obtain ⟨hf5, hne5, -⟩ := special_limits f hf
  obtain ⟨b, n, q, hval, -, -, hcode⟩ := finite_code hf5 hc (by rw [h]; rfl)
  rw [h] at hval
  simp only [FVal.fin.injEq] at hval
  obtain ⟨rfl, rfl, rfl⟩ := hval
  obtain hcode := hcode.resolve_right fun h5 => hne5 h5.1
  simpa [gridCode, hne5] using hcode.symm

/-- A code without the sign bit, and the same code with it. -/
theorem decodeF_signed {f c : Nat} (hf : f ≤ 2) (hc : c < 2 ^ (expBits f + manBits f)) (hfin : (decodeF f c).nonFinite = false) :
    ∃ m e, decodeF f c = .fin false m e ∧ decodeF f (2 ^ (expBits f + manBits f) + c) = .fin true m e := by
  obtain ⟨hf5, hne5, -⟩ := special_limits f hf
  have hx : bits c (manBits f) (expBits f) < 2 ^ expBits f := Nat.mod_lt _ (by positivity)
  have hm : bits c 0 (manBits f) < 2 ^ manBits f := Nat.mod_lt _ (by positivity)
  have hpos : bitAt c (expBits f + manBits f) = false := by simp [bitAt, Nat.div_eq_of_lt hc]
  have hcode := codeOf_bits (f := f) (c := c) (by rw [pow_succ]; omega)
  rw [hpos] at hcode
  have hneg : codeOf f true (bits c (manBits f) (expBits f)) (bits c 0 (manBits f)) = 2 ^ (expBits f + manBits f) + c := by
    conv_rhs => rw [← hcode]
    simp [codeOf, signBit]
  have hd := decodeF_codeOf false hx hm
  have hd' := decodeF_codeOf true hx hm
  rw [hcode] at hd
  rw [hneg] at hd'
  rw [hd] at hfin ⊢
  rw [hd']
  split at hfin
  · simp [FVal.nonFinite] at hfin
  · split at hfin
    · split at hfin <;> simp [FVal.nonFinite] at hfin
    next h1 h2 =>
      rw [if_neg h1, if_neg h2, if_neg h1, if_neg h2]
      split <;> exact ⟨_, _, rfl, rfl⟩

/-- fsin and ftanh are odd bit for bit, and fcos is even (R141). -/
theorem specialElem_signed {f c : Nat} (low : Bool) (hf : f ≤ 2) (hc : c < 2 ^ (expBits f + manBits f)) (hfin : (decodeF f c).nonFinite = false) :
    (specialElem .sin f low (2 ^ (expBits f + manBits f) + c)).code = (specialElem .sin f low c).code ^^^ 2 ^ (expBits f + manBits f) ∧
      (specialElem .tanh f low (2 ^ (expBits f + manBits f) + c)).code = (specialElem .tanh f low c).code ^^^ 2 ^ (expBits f + manBits f) ∧
      (specialElem .cos f low (2 ^ (expBits f + manBits f) + c)).code = (specialElem .cos f low c).code := by
  obtain ⟨m, e, hpos, hneg⟩ := decodeF_signed hf hc hfin
  rcases Nat.eq_zero_or_pos m with rfl | hm
  · obtain ⟨-, -, -, hsin, htanh, -, hcos, -⟩ := specialElem_zero (low := low) hpos
    obtain ⟨-, -, -, hsin', htanh', -, hcos', -⟩ := specialElem_zero (low := low) hneg
    rw [hsin, htanh, hcos, hsin', htanh', hcos']
    simp [signBit]
  · have hoff : (2 ^ (expBits f + manBits f) + c) % 2 ^ (expBits f + manBits f) = c % 2 ^ (expBits f + manBits f) := Nat.add_mod_left ..
    rw [specialElem_sin hpos hm.ne', specialElem_sin hneg hm.ne', specialElem_tanh hpos hm.ne', specialElem_tanh hneg hm.ne', specialElem_cos hpos hm.ne',
      specialElem_cos hneg hm.ne', hoff, Bool.bne_false, Bool.bne_true]
    exact ⟨Approx.result_not _ _ _ _ _ hf, Approx.result_not { tanhApprox m e with neg := false } _ _ _ _ hf, rfl⟩

theorem specialElem_tanh_le_one {f c : Nat} (low : Bool) (hf : f ≤ 2) (hc : c < 2 ^ fmtWidth f) (hnan : (decodeF f c).isNan = false) :
    |(decodeF f (specialElem .tanh f low c).code).rat| ≤ 1 := by
  cases h : decodeF f c with
  | nan => rw [h] at hnan; exact absurd hnan (by decide)
  | inf neg =>
    obtain ⟨-, -, -, -, htanh⟩ := specialElem_inf (low := low) h
    rw [htanh]
    exact roundF_le_one _ _ hf (by norm_num)
  | fin neg m e =>
    rcases Nat.eq_zero_or_pos m with rfl | hm
    · obtain ⟨-, -, -, -, htanh, -⟩ := specialElem_zero (low := low) h
      rw [htanh, ← code_of_zero hf hc h, h, (FVal.rat_fin_eq_zero ..).2 rfl, abs_zero]
      exact zero_le_one
    · rw [specialElem_tanh h hm.ne']
      exact Approx.result_top_le_one _ _ _ hf (tanhApprox_le_one e hm.ne')

/-- A magnitude that is a value of the format is a whole number of its own units. -/
theorem OnGrid.whole_units {f m n : Nat} {e q : Int} (hg : OnGrid f n q) (hm : m ≠ 0) (h : (n : ℚ) * 2 ^ q = m * 2 ^ e) : ∃ N : Nat, inUnits f m e = N := by
  have hunit : (0 : ℚ) < 2 ^ gridExp f m e := by positivity
  have hval : (FVal.fin false n q).rat = inUnits f m e * 2 ^ gridExp f m e := by rw [inUnits_mul, ← h]; simp [FVal.rat]
  rcases hg.in_units false m e with ⟨j, hj⟩ | ⟨hne, hlt⟩
  · rw [hval, mul_left_inj' hunit.ne'] at hj
    have hpos : (0 : ℚ) ≤ inUnits f m e := by unfold inUnits; positivity
    have hj0 : 0 ≤ j := by rw [hj] at hpos; exact_mod_cast hpos
    exact ⟨j.toNat, by rw [hj]; exact_mod_cast (Int.toNat_of_nonneg hj0).symm⟩
  · rw [hval, mul_lt_mul_iff_left₀ hunit] at hlt
    exact absurd (le_inUnits f e hm hne) (not_le.2 hlt)

/-- fexp2 of a whole number is the power of two where the format has it (R140). -/
theorem specialElem_exp2_whole {f c c' : Nat} {k : Int} (low : Bool) (hf : f ≤ 2) (hfin : (decodeF f c).nonFinite = false) (hk : (decodeF f c).rat = k)
    (hc' : c' < 2 ^ fmtWidth f) (hfin' : (decodeF f c').nonFinite = false) (hpow : (decodeF f c').rat = 2 ^ k) :
    (decodeF f (specialElem .exp2 f low c).code).rat = 2 ^ k ∧ (specialElem .exp2 f low c).flags = 0 := by
  obtain ⟨hf5, -⟩ := special_limits f hf
  obtain ⟨neg, m, e, h⟩ := FVal.finite_iff.1 hfin
  rw [h] at hk
  rcases Nat.eq_zero_or_pos m with rfl | hm
  · obtain ⟨-, -, -, -, -, hexp, -, -⟩ := specialElem_zero (low := low) h
    have hk0 : k = 0 := by rw [(FVal.rat_fin_eq_zero ..).2 rfl] at hk; exact_mod_cast hk.symm
    have hone : ∀ f ≤ 2, decodeF f (roundF f 0 (.fin false 1 0)).code = .fin false (2 ^ manBits f) (-(manBits f : Int)) := by decide
    rw [hexp, hone f hf, hk0, zpow_zero, ← one_eq_units f]
    exact ⟨by simp [FVal.rat], rfl⟩
  · obtain ⟨b, n, q, hval, hg, ho, -⟩ := finite_code hf5 hc' hfin'
    have hmag : (n : ℚ) * 2 ^ q = (1 : Nat) * 2 ^ k := by
      rw [← FVal.abs_rat b, ← hval, hpow, abs_of_pos (by positivity), Nat.cast_one, one_mul]
    obtain ⟨hlo, hhi⟩ := power_bounds hf hg ho (by rw [hmag, Nat.cast_one, one_mul])
    obtain ⟨N, hN⟩ := hg.whole_units one_ne_zero hmag
    rw [specialElem_exp2 h hm.ne', exp2Approx_of_whole hm.ne' hk hlo hhi]
    obtain ⟨hrat, hflags⟩ := Approx.result_of_whole (a := ⟨false, 1, k, true⟩) (if low then 4 else 1) (Config.specialUlps Spec.exp2.code f low c) hf5 one_ne_zero rfl hN
      (hmag ▸ hg.le_max hf5 ho)
    exact ⟨by rw [hrat]; simp [FVal.rat], hflags⟩

/-- flog2 of a power of two is its exponent (R140). -/
theorem specialElem_log2_power {f c : Nat} {k : Int} (low : Bool) (hf : f ≤ 2) (hc : c < 2 ^ fmtWidth f) (hfin : (decodeF f c).nonFinite = false)
    (hpow : (decodeF f c).rat = 2 ^ k) : (decodeF f (specialElem .log2 f low c).code).rat = k ∧ (specialElem .log2 f low c).flags = 0 := by
  obtain ⟨hf5, -, -, -, -, hman, hmin, -, -, -, hmaxpos⟩ := special_limits f hf
  obtain ⟨-, -, hmax1, -⟩ := format_limits f hf5
  obtain ⟨neg, m, e, h, hg, ho, -⟩ := finite_code hf5 hc hfin
  rw [h] at hpow
  have hpos : (0 : ℚ) < 2 ^ k := by positivity
  have hm : m ≠ 0 := fun h0 => by rw [(FVal.rat_fin_eq_zero ..).2 h0] at hpow; exact hpos.ne hpow
  have hmag : (m : ℚ) * 2 ^ e = 2 ^ k := by rw [← FVal.abs_rat neg, hpow, abs_of_pos hpos]
  obtain rfl : neg = false := by
    cases neg with
    | false => rfl
    | true => simp only [FVal.rat, if_true, mul_assoc, hmag] at hpow; linarith
  obtain ⟨hlo, hhi⟩ := power_bounds hf hg ho hmag
  rw [specialElem_log2 h hm, log2Approx_of_power hmag]
  by_cases hk : k = 0
  · subst hk
    have hz : (Approx.result ⟨decide ((0 : Int) < 0), (0 : Int).natAbs, 0, true⟩ f (if low then 4 else 1) (Config.specialUlps Spec.log2.code f low c) true false) =
        ⟨gridCode f false 0 (minExp f), 0⟩ := rfl
    rw [hz, rat_gridCode false hf5 (OnGrid.zero f) (not_overflows_zero hf5), (FVal.rat_fin_eq_zero ..).2 rfl]
    exact ⟨by simp, rfl⟩
  · have hk0 : k.natAbs ≠ 0 := by omega
    have hexp : gridExp f k.natAbs 0 ≤ 0 := by
      obtain ⟨hlen, -, hone⟩ := bitLen_bounds hk0
      have : 2 ^ (bitLen k.natAbs - 1) < 2 ^ 8 := lt_of_le_of_lt hlen (by omega)
      have := (Nat.pow_lt_pow_iff_right (by norm_num : 1 < 2)).1 this
      unfold gridExp
      omega
    have hN : inUnits f k.natAbs 0 = ((k.natAbs * 2 ^ (0 - gridExp f k.natAbs 0).toNat : Nat) : ℚ) := by
      rw [inUnits, ← Int.toNat_of_nonneg (sub_nonneg.2 hexp), zpow_natCast]; push_cast; rfl
    have hle : ((k.natAbs : Nat) : ℚ) * 2 ^ (0 : Int) ≤ (maxFin f).1 * 2 ^ (maxFin f).2 := by
      have h128 : 128 ≤ (maxFin f).1 := (Nat.pow_le_pow_right (by norm_num) hman).trans hmax1
      calc ((k.natAbs : Nat) : ℚ) * 2 ^ (0 : Int) ≤ (256 : Nat) := by rw [zpow_zero, mul_one]; exact_mod_cast (by omega : k.natAbs ≤ 256)
        _ = (128 : Nat) * 2 ^ (1 : Int) := by norm_num
        _ ≤ (maxFin f).1 * 2 ^ (maxFin f).2 :=
          mul_le_mul (by exact_mod_cast h128) (zpow_le_zpow_right₀ (by norm_num) hmaxpos) (by positivity) (by positivity)
    obtain ⟨hrat, hflags⟩ := Approx.result_of_whole (a := ⟨decide (k < 0), k.natAbs, 0, true⟩) (if low then 4 else 1)
      (Config.specialUlps Spec.log2.code f low c) hf5 hk0 rfl hN hle
    refine ⟨?_, hflags⟩
    have := ofIntExp_rat k 0
    rw [zpow_zero, mul_one] at this
    rw [hrat]; exact this

theorem specialCases : SpecialCases := by
  intro f low c hf hc v sign one
  obtain ⟨hf5, hne5, -, -, hsign, -⟩ := special_limits f hf
  have hs : sign = 2 ^ (expBits f + manBits f) := by rw [← hsign]
  have hone := code_one f hf
  refine ⟨fun k hnan => ?_, fun hz => ?_, fun hinf => ?_, fun hnan hz hneg => ?_, fun hlt hfin => ?_, fun hnan => specialElem_tanh_le_one low hf hc hnan,
    fun k hfin => ⟨fun hk ⟨c', hc', hfin', hpow⟩ => specialElem_exp2_whole low hf hfin hk hc' hfin' hpow, specialElem_log2_power low hf hc hfin⟩⟩
  · refine specialElem_nan k ?_
    cases h : decodeF f c <;> simp_all [v, FVal.isNan]
  · obtain ⟨neg, e, h⟩ : ∃ neg e, decodeF f c = .fin neg 0 e := by
      cases h : decodeF f c <;> simp_all [v, FVal.isZero]
    obtain ⟨hrcp, hrsq, hlog, hsin, htanh, hexp, hcos, hsqt⟩ := specialElem_zero (low := low) h
    have hv : v.isNeg = neg := by rw [show v = .fin neg 0 e from h]; rfl
    rw [hv, hrcp, hrsq, hlog, hsin, htanh, hexp, hcos, ← code_of_zero hf hc h]
    have := hone false
    rw [if_neg Bool.false_ne_true, add_zero] at this
    exact ⟨rfl, rfl, rfl, rfl, rfl, this, this, fun rm => by rw [hsqt, ← code_of_zero hf hc h]⟩
  · obtain ⟨neg, h⟩ : ∃ neg, decodeF f c = .inf neg := by
      cases h : decodeF f c <;> simp_all [v, FVal.isInf]
    obtain ⟨hrcp, hexp, hsin, hcos, htanh⟩ := specialElem_inf (low := low) h
    have hv : v.isNeg = neg := by rw [show v = .inf neg from h]; rfl
    rw [hv, hrcp, hexp, hsin, hcos, htanh]
    refine ⟨?_, rfl, rfl, rfl, ?_⟩
    · have hzero : signBit f neg = gridCode f neg 0 (minExp f) := by simp [gridCode, hne5]
      rw [hzero, (decodeF_gridCode neg hf5 (OnGrid.zero f) (not_overflows_zero hf5)).2]
      rfl
    · rw [hone neg]; cases neg <;> simp [one, sign]
  · cases h : decodeF f c with
    | nan => simp_all [v, FVal.isNan]
    | inf neg =>
      obtain rfl : neg = true := by simpa [v, h, FVal.isNeg] using hneg
      exact specialElem_below (m := 0) (e := 0) (.inl h)
    | fin neg m e =>
      obtain rfl : neg = true := by simpa [v, h, FVal.isNeg] using hneg
      exact specialElem_below (.inr ⟨h, by simpa [v, h, FVal.isZero] using hz⟩)
  · rw [hs] at hlt ⊢
    exact specialElem_signed low hf hlt hfin

/-- Settles O23: exact values as rational numbers, the one rounding on the grid of a format, its codes, and the special functions over both. -/
theorem floatValues : Obligations.FloatValues := ⟨exactArithmetic, roundingCorrect, formatRoundTrip, specialCases⟩

end Sys2Proof.Machine
end

section
/-! PROOFS. Floating results (O19, O24): FPMODE as a unit that issues reads it, the flags of its lanes, and the lanes that raise NONFINITE. -/

namespace Sys2Proof.Machine

/-! ## Elements and lanes -/

theorem fmtWidth_dvd (c : Nat) : fmtWidth c ∣ 64 := by unfold fmtWidth; split <;> decide

/-- The elements of a lane, by their number in the register and by their place in the lane. -/
theorem exists_element_of_lane {w l : Nat} (hw : w ∣ 64) (hl : l < 32) (P : Nat → Prop) :
    (∃ e < 2048 / w, w * e / 64 = l ∧ P e) ↔ ∃ j < 64 / w, P (64 / w * l + j) := by
  obtain ⟨n, hn⟩ := hw
  have hw0 : 0 < w := Nat.pos_of_ne_zero (by rintro rfl; simp at hn)
  have hn0 : 0 < n := Nat.pos_of_ne_zero (by rintro rfl; simp at hn)
  have hcount : 64 / w = n := by rw [hn, Nat.mul_div_cancel_left _ hw0]
  have hall : 2048 / w = n * 32 := by rw [show 2048 = w * (n * 32) by rw [← Nat.mul_assoc, ← hn], Nat.mul_div_cancel_left _ hw0]
  have hlane : ∀ e, w * e / 64 = e / n := fun e => by rw [hn, Nat.mul_div_mul_left _ _ hw0]
  rw [hcount, hall]
  constructor
  · rintro ⟨e, -, he, hP⟩
    rw [hlane] at he
    exact ⟨e % n, Nat.mod_lt _ hn0, by rwa [← he, Nat.div_add_mod]⟩
  · rintro ⟨j, hj, hP⟩
    refine ⟨n * l + j, ?_, ?_, hP⟩
    · calc n * l + j < n * (l + 1) := by rw [Nat.mul_succ]; omega
        _ ≤ n * 32 := Nat.mul_le_mul_left _ hl
    · rw [hlane, Nat.mul_add_div hn0, Nat.div_eq_of_lt hj, Nat.add_zero]

/-! ## FPMODE at the issue (R69, R71, R77) -/

/-- Due writes raise flags, and leave the other bits of FPMODE. -/
theorem Group.settle_nft (gr : Group) (now : Nat) : (gr.settle now).nft = gr.nft := by
  have hquiet : ∀ ps : List Pending, ps.any (Pending.raisesBit 3) = false := fun ps => by simp [Pending.raisesBit]
  obtain ⟨-, hfp⟩ := Group.settleList_fpmode now gr.fix [] gr 3 (by omega)
  rw [hquiet, hquiet, Bool.and_false, Bool.or_false, Bool.or_false] at hfp
  exact hfp

/-- A unit that issues reads NFT as its group holds it. -/
theorem State.issued_nft {s : State} {i : Instr} (h : s.goes i) : (s.issued i).cur.nft = (s.grp s.cur.g).nft := by
  have hlate : (s.settle s.cur.g).cur.late = false := h.late
  have hfp : (s.begin i).cur.fp = ((s.settle s.cur.g).grp s.cur.g).fpmode := by
    unfold State.begin
    dsimp only
    rw [hlate]
    rfl
  have hgrp : ((s.settle s.cur.g).grp s.cur.g).nft = (s.grp s.cur.g).nft := by
    rw [State.settle, State.modGrp_grp]
    split
    · exact Group.settle_nft _ _
    · rfl
  rw [State.issued_cur, Issue.nft, hfp, ← hgrp]
  rfl

/-! ## The flags of lanes (R71, R72) -/

theorem getD_look_flags (f : Nat → BitVec 5) (l : Nat) (ls : List Nat) :
    (look ((ls.map fun k => (k, f k)).filter fun p => p.2 != 0) l).getD 0 = if l ∈ ls then f l else 0 := by
  induction ls with
  | nil => rfl
  | cons k ls ih =>
    rw [List.map_cons]
    by_cases hf : f k = 0
    · rw [List.filter_cons_of_neg (by simpa using hf), ih]
      by_cases hk : l = k
      · simp [hk, hf]
      · simp [hk]
    · rw [List.filter_cons_of_pos (by simpa using hf), look_cons]
      by_cases hk : k = l
      · simp [hk]
      · rw [if_neg hk, ih]
        simp [Ne.symm hk]

/-- The flags that a list of lanes notes for one of them. -/
theorem getD_laneFlagList (ls : Lanes) (f : Nat → BitVec 5) {l : Nat} (hl : l < 32) :
    (look (laneFlagList ls f) l).getD 0 = if ls.getLsbD l then f l else 0 := by
  rw [laneFlagList, getD_look_flags]
  simp only [mem_lanesOf, hl, true_and]

theorem getLsbD_foldl_or_if (p : Nat → Bool) (f : Nat → BitVec 5) (b : Nat) (js : List Nat) (v : BitVec 5) :
    (js.foldl (fun acc j => if p j then acc ||| f j else acc) v).getLsbD b = (v.getLsbD b || js.any fun j => p j && (f j).getLsbD b) := by
  induction js generalizing v with
  | nil => simp
  | cons j js ih =>
    rw [List.foldl_cons, ih, List.any_cons]
    cases p j <;> simp [Bool.or_assoc]

/-- The flags of the lanes of a unit are those of its elements that take part and that it writes. -/
theorem State.laneFlags_flagged (s : State) (i : Instr) {w : Nat} (on : Nat → Bool) (f : Nat → Elem) (hw : w ∣ 64) {l : Nat} (hl : l < 32) (b : Nat) :
    ((look (laneFlagList s.cur.lanes (s.laneFlags i w on f)) l).getD 0).getLsbD b = true ↔
      ∃ e < 2048 / w, w * e / 64 = l ∧ on e = true ∧ s.live i w e ∧ (f e).flags.getLsbD b = true := by
  have hlane : (∃ e < 2048 / w, w * e / 64 = l ∧ on e = true ∧ s.live i w e ∧ (f e).flags.getLsbD b = true) ↔
      s.cur.lanes.getLsbD l = true ∧
        ∃ e < 2048 / w, w * e / 64 = l ∧ enabled (s.wmask i) w e = true ∧ on e = true ∧ (f e).flags.getLsbD b = true := by
    constructor
    · rintro ⟨e, he, rfl, hon, ⟨hact, hen⟩, hb⟩
      exact ⟨hact, e, he, rfl, hen, hon, hb⟩
    · rintro ⟨hact, e, he, rfl, hen, hon, hb⟩
      exact ⟨e, he, rfl, hon, ⟨hact, hen⟩, hb⟩
  rw [hlane, exists_element_of_lane hw hl, getD_laneFlagList _ _ hl]
  cases s.cur.lanes.getLsbD l with
  | false => simp
  | true =>
    simp only [State.laneFlags, if_true, getLsbD_foldl_or_if]
    simp [and_assoc]

/-! ## A floating result where NFT is clear (R72, R77, R133) -/

theorem State.nonFinite_of_clear {s : State} (h : s.cur.nft = false) (i : Instr) (w : Nat) (ls : Lanes) (on : Nat → Bool) (f : Nat → Elem) :
    s.nonFinite i w ls on f = (0, none) := by
  rw [State.nonFinite, h]; rfl

theorem State.giveFloat_of_clear {s : State} (h : s.cur.nft = false) (i : Instr) (d : BitVec 6) (w : Nat) (f : Nat → Elem) :
    s.giveFloat i d w f = .next (s.finishWith i d (s.result i w s.cur.lanes fun e => (f e).code) s.cur.lanes
      (laneFlagList s.cur.lanes (s.laneFlags i w (fun _ => true) f))) := by
  have hlanes : s.cur.lanes &&& ~~~(0 : Lanes) = s.cur.lanes := by rw [show ~~~(0 : Lanes) = BitVec.allOnes 32 from rfl, BitVec.and_allOnes]
  simp only [State.giveFloat, State.nonFinite_of_clear h, State.faultRec, hlanes]

/-- A unit that gives a floating result element by element completes as `State.givesFloat` says. -/
theorem givesFloat_of_giveFloat {s : State} {i : Instr} {d : BitVec 6} {w : Nat} {f : Nat → Elem} {g : Nat → FRes} (hgo : s.goes i) (hw : w ∣ 64)
    (hexec : exec i s = (s.issued i).giveFloat i d w f) (hcode : ∀ e, (f e).code = (g e).code) (hflags : ∀ e, (f e).flags = (g e).flags) :
    s.givesFloat i d w g := by
  intro _ hclear
  have hnft : (s.issued i).cur.nft = false := (State.issued_nft hgo).trans hclear
  refine ⟨_, _, by rw [hexec, State.giveFloat_of_clear hnft, State.issued_lanes], ?_, fun l hl b _ => ?_⟩
  · rw [← State.issued_lanes s i]
    exact State.result_lanewise _ _ _ _ _ hw fun e _ _ => by rw [hcode]
  · rw [← State.issued_lanes s i, State.laneFlags_flagged _ _ _ _ hw hl]
    simp only [hflags, true_and]

end Sys2Proof.Machine
end

section
/-! PROOFS. Sums, products, scaling, minima and maxima (O19). -/

namespace Sys2Proof.Machine

/-! ## The rows that round an exact value once (R71, R134) -/

theorem exec_floatRow {s : State} {i : Instr} {d : BitVec 6} {three : Bool} {op : Bool → FVal → FVal → FVal → FVal} (h : floatRow i = some (d, three, op))
    (hgo : s.goes i) : exec i s = (s.issued i).floatOp i d (fun rm => op (rm == 3)) three := by
  unfold floatRow at h
  split at h
  case h_5 => exact nomatch h
  all_goals
    simp only [Option.some.injEq, Prod.mk.injEq] at h
    obtain ⟨rfl, rfl, rfl⟩ := h
    exact State.issue_of_goes s _ (fun t => t.floatOp _ _ _ _) hgo

/-- The flags of a result that is rounded once: those of the rounding, and NV where a NaN arises from operands that are none. -/
theorem invalid_operands (three : Bool) (x y z v : FVal) :
    invalid (if three then [x, y, z] else [x, y]) v = if v.isNan && !x.isNan && !y.isNan && !(three && z.isNan) then fNV else 0 := by
  cases three <;> simp [invalid, and_assoc]

theorem floatArithmetic : FloatArithmetic := by
  intro s i d three op hrow hgo
  refine givesFloat_of_giveFloat hgo (fmtWidth_dvd _) (exec_floatRow hrow hgo) (fun e => ?_) fun e => ?_
  · simp only [Elem.round, isClamp, fmtOf, beq_eq_decide]
  · simp only [Elem.round, isClamp, fmtOf, beq_eq_decide, invalid_operands]

/-! ## Minima and maxima (R134) -/

theorem exec_minMax {s : State} (pf : Option Pfx) (sc : BitVec 3) (d a b : BitVec 6) (greater : Bool) :
    let i : Instr := if greater then .fmax pf sc d a b else .fmin pf sc d a b
    s.goes i → exec i s = (s.issued i).minMax i d greater := by
  cases greater <;> exact fun hgo => State.issue_of_goes s _ (fun t => t.minMax _ d _) hgo

theorem fMinMax_eq (f : Nat) (greater : Bool) (p q : Nat) :
    let x := decodeF f p
    let y := decodeF f q
    fMinMax f greater p q =
      if x.isNan && y.isNan then nanCode f else if x.isNan then q else if y.isNan then p
      else if FVal.lt x y || (x.isZero && y.isZero && x.isNeg && !y.isNeg) then (if greater then q else p) else (if greater then p else q) := by
  intro x y
  unfold fMinMax
  rw [show decodeF f p = x from rfl, show decodeF f q = y from rfl]
  dsimp only
  generalize (FVal.lt x y || (x.isZero && y.isZero && x.isNeg && !y.isNeg)) = less
  cases x.isNan with
  | true => rfl
  | false =>
    cases y.isNan with
    | true => rfl
    | false => cases less <;> cases greater <;> rfl

theorem floatMinMax (s : State) (pf : Option Pfx) (sc : BitVec 3) (d a b : BitVec 6) (greater : Bool) :
    let i : Instr := if greater then .fmax pf sc d a b else .fmin pf sc d a b
    s.goes i → s.givesFloat i d (fmtWidth (i.x % 8)) fun e =>
      ⟨fMinMax (i.x % 8) greater (el (fmtWidth (i.x % 8)) e ((s.issued i).src i .A)) (el (fmtWidth (i.x % 8)) e ((s.issued i).src i .B)), 0⟩ := fun hgo =>
  givesFloat_of_giveFloat hgo (fmtWidth_dvd _) (exec_minMax pf sc d a b greater hgo) (fun _ => rfl) fun _ => rfl

/-! ## Scaling (R134): beyond ±600 every finite value has long overflowed or vanished -/

theorem gridExp_le_toGrid (f rm : Nat) (neg : Bool) (m : Nat) (e : Int) : gridExp f m e ≤ (toGrid f rm neg m e).2.1 := by
  unfold toGrid
  dsimp only
  rw [show max (e + (bitLen m : Int) - 1 - (manBits f : Int)) (minExp f) = gridExp f m e from rfl]
  split
  · exact le_rfl
  · split
    · exact (lt_add_one _).le
    · exact le_rfl

section
variable {f m : Nat} {e e' : Int}

theorem roundF_beyond (rm : Nat) (neg : Bool) (hm : m ≠ 0) (he : (maxFin f).2 + (manBits f : Int) < e) : roundF f rm (.fin neg m e) = overflowRes f rm neg := by
  obtain ⟨-, -, hone⟩ := bitLen_bounds hm
  have hexp : e - (manBits f : Int) ≤ gridExp f m e := le_trans (by omega) (le_max_left ..)
  have ho : overflows f (toGrid f rm neg m e).1 (toGrid f rm neg m e).2.1 = true := by
    have := gridExp_le_toGrid f rm neg m e
    simp only [overflows, Bool.or_eq_true, decide_eq_true_eq]
    exact .inl (by omega)
  rw [roundF_fin f rm neg e hm, ho, if_pos rfl]

theorem toGrid_vanishing (rm : Nat) (neg : Bool) (hm : m ≠ 0) (he : e + (bitLen m : Int) < minExp f) :
    toGrid f rm neg m e = (if roundsUp rm neg 0 0 false then 1 else 0, minExp f, false) := by
  obtain ⟨-, hlt, -⟩ := bitLen_bounds hm
  have hexp : gridExp f m e = minExp f := max_eq_right (by omega)
  have hpow : 2 * m < 2 ^ (minExp f - e).toNat :=
    calc 2 * m < 2 ^ (bitLen m + 1) := by rw [pow_succ]; omega
      _ ≤ 2 ^ (minExp f - e).toNat := Nat.pow_le_pow_right (by norm_num) (by omega)
  have hshift : roundShift rm neg m (minExp f - e).toNat = (if roundsUp rm neg 0 0 false then 1 else 0, false) := by
    unfold roundShift
    dsimp only
    rw [Nat.div_eq_of_lt (by omega), Nat.mod_eq_of_lt (by omega), if_pos hpow, show (m == 0) = false by simpa using hm]
  unfold toGrid
  dsimp only
  rw [show max (e + (bitLen m : Int) - 1 - (manBits f : Int)) (minExp f) = gridExp f m e from rfl, hexp, if_neg (by omega), hshift]
  dsimp only
  rw [if_neg]
  have : 2 ≤ 2 ^ (manBits f + 1) := Nat.pow_le_pow_right (n := 2) (by norm_num) (Nat.le_add_left 1 _)
  simp only [beq_iff_eq]
  split <;> omega

theorem roundF_vanishing (rm : Nat) (neg : Bool) (hm : m ≠ 0) (he : e + (bitLen m : Int) < minExp f) (he' : e' + (bitLen m : Int) < minExp f) :
    roundF f rm (.fin neg m e) = roundF f rm (.fin neg m e') := by
  rw [roundF_fin f rm neg e hm, roundF_fin f rm neg e' hm, toGrid_vanishing rm neg hm he, toGrid_vanishing rm neg hm he']

/-- The clamp of a finite value (R70). -/
theorem clampF_fin (f : Nat) (neg : Bool) (m : Nat) (e : Int) :
    clampF f (.fin neg m e) =
      if ((maxFin f).1 : ℚ) * 2 ^ (maxFin f).2 < m * 2 ^ e then (.fin neg (maxFin f).1 (maxFin f).2, fOF) else (.fin neg m e, 0) := by
  have hmag : (if neg then (FVal.fin neg m e).neg else .fin neg m e) = .fin false m e := by cases neg <;> rfl
  have hlt := FVal.lt_finite (x := .fin false (maxFin f).1 (maxFin f).2) (y := .fin false m e) rfl rfl
  simp only [FVal.rat, Bool.false_eq_true, if_false, one_mul] at hlt
  simp only [clampF, hmag]
  exact if_congr hlt rfl rfl

theorem roundClamp_beyond (hf : f ≤ 5) (rm : Nat) (clamp neg : Bool) (hm : m ≠ 0) (he : (maxFin f).2 + (manBits f : Int) < e)
    (he' : (maxFin f).2 + (manBits f : Int) < e') : roundClamp f rm clamp (.fin neg m e) = roundClamp f rm clamp (.fin neg m e') := by
  obtain ⟨-, -, -, -, hlast⟩ := format_limits f hf
  have hlarge : ∀ {x : Int}, (maxFin f).2 + (manBits f : Int) < x → ((maxFin f).1 : ℚ) * 2 ^ (maxFin f).2 < m * 2 ^ x := fun {x} hx => by
    have hmax : ((maxFin f).1 : ℚ) < 2 ^ (manBits f + 1) := by
      have : (maxFin f).1 < 2 ^ (manBits f + 1) := by split at hlast <;> omega
      exact_mod_cast this
    calc ((maxFin f).1 : ℚ) * 2 ^ (maxFin f).2 < 2 ^ (manBits f + 1) * 2 ^ (maxFin f).2 := mul_lt_mul_of_pos_right hmax (by positivity)
      _ = 2 ^ (((manBits f + 1 : Nat) : Int) + (maxFin f).2) := by rw [zpow_add₀ (by norm_num), zpow_natCast]
      _ ≤ 2 ^ x := zpow_le_zpow_right₀ (by norm_num) (by push_cast; omega)
      _ ≤ m * 2 ^ x := le_mul_of_one_le_left (by positivity) (by exact_mod_cast Nat.one_le_iff_ne_zero.2 hm)
  simp only [roundClamp, clampF_fin, if_pos (hlarge he), if_pos (hlarge he'), roundF_beyond rm neg hm he, roundF_beyond rm neg hm he']
  rfl

theorem roundClamp_vanishing (hf : f ≤ 5) (rm : Nat) (clamp neg : Bool) (hm : m ≠ 0) (he : e + (bitLen m : Int) < minExp f)
    (he' : e' + (bitLen m : Int) < minExp f) : roundClamp f rm clamp (.fin neg m e) = roundClamp f rm clamp (.fin neg m e') := by
  obtain ⟨-, hmin, hmax1, -⟩ := format_limits f hf
  obtain ⟨-, hlt, -⟩ := bitLen_bounds hm
  have hsmall : ∀ {x : Int}, x + (bitLen m : Int) < minExp f → ¬ ((maxFin f).1 : ℚ) * 2 ^ (maxFin f).2 < m * 2 ^ x := fun {x} hx => by
    have hone : (1 : ℚ) ≤ (maxFin f).1 := by exact_mod_cast Nat.one_le_two_pow.trans hmax1
    refine not_lt.2 ?_
    calc (m : ℚ) * 2 ^ x ≤ 2 ^ bitLen m * 2 ^ x := mul_le_mul_of_nonneg_right (by exact_mod_cast hlt.le) (by positivity)
      _ = 2 ^ ((bitLen m : Int) + x) := by rw [zpow_add₀ (by norm_num), zpow_natCast]
      _ ≤ 2 ^ (maxFin f).2 := zpow_le_zpow_right₀ (by norm_num) (by omega)
      _ ≤ (maxFin f).1 * 2 ^ (maxFin f).2 := le_mul_of_one_le_left (by positivity) hone
  simp only [roundClamp, clampF_fin, if_neg (hsmall he), if_neg (hsmall he'), roundF_vanishing rm neg hm he he']
  rfl

end

theorem abs_sext_le {w : Nat} (x : Nat) (hw : w = 4 ∨ w = 8) : -600 ≤ sext w x ∧ sext w x ≤ 600 := by
  rcases hw with rfl | rfl <;> (unfold sext; dsimp only; split <;> omega)

/-- A format code of three bits is one of those that scale by more than 600, or its elements are of eight bits at most. -/
theorem scale_formats : ∀ f < 8, f ≤ 2 ∨ fmtWidth f = 4 ∨ fmtWidth f = 8 := by decide

theorem roundClamp_scale_zero (f rm : Nat) (clamp neg : Bool) (e e' : Int) : roundClamp f rm clamp (.fin neg 0 e) = roundClamp f rm clamp (.fin neg 0 e') := by
  have hpos : ∀ x : Int, ¬ ((maxFin f).1 : ℚ) * 2 ^ (maxFin f).2 < (0 : Nat) * 2 ^ x := fun x => by
    rw [Nat.cast_zero, zero_mul]; exact not_lt.2 (by positivity)
  simp only [roundClamp, clampF_fin, if_neg (hpos _), roundF_zero]
  rfl

/-- Where fscl cuts its exponent off, it would not have mattered (R134). -/
theorem roundClamp_scale_cut {f c : Nat} (rm : Nat) (clamp : Bool) (k : Int) (hf : f ≤ 2) (hc : c < 2 ^ fmtWidth f) :
    roundClamp f rm clamp (FVal.scale (decodeF f c) (max (-600) (min 600 k))) = roundClamp f rm clamp (FVal.scale (decodeF f c) k) := by
  obtain ⟨hf5, -, -, -, -, -, -, hmin, -, hmax, -⟩ := special_limits f hf
  cases h : decodeF f c with
  | nan => rfl
  | inf neg => rfl
  | fin neg m q =>
    obtain ⟨b, n, p, hval, hg, ho, -⟩ := finite_code hf5 hc (by rw [h]; rfl)
    rw [h] at hval
    obtain ⟨rfl, rfl, rfl⟩ := FVal.fin.inj hval
    have hfine := hg.finest
    have hq : q ≤ (maxFin f).2 := by rw [overflows_eq_false] at ho; omega
    simp only [FVal.scale]
    by_cases hm : m = 0
    · subst hm; exact roundClamp_scale_zero ..
    rcases le_or_gt (-600) k with hlo | hlo
    · rcases le_or_gt k 600 with hhi | hhi
      · rw [min_eq_right hhi, max_eq_right hlo]
      · exact roundClamp_beyond hf5 rm clamp neg hm (by omega) (by omega)
    · have hlen : bitLen m ≤ 24 := by
        obtain ⟨hle, -, -⟩ := bitLen_bounds hm
        have hman : manBits f + 1 ≤ 24 := by interval_cases f <;> decide
        have := (Nat.pow_lt_pow_iff_right (by norm_num : 1 < 2)).1 (lt_of_le_of_lt hle hg.bits)
        omega
      exact roundClamp_vanishing hf5 rm clamp neg hm (by omega) (by omega)

/-- … and where a format has few bits, it does not cut. -/
theorem roundClamp_scale_el {f : Nat} (rm : Nat) (clamp : Bool) (e x : Nat) (A : Img) (hf : f < 8) :
    roundClamp f rm clamp (FVal.scale (decodeF f (el (fmtWidth f) e A)) (max (-600) (min 600 (sext (fmtWidth f) x)))) =
      roundClamp f rm clamp (FVal.scale (decodeF f (el (fmtWidth f) e A)) (sext (fmtWidth f) x)) := by
  rcases scale_formats f hf with hf | hw
  · exact roundClamp_scale_cut _ _ _ hf (el_lt ..)
  · obtain ⟨hlo, hhi⟩ := abs_sext_le x hw
    rw [min_eq_right hhi, max_eq_right hlo]

theorem floatScale (s : State) (pf : Option Pfx) (sc : BitVec 3) (d a b : BitVec 6) :
    let i : Instr := .fscl pf sc d a b
    let f := i.x % 8
    let w := fmtWidth f
    s.goes i → s.givesFloat i d w fun e =>
      roundClamp f ((s.issued i).rm i) (decide (i.x / 8 = 1)) (FVal.scale (decodeF f (el w e ((s.issued i).src i .A))) (sext w (el w e ((s.issued i).src i .B)))) := by
  intro i f w hgo
  have hf : f < 8 := Nat.mod_lt _ (by norm_num)
  have hinvalid : ∀ (v : FVal) (k : Int), invalid [v] (FVal.scale v k) = 0 := fun v k => by cases v <;> rfl
  have hexec : exec i s = (s.issued i).giveFloat i d w fun e =>
      Elem.round f ((s.issued i).rm i) (isClamp i) [decodeF f (el w e ((s.issued i).src i .A))]
        (FVal.scale (decodeF f (el w e ((s.issued i).src i .A))) (max (-600) (min 600 (sext w (el w e ((s.issued i).src i .B)))))) :=
    State.issue_of_goes s i (fun t => t.giveFloat i d w fun e =>
      Elem.round f (t.rm i) (isClamp i) [decodeF f (el w e (t.src i .A))]
        (FVal.scale (decodeF f (el w e (t.src i .A))) (max (-600) (min 600 (sext w (el w e (t.src i .B))))))) hgo
  refine givesFloat_of_giveFloat hgo (fmtWidth_dvd _) hexec (fun e => ?_) fun e => ?_
  · simp only [Elem.round, isClamp, beq_eq_decide]
    exact congrArg FRes.code (roundClamp_scale_el _ _ e _ _ hf)
  · simp only [Elem.round, isClamp, beq_eq_decide, hinvalid]
    exact BitVec.or_zero.trans (congrArg FRes.flags (roundClamp_scale_el _ _ e _ _ hf))

/-- Settles O19: the rows that round once give the rounded value of `floatRow` element by element, and so do fscl, whose cut at ±600 is out of sight, and the
minima and maxima, which do not round. -/
theorem floatSumsAndScaling : Obligations.FloatSumsAndScaling := by
  refine ⟨floatArithmetic, fun s pf sc d a b => ⟨?_, ?_⟩⟩
  · intro i f w hgo
    exact floatScale s pf sc d a b hgo
  · intro greater i f w hgo
    have := floatMinMax s pf sc d a b greater hgo
    simp only [fMinMax_eq] at this
    exact this

end Sys2Proof.Machine
end

section
/-! PROOFS. The lanes that raise NONFINITE (O24). -/

namespace Sys2Proof.Machine

/-! ## NONFINITE (R77) -/

/-- With NFT set, the lanes that have an element that takes part and may not be written raise NONFINITE with the lowest such element and its own sub-cause. -/
theorem State.nonFinite_of_set {s : State} (hset : s.cur.nft = true) (i : Instr) {w e0 : Nat} (f : Nat → Elem) (hw : w ∣ 64) (he : e0 < 2048 / w)
    (hbad : s.live i w e0 ∧ (f e0).nf ≠ 0) (hlow : ∀ e < e0, ¬ (s.live i w e ∧ (f e).nf ≠ 0)) :
    ∃ B : Lanes, s.nonFinite i w s.cur.lanes (fun _ => true) f = (B, some ⟨cNONFINITE, (f e0).nf, BitVec.ofNat 64 e0, none⟩) ∧
      ∀ l < 32, B.getLsbD l = true ↔ ∃ e < 2048 / w, w * e / 64 = l ∧ s.live i w e ∧ (f e).nf ≠ 0 := by
  have htest : ∀ e, (s.cur.lanes.getLsbD (laneIx w e) && enabled (s.wmask i) w e && true && (f e).nf != 0) = true ↔ s.live i w e ∧ (f e).nf ≠ 0 := fun e => by
    rw [s.live_iff, State.takesPart, Bool.and_true, Bool.and_eq_true _ (_ != _), bne_iff_ne]
  have hfind : (List.range (2048 / w)).find? (fun e => s.cur.lanes.getLsbD (laneIx w e) && enabled (s.wmask i) w e && true && (f e).nf != 0) = some e0 := by
    rw [List.find?_range_eq_some]
    refine ⟨(htest e0).2 hbad, List.mem_range.2 he, fun e hlt => ?_⟩
    rw [Bool.not_eq_true', Bool.eq_false_iff, ne_eq, htest]
    exact hlow e hlt
  refine ⟨_, by rw [State.nonFinite, hset]; dsimp only; rw [hfind]; rfl, fun l hl => ?_⟩
  rw [getLsbD_lanesWhere _ _ hl, List.any_eq_true, exists_element_of_lane hw hl]
  simp only [List.mem_range, htest]

/-- A result leaves every element of the lanes outside its set. -/
theorem State.result_outside (s : State) (i : Instr) {w : Nat} {ls : Lanes} (f : Nat → Nat) (hw : w ∣ 64) {e : Nat} (he : e < 2048 / w)
    (hout : ls.getLsbD (w * e / 64) = false) : el w e (s.result i w ls f).en = 0 := by
  cases hz : i.zeroFill with
  | false => rw [el_result_en s i w ls f hz e he, laneIx, hout]; rfl
  | true => rw [el_result_fill s i w ls f hz hw e he, laneIx, hout]; rfl

@[simp] theorem State.issued_word (s : State) (i : Instr) : (s.issued i).cur.word = s.cur.word := by
  rw [State.issued_cur]; obtain ⟨_, _, _, _, _, h⟩ := s.begin_cur i; rw [h]
@[simp] theorem State.issued_pword (s : State) (i : Instr) : (s.issued i).cur.pword = s.cur.pword := by
  rw [State.issued_cur]; obtain ⟨_, _, _, _, _, h⟩ := s.begin_cur i; rw [h]

/-- The record of a unit at its first issue, captured before any of its results. -/
theorem State.unitRec_captured {s : State} (h : s.cur.replay = false) (i : Instr) :
    (s.unitRec i).iss.lanes = s.cur.lanes ∧ (s.unitRec i).iss.imgs = s.capture i ∧ (s.unitRec i).iss.g = s.cur.g ∧ (s.unitRec i).iss.word = s.cur.word ∧
      (s.unitRec i).iss.pword = s.cur.pword ∧ (s.unitRec i).iss.addr = s.cur.addr := by
  rw [State.unitRec, h]; exact ⟨rfl, rfl, rfl, rfl, rfl, rfl⟩

/-- A floating result of which some lanes raise NONFINITE: nothing of theirs is written, and the other lanes complete. -/
theorem State.giveFloat_of_set {s : State} (hset : s.cur.nft = true) (hreplay : s.cur.replay = false) (i : Instr) (d : BitVec 6) {w e0 : Nat} (f : Nat → Elem)
    (hw : w ∣ 64) (he : e0 < 2048 / w) (hbad : s.live i w e0 ∧ (f e0).nf ≠ 0) (hlow : ∀ e < e0, ¬ (s.live i w e ∧ (f e).nf ≠ 0)) :
    ∃ (B : Lanes) (fl : List (Nat × BitVec 5)) (r : Result),
      (∀ l < 32, B.getLsbD l = true ↔ ∃ e < 2048 / w, w * e / 64 = l ∧ s.live i w e ∧ (f e).nf ≠ 0) ∧
      (∀ e < 2048 / w, B.getLsbD (w * e / 64) = true → el w e r.en = 0) ∧
      s.giveFloat i d w f = .next ((s.finishWith i d r (s.cur.lanes &&& ~~~B) fl).raise
        ⟨s.cur.g, B, ⟨cNONFINITE, (f e0).nf, BitVec.ofNat 64 e0, none⟩, some (s.unitRec i), true, false, s.cur.word, s.cur.pword, s.cur.addr⟩) := by
  obtain ⟨B, hfind, hB⟩ := State.nonFinite_of_set hset i f hw he hbad hlow
  obtain ⟨-, -, hg, hword, hpword, haddr⟩ := State.unitRec_captured hreplay i
  refine ⟨B, laneFlagList (s.cur.lanes &&& ~~~B) (s.laneFlags i w (fun _ => true) f), s.result i w (s.cur.lanes &&& ~~~B) fun e => (f e).code, hB,
    fun e he hin => s.result_outside i _ hw he (by rw [BitVec.getLsbD_and, BitVec.getLsbD_not, hin]; simp), ?_⟩
  simp only [State.giveFloat, hfind, State.faultRec, State.faultUnit, hg, hword, hpword, haddr]

theorem nonFiniteSub_ne_zero (ops : List FVal) (v : FVal) : nonFiniteSub ops v ≠ 0 ↔ v.nonFinite = true := by
  unfold nonFiniteSub
  cases v.nonFinite with
  | false => simp
  | true =>
    simp only [Bool.not_true, Bool.false_eq_true, if_false, iff_true]
    split
    · decide
    · split <;> decide

/-- What makes an element that is rounded once raise NONFINITE, and its sub-cause. -/
theorem Elem.round_nf (f rm : Nat) (clamp : Bool) (ops : List FVal) (v : FVal) :
    let carried := clamp = true ∧ ops.any FVal.nonFinite = true
    let res := decodeF f (roundClamp f rm clamp v).code
    ((Elem.round f rm clamp ops v).nf ≠ 0 ↔ res.nonFinite = true ∨ carried) ∧ (carried → (Elem.round f rm clamp ops v).nf = 0x04) ∧
      (¬ carried → res.nonFinite = true → (Elem.round f rm clamp ops v).nf =
        if res.isNan = true ∧ ops.any FVal.isNan = false then 0x01 else if ops.any FVal.nonFinite = false then 0x02 else 0x03) := by
  intro carried res
  have hnf : (Elem.round f rm clamp ops v).nf = if clamp && ops.any FVal.nonFinite then 0x04 else nonFiniteSub ops res := rfl
  by_cases hc : carried
  · rw [if_pos (Bool.and_eq_true_iff.2 hc)] at hnf
    exact ⟨by simp [hnf, hc], fun _ => hnf, fun h => absurd hc h⟩
  · rw [if_neg (mt Bool.and_eq_true_iff.1 hc)] at hnf
    refine ⟨by rw [hnf, nonFiniteSub_ne_zero]; exact (or_iff_left hc).symm, fun h => absurd h hc, fun _ hres => ?_⟩
    rw [hnf]
    simp [nonFiniteSub, hres]

/-- Element e of a row that rounds an exact value of its operands once. -/
def State.rowElem (t : State) (i : Instr) (three : Bool) (op : Bool → FVal → FVal → FVal → FVal) (e : Nat) : Elem :=
  let f := fmtOf i
  let x := decodeF f (el (fmtWidth f) e (t.src i .A))
  let y := decodeF f (el (fmtWidth f) e (t.src i .B))
  let z := decodeF f (el (fmtWidth f) e (t.src i .C))
  Elem.round f (t.rm i) (isClamp i) (if three then [x, y, z] else [x, y]) (op (t.rm i == 3) x y z)

theorem exec_rowElem {s : State} {i : Instr} {d : BitVec 6} {three : Bool} {op : Bool → FVal → FVal → FVal → FVal} (h : floatRow i = some (d, three, op))
    (hgo : s.goes i) : exec i s = (s.issued i).giveFloat i d (fmtWidth (i.x % 8)) ((s.issued i).rowElem i three op) := exec_floatRow h hgo

/-- Settles O24: the rows of `floatRow` round once, and an element that is rounded once raises NONFINITE where its result is none, or its operands under
the clamp. -/
theorem nonFiniteTrap : Obligations.NonFiniteTrap := by
  intro s i d three op e0 hrow hgo t f w ops res carried bad _ hset he hbad hlow
  have hnft : t.cur.nft = true := (State.issued_nft hgo).trans hset
  have hreplay : t.cur.replay = false := (State.issued_replay s i).trans hgo.replay
  have helem : ∀ e, t.rowElem i three op e = Elem.round f (t.rm i) (isClamp i) (ops e)
      (op (t.rm i == 3) (decodeF f (el w e (t.src i .A))) (decodeF f (el w e (t.src i .B))) (decodeF f (el w e (t.src i .C)))) := fun e => by
    cases three <;> rfl
  have hround : ∀ e, ((t.rowElem i three op e).nf ≠ 0 ↔ (res e).nonFinite = true ∨ carried e) ∧ (carried e → (t.rowElem i three op e).nf = 0x04) ∧
      (¬ carried e → (res e).nonFinite = true → (t.rowElem i three op e).nf =
        if (res e).isNan = true ∧ (ops e).any FVal.isNan = false then 0x01 else if (ops e).any FVal.nonFinite = false then 0x02 else 0x03) := fun e => by
    have h := Elem.round_nf f (t.rm i) (isClamp i) (ops e)
      (op (t.rm i == 3) (decodeF f (el w e (t.src i .A))) (decodeF f (el w e (t.src i .B))) (decodeF f (el w e (t.src i .C))))
    rw [← helem e] at h
    simpa only [isClamp, beq_eq_decide, decide_eq_true_eq] using h
  have hbadIff : ∀ e, t.live i w e ∧ (t.rowElem i three op e).nf ≠ 0 ↔ bad e := fun e => and_congr_right fun _ => (hround e).1
  obtain ⟨B, fl, r, hB, hout, hgive⟩ := State.giveFloat_of_set hnft hreplay i d (t.rowElem i three op) (fmtWidth_dvd _) he ((hbadIff e0).2 hbad)
    fun e hlt h => hlow e hlt ((hbadIff e).1 h)
  obtain ⟨hlanes, himgs, -⟩ := State.unitRec_captured hreplay i
  obtain ⟨-, hclamped, hplain⟩ := hround e0
  refine ⟨B, (t.rowElem i three op e0).nf, fl, r, t.unitRec i, fun l hl => ?_, hclamped, fun hc => hplain hc (hbad.2.resolve_right hc), hout,
    State.unitRec_instr _ _, hlanes.trans (State.issued_lanes s i), himgs, ?_⟩
  · exact (hB l hl).trans (exists_congr fun e => and_congr_right fun _ => and_congr_right fun _ => hbadIff e)
  · rw [exec_rowElem hrow hgo, hgive]
    simp only [t, State.issued_lanes, State.issued_g, State.issued_word, State.issued_pword, State.issued_addr]

end Sys2Proof.Machine
end

section
/-! PROOFS. Conversions between formats (O21): the value of one conversion, and the elements of fcvt. -/

namespace Sys2Proof.Machine

/-! ## Whole numbers of w bits (R68, R117) -/

theorem wrap_lt (w : Nat) (v : Int) : wrap w v < 2 ^ w := by
  have hpos : (0 : Int) < ((2 ^ w : Nat) : Int) := by positivity
  have := Int.emod_lt_of_pos v hpos
  have := Int.emod_nonneg v hpos.ne'
  unfold wrap
  omega

/-- A value in the range of w bits is read back as it is. -/
theorem ext_wrap {u : Bool} {w : Nat} {v : Int} (hw : 0 < w) (hlo : loOf u w ≤ v) (hhi : v ≤ hiOf u w) : ext u w (wrap w v) = v := by
  have hlt := wrap_lt w v
  have hmod : (wrap w v : Int) = v % ((2 ^ w : Nat) : Int) := by
    unfold wrap; exact Int.toNat_of_nonneg (Int.emod_nonneg _ (by positivity))
  have hhalf : 2 ^ w = 2 * 2 ^ (w - 1) := by rw [← pow_succ']; congr 1; omega
  cases u with
  | true =>
    simp only [loOf, hiOf, if_true] at hlo hhi
    simp only [ext, if_true, Nat.mod_eq_of_lt hlt]
    rw [hmod, Int.emod_eq_of_lt hlo (by omega)]
  | false =>
    simp only [loOf, hiOf, Bool.false_eq_true, if_false] at hlo hhi
    simp only [ext, sext, Bool.false_eq_true, if_false, Nat.mod_eq_of_lt hlt]
    rcases lt_or_ge v 0 with hneg | hpos
    · have : v % ((2 ^ w : Nat) : Int) = v + (2 ^ w : Nat) := by
        rw [← Int.add_emod_right, Int.emod_eq_of_lt (by omega) (by omega)]
      rw [if_neg (by omega)]
      omega
    · have : v % ((2 ^ w : Nat) : Int) = v := Int.emod_eq_of_lt hpos (by omega)
      rw [if_pos (by omega)]
      omega

/-- A finite value rounded to a whole number under a mode (R68). -/
theorem roundInt_fin (rm : Nat) (neg : Bool) (m : Nat) (e : Int) :
    ∃ (N : Nat) (x : Bool), roundInt rm (.fin neg m e) = (if neg then -(N : Int) else N, x) ∧ RoundsTo rm neg (m * 2 ^ e) N x := by
  unfold roundInt
  dsimp only
  split
  next he =>
    refine ⟨m * 2 ^ (e - 0).toNat, true, rfl, RoundsTo.whole _ _ ?_⟩
    rw [sub_zero]
    conv_lhs => rw [← Int.toNat_of_nonneg he, zpow_natCast]
    push_cast; rfl
  next he =>
    refine ⟨_, _, rfl, ?_⟩
    have hexp : (m : ℚ) * 2 ^ e = m / 2 ^ (-e).toNat := by
      conv_lhs => rw [show e = -((-e).toNat : Int) by omega, zpow_neg, zpow_natCast]
      rfl
    rw [hexp]
    exact roundShift_roundsTo ..

/-- The whole number that a finite value is rounded to lies where the mode says. -/
theorem roundInt_near {rm : Nat} {v : FVal} (h : v.nonFinite = false) :
    let n : ℚ := (roundInt rm v).1
    |n - v.rat| < 1 ∧ (rm = 0 → |n - v.rat| ≤ 1 / 2) ∧ (rm = 1 → |n| ≤ |v.rat|) ∧ (rm = 2 → v.rat ≤ n) ∧ (rm = 3 → n ≤ v.rat) := by
  obtain ⟨neg, m, e, rfl⟩ := FVal.finite_iff.1 h
  obtain ⟨N, x, hval, hround⟩ := roundInt_fin rm neg m e
  have hmag : (0 : ℚ) ≤ m * 2 ^ e := by positivity
  dsimp only
  rw [hval, FVal.abs_rat]
  simp only [FVal.rat, mul_assoc]
  cases neg with
  | false =>
    simp only [Bool.false_eq_true, if_false, one_mul, Int.cast_natCast]
    exact ⟨hround.near, hround.half, fun hr => by rw [Nat.abs_cast]; exact hround.down (.inl hr), fun hr => hround.up (.inl ⟨hr, rfl⟩),
      fun hr => hround.down (.inr (.inr ⟨hr, rfl⟩))⟩
  | true =>
    have hdist : |((-(N : Int) : Int) : ℚ) - -1 * (m * 2 ^ e)| = |(N : ℚ) - m * 2 ^ e| := by
      rw [← abs_neg]; congr 1; push_cast; ring
    simp only [if_true]
    rw [hdist]
    push_cast
    refine ⟨hround.near, hround.half, fun hr => by rw [abs_neg, Nat.abs_cast]; exact hround.down (.inl hr), fun hr => ?_, fun hr => ?_⟩
    · have := hround.down (.inr (.inl ⟨hr, rfl⟩)); linarith
    · have := hround.up (.inr ⟨hr, rfl⟩); linarith

/-! ## One conversion (R68, R70, R71, R139) -/

theorem int_widths : ∀ df ≤ 14, 7 ≤ df → 0 < fmtWidth df := by decide

theorem loOf_le_hiOf (u : Bool) (w : Nat) : loOf u w ≤ hiOf u w := by
  have h1 : 0 < 2 ^ w := by positivity
  have h2 : 0 < 2 ^ (w - 1) := by positivity
  cases u <;> simp only [loOf, hiOf, if_true, Bool.false_eq_true, if_false] <;> omega

/-- The ends of the range, as the claims write them. -/
theorem loOf_eq (u : Bool) (w : Nat) : loOf u w = if u then 0 else -(2 : Int) ^ (w - 1) := by cases u <;> simp [loOf]
theorem hiOf_eq (u : Bool) (w : Nat) : hiOf u w = if u then (2 : Int) ^ w - 1 else 2 ^ (w - 1) - 1 := by cases u <;> simp [hiOf]

theorem toIntSat_finite {u : Bool} {w : Nat} (rm : Nat) {v : FVal} (hw : 0 < w) (h : v.nonFinite = false) :
    ext u w (toIntSat u w rm v).code = max (loOf u w) (min (roundInt rm v).1 (hiOf u w)) ∧
      ((toIntSat u w rm v).flags.getLsbD 0 = true ↔ (roundInt rm v).1 < loOf u w ∨ hiOf u w < (roundInt rm v).1) := by
  obtain ⟨neg, m, e, rfl⟩ := FVal.finite_iff.1 h
  have hle := loOf_le_hiOf u w
  have hval : toIntSat u w rm (.fin neg m e) =
      ⟨wrap w (clampInt u w (roundInt rm (.fin neg m e)).1), if clampInt u w (roundInt rm (.fin neg m e)).1 != (roundInt rm (.fin neg m e)).1 then fNV
        else if (roundInt rm (.fin neg m e)).2 then 0 else fNX⟩ := rfl
  rw [hval]
  generalize roundInt rm (.fin neg m e) = r
  refine ⟨ext_wrap hw (le_max_left ..) (max_le hle (min_le_right ..)), ?_⟩
  have hclamp : clampInt u w r.1 = r.1 ↔ ¬ (r.1 < loOf u w ∨ hiOf u w < r.1) := by unfold clampInt; omega
  by_cases hc : clampInt u w r.1 = r.1
  · rw [if_neg (by simpa using hc)]
    refine iff_of_false ?_ (hclamp.1 hc)
    dsimp only
    split <;> decide
  · rw [if_pos (by simpa using hc)]
    exact iff_of_true (show fNV.getLsbD 0 = true by decide) (by_contra fun hno => hc (hclamp.2 hno))

/-- A NaN gives 0, and an infinity the end of the range on its side. -/
theorem toIntSat_infinite {u : Bool} {w : Nat} (rm : Nat) (v : FVal) (hw : 0 < w) :
    (v.isNan = true → (toIntSat u w rm v).code = 0 ∧ (toIntSat u w rm v).flags = fNV) ∧
      (v.isInf = true → ext u w (toIntSat u w rm v).code = (if v.isNeg then loOf u w else hiOf u w) ∧ (toIntSat u w rm v).flags = fNV) := by
  have hle := loOf_le_hiOf u w
  cases v with
  | nan => exact ⟨fun _ => ⟨rfl, rfl⟩, fun h => absurd h Bool.false_ne_true⟩
  | fin neg m e => exact ⟨fun h => absurd h Bool.false_ne_true, fun h => absurd h Bool.false_ne_true⟩
  | inf neg =>
    refine ⟨fun h => absurd h Bool.false_ne_true, fun _ => ⟨?_, rfl⟩⟩
    cases neg with
    | true => exact ext_wrap hw le_rfl hle
    | false => exact ext_wrap hw hle le_rfl

theorem toIntSat_lt (u : Bool) (w rm : Nat) (v : FVal) : (toIntSat u w rm v).code < 2 ^ w := by
  cases v with
  | nan => exact Nat.two_pow_pos w
  | inf neg => exact wrap_lt ..
  | fin neg m e => exact wrap_lt ..

theorem convert_float {df : Nat} (sf rm mx code : Nat) (clamp : Bool) (hdf : df ≤ 5) :
    (convert df sf rm clamp mx code).code = (roundClamp df rm clamp (decodeAny sf code mx)).code := by
  unfold convert
  dsimp only
  rw [if_pos hdf]
  split <;> rfl

theorem convert_int {df : Nat} (sf rm mx code : Nat) (clamp : Bool) (hdf : 7 ≤ df) :
    (convert df sf rm clamp mx code).code = (toIntSat (decide (11 ≤ df)) (fmtWidth df) rm (decodeAny sf code mx)).code ∧
      (convert df sf rm clamp mx code).flags = (toIntSat (decide (11 ≤ df)) (fmtWidth df) rm (decodeAny sf code mx)).flags := by
  unfold convert
  dsimp only
  rw [if_neg (by omega), if_neg (by simp; omega)]
  exact ⟨rfl, rfl⟩

theorem convertValue : ConvertValue := by
  intro df sf rm mx code clamp hdf v r
  refine ⟨convert_float sf rm mx code clamp, ?_⟩
  intro h7 w u lo hi
  obtain ⟨hcode, hflags⟩ := convert_int sf rm mx code clamp h7
  have hw : 0 < w := int_widths df hdf h7
  obtain ⟨hnan, hinf⟩ := toIntSat_infinite (u := u) rm v hw
  rw [show r.code = _ from hcode, show r.flags = _ from hflags, ← show loOf u w = lo from loOf_eq u w, ← show hiOf u w = hi from hiOf_eq u w]
  refine ⟨toIntSat_lt u w rm v, hnan, hinf, fun hfin => ?_⟩
  obtain ⟨hval, hflag⟩ := toIntSat_finite (u := u) rm hw hfin
  obtain ⟨hnear, hhalf, hzero, hup, hdown⟩ := roundInt_near (rm := rm) hfin
  exact ⟨hval, hflag, hnear, hhalf, hzero, hup, hdown⟩

/-! ## The elements of fcvt (R138, R139) -/

/-- The result of a row that writes only some elements, whatever mask and fill say. -/
def State.partResult (s : State) (i : Instr) (w : Nat) (on : Nat → Bool) (f : Nat → Elem) : Result :=
  ⟨build w fun e => if s.cur.lanes.getLsbD (laneIx w e) && on e && (i.zeroFill || enabled (s.wmask i) w e) then 2 ^ w - 1 else 0,
   build w fun e => if s.cur.lanes.getLsbD (laneIx w e) && on e && enabled (s.wmask i) w e then (f e).code else 0⟩

theorem State.partResult_elements (s : State) (i : Instr) {w e : Nat} (on : Nat → Bool) (f : Nat → Elem) (he : e < 2048 / w) :
    (on e = true → s.live i w e → el w e (s.partResult i w on f).en = 2 ^ w - 1 ∧ el w e (s.partResult i w on f).val = (f e).code % 2 ^ w) ∧
      (on e = true → ¬ s.live i w e → s.cur.lanes.getLsbD (w * e / 64) = true → i.zeroFill = true →
        el w e (s.partResult i w on f).en = 2 ^ w - 1 ∧ el w e (s.partResult i w on f).val = 0) ∧
      (on e = false ∨ s.cur.lanes.getLsbD (w * e / 64) = false ∨ (¬ s.live i w e ∧ i.zeroFill = false) → el w e (s.partResult i w on f).en = 0) := by
  have hfull : (2 ^ w - 1) % 2 ^ w = 2 ^ w - 1 := Nat.mod_eq_of_lt (Nat.sub_lt (by positivity) one_pos)
  simp only [State.partResult, el_build w _ e he, State.live, laneIx, enabled]
  refine ⟨?_, ?_, ?_⟩
  · rintro hon ⟨hlane, hopen⟩
    simp [hon, hlane, hopen, hfull]
  · rintro hon hlive hlane hz
    have hshut : (s.wmask i).getLsbD (w * e / 8) = false := by simpa [hlane] using hlive
    simp [hon, hlane, hshut, hz, hfull]
  · rintro (hoff | hlane | ⟨hlive, hz⟩)
    · simp [hoff]
    · simp [hlane]
    · have hshut : s.cur.lanes.getLsbD (w * e / 64) = true → (s.wmask i).getLsbD (w * e / 8) = false := by simpa using hlive
      by_cases hlane : s.cur.lanes.getLsbD (w * e / 64) = true
      · simp [hshut hlane, hz]
      · simp [hlane]

/-- A byte of a lane's word is an element of eight bits. -/
theorem el_byte (j : Nat) (x : Img) : el 64 j x % 256 = el 8 (8 * j) x := by
  rw [el, el, show 8 * (8 * j) = 64 * j by ring]
  exact Nat.mod_mod_of_dvd _ (by norm_num)

/-- The place in its lane from which a destination element of fcvt is taken. -/
theorem cvtSource_eq (ns nd p j : Nat) :
    cvtSource ns nd p j = if nd ≤ ns ∨ (p * ns ≤ j ∧ j < p * ns + ns) then some (if nd > ns then j - p * ns else if nd < ns then p * nd + j else j) else none := by
  unfold cvtSource
  rcases lt_trichotomy ns nd with h | rfl | h
  · rw [if_pos h]
    simp only [Bool.and_eq_true, decide_eq_true_eq, not_le.2 h, false_or, if_pos h]
  · simp
  · rw [if_neg h.not_gt, if_pos h, if_pos (.inl h.le), if_neg h.not_gt, if_pos h]

/-- The elements that a fcvt makes; the code 0 where it makes none. -/
def State.cvtElem (t : State) (i : Instr) (l q : BitVec 1) (r : BitVec 4) (e : Nat) : Elem :=
  match cvtSource (64 / fmtWidth r.toNat) (64 / fmtWidth (i.x % 16)) (fcvtPart i.x q) (e % (64 / fmtWidth (i.x % 16))) with
  | some j => convert (i.x % 16) r.toNat (t.rm i) (l == 1) (el 64 (4 * (e / (64 / fmtWidth (i.x % 16)) / 4)) (t.src i .C) % 256)
      (el (fmtWidth r.toNat) (64 / fmtWidth r.toNat * (e / (64 / fmtWidth (i.x % 16))) + j) (t.src i .A))
  | none => Elem.plain 0

/-- The destination elements that a fcvt writes apart from the mask. -/
def cvtOn (i : Instr) (q : BitVec 1) (r : BitVec 4) (e : Nat) : Bool :=
  (cvtSource (64 / fmtWidth r.toNat) (64 / fmtWidth (i.x % 16)) (fcvtPart i.x q) (e % (64 / fmtWidth (i.x % 16)))).isSome

theorem exec_fcvt {s : State} {i : Instr} {pf : Option Pfx} {sc : BitVec 3} {d a : BitVec 6} {l q : BitVec 1} {r : BitVec 4} (hi : i = .fcvt pf sc d a l q r)
    (hgo : s.goes i) (hclear : (s.grp s.cur.g).nft = false) :
    exec i s = .next ((s.issued i).finishWith i d ((s.issued i).partResult i (fmtWidth (i.x % 16)) (cvtOn i q r) ((s.issued i).cvtElem i l q r)) s.cur.lanes
      (laneFlagList s.cur.lanes ((s.issued i).laneFlags i (fmtWidth (i.x % 16)) (cvtOn i q r) ((s.issued i).cvtElem i l q r)))) := by
  subst hi
  have hnft := (State.issued_nft hgo).trans hclear
  have hlanes : (s.issued (.fcvt pf sc d a l q r)).cur.lanes &&& ~~~(0 : Lanes) = (s.issued (.fcvt pf sc d a l q r)).cur.lanes := by
    rw [show ~~~(0 : Lanes) = BitVec.allOnes 32 from rfl, BitVec.and_allOnes]
  have harm : exec (.fcvt pf sc d a l q r) s = execFcvt pf sc d a l q r s := rfl
  rw [harm, execFcvt, State.issue_of_goes _ _ _ hgo, ← State.issued_lanes s (.fcvt pf sc d a l q r)]
  simp only [State.nonFinite_of_clear hnft, State.faultRec, hlanes]
  rfl

theorem floatConvert : FloatConvert := by
  intro s pf sc d a l q srcFmt i t wd ws nd ns P part src conv hgo _ hclear
  have hon : ∀ e, cvtOn i q srcFmt e = true ↔ part e := fun e => by
    rw [cvtOn, cvtSource_eq]
    split
    next h => exact iff_of_true rfl h
    next h => exact iff_of_false Bool.false_ne_true h
  have helem : ∀ e, part e → t.cvtElem i l q srcFmt e = conv e := fun e hp => by
    rw [State.cvtElem, cvtSource_eq, if_pos hp]
    dsimp only
    rw [el_byte, beq_eq_decide]
  refine ⟨_, _, exec_fcvt rfl hgo hclear, fun e he => ?_, fun l hl b _ => ?_⟩
  · obtain ⟨hlive, hfill, hleft⟩ := t.partResult_elements i (cvtOn i q srcFmt) (t.cvtElem i l q srcFmt) he
    refine ⟨fun hp h => ?_, fun hp => hfill ((hon e).2 hp), fun h => hleft (h.imp_left fun hp => Bool.eq_false_iff.2 (mt (hon e).1 hp))⟩
    rw [← helem e hp]
    exact hlive ((hon e).2 hp) h
  · rw [← State.issued_lanes s i, State.laneFlags_flagged _ _ _ _ (fmtWidth_dvd _) hl]
    refine exists_congr fun e => and_congr_right fun _ => and_congr_right fun _ => ?_
    rw [hon]
    exact and_congr_right fun hp => by rw [helem e hp]

/-- Settles O21: a fcvt writes the elements of its part, each with one conversion, and a conversion rounds once. -/
theorem floatConversions : Obligations.FloatConversions := ⟨floatConvert, convertValue⟩

end Sys2Proof.Machine
end

section
/-! PROOFS. Reductions and scans (O27): the tree and the running values over element numbers. -/

namespace Sys2Proof.Machine

/-! ## The tree and the running values (R75, R150, R153) -/

section
variable (ty op rm : Nat)

/-- The pairwise tree over running values: level k, node i. -/
def accNode (g : Nat → Acc3) : Nat → Nat → Acc3
  | 0, i => g i
  | k + 1, i => Acc3.join ty op rm (accNode g k (2 * i)) (accNode g k (2 * i + 1))

theorem accNode_code (g : Nat → Acc3) (k i : Nat) : (accNode ty op rm g k i).code = treeNode ty op rm (fun e => (g e).code) k i := by
  induction k generalizing i with
  | zero => rfl
  | succ k ih => simp only [accNode, treeNode, Acc3.join, ih]

/-- A tree whose leaves are the first level of another one. -/
theorem accNode_level (g : Nat → Acc3) (k i : Nat) :
    accNode ty op rm (fun j => Acc3.join ty op rm (g (2 * j)) (g (2 * j + 1))) k i = accNode ty op rm g (k + 1) i := by
  induction k generalizing i with
  | zero => rfl
  | succ k ih => rw [accNode, ih, ih]; rfl

theorem treeLevel_map (g : Nat → Acc3) (n : Nat) :
    treeLevel ty op rm ((List.range (2 * n)).map g) = (List.range n).map fun j => Acc3.join ty op rm (g (2 * j)) (g (2 * j + 1)) := by
  induction n generalizing g with
  | zero => rfl
  | succ n ih =>
    rw [show 2 * (n + 1) = 2 * n + 1 + 1 by ring, List.range_succ_eq_map, List.range_succ_eq_map, List.range_succ_eq_map]
    simp only [List.map_cons, List.map_map, treeLevel]
    exact congrArg _ (ih (g ∘ Nat.succ ∘ Nat.succ))

theorem treeOf_single (j : Nat) (a : Acc3) : treeOf ty op rm j [a] = a := by
  induction j with
  | zero => rfl
  | succ j ih => rw [treeOf]; exact ih

/-- The tree over 2^k terms is complete after k levels. -/
theorem treeOf_map (g : Nat → Acc3) (k j : Nat) : treeOf ty op rm (k + j) ((List.range (2 ^ k)).map g) = accNode ty op rm g k 0 := by
  induction k generalizing g with
  | zero => rw [Nat.zero_add]; exact treeOf_single ty op rm j (g 0)
  | succ k ih =>
    rw [show k + 1 + j = k + j + 1 by ring, treeOf, pow_succ', treeLevel_map, ih, accNode_level]

/-- The running values from one on. -/
def accRun (a : Acc3) (h : Nat → Acc3) : Nat → Acc3
  | 0 => a
  | e + 1 => Acc3.join ty op rm (accRun a h e) (h e)

theorem accRun_shift (a : Acc3) (h : Nat → Acc3) (e : Nat) : accRun ty op rm (Acc3.join ty op rm a (h 0)) (h ∘ Nat.succ) e = accRun ty op rm a h (e + 1) := by
  induction e with
  | zero => rfl
  | succ e ih => rw [accRun, ih]; rfl

theorem scanFrom_map (a : Acc3) (h : Nat → Acc3) (n : Nat) :
    scanFrom ty op rm a ((List.range n).map h) = (List.range (n + 1)).map (accRun ty op rm a h) := by
  induction n generalizing a h with
  | zero => rfl
  | succ n ih =>
    rw [List.range_succ_eq_map, List.range_succ_eq_map, List.map_cons, List.map_cons, List.map_map, List.map_map, scanFrom, ih]
    exact congrArg _ (List.map_congr_left fun e _ => accRun_shift ty op rm a h e)

theorem accRun_code (g : Nat → Acc3) (e : Nat) : (accRun ty op rm (g 0) (g ∘ Nat.succ) e).code = scanNode ty op rm (fun e => (g e).code) e := by
  induction e with
  | zero => rfl
  | succ e ih => simp only [accRun, scanNode, Acc3.join, ih]; rfl

/-- The running values of a list of terms. -/
def scanned : List Acc3 → List Acc3
  | [] => []
  | a :: l => scanFrom ty op rm a l

theorem scanned_map (g : Nat → Acc3) {n : Nat} (hn : 0 < n) : scanned ty op rm ((List.range n).map g) = (List.range n).map (accRun ty op rm (g 0) (g ∘ Nat.succ)) := by
  obtain ⟨m, rfl⟩ := Nat.exists_eq_succ_of_ne_zero hn.ne'
  rw [Nat.succ_eq_add_one, ← scanFrom_map, List.range_succ_eq_map, List.map_cons, List.map_map]
  rfl

/-- The value that scan gives an element: the running value up to it, or, in the exclusive form, up to the one before it. -/
def scanTerm (exclusive : Bool) (none_ : Acc3) (g : Nat → Acc3) (e : Nat) : Acc3 :=
  if exclusive then (if e = 0 then none_ else accRun ty op rm (g 0) (g ∘ Nat.succ) (e - 1)) else accRun ty op rm (g 0) (g ∘ Nat.succ) e

theorem getD_scanned (exclusive : Bool) (none_ : Acc3) (g : Nat → Acc3) {n e : Nat} (he : e < n) :
    (if exclusive then none_ :: scanned ty op rm ((List.range n).map g) else scanned ty op rm ((List.range n).map g)).getD e none_ =
      scanTerm ty op rm exclusive none_ g e := by
  rw [scanned_map ty op rm g (by omega)]
  cases exclusive with
  | false => simp [scanTerm, he]
  | true =>
    cases e with
    | zero => simp [scanTerm]
    | succ e => simp [scanTerm, show e < n by omega]

theorem getD_flags {l : List Acc3} {a : Acc3} (ha : a.flags = 0) (hl : ∀ b ∈ l, b.flags = 0) (e : Nat) : (l.getD e a).flags = 0 := by
  rw [List.getD_eq_getElem?_getD]
  cases hget : l[e]? with
  | none => exact ha
  | some b => exact hl b (List.mem_of_getElem? hget)

theorem scanTerm_code (exclusive : Bool) (none_ : Acc3) (g : Nat → Acc3) (e : Nat) : (scanTerm ty op rm exclusive none_ g e).code =
    if exclusive then (if e = 0 then none_.code else scanNode ty op rm (fun e => (g e).code) (e - 1)) else scanNode ty op rm (fun e => (g e).code) e := by
  unfold scanTerm
  split
  · split
    · rfl
    · exact accRun_code ty op rm g _
  · exact accRun_code ty op rm g e

variable {ty}

/-- Whole numbers raise no flag (R150). -/
theorem combineOp_flags (h : fmtIsFloat ty = false) (a b : Nat) : (combineOp ty op rm a b).flags = 0 := by
  unfold combineOp
  dsimp only
  rw [if_neg (by simp [h])]
  split <;> rfl

theorem Acc3.join_flags (h : fmtIsFloat ty = false) {a b : Acc3} (ha : a.flags = 0) (hb : b.flags = 0) : (Acc3.join ty op rm a b).flags = 0 := by
  simp only [Acc3.join, ha, hb, combineOp_flags op rm h]
  rfl

theorem accNode_flags (h : fmtIsFloat ty = false) {g : Nat → Acc3} (hg : ∀ e, (g e).flags = 0) (k i : Nat) : (accNode ty op rm g k i).flags = 0 := by
  induction k generalizing i with
  | zero => exact hg i
  | succ k ih => exact Acc3.join_flags op rm h (ih _) (ih _)

theorem accRun_flags (h : fmtIsFloat ty = false) {a : Acc3} {g : Nat → Acc3} (ha : a.flags = 0) (hg : ∀ e, (g e).flags = 0) (e : Nat) :
    (accRun ty op rm a g e).flags = 0 := by
  induction e with
  | zero => exact ha
  | succ e ih => exact Acc3.join_flags op rm h ih (hg e)

end

/-- The term of an element: its code, or the identity where it takes no part (R150). -/
def State.termAt (s : State) (i : Instr) (ty op e : Nat) : Nat := if s.takesPart i (fmtWidth ty) e then el (fmtWidth ty) e (s.src i .A) else identityOf ty op

theorem State.termAt_live (s : State) (i : Instr) (ty op e : Nat) :
    (s.live i (fmtWidth ty) e → s.termAt i ty op e = el (fmtWidth ty) e (s.src i .A)) ∧ (¬ s.live i (fmtWidth ty) e → s.termAt i ty op e = identityOf ty op) := by
  rw [s.live_iff]
  exact ⟨fun h => if_pos h, fun h => if_neg h⟩

theorem State.terms_eq (t : State) (i : Instr) (ty op : Nat) :
    t.terms i ty op = (List.range (2048 / fmtWidth ty)).map fun e => Acc3.of ty (t.termAt i ty op e) := rfl

/-- The list that scan takes its elements from. -/
def State.scanList (t : State) (i : Instr) (ty op : Nat) (exclusive : Bool) : List Acc3 :=
  if exclusive then Acc3.of ty (identityOf ty op) :: scanned ty op (t.rm i) (t.terms i ty op) else scanned ty op (t.rm i) (t.terms i ty op)

theorem State.scanList_flags (t : State) (i : Instr) {ty : Nat} (op : Nat) (exclusive : Bool) (h : fmtIsFloat ty = false) (hn : 0 < 2048 / fmtWidth ty) :
    ∀ b ∈ t.scanList i ty op exclusive, b.flags = 0 := by
  have hrun : ∀ b ∈ scanned ty op (t.rm i) (t.terms i ty op), b.flags = 0 := fun b hb => by
    rw [State.terms_eq, scanned_map _ _ _ _ hn, List.mem_map] at hb
    obtain ⟨e, -, rfl⟩ := hb
    exact accRun_flags op _ h rfl (fun _ => rfl) e
  unfold State.scanList
  split
  · exact List.forall_mem_cons.2 ⟨rfl, hrun⟩
  · exact hrun

theorem State.scanList_code (t : State) (i : Instr) (ty op : Nat) (exclusive : Bool) {e : Nat} (he : e < 2048 / fmtWidth ty) :
    ((t.scanList i ty op exclusive).getD e (Acc3.of ty (identityOf ty op))).code =
      if exclusive then (if e = 0 then identityOf ty op else scanNode ty op (t.rm i) (t.termAt i ty op) (e - 1))
      else scanNode ty op (t.rm i) (t.termAt i ty op) e := by
  rw [State.scanList, State.terms_eq, getD_scanned _ _ _ _ _ _ he, scanTerm_code]
  rfl

/-- A lane result whose values satisfy a weaker condition. -/
theorem Result.lanewise.mono {r : Result} {s : State} {i : Instr} {w : Nat} {P Q : Nat → Nat → Prop} (h : r.lanewise s i w P)
    (hpq : ∀ e < 2048 / w, ∀ v, P e v → Q e v) : r.lanewise s i w Q := by
  intro e he
  obtain ⟨hlive, hrest⟩ := h e he
  exact ⟨fun hl => ⟨(hlive hl).1, hpq e he _ (hlive hl).2⟩, hrest⟩

theorem Acc3.elem_code (ty : Nat) (a : Acc3) : (a.elem ty).code = canonNan ty a.code := rfl

/-- Lanes whose elements raise no flag note none. -/
theorem laneFlagList_eq_nil (s : State) (i : Instr) (w : Nat) (ls : Lanes) (on : Nat → Bool) {f : Nat → Elem} (h : ∀ e, (f e).flags = 0) :
    laneFlagList ls (s.laneFlags i w on f) = [] := by
  have hlane : ∀ l, s.laneFlags i w on f l = 0 := fun l => BitVec.eq_of_getLsbD_eq fun b _ => by
    simp only [State.laneFlags, h, getLsbD_foldl_or_if]
    simp
  simp [laneFlagList, hlane]

theorem fmtWidth_cases (c : Nat) : fmtWidth c ∈ [4, 8, 16, 32, 64] := by unfold fmtWidth; split <;> decide

/-- The elements of a register are a power of two, of which the eight levels of the tree are enough but at four bits. -/
theorem elements_pow : ∀ w ∈ [4, 8, 16, 32, 64], 0 < 2048 / w ∧ (w ≠ 4 → ∃ k j, k + j = 8 ∧ 2048 / w = 2 ^ k) := by
  simp only [List.mem_cons, List.not_mem_nil, or_false, forall_eq_or_imp, forall_eq]
  exact ⟨⟨by norm_num, fun h => absurd rfl h⟩, ⟨by norm_num, fun _ => ⟨8, 0, rfl, rfl⟩⟩, ⟨by norm_num, fun _ => ⟨7, 1, rfl, rfl⟩⟩,
    ⟨by norm_num, fun _ => ⟨6, 2, rfl, rfl⟩⟩, ⟨by norm_num, fun _ => ⟨5, 3, rfl, rfl⟩⟩⟩

/-- A row that gives elements and no flags but those of floating formats, where NFT is clear. -/
theorem gives_elements {s : State} {i : Instr} {d : BitVec 6} {ty : Nat} {f : Nat → Elem} (hgo : s.goes i) (hclear : (s.grp s.cur.g).nft = false)
    (hexec : exec i s = (s.issued i).giveFloat i d (fmtWidth ty) f) (hflags : fmtIsFloat ty = false → ∀ e, (f e).flags = 0) :
    ∃ (r : Result) (fl : List (Nat × BitVec 5)), exec i s = .next ((s.issued i).finishWith i d r s.cur.lanes fl) ∧ (fmtIsFloat ty = false → fl = []) ∧
      r.lanewise (s.issued i) i (fmtWidth ty) fun e v => v = (f e).code % 2 ^ fmtWidth ty := by
  have hnft : (s.issued i).cur.nft = false := (State.issued_nft hgo).trans hclear
  refine ⟨_, _, by rw [hexec, State.giveFloat_of_clear hnft, State.issued_lanes], fun h => laneFlagList_eq_nil _ _ _ _ _ (hflags h), ?_⟩
  rw [← State.issued_lanes s i]
  exact State.result_lanewise _ _ _ _ _ (fmtWidth_dvd _) fun _ _ _ => rfl

theorem exec_redl {s : State} {pf : Option Pfx} {sc : BitVec 3} {d a : BitVec 6} {i : Instr} {ty op : Nat} (hi : i = .redl pf sc d a) (hgo : s.goes i)
    (hty : i.x % 16 = ty) (hop : i.x / 16 = op) :
    exec i s = (s.issued i).giveFloat i d (fmtWidth ty) fun _ => (treeOf ty op ((s.issued i).rm i) 8 ((s.issued i).terms i ty op)).elem ty := by
  subst hty hop hi
  exact State.issue_of_goes s _ (fun t => t.giveFloat _ d (fmtWidth _) fun _ => (treeOf _ _ (t.rm _) 8 (t.terms _ _ _)).elem _) hgo

/-- redl at the formats that R149 lets it have: the tree over the elements of the register. -/
theorem redl_tree {s : State} {pf : Option Pfx} {sc : BitVec 3} {d a : BitVec 6} {i : Instr} (hi : i = .redl pf sc d a) (hgo : s.goes i)
    (hclear : (s.grp s.cur.g).nft = false) (hwide : fmtWidth (i.x % 16) ≠ 4) :
    let t := s.issued i
    let ty := i.x % 16
    let op := i.x / 16
    let w := fmtWidth ty
    ∃ (r : Result) (fl : List (Nat × BitVec 5)) (x : Nat → Nat),
      (∀ e < 2048 / w, (t.live i w e → x e = el w e (t.src i .A)) ∧ (¬ t.live i w e → x e = identityOf ty op)) ∧
      exec i s = .next (t.finishWith i d r s.cur.lanes fl) ∧ (fmtIsFloat ty = false → fl = []) ∧
      r.lanewise t i w fun _ v => v = canonNan ty (treeNode ty op ((s.issued i).rm i) x (Nat.log2 (2048 / w)) 0) % 2 ^ w := by
  intro t ty op w
  obtain ⟨k, j, hlevels, hcount⟩ := (elements_pow w (fmtWidth_cases ty)).2 hwide
  have htree : treeOf ty op (t.rm i) 8 (t.terms i ty op) = accNode ty op (t.rm i) (fun e => Acc3.of ty (t.termAt i ty op e)) k 0 := by
    rw [← hlevels, ← treeOf_map, ← hcount]
    rfl
  have hexec : exec i s = t.giveFloat i d (fmtWidth ty) fun _ => (accNode ty op (t.rm i) (fun e => Acc3.of ty (t.termAt i ty op e)) k 0).elem ty := by
    rw [← htree]
    exact exec_redl hi hgo rfl rfl
  obtain ⟨r, fl, hnext, hnil, hval⟩ := gives_elements hgo hclear hexec fun h _ => accNode_flags op _ h (fun _ => rfl) k 0
  refine ⟨r, fl, t.termAt i ty op, fun e _ => t.termAt_live i ty op e, hnext, hnil, ?_⟩
  rw [hcount, Nat.log2_two_pow]
  simp only [Acc3.elem_code, accNode_code] at hval
  exact hval

/-- scan: the running values in the order of the elements. -/
theorem scan_run {s : State} {pf : Option Pfx} {sc : BitVec 3} {d a : BitVec 6} {ex : BitVec 1} {i : Instr} (hi : i = .scan pf sc d a ex) (hgo : s.goes i)
    (hclear : (s.grp s.cur.g).nft = false) :
    let t := s.issued i
    let ty := i.x % 16
    let op := i.x / 16
    let w := fmtWidth ty
    ∃ (r : Result) (fl : List (Nat × BitVec 5)) (x : Nat → Nat),
      (∀ e < 2048 / w, (t.live i w e → x e = el w e (t.src i .A)) ∧ (¬ t.live i w e → x e = identityOf ty op)) ∧
      exec i s = .next (t.finishWith i d r s.cur.lanes fl) ∧ (fmtIsFloat ty = false → fl = []) ∧
      r.lanewise t i w fun e v =>
        v = canonNan ty (if ex = 1 then (if e = 0 then identityOf ty op else scanNode ty op ((s.issued i).rm i) x (e - 1)) else scanNode ty op ((s.issued i).rm i) x e) % 2 ^ w := by
  intro t ty op w
  have hn : 0 < 2048 / fmtWidth ty := (elements_pow w (fmtWidth_cases ty)).1
  have hexec : exec i s = t.giveFloat i d (fmtWidth ty) fun e => ((t.scanList i ty op (ex == 1)).getD e (Acc3.of ty (identityOf ty op))).elem ty := by
    subst hi
    exact State.issue_of_goes s _ (fun t => t.giveFloat _ d (fmtWidth ty) fun e =>
      ((t.scanList _ ty op (ex == 1)).getD e (Acc3.of ty (identityOf ty op))).elem ty) hgo
  obtain ⟨r, fl, hnext, hnil, hval⟩ := gives_elements hgo hclear hexec fun h e => getD_flags rfl (t.scanList_flags i op _ h hn) e
  refine ⟨r, fl, t.termAt i ty op, fun e _ => t.termAt_live i ty op e, hnext, hnil, hval.mono fun e he v hv => ?_⟩
  rw [Acc3.elem_code, State.scanList_code _ _ _ _ _ he] at hv
  simpa only [beq_iff_eq] using hv

end Sys2Proof.Machine
end

section
/-! PROOFS. redmi (R154, O27): the order of values and of pairs of value and index, and the least pair of a fold. -/

namespace Sys2Proof.Machine

/-! ## The order of values, a NaN above +∞, −0 below +0 -/

/-- Where a value stands in the order of `fmin`: −∞, the finite values with the two zeros apart, +∞, a NaN. -/
def FVal.rank : FVal → ℕ ×ₗ ℚ ×ₗ ℕ
  | .inf true => toLex (0, toLex (0, 0))
  | .fin neg m e => toLex (1, toLex ((FVal.fin neg m e).rat, if neg && m == 0 then 0 else 1))
  | .inf false => toLex (2, toLex (0, 0))
  | .nan => toLex (3, toLex (0, 0))

/-- Where a code of a type stands in the order of `redmi`. -/
def valueRank (ty c : Nat) : ℕ ×ₗ ℚ ×ₗ ℕ :=
  if fmtIsFloat ty then FVal.rank (decodeF ty c) else toLex (1, toLex ((ext (decide (11 ≤ ty)) (fmtWidth ty) c : ℚ), 1))

theorem FVal.rank_fin_lt (a b : Bool) (m n : Nat) (e k : Int) : FVal.rank (.fin a m e) < FVal.rank (.fin b n k) ↔
    FVal.lt (.fin a m e) (.fin b n k) = true ∨ (m = 0 ∧ n = 0 ∧ a = true ∧ b = false) := by
  have hx := FVal.rat_fin_eq_zero a m e
  have hy := FVal.rat_fin_eq_zero b n k
  rw [FVal.lt_finite rfl rfl]
  simp only [FVal.rank, Prod.Lex.toLex_lt_toLex, lt_irrefl, true_and, false_or]
  refine or_congr_right ⟨fun ⟨heq, htag⟩ => ?_, fun ⟨hm, hn, ha, hb⟩ => ⟨by rw [hx.2 hm, hy.2 hn], by simp [ha, hb, hm]⟩⟩
  have hneg : a = true ∧ m = 0 ∧ ¬ (b = true ∧ n = 0) := by
    by_contra hno
    revert htag
    cases a <;> cases b <;> by_cases hm : m = 0 <;> by_cases hn : n = 0 <;> simp_all
  obtain ⟨ha, hm, hb⟩ := hneg
  have hn : n = 0 := hy.1 (heq ▸ hx.2 hm)
  exact ⟨hm, hn, ha, by simpa [hn] using hb⟩

theorem FVal.rank_lt (x y : FVal) : FVal.rank x < FVal.rank y ↔
    x.isNan = false ∧ (y.isNan = true ∨ FVal.lt x y = true ∨ (x.isZero = true ∧ y.isZero = true ∧ x.isNeg = true ∧ y.isNeg = false)) := by
  match x, y with
  | .fin a m e, .fin b n k => simpa [FVal.isNan, FVal.isZero, FVal.isNeg] using FVal.rank_fin_lt a b m n e k
  | .nan, .nan | .nan, .inf true | .nan, .inf false | .nan, .fin _ _ _ => simp [FVal.rank, FVal.isNan, Prod.Lex.toLex_lt_toLex]
  | .inf true, .nan | .inf false, .nan | .fin _ _ _, .nan => simp [FVal.rank, FVal.isNan, Prod.Lex.toLex_lt_toLex]
  | .inf true, .inf true | .inf true, .inf false | .inf false, .inf true | .inf false, .inf false =>
    simp [FVal.rank, FVal.isNan, FVal.isZero, FVal.lt, Prod.Lex.toLex_lt_toLex]
  | .inf true, .fin _ _ _ | .inf false, .fin _ _ _ | .fin _ _ _, .inf true | .fin _ _ _, .inf false =>
    simp [FVal.rank, FVal.isNan, FVal.isZero, FVal.lt, Prod.Lex.toLex_lt_toLex]

theorem valueLt_iff (ty a b : Nat) : valueLt ty a b = true ↔ valueRank ty a < valueRank ty b := by
  unfold valueLt valueRank
  cases fmtIsFloat ty with
  | true =>
    simp only [if_true, FVal.rank_lt]
    cases (decodeF ty a).isNan <;> cases (decodeF ty b).isNan <;> simp [and_assoc]
  | false => simp [Prod.Lex.toLex_lt_toLex]

/-- Where a pair stands: by its value, then by its index. -/
def pairRank (ty : Nat) (p : Nat × Nat) : (ℕ ×ₗ ℚ ×ₗ ℕ) ×ₗ ℕ := toLex (valueRank ty p.1, p.2)

theorem pairLt_iff (ty : Nat) (p q : Nat × Nat) : pairLt ty p q = true ↔ pairRank ty p < pairRank ty q := by
  have hqp : valueLt ty q.1 p.1 = false ↔ valueRank ty p.1 ≤ valueRank ty q.1 := by rw [← Bool.not_eq_true, valueLt_iff, not_lt]
  simp only [pairLt, Bool.or_eq_true, Bool.and_eq_true, Bool.not_eq_true', decide_eq_true_eq, valueLt_iff, hqp, pairRank, Prod.Lex.toLex_lt_toLex]
  constructor
  · rintro (h | ⟨hle, h⟩)
    · exact .inl h
    · exact hle.lt_or_eq.imp_right fun heq => ⟨heq, h⟩
  · exact Or.imp_right fun ⟨heq, h⟩ => ⟨heq.le, h⟩

/-! ## The least pair -/

/-- The fold of redmi over the pairs of the first n elements, from a pair on. -/
def leastPair (ty : Nat) (f : Nat → Nat × Nat) (start : Nat × Nat) (n : Nat) : Nat × Nat :=
  (List.range n).foldl (fun p e => if pairLt ty (f e) p then f e else p) start

theorem leastPair_succ (ty : Nat) (f : Nat → Nat × Nat) (start : Nat × Nat) (n : Nat) : leastPair ty f start (n + 1) =
    if pairLt ty (f n) (leastPair ty f start n) then f n else leastPair ty f start n := by
  rw [leastPair, List.range_succ, List.foldl_append]
  rfl

theorem leastPair_mem (ty : Nat) (f : Nat → Nat × Nat) (start : Nat × Nat) (n : Nat) : leastPair ty f start n = start ∨ ∃ e < n, leastPair ty f start n = f e := by
  induction n with
  | zero => exact .inl rfl
  | succ n ih =>
    rw [leastPair_succ]
    split
    · exact .inr ⟨n, n.lt_succ_self, rfl⟩
    · exact ih.imp_right fun ⟨e, he, h⟩ => ⟨e, he.trans n.lt_succ_self, h⟩

theorem leastPair_le (ty : Nat) (f : Nat → Nat × Nat) (start : Nat × Nat) (n : Nat) : ∀ e < n, pairRank ty (leastPair ty f start n) ≤ pairRank ty (f e) := by
  induction n with
  | zero => exact fun _ h => absurd h (Nat.not_lt_zero _)
  | succ n ih =>
    intro e he
    rw [leastPair_succ]
    split
    case isTrue h =>
      rcases Nat.lt_succ_iff_lt_or_eq.1 he with he | rfl
      · exact ((pairLt_iff ..).1 h).le.trans (ih e he)
      · exact le_rfl
    case isFalse h =>
      rcases Nat.lt_succ_iff_lt_or_eq.1 he with he | rfl
      · exact ih e he
      · exact not_lt.1 (mt (pairLt_iff ..).2 h)

/-- The pair of an element: its value and its index, or the maximum with an index of all ones where it takes no part. -/
def State.pairAt (t : State) (i : Instr) (ty e : Nat) : Nat × Nat :=
  if t.takesPart i (fmtWidth ty) e then (el (fmtWidth ty) e (t.src i .A), el (fmtWidth ty) e (t.src i .B)) else (maximumOf ty, 2 ^ fmtWidth ty - 1)

/-- The least pair of a unit's elements. -/
def State.leastOf (t : State) (i : Instr) (ty : Nat) : Nat × Nat := leastPair ty (t.pairAt i ty) (t.pairAt i ty 0) (2048 / fmtWidth ty)

theorem State.pairAt_live (t : State) (i : Instr) (ty : Nat) {e : Nat} (h : t.live i (fmtWidth ty) e) :
    t.pairAt i ty e = (el (fmtWidth ty) e (t.src i .A), el (fmtWidth ty) e (t.src i .B)) := if_pos ((t.live_iff ..).1 h)

theorem State.pairAt_of_not_live (t : State) (i : Instr) (ty : Nat) {e : Nat} (h : ¬ t.live i (fmtWidth ty) e) :
    t.pairAt i ty e = (identityOf ty 1, 2 ^ fmtWidth ty - 1) := if_neg (mt (t.live_iff ..).2 h)

theorem State.leastOf_mem (t : State) (i : Instr) (ty : Nat) : ∃ e < 2048 / fmtWidth ty, t.leastOf i ty = t.pairAt i ty e :=
  (leastPair_mem ..).elim (fun h => ⟨0, (elements_pow _ (fmtWidth_cases ty)).1, h⟩) id

theorem State.leastOf_least (t : State) (i : Instr) (ty : Nat) {e : Nat} (he : e < 2048 / fmtWidth ty) : pairLt ty (t.pairAt i ty e) (t.leastOf i ty) = false := by
  rw [← Bool.not_eq_true, pairLt_iff, not_lt]
  exact leastPair_le ty _ _ _ e he

/-- What redmi writes to one of its two registers: one value in all elements that take part. -/
def State.redmiResult (t : State) (i : Instr) (v : Nat) : Result := t.result i (fmtWidth (i.x % 16)) t.cur.lanes fun _ => v

theorem exec_redmi {s : State} {i : Instr} {pf : Option Pfx} {sc : BitVec 3} {d a b : BitVec 6} (hi : i = .redmi pf sc d a b) (hgo : s.goes i) :
    let t := s.issued i
    let p := t.leastOf i (i.x % 16)
    exec i s = .next ((t.writeReg s.cur.g d (t.redmiResult i (canonNan (i.x % 16) p.1))).writeReg s.cur.g (d + 1) (t.redmiResult i p.2)) := by
  subst hi
  rw [← State.issued_g s]
  exact State.issue_of_goes s _ (fun t => .next ((t.writeReg t.cur.g d (t.redmiResult _ (canonNan _ (t.leastOf _ _).1))).writeReg t.cur.g (d + 1)
    (t.redmiResult _ (t.leastOf _ _).2))) hgo

theorem leastWithIndex : LeastWithIndex := by
  intro s pf sc d a b i t ty w hgo
  refine ⟨_, _, (t.leastOf i ty).1, (t.leastOf i ty).2, exec_redmi rfl hgo, ?_, ?_, ?_, ?_, ?_⟩
  · exact State.result_lanewise _ _ _ _ _ (fmtWidth_dvd ty) fun _ _ _ => rfl
  · exact State.result_lanewise _ _ _ _ _ (fmtWidth_dvd ty) fun _ _ _ => rfl
  · exact fun e he h => t.pairAt_live i ty h ▸ t.leastOf_least i ty he
  · exact fun e he h => t.pairAt_of_not_live i ty h ▸ t.leastOf_least i ty he
  · obtain ⟨e, he, heq⟩ := t.leastOf_mem i ty
    by_cases h : t.live i w e
    · have hpair := heq.trans (t.pairAt_live i ty h)
      exact .inl ⟨e, he, h, congrArg Prod.fst hpair, congrArg Prod.snd hpair⟩
    · have hpair := heq.trans (t.pairAt_of_not_live i ty h)
      exact .inr ⟨e, he, h, congrArg Prod.fst hpair, congrArg Prod.snd hpair⟩

end Sys2Proof.Machine
end

section
/-! PROOFS. The refutation of O27: a unit of redl whose tree is cut short. -/

namespace Sys2Proof.Machine

theorem el_zero (w e : Nat) : el w e 0 = 0 := by simp [el]

/-- A block of equal terms that combine to themselves yields that term. -/
theorem treeNode_const {ty op rm c : Nat} (h : (combineOp ty op rm c c).code = c) {x : Nat → Nat} (k i : Nat)
    (hx : ∀ e, i * 2 ^ k ≤ e → e < (i + 1) * 2 ^ k → x e = c) : treeNode ty op rm x k i = c := by
  induction k generalizing i with
  | zero => exact hx i (by omega) (by omega)
  | succ k ih =>
    have hleft : treeNode ty op rm x k (2 * i) = c := ih _ fun e hlo hhi => hx e (by rw [pow_succ]; linarith) (by rw [pow_succ]; nlinarith [Nat.two_pow_pos k])
    have hright : treeNode ty op rm x k (2 * i + 1) = c := ih _ fun e hlo hhi => hx e (by rw [pow_succ]; nlinarith [Nat.two_pow_pos k]) (by rw [pow_succ]; linarith)
    rw [treeNode, hleft, hright, h]

/-- Where nothing else is pending, the pending write that a unit leaves tells its result. -/
theorem State.finishWith_result_inj {s : State} {i : Instr} {d : BitVec 6} {r r' : Result} {ls : Lanes} {fl fl' : List (Nat × BitVec 5)} {lat : Nat}
    (hg : s.cur.g < s.groups.length) (hfix : (s.grp s.cur.g).fix = []) (hl : ls ≠ 0) (hrt : i.rt = false) (hlat : i.latency = some lat)
    (h : s.finishWith i d r ls fl = s.finishWith i d r' ls fl') : r.val = r'.val := by
  have hfixes := congrArg (fun t => (t.grp s.cur.g).fix) h
  simp only [State.finishWith_pending s i d _ ls _ lat hl hrt hlat, State.modGrp_grp, hg, and_self, if_true, hfix] at hfixes
  exact congrArg Pending.val (List.cons.inj hfixes).1

/-- The greatest E2M1 value of a register's 512 elements (type 5, operation 2), to v3 from v1. -/
def cutInstr : Instr := .redl (some ⟨0, 0, 0, 0, 0, 0x25⟩) 0 3 1

/-- That unit, in the upper sixteen lanes, noted as one of which only register writes are left (`regOnly`). -/
def cutUnit : Issue := { Issue.idle with lanes := 0xFFFF0000#32, regOnly := true }

/-- A machine at rest, all registers zero, whose one group issues the unit. -/
def cutState : State := { State.reset with groups := [Group.fresh 0 0 48 0 0 0 0 0 0], cur := cutUnit }

theorem cutState_goes : cutState.goes cutInstr := by unfold State.goes Issue.isNew; decide +kernel

theorem cutInstr_latency : cutInstr.rt = false ∧ cutInstr.latency = some 6 := by decide

theorem cutState_issued : (cutState.issued cutInstr).wmask cutInstr = BitVec.allOnes 256 ∧ (cutState.issued cutInstr).src cutInstr .A = 0 ∧
    (cutState.issued cutInstr).cur.g < (cutState.issued cutInstr).groups.length ∧ ((cutState.issued cutInstr).grp (cutState.issued cutInstr).cur.g).fix = [] := by
  decide +kernel

theorem cutState_live (e : Nat) (he : e < 512) : (cutState.issued cutInstr).live cutInstr 4 e ↔ 256 ≤ e := by
  have hlanes : ∀ e < 512, (0xFFFF0000#32).getLsbD (4 * e / 64) = decide (256 ≤ e) := by decide +kernel
  obtain ⟨hmask, -⟩ := cutState_issued
  rw [State.live, hmask, State.issued_lanes, show cutState.cur.lanes = 0xFFFF0000#32 from rfl, hlanes e he, BitVec.getLsbD_allOnes]
  simp only [decide_eq_true_eq, and_iff_left_iff_imp]
  omega

/-- The model's tree stops at the left half, whose elements take no part: −6. -/
theorem cutState_tree : (treeOf 5 2 ((cutState.issued cutInstr).rm cutInstr) 8 ((cutState.issued cutInstr).terms cutInstr 5 2)).code = 15 := by decide +kernel

theorem exec_cutState : ∃ (r : Result) (fl : List (Nat × BitVec 5)),
    exec cutInstr cutState = .next ((cutState.issued cutInstr).finishWith cutInstr 3 r cutState.cur.lanes fl) ∧ el 4 256 r.val = 15 := by
  obtain ⟨r, fl, hexec, -, htree⟩ := gives_elements cutState_goes (by decide) (exec_redl (ty := 5) (op := 2) rfl cutState_goes (by decide) (by decide)) fun h => absurd h (by decide)
  obtain ⟨-, helem⟩ := (htree 256 (by decide)).1 ((cutState_live 256 (by decide)).2 le_rfl)
  simp only [Acc3.elem_code, cutState_tree] at helem
  exact ⟨r, fl, hexec, helem⟩

/-- The whole tree has 0, from the right half. -/
theorem treeNode_halves {rm : Nat} {x : Nat → Nat} (hleft : ∀ e < 256, x e = 15) (hright : ∀ e < 512, 256 ≤ e → x e = 0) : treeNode 5 2 rm x 9 0 = 0 := by
  have hl : treeNode 5 2 rm x 8 0 = 15 := treeNode_const rfl 8 0 fun e _ h => hleft e (by omega)
  have hr : treeNode 5 2 rm x 8 1 = 0 := treeNode_const rfl 8 1 fun e h h' => hright e (by omega) (by omega)
  rw [treeNode, hl, hr]
  rfl

/-- Refutes O27, in its part about redl: the statement is about every unit that goes, one with `regOnly` set too, and such a unit is held by no gate, so that
`cutState` passes with the type E2M1, which has 512 elements: one level more than the model's tree combines. The element 256 that takes part becomes −6, the
identity of the elements that take no part, where the greatest value of the tree of R75 is 0. At every other width of element redl holds (`redl_tree`), and so
do scan (`scan_run`) and redmi (`leastWithIndex`). -/
theorem not_reductionsAndScans : ¬ Obligations.ReductionsAndScans := by
  unfold Obligations.ReductionsAndScans
  rintro ⟨hlanes, -⟩
  obtain ⟨hredl, -⟩ := hlanes cutState (some ⟨0, 0, 0, 0, 0, 0x25⟩) 0 3 1 0 (by decide) (by decide)
  obtain ⟨r, fl, x, hterms, hexec, -, hvalue⟩ := hredl cutState_goes
  obtain ⟨r', fl', hmodel, hcut⟩ := exec_cutState
  obtain ⟨hrt, hlat⟩ := cutInstr_latency
  obtain ⟨-, hzero, hgroup, hfix⟩ := cutState_issued
  have hsame : r.val = r'.val := State.finishWith_result_inj hgroup hfix (by decide) hrt hlat (Host.Outcome.next.inj (hexec.symm.trans hmodel))
  have hleft : ∀ e < 256, x e = 15 := fun e he => (hterms e (he.trans (by decide))).2 fun hlive => absurd ((cutState_live e (by omega)).1 hlive) (by omega)
  have hright : ∀ e < 512, 256 ≤ e → x e = 0 := fun e he hlo => by
    have hsrc : x e = el 4 e ((cutState.issued cutInstr).src cutInstr .A) := (hterms e he).1 ((cutState_live e he).2 hlo)
    rw [hsrc, hzero, el_zero]
  have hwhole : el 4 256 r.val = canonNan 5 (treeNode 5 2 ((cutState.issued cutInstr).rm cutInstr) x 9 0) % 2 ^ 4 :=
    ((hvalue 256 (by decide)).1 ((cutState_live 256 (by decide)).2 le_rfl)).2
  rw [treeNode_halves hleft hright, hsame, hcut] at hwhole
  exact absurd hwhole (by decide)

end Sys2Proof.Machine
end
